-- ==== Sys2Proof/Word.lean ====
section
/-! DEFINITION. Bytes, till numbers and date-times: the plain data every other file speaks of. -/

namespace Sys2Proof

/-- One byte on a link (11, R193). -/
abbrev Byte := BitVec 8

/-- A till port, a till link and the vend slot of the same number (04, R56). -/
abbrev Till := Fin 4

/-- One of the 32 lines of the Working Set (06, R96). -/
abbrev LineNo := Fin 32

/-- Decimal digits, first digit first: 18 of them in a token, 32 in a site code (05, R87, R93). -/
abbrev Digits := List Nat

/-- A date and time to the second: the day count since 1 January 2000 and the second of that day
(00, Table 1 and note 2). -/
structure DateTime where
  day : Nat
  second : Nat
  deriving DecidableEq, Repr, Inhabited

end Sys2Proof
end

