-- ==== Sys2Proof/Syntax.lean ====
section
/-! DEFINITION. The commands of the part: one constructor per row of spec/opcode_table.json. -/

namespace Sys2Proof

/-- The five serial links: the office link and the four till links (11, R193). -/
inductive PortId where
  | office
  | till (t : Till)
  deriving DecidableEq, Repr

/-- A character as it arrives: its eight data bits and whether its stop bit was good (11, R193, R194). -/
structure RxChar where
  data : Byte
  stopGood : Bool
  deriving DecidableEq, Repr

/-- A frame between its lead byte and its check: kind, tag and body (11, Table 11-1). -/
structure Frame where
  kind : Byte
  tag : Byte
  body : List Byte
  deriving DecidableEq, Repr

/-- The result of the read-back of a unit write (06, R110): every part verified, or not. A failed write of a
record image may leave the contents of its slot altered (10, R184); `slotAltered` says whether it did. -/
inductive ReadBack where
  | verified
  | failed (slotAltered : Bool)
  deriving DecidableEq, Repr

/-- The result of the hold cell write (10, R185): verified, or failed, having left either an altered cell or the
cell as it was before. -/
inductive CellReadBack where
  | verified
  | failed (cellAltered : Bool)
  deriving DecidableEq, Repr

/-- The commands. A request carries the tag and the body bytes of the good frame it came in (11, Table 11-1); a till
request also names its till link. An event carries what its line, store or supply brings with it. -/
inductive Instr where
  | quote (t : Till) (tag : Byte) (body : List Byte)
  | confirm (t : Till) (tag : Byte) (body : List Byte)
  | cancel (t : Till) (tag : Byte) (body : List Byte)
  | reprint (t : Till) (tag : Byte) (body : List Byte)
  | tillStatus (t : Till) (tag : Byte) (body : List Byte)
  | meterEnrol (tag : Byte) (body : List Byte)
  | meterEdit (tag : Byte) (body : List Byte)
  | meterBlock (tag : Byte) (body : List Byte)
  | meterUnblock (tag : Byte) (body : List Byte)
  | meterRetire (tag : Byte) (body : List Byte)
  | meterPurge (tag : Byte) (body : List Byte)
  | meterRestore (tag : Byte) (body : List Byte)
  | meterRead (tag : Byte) (body : List Byte)
  | tariffStage (tag : Byte) (body : List Byte)
  | tariffUnstage (tag : Byte) (body : List Byte)
  | tariffLoadNow (tag : Byte) (body : List Byte)
  | tariffRead (tag : Byte) (body : List Byte)
  | budgetVoucher (tag : Byte) (body : List Byte)
  | budgetFloorSet (tag : Byte) (body : List Byte)
  | journalRead (tag : Byte) (body : List Byte)
  | journalRelease (tag : Byte) (body : List Byte)
  | clockSet (tag : Byte) (body : List Byte)
  | clockRead (tag : Byte) (body : List Byte)
  | summaryRead (tag : Byte) (body : List Byte)
  | totalsSnapshot (tag : Byte) (body : List Byte)
  | tillClose (tag : Byte) (body : List Byte)
  | holdRequest (tag : Byte) (body : List Byte)
  | holdRelease (tag : Byte) (body : List Byte)
  | linkSet (tag : Byte) (body : List Byte)
  | quoteTimeSet (tag : Byte) (body : List Byte)
  | noticeMaskSet (tag : Byte) (body : List Byte)
  | conditionClear (tag : Byte) (body : List Byte)
  | statusRead (tag : Byte) (body : List Byte)
  | siteCodeLoad (tag : Byte) (body : List Byte)
  | storeRetry (tag : Byte) (body : List Byte)
  /-- A good frame whose kind is no request kind of its link (R199). -/
  | unknownKind (p : PortId) (kind tag : Byte) (body : List Byte)
  /-- Characters from a lead byte on that make a frame the receiver discards (R197). -/
  | frameDiscarded (p : PortId) (chars : List RxChar)
  /-- The characters of a frame that had arrived `elapsed` bit times after its lead byte's start bit (R196). -/
  | frameTimeLimit (p : PortId) (chars : List RxChar) (elapsed : Nat)
  | frameTransmitted (p : PortId)
  | linkEntersFault (p : PortId)
  | linkFaultEnd (p : PortId)
  | linkSettingsTaken (t : Till)
  | engineGrant
  | quoteHoldExpiry (t : Till)
  | officeHoldLapse
  | dayRollover
  /-- `damaged`: the store finds the fetched slot's contents altered since they were written (R107, R117). -/
  | recordFetchComplete (damaged : Bool)
  | areaReadComplete
  | unitWriteComplete (r : ReadBack)
  | retryAttemptComplete (r : ReadBack)
  | supplyLow
  | supplyOk
  | resetAsserted
  | resetReleased
  | drainWriteComplete (r : ReadBack)
  | holdCellWriteComplete (r : CellReadBack)
  | startUp
  | startUpComplete
  | calendarSecond
  | backupCellFailed
  deriving DecidableEq, Repr

end Sys2Proof
end

