-- ==== Sys2Proof/Config.lean ====
section
/-! DEFINITION. The free values: what the spec leaves open and the part goes on without. Nothing can evaluate them. -/

namespace Sys2Proof

/-- Whether a frame is in reception on an ACTIVE till link at the moment a LINK_SET posts (R204). The commands are
whole frames, so nothing in the machine knows it: a free value, taken at State.freeCount (log 12). DESIGN CHOICE. -/
opaque Config.frameInReception : Nat → Bool

/-- The date-time reported for the moment so many seconds after a date-time, where that moment lies past
2099-12-31 23:59:59 and so is no date-time of the part (R62, R81). A free value (log 13). DESIGN CHOICE. -/
opaque Config.timePastRange : DateTime → Nat → DateTime

end Sys2Proof
end

