-- ==== Sys2Proof/Machine/Dates.lean ====
section
/-! DEFINITION. Date arithmetic: days, months, years from 2000 to 2099 and seconds (00, Table 1 and its notes; R144). -/

namespace Sys2Proof.Machine

/-- The last day count, 31 December 2099 (Table 1, note 2). -/
def lastDay : Nat := 36524

/-- The seconds of a day. -/
def daySeconds : Nat := 86400

/-- A date-time of the part: 2000-01-01 00:00:00 to 2099-12-31 23:59:59 (Table 1). -/
def inRange (d : DateTime) : Bool := decide (d.day ≤ lastDay) && decide (d.second < daySeconds)

/-- The last second of the range, where the Calendar stops (R144). -/
def lastSecond : DateTime := ⟨lastDay, daySeconds - 1⟩

/-- The lengths of the months of the year 2000 + y: every year divisible by 4 is a leap year (Table 1, note 2). -/
def monthLengths (y : Nat) : List Nat :=
  [31, if y % 4 = 0 then 29 else 28, 31, 30, 31, 30, 31, 31, 30, 31, 30, 31]

/-- The days before 1 January of the year 2000 + y. -/
def daysBeforeYear (y : Nat) : Nat := y * 365 + (y + 3) / 4

/-- The day count of a date given as year − 2000, month and day of the month. -/
def dayOfDate (y m d : Nat) : Nat :=
  daysBeforeYear y + ((monthLengths y).take (m - 1)).sum + (d - 1)

/-- The year − 2000 that a day lies in. -/
def yearOfDay (day : Nat) : Nat :=
  let r := day % 1461
  4 * (day / 1461) + (if r < 366 then 0 else 1 + (r - 366) / 365)

/-- The month and the day of the month of the day `r` days after the first of month `m`. -/
def splitMonth : List Nat → Nat → Nat → Nat × Nat
  | [], m, r => (m, r + 1)
  | len :: rest, m, r => if r < len then (m, r + 1) else splitMonth rest (m + 1) (r - len)

/-- The date of a day: year − 2000, month, day of the month. -/
def dateOfDay (day : Nat) : Nat × Nat × Nat :=
  let y := yearOfDay day
  (y, splitMonth (monthLengths y) 1 (day - daysBeforeYear y))

/-- The month tag of a day: months since January 2000 (Table 1). -/
def monthTagOf (day : Nat) : Nat :=
  let (y, m, _) := dateOfDay day
  y * 12 + (m - 1)

/-- A real date of the years 2000 to 2099 (R148). -/
def isRealDate (y m d : Nat) : Bool :=
  decide (y ≤ 99) && decide (1 ≤ m) && decide (m ≤ 12) && decide (1 ≤ d) &&
    decide (d ≤ (monthLengths y).getD (m - 1) 0)

/-- Seconds since 2000-01-01 00:00:00. -/
def totalSeconds (d : DateTime) : Nat := d.day * daySeconds + d.second

/-- The date-time so many seconds after 2000-01-01 00:00:00. -/
def ofTotal (n : Nat) : DateTime := ⟨n / daySeconds, n % daySeconds⟩

/-- The date-time `n` seconds later, held at the last second of the range (R144, R149). -/
def addSeconds (d : DateTime) (n : Nat) : DateTime :=
  if totalSeconds d + n ≤ totalSeconds lastSecond then ofTotal (totalSeconds d + n) else lastSecond

/-- One second later; the Calendar holds 2099-12-31 23:59:59 (R144). -/
def nextSecond (d : DateTime) : DateTime := addSeconds d 1

/-- The date-time reported for `n` seconds later: a quote's expiry, the office hold's lapse (R62, R81). Past the range
it is a free value (log 13). -/
def reportedTime (d : DateTime) (n : Nat) : DateTime :=
  if totalSeconds d + n ≤ totalSeconds lastSecond then ofTotal (totalSeconds d + n) else Config.timePastRange d n

end Sys2Proof.Machine
end

