-- ==== Sys2Proof/Machine/State.lean ====
section
/-! DEFINITION. The state of the part as plain data, the two reasons a step can stop, and the state at reset. -/

namespace Sys2Proof.Machine

/-! ### Meter records (01) -/

/-- The account states of a record (Table 1-3). -/
inductive AccountState where
  | active
  | blocked
  | retired
  deriving DecidableEq, Repr

/-- The token classes (Table 3-5). -/
inductive TokenClass where
  | credit
  | lifeline
  | creditLifeline
  | receipt
  deriving DecidableEq, Repr

/-- A recent-token entry (Table 1-2). The issue date is kept as its day count. -/
structure RecentToken where
  digits : Digits
  sequence : Nat
  cls : TokenClass
  units : Nat
  issueDay : Nat
  quoteId : Nat
  journalSeq : Nat
  deriving DecidableEq, Repr

/-- A meter record (Table 1-1). The enrol date is kept as its day count. -/
structure Record where
  meter : Nat
  account : AccountState
  tariffIndex : Nat
  lifelineEligible : Bool
  recoveryRate : Nat
  arrears : Nat
  monthTag : Nat
  monthUnits : Nat
  servicePaid : Bool
  lifelineGiven : Bool
  residue : Nat
  lastToken : Nat
  recent : List RecentToken
  lastSeq : Nat
  enrolDay : Nat
  deriving DecidableEq, Repr

/-- A directory entry (R9). -/
structure DirEntry where
  meter : Nat
  slot : Nat
  damaged : Bool
  deriving DecidableEq, Repr

/-! ### Tariffs (02) -/

/-- A defined tariff entry: k is the number of prices (Table 2-1). -/
structure Tariff where
  serviceCharge : Nat
  lifeline : Nat
  bounds : List Nat
  prices : List Nat
  deriving DecidableEq, Repr

/-- A tariff entry: an undefined entry has no further fields (Table 2-1). -/
abbrev TariffEntry := Option Tariff

/-- A set of sixteen tariff entries (R24). -/
abbrev TariffSet := Vector TariffEntry 16

/-- The pending set with its effective day (R25). -/
structure PendingSet where
  entries : TariffSet
  effectiveDay : Nat
  deriving DecidableEq, Repr

/-- The purpose of a collection of quarters; a STAGE carries its effective day (R26). -/
inductive Purpose where
  | stage (effectiveDay : Nat)
  | load
  deriving DecidableEq, Repr

/-- A collection in the assembly area: the entries of quarters 0 up to some q, four to a quarter (R26). -/
structure Assembly where
  purpose : Purpose
  entries : List TariffEntry
  deriving DecidableEq, Repr

/-! ### Quotes and slots (03, 04) -/

/-- One line of the block walk: block number, tenths taken and their money in milli-cents (R46). -/
structure BlockLine where
  block : Nat
  take : Nat
  money : Nat
  deriving DecidableEq, Repr

/-- The breakdown of a quote with its new record values, tariff index and set generation (Tables 3-3, 3-4, 4-3). -/
structure Priced where
  tariffIndex : Nat
  generation : Nat
  service : Nat
  recovery : Nat
  energyMoney : Nat
  lines : List BlockLine
  purchased : Nat
  lifeline : Nat
  total : Nat
  change : Nat
  consumed : Nat
  cls : TokenClass
  newMonthTag : Nat
  newMonthUnits : Nat
  newServicePaid : Bool
  newLifelineGiven : Bool
  newArrears : Nat
  newResidue : Nat
  deriving DecidableEq, Repr

/-- A token as built: its 18 digits and its sequence q (R88). -/
structure BuiltToken where
  digits : Digits
  sequence : Nat
  deriving DecidableEq, Repr

/-- What the confirm build adds to a quote record (R69): the token (none for RECEIPT) and the day of the confirm
grant, its issue day. -/
structure BuiltSale where
  token : Option BuiltToken
  issueDay : Nat
  deriving DecidableEq, Repr

/-- A quote record (Table 4-3), with the tag of the QUOTE or CONFIRM whose reply is still wanted. -/
structure QuoteRecord where
  id : Nat
  meter : Nat
  tender : Nat
  priced : Option Priced
  reservedBudget : Option Nat
  journalReservation : Bool
  openedAt : Option DateTime
  expiresAt : Option DateTime
  built : Option BuiltSale
  replyTag : Option Byte
  deriving DecidableEq, Repr

/-- The vend slot states (Table 4-1); `opened` is OPEN. -/
inductive SlotState where
  | idle
  | quoting
  | fetching
  | opened
  | confirming
  | posting
  deriving DecidableEq, Repr

/-- The outcomes of a quote (R65). -/
inductive CloseOutcome where
  | committed
  | cancelled
  | expired
  | rollover
  | linkOff
  | refused
  deriving DecidableEq, Repr

/-- The abandon causes (Table 4-2). -/
inductive AbandonCause where
  | cancelled
  | rollover
  | linkOff
  deriving DecidableEq, Repr

/-- The request a reprint in progress serves: a REPRINT of an index, or a repeat CONFIRM of a quote id, of which
step 8 of Table 4-4 had found COMMITTED or not (R71, R73). -/
inductive ReprintRequest where
  | reprint (index : Nat)
  | repeatConfirm (quoteId : Nat) (foundCommitted : Bool)
  deriving DecidableEq, Repr

/-- Where a reprint in progress stands: waiting for its first grant, for its fetch, for the grant after it, or for
room in the Commit Buffer (R74). -/
inductive ReprintStage where
  | lookup
  | fetching
  | present
  | posting
  deriving DecidableEq, Repr

/-- A reprint in progress (R73), with the tag of the request whose reply is still wanted. -/
structure ReprintWork where
  meter : Nat
  request : ReprintRequest
  stage : ReprintStage
  replyTag : Option Byte
  deriving DecidableEq, Repr

/-- A vend slot (Table 4-2). -/
structure VendSlot where
  state : SlotState
  quote : Option QuoteRecord
  abandon : Option AbandonCause
  timer : Option Nat
  reprint : Option ReprintWork
  lastClosed : Option (Nat × CloseOutcome)
  pin : Option Nat
  deriving DecidableEq, Repr

/-- The office hold (R81). -/
inductive HoldState where
  | none
  | pending
  | held
  deriving DecidableEq, Repr

/-- The Engine Arbiter (R79, R81, R82): the pending slot requests, the round-robin pointer, the office hold and the
seconds to its lapse. -/
structure Arbiter where
  pending : Vector Bool 4
  pointer : Till
  hold : HoldState
  lapse : Option Nat
  deriving DecidableEq, Repr

/-! ### Working Set (06) -/

/-- The owners of pins (Table 6-1). -/
inductive Owner where
  | slot (t : Till)
  | office
  deriving DecidableEq, Repr

/-- The states of a line (Table 6-1). -/
inductive LineState where
  | free
  | filling
  | valid
  deriving DecidableEq, Repr

/-- A working-set line (Table 6-1). -/
structure Line where
  state : LineState
  meter : Option Nat
  pin : Option Owner
  dirty : Nat
  record : Option Record
  deriving DecidableEq, Repr

/-- The Working Set: 32 lines and their recency order, least recent first (R96, R97). -/
structure WorkingSet where
  lines : Vector Line 32
  recency : List LineNo
  deriving DecidableEq, Repr

/-! ### Settings, totals, conditions (08, 09, 11) -/

/-- The link rates in bit/s (R193). -/
inductive LinkRate where
  | r9600
  | r19200
  | r38400
  | r57600
  deriving DecidableEq, Repr

/-- The settings of a till link (R202). -/
structure LinkSettings where
  enabled : Bool
  rate : LinkRate
  deriving DecidableEq, Repr

/-- The five counts (Table 8-4). -/
structure Counts where
  tokens : Nat
  receipts : Nat
  cents : Nat
  units : Nat
  lifeline : Nat
  deriving DecidableEq, Repr

/-- The nine conditions (Table 9-2). -/
inductive Condition where
  | journalHigh
  | journalFull
  | budgetLow
  | lineFault
  | storeFault
  | clockInvalid
  | tariffShifted
  | holdLapsed
  | powerUp
  deriving DecidableEq, Repr

/-- The place of a condition among the nine: its number of Table 11-4 less one. -/
def Condition.index : Condition → Fin 9
  | .journalHigh => 0
  | .journalFull => 1
  | .budgetLow => 2
  | .lineFault => 3
  | .storeFault => 4
  | .clockInvalid => 5
  | .tariffShifted => 6
  | .holdLapsed => 7
  | .powerUp => 8

/-- One bit for each condition: the latches, the enables, the levels. -/
abbrev ConditionSet := Vector Bool 9

/-- The Condition Unit (R169, R170). The mask is in the image; the pending notices stand in the office port's order. -/
structure ConditionUnit where
  latches : ConditionSet
  tillSet : Vector Bool 4
  levels : ConditionSet
  deriving DecidableEq, Repr

/-- The persistent settings and running values that are not meter records: the contents of a site state image (R120).
The part holds one working copy; a unit takes it as it stands at its posting. -/
structure SiteState where
  budget : Nat
  lastVoucher : Nat
  floor : Nat
  dayTotals : Counts
  tillTotals : Vector Counts 4
  active : TariffSet
  pendingSet : Option PendingSet
  generation : Nat
  links : Vector LinkSettings 4
  quoteHoldTime : Nat
  mask : ConditionSet
  businessDay : Nat
  /-- none: BLANK; some code: COMMISSIONED with that site code (R92). -/
  siteCode : Option Digits
  outageNumber : Nat
  releasePoint : Nat
  unlogged : Nat
  deriving DecidableEq, Repr

/-! ### Journal entries and commit units (07) -/

/-- A record field with a value, as a journal entry lists it (Table 11-4, record field). -/
inductive RecordValue where
  | account (a : AccountState)
  | tariffIndex (n : Nat)
  | lifelineEligible (b : Bool)
  | recoveryRate (n : Nat)
  | arrears (n : Nat)
  | monthTag (n : Nat)
  | monthUnits (n : Nat)
  | servicePaid (b : Bool)
  | lifelineGiven (b : Bool)
  | residue (n : Nat)
  | lastToken (n : Nat)
  | enrolDay (n : Nat)
  deriving DecidableEq, Repr

/-- The new account state of a METER_STATE entry; PURGED stands in no record (R15). -/
inductive StateAfter where
  | account (a : AccountState)
  | purged
  deriving DecidableEq, Repr

/-- A setting with its old and new value (R130). -/
inductive SettingChange where
  | quoteHoldTime (old new : Nat)
  | tillLink (t : Till) (old new : LinkSettings)
  | noticeMask (old new : ConditionSet)
  | budgetFloor (old new : Nat)
  deriving DecidableEq, Repr

/-- The causes of an outage (Table 11-4). -/
inductive OutageCause where
  | supply
  | resetLine
  deriving DecidableEq, Repr

/-- The fields of a SALE entry (Table 7-4); the token is absent for RECEIPT. -/
structure SaleFields where
  meter : Nat
  quoteId : Nat
  tender : Nat
  service : Nat
  recovery : Nat
  change : Nat
  purchased : Nat
  lifeline : Nat
  cls : TokenClass
  tariffIndex : Nat
  generation : Nat
  token : Option BuiltToken
  deriving DecidableEq, Repr

/-- The fields of a POWER_UP entry (R189); `dropped` none is the mark UNKNOWN. -/
structure PowerUpFields where
  outageNumber : Nat
  start : Option DateTime
  finish : Option DateTime
  cause : OutageCause
  dropped : Option Nat
  firstDropped : Option Nat
  deriving DecidableEq, Repr

/-- The journal entry kinds with their own fields (Table 7-4). -/
inductive EntryBody where
  | sale (f : SaleFields)
  | reprint (meter index sequence : Nat) (repeatFlag : Bool) (quoteId : Nat)
  | meterEnrol (meter : Nat) (items : List RecordValue)
  | meterEdit (meter : Nat) (items : List (Option RecordValue × RecordValue))
  | meterState (meter : Nat) (old : AccountState) (new : StateAfter)
  | tariffStaged (generation : Nat) (effectiveDay : Option Nat)
  | tariffLoaded (generation effectiveDay : Nat)
  | budgetVoucher (serial amount newBudget : Nat)
  | clockSet (old : Option DateTime) (new : DateTime)
  | settings (c : SettingChange)
  | tillClose (t : Till) (counts : Counts)
  | dayClose (day : Nat) (counts : Counts)
  | tariffShift (generation effectiveDay : Nat)
  | powerUp (f : PowerUpFields)
  | commissioned
  deriving DecidableEq, Repr

/-- The source of an entry (R128). -/
inductive Source where
  | till (t : Till)
  | office
  | part
  deriving DecidableEq, Repr

/-- A journal entry (R128). -/
structure JournalEntry where
  seq : Nat
  dateTime : Option DateTime
  source : Source
  unlogged : Option Nat
  body : EntryBody
  deriving DecidableEq, Repr

/-- A day summary (R154) with the sequence of its DAY_CLOSE entry, absent if the entry was dropped (R156). -/
structure DaySummary where
  day : Nat
  counts : Counts
  closedAt : Option DateTime
  seq : Option Nat
  deriving DecidableEq, Repr

/-- The commit unit kinds (Table 7-1). -/
inductive UnitKind where
  | sale
  | edit
  | journalOnly
  | system
  deriving DecidableEq, Repr

/-- The record part of a unit: a record image for a slot, or the freeing of the slot of a purged meter (R119). -/
inductive RecordPart where
  | image (slot : Nat) (r : Record)
  | erase (slot meter : Nat)
  deriving DecidableEq, Repr

/-- A posted commit unit (R119, Table 7-2). -/
structure CommitUnit where
  kind : UnitKind
  part : Option RecordPart
  entry : Option JournalEntry
  summary : Option DaySummary
  image : SiteState
  deriving DecidableEq, Repr

/-- A built unit as its poster holds it, with what its posting changes: one form for each poster (R119, R121). -/
inductive Job where
  | sale (t : Till)
  | reprint (t : Till) (meter index : Nat) (token : RecentToken) (repeatFlag : Bool)
  | enrol (slot : Nat) (r : Record)
  | edit (slot : Nat) (r : Record) (items : List (Option RecordValue × RecordValue))
  | accountState (slot : Nat) (r : Record) (old : AccountState)
  | purge (slot meter : Nat)
  | restore (slot : Nat) (r : Record)
  | tariffStage (entries : TariffSet) (effectiveDay : Nat)
  | tariffUnstage
  | tariffLoad (entries : TariffSet)
  | voucher (serial amount : Nat)
  | floorSet (value : Nat)
  | quoteTimeSet (value : Nat)
  | maskSet (value : ConditionSet)
  | linkSet (t : Till) (value : LinkSettings)
  | clockSet (old : Option DateTime) (value : DateTime) (elapsed : Nat)
  | tillClose (t : Till) (counts : Counts)
  | siteCode (code : Digits)
  | dayClose (summary : DaySummary)
  | tariffShift (generation effectiveDay : Nat)
  | imageOnly
  | powerUp (f : PowerUpFields)
  deriving DecidableEq, Repr

/-- A waiter of the post wait list (R122); `hasEntry` says whether its unit carries an entry. -/
structure Waiter where
  job : Job
  hasEntry : Bool
  deriving DecidableEq, Repr

/-- The Journal's own counts (Table 7-3): the others are computed (R133). -/
structure JournalCounts where
  nextSeq : Nat
  reservations : Nat
  deriving DecidableEq, Repr

/-! ### Record Store (06, 10) -/

/-- An occupied record slot (R106). The check code is held as the record it was computed from, none when the contents
have been altered so that no record's code fits them (log 9). -/
structure StoredRecord where
  record : Record
  check : Option Record
  deriving DecidableEq, Repr

/-- The two places of the image area (R106). -/
inductive ImagePlace where
  | first
  | second
  deriving DecidableEq, Repr

/-- The image area: what each place holds and which one is the kept image (R106, R184). -/
structure ImageArea where
  first : Option SiteState
  second : Option SiteState
  kept : Option ImagePlace
  deriving DecidableEq, Repr

/-- The hold cell (Table 10-3); `checkGood` is the test of its cell check. -/
structure HoldCell where
  outageNumber : Nat
  cause : OutageCause
  start : Option DateTime
  dropped : Nat
  firstDropped : Option Nat
  lastDropped : Option Nat
  unloggedRaise : Nat
  checkGood : Bool
  deriving DecidableEq, Repr

/-- A queued fetch: a record fetch for a FILLING line, or an area read for the office (R107, R108). -/
inductive Fetch where
  | record (line : LineNo) (meter slot : Nat)
  | journal (start count : Nat)
  | summary (index : Nat)
  deriving DecidableEq, Repr

/-- The Record Store's service states (Table 6-3). -/
inductive Service where
  | idle
  | reading (f : Fetch)
  | writing
  | rewriting
  | retrying (second : Bool)
  deriving DecidableEq, Repr

/-- The Record Store: its areas (Table 6-2), what it is doing and its fault state. -/
structure RecordStore where
  /-- the occupied record slots, by rising slot number; an unlisted slot is free -/
  slots : List (Nat × StoredRecord)
  journal : List JournalEntry
  summaries : List DaySummary
  image : ImageArea
  holdCell : Option HoldCell
  service : Service
  faulted : Bool
  queue : List Fetch
  retryWaiting : Bool
  deriving DecidableEq, Repr

/-! ### Calendar and supply (08, 10) -/

/-- The Calendar (Table 8-1); the business day is in the image. -/
structure Calendar where
  dateTime : Option DateTime
  valid : Bool
  deriving DecidableEq, Repr

/-- What the backup cell keeps (R145). -/
structure BackupCell where
  mark : Bool
  dateTime : Option DateTime
  deriving DecidableEq, Repr

/-- The supply states (Table 10-1). -/
inductive SupplyState where
  | run
  | hold
  | down
  | resetWait
  | start
  deriving DecidableEq, Repr

/-- The hold record (R180): its outage number is set when the drain ends (R185). -/
structure HoldRecord where
  outageNumber : Option Nat
  cause : OutageCause
  start : Option DateTime
  dropped : Nat
  firstDropped : Option Nat
  lastDropped : Option Nat
  unloggedRaise : Nat
  deriving DecidableEq, Repr

/-- The stage of a HOLD: an operation in progress at its entry completes, the drain, the one attempt at a faulted
head unit, the hold cell write (R182, R183, R185). -/
inductive DrainStage where
  | none
  | settling
  | draining
  | lastTry
  | cellWrite
  deriving DecidableEq, Repr

/-- The Supply Monitor (Table 10-1). -/
structure Supply where
  state : SupplyState
  levelOk : Bool
  resetAsserted : Bool
  holdRecord : Option HoldRecord
  drain : DrainStage
  /-- in START: START_UP has been done -/
  started : Bool
  /-- the cause reported when the hold cell does not describe the outage (R187) -/
  startCause : OutageCause
  deriving DecidableEq, Repr

/-! ### Links (11) -/

/-- The refusal codes (Table 11-11). -/
inductive RefusalCode where
  | fieldRange
  | unknownKind
  | linkBusy
  | slotBusy
  | notCommissioned
  | alreadyCommissioned
  | clockUnset
  | clockBackward
  | suspended
  | meterUnknown
  | meterExists
  | meterDamaged
  | meterBusy
  | meterBlocked
  | meterRetired
  | stateConflict
  | directoryFull
  | tariffUnset
  | tariffInvalid
  | nothingToIssue
  | belowCharges
  | budgetShort
  | budgetCap
  | voucherOld
  | journalFull
  | quoteUnknown
  | quoteExpired
  | commitUnderway
  | tokenAbsent
  | summaryAbsent
  | notHeld
  | holdActive
  | purgeRefused
  deriving DecidableEq, Repr

/-- The marks of a TOKEN reply (Table 11-4). -/
inductive TokenMark where
  | fresh
  | reprint
  | again
  deriving DecidableEq, Repr

/-- A TOKEN reply (Table 11-9). -/
structure TokenReply where
  mark : TokenMark
  quoteId : Nat
  meter : Nat
  cls : TokenClass
  token : Option BuiltToken
  total : Nat
  purchased : Option Nat
  lifeline : Option Nat
  change : Option Nat
  issueDay : Nat
  index : Option Nat
  seq : Nat
  deriving DecidableEq, Repr

/-- The states of a link (Table 11-2). -/
inductive LinkState where
  | off
  | active
  | fault
  deriving DecidableEq, Repr

/-- A TILL_STATUS_DATA reply (R75). -/
structure TillStatusData where
  state : SlotState
  reprinting : Bool
  quote : Option (Nat × Nat × Nat)
  secondsLeft : Option Nat
  lastClosed : Option (Nat × CloseOutcome)
  quoteHoldTime : Nat
  totals : Counts
  valid : Bool
  businessDay : Nat
  commissioned : Bool
  deriving DecidableEq, Repr

/-- A STATUS_DATA reply (Table 9-4). -/
structure StatusData where
  latches : ConditionSet
  tillSet : Vector Bool 4
  mask : ConditionSet
  supply : SupplyState
  commissioned : Bool
  valid : Bool
  businessDay : Nat
  directoryCount : Nat
  held : Nat
  salesFree : Nat
  unlogged : Nat
  newestDurable : Option Nat
  releasePoint : Nat
  units : Nat
  waiters : Nat
  faulted : Bool
  budget : Nat
  reserved : Nat
  floor : Nat
  lastVoucher : Nat
  hold : HoldState
  links : Vector (LinkState × LinkRate) 4
  slots : Vector (SlotState × Bool) 4
  deriving DecidableEq, Repr

/-- The set a TARIFF_READ selects (R32). -/
inductive SetSelector where
  | active
  | pending
  deriving DecidableEq, Repr

/-- The replies (Table 11-5), each with the fields its rule names. -/
inductive Reply where
  | refused (code : RefusalCode) (kind : Byte) (quoteId detail : Nat)
  | quoteOk (id meter tender : Nat) (p : Priced) (expiry : Option DateTime) (holdTime : Nat)
  | token (t : TokenReply)
  | cancelOk (id : Nat) (outcome : CloseOutcome)
  | tillStatusData (d : TillStatusData)
  | enrolOk (meter slot recoveryRate seq : Nat)
  | editOk (tariffIndex recoveryRate arrears : Nat) (eligible : Bool) (seq : Option Nat)
  | stateOk (meter : Nat) (account : AccountState) (seq : Nat)
  | purgeOk (meter seq : Nat)
  | restoreOk (meter recoveryRate seq : Nat)
  | meterData (r : Record) (monthCurrent : Option Bool)
  | stageOk (quarters : Nat) (effectiveDay : Option Nat) (seq : Option Nat)
  | unstageOk (seq : Nat)
  | loadOk (quarters : Nat) (generation : Option Nat) (seq : Option Nat)
  | tariffData (sel : SetSelector) (quarter generation : Nat) (pendingDay : Option Nat) (entries : List TariffEntry)
  | voucherOk (serial amount budget seq : Nat)
  | floorOk (floor budget reserved : Nat) (seq : Option Nat)
  | journalData (entries : List JournalEntry)
  | journalReleaseOk (releasePoint held : Nat)
  | clockOk (value : DateTime) (businessDay : Nat) (rolled : Bool) (seq : Option Nat)
  | clockData (valid : Bool) (now : Option DateTime) (businessDay : Nat)
  | summaryData (index : Nat) (d : DaySummary)
  | totalsData (businessDay : Nat) (day : Counts) (tills : Vector Counts 4) (units : Nat)
  | tillCloseOk (t : Till) (counts : Counts) (seq : Nat)
  | holdOk (lapse : Option DateTime)
  | releaseOk
  | linkOk (t : Till) (settings : LinkSettings) (link : LinkState) (seq : Option Nat)
  | quoteTimeOk (value : Nat) (seq : Option Nat)
  | maskOk (mask : ConditionSet) (seq : Option Nat)
  | clearOk (latches : ConditionSet) (tillSet : Vector Bool 4)
  | statusData (d : StatusData)
  | commissionOk (seq : Nat)
  | retryOk (cleared : Bool) (seq : Option Nat)
  deriving DecidableEq, Repr

/-- A ready frame of a transmit order (R201): a reply, which may be an immediate one (R200), or a pending notice. -/
inductive TxItem where
  | reply (tag : Byte) (r : Reply) (immediate : Bool)
  | notice (c : Condition)
  deriving DecidableEq, Repr

/-- A frame in transmission, with the rate it is sent at (R201). -/
structure TxFrame where
  frame : Frame
  rate : LinkRate
  deriving DecidableEq, Repr

/-- The receiver's two states between commands (R194). -/
inductive RxMode where
  | hunt
  | receiving
  deriving DecidableEq, Repr

/-- The outstanding request of a port (R199): its tag and its kind. -/
structure Outstanding where
  tag : Byte
  kind : Byte
  deriving DecidableEq, Repr

/-- A port and its link (R194, R199, R201, R204). -/
structure LinkPort where
  link : LinkState
  rate : LinkRate
  receiver : RxMode
  settingsWaiting : Bool
  outstanding : Option Outstanding
  order : List TxItem
  transmitting : Option TxFrame
  deriving DecidableEq, Repr

/-- The fields a METER_EDIT gives, each optional (R18). -/
structure EditRequest where
  meter : Nat
  tariffIndex : Option Nat
  recoveryRate : Option Nat
  arrears : Option Nat
  lifelineEligible : Option Bool
  deriving DecidableEq, Repr

/-- An office record request that waits for its fetch (R12, R80). -/
inductive RecordRequest where
  | edit (e : EditRequest)
  | block (meter : Nat)
  | unblock (meter : Nat)
  | retire (meter : Nat)
  | purge (meter : Nat)
  | read (meter : Nat)
  deriving DecidableEq, Repr

/-! ### The state -/

/-- The state of the part. INVENTORY.md lists each item with the rule that names it. -/
structure State where
  pending : List Instr
  supply : Supply
  site : SiteState
  calendar : Calendar
  cell : BackupCell
  store : RecordStore
  directory : List DirEntry
  working : WorkingSet
  buffer : List CommitUnit
  waiters : List Waiter
  journal : JournalCounts
  reserved : Nat
  slots : Vector VendSlot 4
  nextQuoteId : Nat
  arbiter : Arbiter
  assembly : Option Assembly
  conditions : ConditionUnit
  officeRequest : Option RecordRequest
  officePort : LinkPort
  tillPorts : Vector LinkPort 4
  freeCount : Nat
  deriving DecidableEq, Repr

/-- The reasons a step can stop with a fault: none. The spec gives the part no machine fault: what it cannot serve it
refuses on the link or discards, and an event that is not due changes nothing (log 2). Safe: no step stops. -/
inductive Fault where
  deriving DecidableEq, Repr

/-- The reasons a step can be refused by the model. -/
inductive Refusal where
  /-- Raised by exec for a command that has no meaning in the model yet; safe. No arm answers it. -/
  | notModelled (mnemonic : String)
  deriving DecidableEq, Repr

/-! ### Reset -/

/-- Five counts of 0 (Table 8-3). -/
def Counts.zero : Counts := ⟨0, 0, 0, 0, 0⟩

/-- The values of a part with no site state image (R191, Tables 2-2, 7-3, 9-1; R64, R176, R202). -/
def SiteState.blank : SiteState where
  budget := 0
  lastVoucher := 0
  floor := 100000
  dayTotals := Counts.zero
  tillTotals := Vector.replicate 4 Counts.zero
  active := Vector.replicate 16 none
  pendingSet := none
  generation := 0
  links := Vector.replicate 4 ⟨false, .r19200⟩
  quoteHoldTime := 90
  mask := Vector.replicate 9 true
  businessDay := 0
  siteCode := none
  outageNumber := 0
  releasePoint := 0
  unlogged := 0

/-- A slot after start-up (Table 4-2). -/
def VendSlot.empty : VendSlot := ⟨.idle, none, none, none, none, none, none⟩

/-- The arbiter after start-up: nothing pending, hold NONE, the pointer at VS3 (R79). -/
def Arbiter.initial : Arbiter := ⟨Vector.replicate 4 false, 3, .none, none⟩

/-- A FREE line (R96). -/
def Line.freed : Line := ⟨.free, none, none, 0, none⟩

/-- The Working Set after start-up: every line FREE, line 0 least recent (R117). -/
def WorkingSet.initial : WorkingSet := ⟨Vector.replicate 32 Line.freed, List.finRange 32⟩

/-- The Condition Unit after start-up, before the level tests (R177). -/
def ConditionUnit.initial : ConditionUnit :=
  ⟨Vector.replicate 9 false, Vector.replicate 4 false, Vector.replicate 9 false⟩

/-- A port with nothing received, outstanding, ready or in transmission. -/
def LinkPort.quiet (link : LinkState) (rate : LinkRate) : LinkPort :=
  ⟨link, rate, .hunt, false, none, [], none⟩

/-- The Record Store of a part with no site state image (R118). -/
def RecordStore.blank : RecordStore where
  slots := []
  journal := []
  summaries := []
  image := ⟨none, none, none⟩
  holdCell := none
  service := .idle
  faulted := false
  queue := []
  retryWaiting := false

/-- The part at reset: one that has had no supply, in DOWN with the supply level LOW (R179), nothing in its store
(R118), its backup cell never set (R145), and its volatile items as start-up gives them (log 3, log 5). -/
def State.reset : State where
  pending := []
  supply := ⟨.down, false, false, none, .none, false, .supply⟩
  site := SiteState.blank
  calendar := ⟨none, false⟩
  cell := ⟨false, none⟩
  store := RecordStore.blank
  directory := []
  working := WorkingSet.initial
  buffer := []
  waiters := []
  journal := ⟨1, 0⟩
  reserved := 0
  slots := Vector.replicate 4 VendSlot.empty
  nextQuoteId := 1
  arbiter := Arbiter.initial
  assembly := none
  conditions := ConditionUnit.initial
  officeRequest := none
  officePort := LinkPort.quiet .active .r19200
  tillPorts := Vector.replicate 4 (LinkPort.quiet .off .r19200)
  freeCount := 0

end Sys2Proof.Machine
end

