-- ==== Sys2Proof/Machine/Access.lean ====
section
/-! DEFINITION. Reading and writing the parts of the state: slots, ports, lines, the directory, the record slots, and the
counts that are computed from them (R133). -/

namespace Sys2Proof.Machine

/-! ### Slots, ports, lines -/

/-- The vend slot of a till. -/
def State.slot (s : State) (t : Till) : VendSlot := s.slots.get t

/-- Write a vend slot. -/
def State.setSlot (s : State) (t : Till) (v : VendSlot) : State := { s with slots := s.slots.set t.val v t.isLt }

/-- Change a vend slot. -/
def State.modSlot (s : State) (t : Till) (f : VendSlot → VendSlot) : State := s.setSlot t (f (s.slot t))

/-- A port. -/
def State.port (s : State) : PortId → LinkPort
  | .office => s.officePort
  | .till t => s.tillPorts.get t

/-- Write a port. -/
def State.setPort (s : State) (p : PortId) (v : LinkPort) : State :=
  match p with
  | .office => { s with officePort := v }
  | .till t => { s with tillPorts := s.tillPorts.set t.val v t.isLt }

/-- Change a port. -/
def State.modPort (s : State) (p : PortId) (f : LinkPort → LinkPort) : State := s.setPort p (f (s.port p))

/-- A working-set line. -/
def State.line (s : State) (l : LineNo) : Line := s.working.lines.get l

/-- Write a line. -/
def State.setLine (s : State) (l : LineNo) (v : Line) : State :=
  { s with working := { s.working with lines := s.working.lines.set l.val v l.isLt } }

/-- Change a line. -/
def State.modLine (s : State) (l : LineNo) (f : Line → Line) : State := s.setLine l (f (s.line l))

/-- Every line number, in order. -/
def allLines : List LineNo := List.ofFn id

/-- Every till, in order. -/
def allTills : List Till := [0, 1, 2, 3]

/-! ### Standing of the part -/

/-- The supply state is RUN: the ports are open (R179). -/
def State.running (s : State) : Bool := s.supply.state == .run

/-- The part is COMMISSIONED (R92). -/
def State.commissioned (s : State) : Bool := s.site.siteCode.isSome

/-- The Calendar's date-time, absent when the calendar is not valid (R144). -/
def State.now (s : State) : Option DateTime := if s.calendar.valid then s.calendar.dateTime else none

/-- The current month tag (R4). A quote is computed only with the calendar valid; without one the tag reads 0 (log 39). -/
def State.currentMonth (s : State) : Nat :=
  match s.now with
  | some d => monthTagOf d.day
  | none => 0

/-- The STORE_FAULT latch (R114). -/
def State.storeFaultLatched (s : State) : Bool := s.conditions.latches.get Condition.storeFault.index

/-! ### The directory (R9, R10, R11) -/

/-- The directory entry of a meter number. -/
def dirFind (meter : Nat) (d : List DirEntry) : Option DirEntry := d.find? fun e => e.meter == meter

/-- An entry put at its place in meter-number order. -/
def dirInsert (e : DirEntry) : List DirEntry → List DirEntry
  | [] => [e]
  | x :: rest =>
    if e.meter < x.meter then e :: x :: rest
    else if e.meter = x.meter then e :: rest
    else x :: dirInsert e rest

/-- The directory without a meter's entry. -/
def dirErase (meter : Nat) (d : List DirEntry) : List DirEntry := d.filter fun e => e.meter != meter

/-- A meter's damaged mark set or cleared (R8, R16). -/
def dirMark (meter : Nat) (damaged : Bool) (d : List DirEntry) : List DirEntry :=
  d.map fun e => if e.meter = meter then { e with damaged } else e

/-- The record slot that a METER_ENROL unit on the post wait list has taken (R14, R122). -/
def Job.enrolSlot : Job → Option Nat
  | .enrol n _ => some n
  | _ => none

/-- The record slots that are not free: those of the directory's entries, and that of a METER_ENROL unit that waits to
post. No second METER_ENROL is served while one waits (R199), so in every run the choice of a slot sees the directory's
entries alone, as R10 says. -/
def State.takenSlots (s : State) : List Nat :=
  s.directory.map (·.slot) ++ s.waiters.filterMap fun w => w.job.enrolSlot

/-- The lowest number that is not among the taken ones (R10). -/
def lowestFree (taken : List Nat) : Nat := ((List.range (taken.length + 1)).find? fun n => !taken.contains n).getD 0

/-- The number of record slots (R9). -/
def recordSlots : Nat := 8192

/-! ### The record slots of the store (R106) -/

/-- The contents of a record slot, none when it is free. -/
def slotGet (slot : Nat) (m : List (Nat × StoredRecord)) : Option StoredRecord :=
  (m.find? fun e => e.1 == slot).map (·.2)

/-- A record slot written, the list kept in rising slot order. -/
def slotPut (slot : Nat) (v : StoredRecord) : List (Nat × StoredRecord) → List (Nat × StoredRecord)
  | [] => [(slot, v)]
  | x :: rest =>
    if slot < x.1 then (slot, v) :: x :: rest
    else if slot = x.1 then (slot, v) :: rest
    else x :: slotPut slot v rest

/-- A record slot set free. -/
def slotErase (slot : Nat) (m : List (Nat × StoredRecord)) : List (Nat × StoredRecord) := m.filter fun e => e.1 != slot

/-- A record slot whose contents have been altered: its check code fits no longer (R107, R184). -/
def slotAlter (slot : Nat) (m : List (Nat × StoredRecord)) : List (Nat × StoredRecord) :=
  m.map fun e => if e.1 = slot then (e.1, { e.2 with check := none }) else e

/-- The directory rebuilt from the marked occupancy, in meter-number order, every mark clear (R11, R187). -/
def rebuildDirectory (m : List (Nat × StoredRecord)) : List DirEntry :=
  m.foldl (fun d e => dirInsert ⟨e.2.record.meter, e.1, false⟩ d) []

/-! ### The Journal's counts (R132, R133) -/

/-- The entries the journal area holds (R132). -/
def journalPlaces : Nat := 8192

/-- The held entries: the durable entries above the release point (R132). -/
def State.heldEntries (s : State) : List JournalEntry :=
  s.store.journal.filter fun e => decide (s.site.releasePoint < e.seq)

/-- The held count. -/
def State.held (s : State) : Nat := s.heldEntries.length

/-- The buffered count: the units in the Commit Buffer that carry an entry (R133). -/
def State.buffered (s : State) : Nat := (s.buffer.filter fun u => u.entry.isSome).length

/-- The newest durable sequence, none when no entry has been written (R132). -/
def State.newestDurable (s : State) : Option Nat := s.store.journal.getLast?.map (·.seq)

/-- Free (R133). -/
def State.free (s : State) : Nat :=
  let n := journalPlaces - s.held - s.buffered
  if 4294958103 < s.journal.nextSeq then min n (4294967295 - s.journal.nextSeq) else n

/-- Sales-free: free less the open reservations (R133). -/
def State.salesFree (s : State) : Nat := s.free - s.journal.reservations

/-- The sales and office class check: sales-free above 16 (R135). -/
def State.roomForOffice (s : State) : Bool := decide (16 < s.salesFree)

/-- The system class check: sales-free above 0 (R135). -/
def State.roomForSystem (s : State) : Bool := decide (0 < s.salesFree)

/-- A count that saturates at 4,294,967,295 (R137, R153). -/
def satAdd (a b : Nat) : Nat := min 4294967295 (a + b)

/-- A number raised by one, from 4,294,967,295 to 1 (R24, R185). -/
def raiseNumber (n : Nat) : Nat := if n = 4294967295 then 1 else n + 1

end Sys2Proof.Machine
end

