-- ==== Sys2Proof/Machine/Flags.lean ====
section
/-! DEFINITION. The Condition Unit: latches, levels and the queueing of notices (09.4, 09.5). -/

namespace Sys2Proof.Machine

/-- One bit of a condition set. -/
def conditionBit (v : ConditionSet) (c : Condition) : Bool := v.get c.index

/-- A condition set with one bit written. -/
def setConditionBit (v : ConditionSet) (c : Condition) (b : Bool) : ConditionSet := v.set c.index.val b c.index.isLt

/-- The nine conditions in the order of their numbers (Table 11-4). -/
def allConditions : List Condition :=
  [.journalHigh, .journalFull, .budgetLow, .lineFault, .storeFault, .clockInvalid, .tariffShifted, .holdLapsed, .powerUp]

/-- The set of the conditions of a list. -/
def conditionSetOf (cs : List Condition) : ConditionSet :=
  cs.foldl (fun v c => setConditionBit v c true) (Vector.replicate 9 false)

/-- The level of a condition; the four event conditions have none (R170, R171). -/
def State.levelOf (s : State) : Condition → Bool
  | .journalHigh => decide (s.salesFree ≤ 1024)
  | .journalFull => decide (s.salesFree ≤ 16)
  | .budgetLow => s.commissioned && decide (s.site.budget - s.reserved < s.site.floor)
  | .storeFault => s.store.faulted
  | .clockInvalid => !s.calendar.valid
  | .lineFault => false
  | .tariffShifted => false
  | .holdLapsed => false
  | .powerUp => false

/-- The Condition Unit takes arisings in RUN, and in START once start-up has begun its level tests (R177). -/
def State.takesArisings (s : State) : Bool :=
  s.supply.state == .run || (s.supply.state == .start && s.supply.started)

/-- A notice for the condition is pending: it stands in the office port's order (R173, R174). -/
def State.noticePending (s : State) (c : Condition) : Bool := s.officePort.order.contains (.notice c)

/-- The latches with one bit written. -/
def State.setLatch (s : State) (c : Condition) (b : Bool) : State :=
  { s with conditions := { s.conditions with latches := setConditionBit s.conditions.latches c b } }

/-- A notice queued on the office port when its enable is on and none is pending (R173). -/
def queueNotice (c : Condition) (s : State) : State :=
  if conditionBit s.site.mask c && !s.noticePending c then
    s.modPort .office fun p => { p with order := p.order ++ [.notice c] }
  else s

/-- A condition arises: its latch is set and its notice queued (R169, R173). -/
def arise (c : Condition) (s : State) : State :=
  if s.takesArisings then queueNotice c (s.setLatch c true) else s

/-- One level reported: it arises when it changes from absent to present (R170). -/
def reportLevel (c : Condition) (s : State) : State :=
  let present := s.levelOf c
  let s' := if present && !conditionBit s.conditions.levels c then arise c s else s
  { s' with conditions := { s'.conditions with levels := setConditionBit s'.conditions.levels c present } }

/-- The five levels reported. R188 gives their order at start-up; at any other change that makes two levels present at
once (a reservation that lowers both B − R and sales-free) no rule orders the notices, and the model takes the same
order (log 45). DESIGN CHOICE. -/
def reportLevels (s : State) : State :=
  if s.takesArisings then
    reportLevel .clockInvalid (reportLevel .storeFault (reportLevel .budgetLow (reportLevel .journalFull
      (reportLevel .journalHigh s))))
  else s

/-- A pending notice withdrawn (R174). -/
def withdrawNotice (c : Condition) (s : State) : State :=
  s.modPort .office fun p => { p with order := p.order.filter fun i => i != .notice c }

/-- One condition of a CONDITION_CLEAR: the latch cleared, with the till set of LINE_FAULT, its notice withdrawn, and a
level still present arising again at once (R175). -/
def clearCondition (s : State) (c : Condition) : State :=
  let s1 := withdrawNotice c (s.setLatch c false)
  let s2 := if c = .lineFault then
      { s1 with conditions := { s1.conditions with tillSet := Vector.replicate 4 false } } else s1
  if s2.levelOf c then arise c s2 else s2

/-- LINE_FAULT arises for a till: the till joins the till set (R172). -/
def ariseLineFault (t : Till) (s : State) : State :=
  arise .lineFault
    { s with conditions := { s.conditions with tillSet := s.conditions.tillSet.set t.val true t.isLt } }

/-- The notices that a new mask turns off are withdrawn (R176). -/
def withdrawDisabled (mask : ConditionSet) (s : State) : State :=
  s.modPort .office fun p => { p with order := p.order.filter fun i =>
    match i with
    | .notice c => conditionBit mask c
    | .reply _ _ _ => true }

end Sys2Proof.Machine
end

