-- ==== Sys2Proof/Machine/Bytes.lean ====
section
/-! DEFINITION. Numbers as bytes, high byte first (00, Units and number conventions; 11, Table 11-3). -/

namespace Sys2Proof.Machine

/-- The `n` bytes of a number, high byte first. -/
def beBytes : Nat → Nat → List Byte
  | 0, _ => []
  | n + 1, v => beBytes n (v / 256) ++ [BitVec.ofNat 8 v]

/-- The number that bytes stand for, high byte first. -/
def ofBe (bs : List Byte) : Nat :=
  bs.foldl (fun acc b => acc * 256 + b.toNat) 0

/-- A field stated as absent: every byte 0xFF (R205). -/
def absentBytes (n : Nat) : List Byte := List.replicate n 0xFF

/-- A field that may be absent, in `n` bytes (R205). -/
def optBytes (n : Nat) : Option Nat → List Byte
  | none => absentBytes n
  | some v => beBytes n v

/-- yes/no on the links: 0 no, 1 yes (Table 11-4). -/
def boolByte (b : Bool) : List Byte := [if b then 1 else 0]

/-- Two decimal digits to a byte, the earlier in the high half (Table 11-3, token digits). -/
def digitPairs : Digits → List Byte
  | a :: b :: rest => BitVec.ofNat 8 (a * 16 + b) :: digitPairs rest
  | _ => []

/-- The decimal digits of bytes that hold two each; a half above 9 is no digit, and stays as it is. -/
def digitsOfPairs : List Byte → Digits
  | [] => []
  | b :: rest => b.toNat / 16 :: b.toNat % 16 :: digitsOfPairs rest

end Sys2Proof.Machine
end

