-- ==== Sys2Proof/Machine/Frames.lean ====
section
/-! DEFINITION. The frame: its bytes on the wire, the receiver, the frame time limit and the kind codes (11.2, 11.7). -/

namespace Sys2Proof.Machine

/-- The lead byte of a frame (Table 11-1). -/
def leadByte : Byte := 0xA5

/-- The largest body length (Table 11-1). -/
def maxBody : Nat := 200

/-- The 16-bit check over bytes 1 to 3 + L: the ones' complement of their sum (R195). -/
def checkOf (bytes : List Byte) : Nat :=
  65535 - (bytes.map BitVec.toNat).sum

/-- A frame's bytes on the line: lead, length, kind, tag, body and check, high byte first (Table 11-1, R195). -/
def wireBytes (f : Frame) : List Byte :=
  let core := BitVec.ofNat 8 f.body.length :: f.kind :: f.tag :: f.body
  leadByte :: core ++ beBytes 2 (checkOf core)

/-! ### Lines and characters (11.1) -/

/-- The level of a line (R193). The spacing level is the low one: a stop bit that is not at the marking level is low
(R194). -/
inductive LineLevel where
  | spacing
  | marking
  deriving DecidableEq, Repr

/-- The level of a data bit: a 1 stands at the marking level, a 0 at the spacing level (log 50). DEDUCED. -/
def bitLevel (b : Bool) : LineLevel := if b then .marking else .spacing

/-- A character on its line, one level for each of its 10 bit times: the start bit, the eight data bits, least
significant first, and the stop bit (R193). -/
def charLevels (b : Byte) : List LineLevel :=
  .spacing :: ((List.range 8).map fun i => bitLevel (b.getLsbD i)) ++ [.marking]

/-- A frame on its line, character after character (R193). -/
def frameLevels (f : Frame) : List LineLevel := (wireBytes f).flatMap charLevels

/-- Where a line stands between two bit times: at rest, or in a character with the data bits so far, the earliest
first (R193). -/
inductive LineReader where
  | rest
  | data (got : List LineLevel)
  deriving DecidableEq, Repr

/-- The byte of data bits, the least significant first (R193). -/
def byteOfLevels (ls : List LineLevel) : Byte :=
  BitVec.ofNat 8 (ls.foldr (fun l n => 2 * n + if l = .marking then 1 else 0) 0)

/-- One bit time of a line: at rest the marking level is no character and the spacing level is a start bit; the bit after
the eight data bits is the stop bit, good at the marking level (R193, R194; log 50). -/
def readLevel (r : LineReader) (l : LineLevel) : LineReader × Option RxChar :=
  match r, l with
  | .rest, .marking => (.rest, none)
  | .rest, .spacing => (.data [], none)
  | .data got, l =>
    if got.length < 8 then (.data (got ++ [l]), none) else (.rest, some ⟨byteOfLevels got, l == .marking⟩)

/-- The characters of a line, bit time after bit time (R193). -/
def readLine (r : LineReader) : List LineLevel → List RxChar
  | [] => []
  | l :: ls =>
    match readLevel r l with
    | (r', none) => readLine r' ls
    | (r', some c) => c :: readLine r' ls

/-! ### The receiver (11.2) -/

/-- A receiver: hunting for a lead byte, or with the bytes of a frame so far, its lead byte first (R194). -/
inductive Receiver where
  | hunt
  | receiving (got : List Byte)
  deriving DecidableEq, Repr

/-- How a frame ends: taken by the port as a good frame, or discarded (R197). -/
inductive FrameEnd where
  | good (f : Frame)
  | discarded
  deriving DecidableEq, Repr

/-- The test of a whole frame: its check and its tag (R195, R197). -/
def judgeFrame (bytes : List Byte) : FrameEnd :=
  match bytes with
  | _ :: len :: kind :: tag :: rest =>
    let body := rest.take len.toNat
    let check := ofBe (rest.drop len.toNat)
    if check = checkOf (len :: kind :: tag :: body) ∧ tag ≠ 0 then .good ⟨kind, tag, body⟩ else .discarded
  | _ => .discarded

/-- One character at the receiver (R194, R197). -/
def receiveChar (r : Receiver) (c : RxChar) : Receiver × Option FrameEnd :=
  match r with
  | .hunt => if c.stopGood ∧ c.data = leadByte then (.receiving [c.data], none) else (.hunt, none)
  | .receiving got =>
    if !c.stopGood then (.hunt, some .discarded)
    else
      let all := got ++ [c.data]
      match all[1]? with
      | none => (.receiving all, none)
      | some len =>
        if len.toNat > maxBody then (.hunt, some .discarded)
        else if all.length = len.toNat + 6 then (.hunt, some (judgeFrame all))
        else (.receiving all, none)

/-- Characters at the receiver up to the first end of a frame (R194). -/
def receive (r : Receiver) : List RxChar → Receiver × Option FrameEnd
  | [] => (r, none)
  | c :: cs =>
    match receiveChar r c with
    | (r', none) => receive r' cs
    | (r', some e) => (r', some e)

/-- The frame time limit in bit times for the bytes so far: 90 before byte 1, then (L + 6) × 15 (R196). -/
def frameLimit (got : List Byte) : Nat :=
  match got[1]? with
  | none => 90
  | some len => (len.toNat + 6) * 15

/-- Characters that make a frame the receiver discards on its own (R197). -/
def isDiscarded (chars : List RxChar) : Bool :=
  (receive .hunt chars).2 == some .discarded

/-- Characters of a frame still in reception when its time limit has run out (R196). -/
def limitRanOut (chars : List RxChar) (elapsed : Nat) : Bool :=
  match receive .hunt chars with
  | (.receiving got, none) => decide (frameLimit got ≤ elapsed)
  | _ => false

/-- The kind codes of the requests and replies (Table 11-5). -/
def kindQuote : Byte := 0x11
def kindConfirm : Byte := 0x12
def kindCancel : Byte := 0x13
def kindReprint : Byte := 0x14
def kindTillStatus : Byte := 0x15
def kindMeterEnrol : Byte := 0x21
def kindMeterEdit : Byte := 0x22
def kindMeterBlock : Byte := 0x23
def kindMeterUnblock : Byte := 0x24
def kindMeterRetire : Byte := 0x25
def kindMeterPurge : Byte := 0x26
def kindMeterRestore : Byte := 0x27
def kindMeterRead : Byte := 0x28
def kindTariffStage : Byte := 0x30
def kindTariffUnstage : Byte := 0x31
def kindTariffLoadNow : Byte := 0x32
def kindTariffRead : Byte := 0x33
def kindBudgetVoucher : Byte := 0x38
def kindBudgetFloorSet : Byte := 0x39
def kindJournalRead : Byte := 0x40
def kindJournalRelease : Byte := 0x41
def kindClockSet : Byte := 0x48
def kindClockRead : Byte := 0x49
def kindSummaryRead : Byte := 0x50
def kindTotalsSnapshot : Byte := 0x51
def kindTillClose : Byte := 0x52
def kindHoldRequest : Byte := 0x58
def kindHoldRelease : Byte := 0x59
def kindLinkSet : Byte := 0x60
def kindQuoteTimeSet : Byte := 0x61
def kindNoticeMaskSet : Byte := 0x62
def kindConditionClear : Byte := 0x63
def kindStatusRead : Byte := 0x64
def kindSiteCodeLoad : Byte := 0x68
def kindStoreRetry : Byte := 0x69
def kindRefused : Byte := 0xF0
def kindNotice : Byte := 0xF8

/-- The request kinds of a till link (Table 11-5). -/
def tillKinds : List Byte := [kindQuote, kindConfirm, kindCancel, kindReprint, kindTillStatus]

/-- The request kinds of the office link (Table 11-5). -/
def officeKinds : List Byte :=
  [kindMeterEnrol, kindMeterEdit, kindMeterBlock, kindMeterUnblock, kindMeterRetire, kindMeterPurge,
   kindMeterRestore, kindMeterRead, kindTariffStage, kindTariffUnstage, kindTariffLoadNow, kindTariffRead,
   kindBudgetVoucher, kindBudgetFloorSet, kindJournalRead, kindJournalRelease, kindClockSet, kindClockRead,
   kindSummaryRead, kindTotalsSnapshot, kindTillClose, kindHoldRequest, kindHoldRelease, kindLinkSet,
   kindQuoteTimeSet, kindNoticeMaskSet, kindConditionClear, kindStatusRead, kindSiteCodeLoad, kindStoreRetry]

/-- Whether a kind is a request kind of the link (R199). -/
def isRequestKind (p : PortId) (kind : Byte) : Bool :=
  match p with
  | .office => officeKinds.contains kind
  | .till _ => tillKinds.contains kind

end Sys2Proof.Machine
end

