-- ==== Sys2Proof/Machine/Operands.lean ====
section
/-! DEFINITION. The operands of the requests: each body read field by field in the order its rule names them, with the
tests of R205, and beside it the body a sender writes. `none` is the refusal FIELD_RANGE. Field orders and layouts that
section 11.8 does not lay out: log 14 to 16 and 35. -/

namespace Sys2Proof.Machine

/-- The number in `len` bytes from `off` on. -/
def fieldAt (body : List Byte) (off len : Nat) : Nat := ofBe ((body.drop off).take len)

/-- An optional field: all 0xFF means not given (R205). -/
def optFieldAt (body : List Byte) (off len : Nat) : Option Nat :=
  if (body.drop off).take len = absentBytes len then none else some (fieldAt body off len)

/-- yes/no: 0 or 1, any other value is out of its kind (Table 11-4, R205). -/
def boolOf (n : Nat) : Option Bool :=
  match n with
  | 0 => some false
  | 1 => some true
  | _ => none

/-- A meter number: 1 to 99,999,999,999 (Table 1-1). -/
def meterInRange (n : Nat) : Bool := decide (1 ≤ n) && decide (n ≤ 99999999999)

/-- Values of Table 1-1 and of the ports (00, Table 1). -/
def maxTender : Nat := 999999
def maxArrears : Nat := 99999999
def maxBudget : Nat := 999999999
def maxMonthUnits : Nat := 9999999
def maxResidue : Nat := 999999
def maxMonthTag : Nat := 1199
def max32 : Nat := 4294967295

/-- A recovery rate is clamped to 50 (Table 1-5, note 1). -/
def clampRate (n : Nat) : Nat := min n 50

/-! ### Till requests -/

/-- QUOTE: meter number and tender (Table 11-6). -/
def parseQuote (body : List Byte) : Option (Nat × Nat) :=
  let meter := fieldAt body 0 5
  let tender := fieldAt body 5 3
  if body.length = 8 ∧ meterInRange meter ∧ tender ≤ maxTender then some (meter, tender) else none

def quoteBody (meter tender : Nat) : List Byte := beBytes 5 meter ++ beBytes 3 tender

/-- CONFIRM: meter number and quote id (Table 11-7). -/
def parseConfirm (body : List Byte) : Option (Nat × Nat) :=
  let meter := fieldAt body 0 5
  let id := fieldAt body 5 2
  if body.length = 7 ∧ meterInRange meter ∧ 1 ≤ id then some (meter, id) else none

def confirmBody (meter id : Nat) : List Byte := beBytes 5 meter ++ beBytes 2 id

/-- The quote id a CONFIRM names, 0 where its body holds none (Table 11-11, note 1). -/
def confirmNames (body : List Byte) : Nat := if body.length = 7 then fieldAt body 5 2 else 0

/-- CANCEL: a quote id, 0 for whatever quote the slot holds (R72). -/
def parseCancel (body : List Byte) : Option Nat :=
  if body.length = 2 then some (fieldAt body 0 2) else none

def cancelBody (id : Nat) : List Byte := beBytes 2 id

/-- REPRINT: meter number and index (R74). -/
def parseReprint (body : List Byte) : Option (Nat × Nat) :=
  let meter := fieldAt body 0 5
  let index := fieldAt body 5 1
  if body.length = 6 ∧ meterInRange meter ∧ index ≤ 2 then some (meter, index) else none

def reprintBody (meter index : Nat) : List Byte := beBytes 5 meter ++ beBytes 1 index

/-- A request that carries no fields has an empty body (R205). -/
def parseNone (body : List Byte) : Option Unit := if body.length = 0 then some () else none

/-! ### Office record requests (01, Table 1-4) -/

/-- METER_ENROL: meter number, tariff index, lifeline eligible, recovery rate, arrears (Table 1-4). -/
def parseEnrol (body : List Byte) : Option (Nat × Nat × Bool × Nat × Nat) :=
  let meter := fieldAt body 0 5
  let tariff := fieldAt body 5 1
  let arrears := fieldAt body 8 4
  match boolOf (fieldAt body 6 1) with
  | none => none
  | some eligible =>
    if body.length = 12 ∧ meterInRange meter ∧ tariff ≤ 15 ∧ arrears ≤ maxArrears then
      some (meter, tariff, eligible, clampRate (fieldAt body 7 1), arrears)
    else none

def enrolBody (meter tariff : Nat) (eligible : Bool) (rate arrears : Nat) : List Byte :=
  beBytes 5 meter ++ beBytes 1 tariff ++ boolByte eligible ++ beBytes 1 rate ++ beBytes 4 arrears

/-- METER_EDIT: meter number and any of tariff index, recovery rate, arrears, lifeline eligible (R18). -/
def parseEdit (body : List Byte) : Option EditRequest :=
  let meter := fieldAt body 0 5
  let tariff := optFieldAt body 5 1
  let rate := optFieldAt body 6 1
  let arrears := optFieldAt body 7 4
  let eligible := optFieldAt body 11 1
  let eligibleOk : Bool := match eligible with
    | none => true
    | some n => (boolOf n).isSome
  let given := tariff.isSome || rate.isSome || arrears.isSome || eligible.isSome
  if body.length = 12 ∧ meterInRange meter ∧ given ∧ eligibleOk ∧ tariff.getD 0 ≤ 15 ∧ arrears.getD 0 ≤ maxArrears then
    some ⟨meter, tariff, rate.map clampRate, arrears, eligible.bind boolOf⟩
  else none

def editBody (e : EditRequest) : List Byte :=
  beBytes 5 e.meter ++ optBytes 1 e.tariffIndex ++ optBytes 1 e.recoveryRate ++ optBytes 4 e.arrears ++
    optBytes 1 (e.lifelineEligible.map fun b => if b then 1 else 0)

/-- The requests that carry a meter number alone (Table 1-4). -/
def parseMeter (body : List Byte) : Option Nat :=
  let meter := fieldAt body 0 5
  if body.length = 5 ∧ meterInRange meter then some meter else none

def meterBody (meter : Nat) : List Byte := beBytes 5 meter

/-- ACTIVE, BLOCKED or RETIRED; PURGED stands in journal entries only (Table 11-4). -/
def accountOf (n : Nat) : Option AccountState :=
  match n with
  | 1 => some .active
  | 2 => some .blocked
  | 3 => some .retired
  | _ => none

/-- A date in three bytes from `off` on, as its day count (Table 11-3). -/
def dateAt (body : List Byte) (off : Nat) : Option Nat :=
  let y := fieldAt body off 1
  let m := fieldAt body (off + 1) 1
  let d := fieldAt body (off + 2) 1
  if isRealDate y m d then some (dayOfDate y m d) else none

/-- A date-time in six bytes from `off` on (Table 11-3, R148). -/
def dateTimeAt (body : List Byte) (off : Nat) : Option DateTime :=
  let h := fieldAt body (off + 3) 1
  let mi := fieldAt body (off + 4) 1
  let s := fieldAt body (off + 5) 1
  match dateAt body off with
  | none => none
  | some day => if h ≤ 23 ∧ mi ≤ 59 ∧ s ≤ 59 then some ⟨day, h * 3600 + mi * 60 + s⟩ else none

/-- METER_RESTORE: the meter number and the fields R16 lists, as a record whose recent-token list is empty. -/
def parseRestore (body : List Byte) : Option Record :=
  let meter := fieldAt body 0 5
  let tariff := fieldAt body 6 1
  let arrears := fieldAt body 9 4
  let tag := fieldAt body 13 2
  let units := fieldAt body 15 3
  let residue := fieldAt body 20 4
  let last := fieldAt body 24 2
  match accountOf (fieldAt body 5 1), boolOf (fieldAt body 7 1), boolOf (fieldAt body 18 1),
      boolOf (fieldAt body 19 1), dateAt body 26 with
  | some account, some eligible, some paid, some given, some enrol =>
    if body.length = 29 ∧ meterInRange meter ∧ tariff ≤ 15 ∧ arrears ≤ maxArrears ∧ tag ≤ maxMonthTag ∧
        units ≤ maxMonthUnits ∧ residue ≤ maxResidue ∧ last ≤ 999 then
      some { meter, account, tariffIndex := tariff, lifelineEligible := eligible,
             recoveryRate := clampRate (fieldAt body 8 1), arrears, monthTag := tag, monthUnits := units,
             servicePaid := paid, lifelineGiven := given, residue, lastToken := last, recent := [], lastSeq := 0,
             enrolDay := enrol }
    else none
  | _, _, _, _, _ => none

/-- The number of an account state (Table 11-4). -/
def accountNumber : AccountState → Nat
  | .active => 1
  | .blocked => 2
  | .retired => 3

/-- A date in three bytes: year − 2000, month, day (Table 11-3). -/
def dateBytes (day : Nat) : List Byte :=
  let (y, m, d) := dateOfDay day
  beBytes 1 y ++ beBytes 1 m ++ beBytes 1 d

/-- A date-time in six bytes (Table 11-3). -/
def dateTimeBytes (d : DateTime) : List Byte :=
  dateBytes d.day ++ beBytes 1 (d.second / 3600) ++ beBytes 1 (d.second / 60 % 60) ++ beBytes 1 (d.second % 60)

def restoreBody (r : Record) : List Byte :=
  beBytes 5 r.meter ++ beBytes 1 (accountNumber r.account) ++ beBytes 1 r.tariffIndex ++
    boolByte r.lifelineEligible ++ beBytes 1 r.recoveryRate ++ beBytes 4 r.arrears ++ beBytes 2 r.monthTag ++
    beBytes 3 r.monthUnits ++ boolByte r.servicePaid ++ boolByte r.lifelineGiven ++ beBytes 4 r.residue ++
    beBytes 2 r.lastToken ++ dateBytes r.enrolDay

/-! ### Tariff requests (02) -/

/-- A tariff entry as a frame carries it: every entry has room for three bounds and four prices (log 15). -/
structure RawEntry where
  defined : Bool
  serviceCharge : Nat
  lifeline : Nat
  blocks : Nat
  bounds : List Nat
  prices : List Nat
  deriving DecidableEq, Repr

/-- Bounds that rise, each from 1 to 9,999,998 (R23). -/
def boundsValid : Nat → List Nat → Bool
  | _, [] => true
  | before, u :: us => decide (before < u) && decide (u ≤ 9999998) && boundsValid u us

/-- The validation of R23; an undefined entry is not validated. -/
def RawEntry.valid (e : RawEntry) : Bool :=
  !e.defined ||
    (decide (1 ≤ e.blocks) && decide (e.blocks ≤ 4) && decide (e.serviceCharge ≤ 99999) && decide (e.lifeline ≤ 5000) &&
      boundsValid 0 (e.bounds.take (e.blocks - 1)) &&
      (e.prices.take e.blocks).all fun p => decide (1 ≤ p) && decide (p ≤ 999999))

/-- The entry held for what a frame carried: the fields of an undefined one are ignored (R23). -/
def RawEntry.entry (e : RawEntry) : TariffEntry :=
  if e.defined then
    some ⟨e.serviceCharge, e.lifeline, e.bounds.take (e.blocks - 1), e.prices.take e.blocks⟩
  else none

/-- The bytes of one carried entry (log 15). -/
def rawEntryLength : Nat := 28

/-- One carried entry from `off` on: defined, S, F, k, three bounds, four prices (log 15). -/
def rawEntryAt (body : List Byte) (off : Nat) : Option RawEntry :=
  match boolOf (fieldAt body off 1) with
  | none => none
  | some defined =>
    some { defined, serviceCharge := fieldAt body (off + 1) 3, lifeline := fieldAt body (off + 4) 2,
           blocks := fieldAt body (off + 6) 1,
           bounds := [fieldAt body (off + 7) 3, fieldAt body (off + 10) 3, fieldAt body (off + 13) 3],
           prices := [fieldAt body (off + 16) 3, fieldAt body (off + 19) 3, fieldAt body (off + 22) 3,
                      fieldAt body (off + 25) 3] }

/-- The four entries of a quarter frame, from byte 1 on. -/
def quarterEntries (body : List Byte) : Option (List RawEntry) :=
  match rawEntryAt body 1, rawEntryAt body 29, rawEntryAt body 57, rawEntryAt body 85 with
  | some a, some b, some c, some d => some [a, b, c, d]
  | _, _, _, _ => none

/-- TARIFF_STAGE: quarter, four entries, effective day (R26). -/
def parseStage (body : List Byte) : Option (Nat × List RawEntry × Nat) :=
  let quarter := fieldAt body 0 1
  let day := fieldAt body 113 2
  match quarterEntries body with
  | none => none
  | some es => if body.length = 115 ∧ quarter ≤ 3 ∧ day ≤ lastDay then some (quarter, es, day) else none

/-- TARIFF_LOAD_NOW: quarter and four entries (R26). -/
def parseLoad (body : List Byte) : Option (Nat × List RawEntry) :=
  let quarter := fieldAt body 0 1
  match quarterEntries body with
  | none => none
  | some es => if body.length = 113 ∧ quarter ≤ 3 then some (quarter, es) else none

/-- A number list in `n` places of three bytes each, the places past its end absent (log 15, R205). -/
def paddedBytes (n : Nat) (ns : List Nat) : List Byte :=
  ((List.range n).map fun i => optBytes 3 ns[i]?).flatten

/-- A tariff entry in its 28 bytes (log 15); the fields of an undefined one are absent. -/
def entryBytes (e : TariffEntry) : List Byte :=
  match e with
  | none => boolByte false ++ absentBytes 27
  | some t =>
    boolByte true ++ beBytes 3 t.serviceCharge ++ beBytes 2 t.lifeline ++ beBytes 1 t.prices.length ++
      paddedBytes 3 t.bounds ++ paddedBytes 4 t.prices

def loadBody (quarter : Nat) (entries : List TariffEntry) : List Byte :=
  beBytes 1 quarter ++ (entries.map entryBytes).flatten

def stageBody (quarter : Nat) (entries : List TariffEntry) (day : Nat) : List Byte :=
  loadBody quarter entries ++ beBytes 2 day

/-- TARIFF_READ: set selector and quarter (R32). -/
def parseTariffRead (body : List Byte) : Option (SetSelector × Nat) :=
  let quarter := fieldAt body 1 1
  if body.length = 2 ∧ quarter ≤ 3 then
    match fieldAt body 0 1 with
    | 1 => some (.active, quarter)
    | 2 => some (.pending, quarter)
    | _ => none
  else none

/-- The number of a set selector (Table 11-4). -/
def selectorNumber : SetSelector → Nat
  | .active => 1
  | .pending => 2

def tariffReadBody (sel : SetSelector) (quarter : Nat) : List Byte := beBytes 1 (selectorNumber sel) ++ beBytes 1 quarter

/-! ### The other office requests -/

/-- BUDGET_VOUCHER: serial and amount (R165). -/
def parseVoucher (body : List Byte) : Option (Nat × Nat) :=
  let serial := fieldAt body 0 4
  let amount := fieldAt body 4 4
  if body.length = 8 ∧ 1 ≤ serial ∧ 1 ≤ amount ∧ amount ≤ maxBudget then some (serial, amount) else none

def voucherBody (serial amount : Nat) : List Byte := beBytes 4 serial ++ beBytes 4 amount

/-- BUDGET_FLOOR_SET: the floor (R168). -/
def parseFloor (body : List Byte) : Option Nat :=
  let v := fieldAt body 0 4
  if body.length = 4 ∧ v ≤ maxBudget then some v else none

def floorBody (v : Nat) : List Byte := beBytes 4 v

/-- JOURNAL_READ: starting sequence and count (R139). Table 11-3 gives the count no size: it is one byte (log 48).
DESIGN CHOICE. -/
def parseJournalRead (body : List Byte) : Option (Nat × Nat) :=
  let start := fieldAt body 0 4
  let count := fieldAt body 4 1
  if body.length = 5 ∧ 1 ≤ start ∧ 1 ≤ count ∧ count ≤ 4 then some (start, count) else none

def journalReadBody (start count : Nat) : List Byte := beBytes 4 start ++ beBytes 1 count

/-- JOURNAL_RELEASE: upto (R140). -/
def parseRelease (body : List Byte) : Option Nat :=
  if body.length = 4 then some (fieldAt body 0 4) else none

def releaseBody (upto : Nat) : List Byte := beBytes 4 upto

/-- CLOCK_SET: a date-time (R148). -/
def parseClock (body : List Byte) : Option DateTime :=
  if body.length = 6 then dateTimeAt body 0 else none

/-- SUMMARY_READ: an index (R156). Table 11-3 lists no size for it: it is taken as a small number of one byte, as
SUMMARY_DATA's index is (log 48). DESIGN CHOICE. -/
def parseSummary (body : List Byte) : Option Nat :=
  let i := fieldAt body 0 1
  if body.length = 1 ∧ i ≤ 30 then some i else none

def summaryBody (i : Nat) : List Byte := beBytes 1 i

/-- The till of a number up to 3. -/
def tillOf (n : Nat) : Option Till := if h : n < 4 then some ⟨n, h⟩ else none

/-- TILL_CLOSE: a till number (R158). -/
def parseTillClose (body : List Byte) : Option Till :=
  if body.length = 1 then tillOf (fieldAt body 0 1) else none

def tillCloseBody (t : Till) : List Byte := beBytes 1 t.val

/-- The link rate of its number (Table 11-4). -/
def rateOf (n : Nat) : Option LinkRate :=
  match n with
  | 1 => some .r9600
  | 2 => some .r19200
  | 3 => some .r38400
  | 4 => some .r57600
  | _ => none

/-- The number of a link rate (Table 11-4). -/
def rateNumber : LinkRate → Nat
  | .r9600 => 1
  | .r19200 => 2
  | .r38400 => 3
  | .r57600 => 4

/-- LINK_SET: till number, enable and rate (R203). -/
def parseLinkSet (body : List Byte) : Option (Till × LinkSettings) :=
  match tillOf (fieldAt body 0 1), boolOf (fieldAt body 1 1), rateOf (fieldAt body 2 1) with
  | some t, some enabled, some rate => if body.length = 3 then some (t, ⟨enabled, rate⟩) else none
  | _, _, _ => none

def linkSetBody (t : Till) (v : LinkSettings) : List Byte :=
  beBytes 1 t.val ++ boolByte v.enabled ++ beBytes 1 (rateNumber v.rate)

/-- QUOTE_TIME_SET: a hold time in seconds, clamped to 15 to 600 (R64). -/
def parseQuoteTime (body : List Byte) : Option Nat :=
  if body.length = 2 then some (max 15 (min (fieldAt body 0 2) 600)) else none

def quoteTimeBody (v : Nat) : List Byte := beBytes 2 v

/-- The condition of a number; a number outside 1 to 9 names none (Table 11-4, R205). -/
def conditionOf (n : Nat) : Option Condition :=
  match n with
  | 1 => some .journalHigh
  | 2 => some .journalFull
  | 3 => some .budgetLow
  | 4 => some .lineFault
  | 5 => some .storeFault
  | 6 => some .clockInvalid
  | 7 => some .tariffShifted
  | 8 => some .holdLapsed
  | 9 => some .powerUp
  | _ => none

/-- The number of a condition (Table 11-4). -/
def conditionNumber (c : Condition) : Nat := c.index.val + 1

/-- A list of conditions: a count byte, then the numbers; those that name none are ignored (R175, R176, log 35). -/
def parseConditions (body : List Byte) : Option (List Condition) :=
  match body with
  | [] => none
  | n :: items => if items.length = n.toNat then some (items.filterMap fun b => conditionOf b.toNat) else none

def conditionsBody (cs : List Condition) : List Byte :=
  beBytes 1 cs.length ++ cs.map fun c => BitVec.ofNat 8 (conditionNumber c)

/-- SITE_CODE_LOAD: 32 decimal digits, two to a byte (R93, log 16). -/
def parseSiteCode (body : List Byte) : Option Digits :=
  let ds := digitsOfPairs body
  if body.length = 16 ∧ ds.all (fun d => decide (d ≤ 9)) then some ds else none

def siteCodeBody (ds : Digits) : List Byte := digitPairs ds

end Sys2Proof.Machine
end

