-- ==== Sys2Proof/Machine/Tokens.lean ====
section
/-! DEFINITION. Token construction: plain digits, check, mask and rotation (05). -/

namespace Sys2Proof.Machine

/-- The `n` decimal digits of a number, most significant first, with leading zeros (Table 5-1). -/
def decimalDigits : Nat → Nat → Digits
  | 0, _ => []
  | n + 1, v => decimalDigits n (v / 10) ++ [v % 10]

/-- The class digit (Table 3-5). -/
def classDigit : TokenClass → Nat
  | .credit => 1
  | .lifeline => 2
  | .creditLifeline => 3
  | .receipt => 4

/-- The weighted sum of R85 over digits that stand at position `i` and after. -/
def checkSum (i : Nat) : Digits → Nat
  | [] => 0
  | d :: ds => (i + 1) * d + checkSum (i + 1) ds

/-- The check K over P0 to P15 (R85). -/
def tokenCheck (ds : Digits) : Nat := checkSum 0 ds % 97

/-- P0 to P15: class, sequence, units, issue day and meter tag (R84). -/
def plainBody (cls : TokenClass) (sequence units day meter : Nat) : Digits :=
  classDigit cls :: (decimalDigits 3 sequence ++ decimalDigits 6 units ++ decimalDigits 4 (day % 10000) ++
    decimalDigits 2 (meter % 100))

/-- The 18 plain digits (R84, R85). -/
def plainDigits (cls : TokenClass) (sequence units day meter : Nat) : Digits :=
  let body := plainBody cls sequence units day meter
  body ++ decimalDigits 2 (tokenCheck body)

/-- The mask digit mj of a meter under a site code (R86). -/
def maskDigit (code : Digits) (meter j : Nat) : Nat :=
  let a := meter % 32
  let b := meter / 32 % 32
  (code.getD ((j + a) % 32) 0 + code.getD ((7 * j + b) % 32) 0 + (decimalDigits 11 meter).getD (j % 11) 0) % 10

/-- The masked digits X0 to X17 (R87). -/
def maskDigits (code : Digits) (meter : Nat) (plain : Digits) : Digits :=
  (List.range 18).map fun j => (plain.getD j 0 + maskDigit code meter j) % 10

/-- The rotation: the digit at position (j + r) mod 18 is Xj, with r = N mod 18 (R86, R87). -/
def rotateDigits (meter : Nat) (masked : Digits) : Digits :=
  (List.range 18).map fun p => masked.getD ((p + 18 - meter % 18) % 18) 0

/-- The token of 18 digits (R84 to R87). -/
def tokenDigits (code : Digits) (cls : TokenClass) (sequence units day meter : Nat) : Digits :=
  rotateDigits meter (maskDigits code meter (plainDigits cls sequence units day meter))

/-- The reading of a token by the meter: back from position (j + r) mod 18 to place j, less mj (R87). -/
def readToken (code : Digits) (meter : Nat) (token : Digits) : Digits :=
  (List.range 18).map fun j => (token.getD ((j + meter % 18) % 18) 0 + 10 - maskDigit code meter j) % 10

end Sys2Proof.Machine
end

