-- ==== Sys2Proof/Machine/Encoding.lean ====
section
/-! DEFINITION. The bodies of replies, journal entries and notices in bytes (11.6 to 11.9). Layouts that section 11.8 does
not lay out follow the order of their rules (R205; log 14, 17 to 21). -/

namespace Sys2Proof.Machine

/-! ### Numbers of enumerations (Tables 11-4, 11-11) -/

def refusalNumber : RefusalCode → Nat
  | .fieldRange => 0x01
  | .unknownKind => 0x02
  | .linkBusy => 0x03
  | .slotBusy => 0x04
  | .notCommissioned => 0x05
  | .alreadyCommissioned => 0x06
  | .clockUnset => 0x07
  | .clockBackward => 0x08
  | .suspended => 0x09
  | .meterUnknown => 0x0A
  | .meterExists => 0x0B
  | .meterDamaged => 0x0C
  | .meterBusy => 0x0D
  | .meterBlocked => 0x0E
  | .meterRetired => 0x0F
  | .stateConflict => 0x10
  | .directoryFull => 0x11
  | .tariffUnset => 0x12
  | .tariffInvalid => 0x13
  | .nothingToIssue => 0x14
  | .belowCharges => 0x15
  | .budgetShort => 0x16
  | .budgetCap => 0x17
  | .voucherOld => 0x18
  | .journalFull => 0x19
  | .quoteUnknown => 0x1A
  | .quoteExpired => 0x1B
  | .commitUnderway => 0x1C
  | .tokenAbsent => 0x1D
  | .summaryAbsent => 0x1E
  | .notHeld => 0x1F
  | .holdActive => 0x20
  | .purgeRefused => 0x21

def outcomeNumber : CloseOutcome → Nat
  | .committed => 1
  | .cancelled => 2
  | .expired => 3
  | .rollover => 4
  | .linkOff => 5
  | .refused => 6

def markNumber : TokenMark → Nat
  | .fresh => 1
  | .reprint => 2
  | .again => 3

def stateAfterNumber : StateAfter → Nat
  | .account a => accountNumber a
  | .purged => 4

def linkStateNumber : LinkState → Nat
  | .off => 1
  | .active => 2
  | .fault => 3

def slotStateNumber : SlotState → Nat
  | .idle => 1
  | .quoting => 2
  | .fetching => 3
  | .opened => 4
  | .confirming => 5
  | .posting => 6

def supplyNumber : SupplyState → Nat
  | .run => 1
  | .hold => 2
  | .down => 3
  | .resetWait => 4
  | .start => 5

def holdNumber : HoldState → Nat
  | .none => 1
  | .pending => 2
  | .held => 3

def causeNumber : OutageCause → Nat
  | .supply => 1
  | .resetLine => 2

def sourceNumber : Source → Nat
  | .till t => t.val
  | .office => 4
  | .part => 5

def entryKindNumber : EntryBody → Nat
  | .sale _ => 1
  | .reprint _ _ _ _ _ => 2
  | .meterEnrol _ _ => 3
  | .meterEdit _ _ => 4
  | .meterState _ _ _ => 5
  | .tariffStaged _ _ => 6
  | .tariffLoaded _ _ => 7
  | .budgetVoucher _ _ _ => 8
  | .clockSet _ _ => 9
  | .settings _ => 10
  | .tillClose _ _ => 11
  | .dayClose _ _ => 12
  | .tariffShift _ _ => 13
  | .powerUp _ => 14
  | .commissioned => 15

/-! ### Composite fields (Table 11-3) -/

def optDateTimeBytes : Option DateTime → List Byte
  | none => absentBytes 6
  | some d => dateTimeBytes d

/-- Nine latches, one yes/no byte each (log 17). -/
def latchBytes (v : ConditionSet) : List Byte := (allConditions.map fun c => boolByte (conditionBit v c)).flatten

/-- The mask in two bytes, bit n − 1 for condition n (Table 11-3). -/
def maskNumber (v : ConditionSet) : Nat :=
  (allConditions.map fun c => if conditionBit v c then 2 ^ c.index.val else 0).sum

/-- A till set in the low four bits of a byte (R207). -/
def tillSetNumber (v : Vector Bool 4) : Nat := (allTills.map fun t => if v.get t then 2 ^ t.val else 0).sum

def countsBytes (c : Counts) : List Byte :=
  beBytes 4 c.tokens ++ beBytes 4 c.receipts ++ beBytes 4 c.cents ++ beBytes 4 c.units ++ beBytes 4 c.lifeline

/-- Token digits in nine bytes and the token sequence in two, both absent for RECEIPT (Table 11-9). -/
def tokenBytes : Option BuiltToken → List Byte
  | none => absentBytes 9 ++ absentBytes 2
  | some k => digitPairs k.digits ++ beBytes 2 k.sequence

/-! ### Journal entries (R128, Table 7-4) -/

/-- The number of a record field (Table 11-4). -/
def recordFieldNumber : RecordValue → Nat
  | .account _ => 1
  | .tariffIndex _ => 2
  | .lifelineEligible _ => 3
  | .recoveryRate _ => 4
  | .arrears _ => 5
  | .monthTag _ => 6
  | .monthUnits _ => 7
  | .servicePaid _ => 8
  | .lifelineGiven _ => 9
  | .residue _ => 10
  | .lastToken _ => 11
  | .enrolDay _ => 12

/-- A record field's value in its own encoding. -/
def recordValueBytes : RecordValue → List Byte
  | .account a => beBytes 1 (accountNumber a)
  | .tariffIndex n => beBytes 1 n
  | .lifelineEligible b => boolByte b
  | .recoveryRate n => beBytes 1 n
  | .arrears n => beBytes 4 n
  | .monthTag n => beBytes 2 n
  | .monthUnits n => beBytes 3 n
  | .servicePaid b => boolByte b
  | .lifelineGiven b => boolByte b
  | .residue n => beBytes 4 n
  | .lastToken n => beBytes 2 n
  | .enrolDay n => dateBytes n

/-- An item of METER_ENROL: the field number and its new value. -/
def enrolItemBytes (v : RecordValue) : List Byte := beBytes 1 (recordFieldNumber v) ++ recordValueBytes v

/-- An item of METER_EDIT: the field number, the old value (absent for METER_RESTORE) and the new value. -/
def editItemBytes (i : Option RecordValue × RecordValue) : List Byte :=
  beBytes 1 (recordFieldNumber i.2) ++
    (match i.1 with
     | none => absentBytes (recordValueBytes i.2).length
     | some v => recordValueBytes v) ++
    recordValueBytes i.2

def listBytes (items : List (List Byte)) : List Byte := beBytes 1 items.length ++ items.flatten

def linkSettingsBytes (v : LinkSettings) : List Byte := boolByte v.enabled ++ beBytes 1 (rateNumber v.rate)

/-- A SETTINGS entry: the setting's number, its old value and its new value (Table 11-4, R130). -/
def settingBytes : SettingChange → List Byte
  | .quoteHoldTime old new => beBytes 1 1 ++ beBytes 2 old ++ beBytes 2 new
  | .tillLink t old new => beBytes 1 (2 + t.val) ++ linkSettingsBytes old ++ linkSettingsBytes new
  | .noticeMask old new => beBytes 1 6 ++ beBytes 2 (maskNumber old) ++ beBytes 2 (maskNumber new)
  | .budgetFloor old new => beBytes 1 7 ++ beBytes 4 old ++ beBytes 4 new

/-- The fields of a kind beyond the common ones (Table 7-4). -/
def entryFieldBytes : EntryBody → List Byte
  | .sale f =>
    beBytes 5 f.meter ++ beBytes 2 f.quoteId ++ beBytes 3 f.tender ++ beBytes 3 f.service ++ beBytes 3 f.recovery ++
      beBytes 3 f.change ++ beBytes 3 f.purchased ++ beBytes 2 f.lifeline ++ beBytes 1 (classDigit f.cls) ++
      beBytes 1 f.tariffIndex ++ beBytes 4 f.generation ++ tokenBytes f.token
  | .reprint meter index sequence rep quoteId =>
    beBytes 5 meter ++ beBytes 1 index ++ beBytes 2 sequence ++ boolByte rep ++ beBytes 2 quoteId
  | .meterEnrol meter items => beBytes 5 meter ++ listBytes (items.map enrolItemBytes)
  | .meterEdit meter items => beBytes 5 meter ++ listBytes (items.map editItemBytes)
  | .meterState meter old new =>
    beBytes 5 meter ++ listBytes [beBytes 1 1 ++ beBytes 1 (accountNumber old) ++ beBytes 1 (stateAfterNumber new)]
  | .tariffStaged g day => beBytes 4 g ++ optBytes 2 day
  | .tariffLoaded g day => beBytes 4 g ++ beBytes 2 day
  | .budgetVoucher serial amount b => beBytes 4 serial ++ beBytes 4 amount ++ beBytes 4 b
  | .clockSet old new => optDateTimeBytes old ++ dateTimeBytes new
  | .settings c => settingBytes c
  | .tillClose t c => beBytes 1 t.val ++ countsBytes c
  | .dayClose day c => beBytes 2 day ++ countsBytes c
  | .tariffShift g day => beBytes 4 g ++ beBytes 2 day
  | .powerUp f =>
    beBytes 4 f.outageNumber ++ optDateTimeBytes f.start ++ optDateTimeBytes f.finish ++
      beBytes 1 (causeNumber f.cause) ++ beBytes 1 (f.dropped.getD 0xFE) ++ optBytes 4 f.firstDropped
  | .commissioned => []

/-- A journal entry: sequence, kind, date-time, source, the unlogged field when the entry holds one (log 19), then
the fields of its kind. -/
def journalEntryBytes (e : JournalEntry) : List Byte :=
  beBytes 4 e.seq ++ beBytes 1 (entryKindNumber e.body) ++ optDateTimeBytes e.dateTime ++
    beBytes 1 (sourceNumber e.source) ++
    (match e.unlogged with
     | none => []
     | some n => beBytes 4 n) ++
    entryFieldBytes e.body

/-- The entries a JOURNAL_DATA body has room for, each preceded by its length byte (R206). -/
def fitEntries : Nat → List JournalEntry → List JournalEntry
  | _, [] => []
  | used, e :: rest =>
    let used' := used + 1 + (journalEntryBytes e).length
    if used' ≤ maxBody then e :: fitEntries used' rest else []

/-! ### Replies (Table 11-5) -/

def recentTokenBytes (k : RecentToken) : List Byte :=
  digitPairs k.digits ++ beBytes 2 k.sequence ++ beBytes 1 (classDigit k.cls) ++ beBytes 3 k.units ++
    dateBytes k.issueDay ++ beBytes 2 k.quoteId ++ beBytes 4 k.journalSeq

/-- METER_DATA: every field of Table 1-1 and the month-current field (R17). -/
def meterDataBytes (r : Record) (monthCurrent : Option Bool) : List Byte :=
  beBytes 5 r.meter ++ beBytes 1 (accountNumber r.account) ++ beBytes 1 r.tariffIndex ++
    boolByte r.lifelineEligible ++ beBytes 1 r.recoveryRate ++ beBytes 4 r.arrears ++ beBytes 2 r.monthTag ++
    beBytes 3 r.monthUnits ++ boolByte r.servicePaid ++ boolByte r.lifelineGiven ++ beBytes 4 r.residue ++
    beBytes 2 r.lastToken ++ listBytes (r.recent.map recentTokenBytes) ++ beBytes 4 r.lastSeq ++
    dateBytes r.enrolDay ++
    (match monthCurrent with
     | none => absentBytes 1
     | some b => boolByte b)

def blockLineBytes (l : BlockLine) : List Byte := beBytes 1 l.block ++ beBytes 3 l.take ++ beBytes 4 l.money

/-- QUOTE_OK (Table 11-8). -/
def quoteOkBytes (id meter tender : Nat) (p : Priced) (expiry : Option DateTime) (holdTime : Nat) : List Byte :=
  beBytes 2 id ++ beBytes 5 meter ++ beBytes 3 tender ++ beBytes 3 p.service ++ beBytes 3 p.recovery ++
    beBytes 3 p.energyMoney ++ beBytes 3 p.purchased ++ beBytes 2 p.lifeline ++ beBytes 3 p.total ++
    beBytes 3 p.change ++ beBytes 3 p.consumed ++ beBytes 1 (classDigit p.cls) ++ optDateTimeBytes expiry ++
    beBytes 2 holdTime ++ listBytes (p.lines.map blockLineBytes)

/-- TOKEN (Table 11-9). -/
def tokenReplyBytes (k : TokenReply) : List Byte :=
  beBytes 1 (markNumber k.mark) ++ beBytes 2 k.quoteId ++ beBytes 5 k.meter ++ beBytes 1 (classDigit k.cls) ++
    tokenBytes k.token ++ beBytes 3 k.total ++ optBytes 3 k.purchased ++ optBytes 2 k.lifeline ++
    optBytes 3 k.change ++ dateBytes k.issueDay ++ optBytes 1 k.index ++ beBytes 4 k.seq

/-- TILL_STATUS_DATA in the order of R75; a quote id that may be absent takes three bytes (log 18). -/
def tillStatusBytes (d : TillStatusData) : List Byte :=
  beBytes 1 (slotStateNumber d.state) ++ boolByte d.reprinting ++ optBytes 3 (d.quote.map (·.1)) ++
    optBytes 5 (d.quote.map (·.2.1)) ++ optBytes 3 (d.quote.map (·.2.2)) ++ optBytes 2 d.secondsLeft ++
    optBytes 3 (d.lastClosed.map (·.1)) ++ optBytes 1 (d.lastClosed.map fun c => outcomeNumber c.2) ++
    beBytes 2 d.quoteHoldTime ++ countsBytes d.totals ++ boolByte d.valid ++ beBytes 2 d.businessDay ++
    beBytes 1 (if d.commissioned then 2 else 1)

/-- STATUS_DATA in the order of Table 9-4. -/
def statusBytes (d : StatusData) : List Byte :=
  latchBytes d.latches ++ beBytes 1 (tillSetNumber d.tillSet) ++ beBytes 2 (maskNumber d.mask) ++
    beBytes 1 (supplyNumber d.supply) ++ beBytes 1 (if d.commissioned then 2 else 1) ++ boolByte d.valid ++
    beBytes 2 d.businessDay ++ beBytes 2 d.directoryCount ++ beBytes 2 d.held ++ beBytes 2 d.salesFree ++
    beBytes 4 d.unlogged ++ optBytes 4 d.newestDurable ++ beBytes 4 d.releasePoint ++ beBytes 1 d.units ++
    beBytes 1 d.waiters ++ beBytes 1 (if d.faulted then 2 else 1) ++ beBytes 4 d.budget ++ beBytes 4 d.reserved ++
    beBytes 4 d.floor ++ beBytes 4 d.lastVoucher ++ beBytes 1 (holdNumber d.hold) ++
    (allTills.map fun t => beBytes 1 (linkStateNumber (d.links.get t).1) ++ beBytes 1 (rateNumber (d.links.get t).2)).flatten ++
    (allTills.map fun t => beBytes 1 (slotStateNumber (d.slots.get t).1) ++ boolByte (d.slots.get t).2).flatten

/-- TARIFF_DATA (R32). For PENDING with no pending set the effective day is sent absent, as two bytes FF; R32 gives it
only when a set is present (log 21). DESIGN CHOICE. -/
def tariffDataBytes (sel : SetSelector) (quarter generation : Nat) (pendingDay : Option Nat) (entries : List TariffEntry) :
    List Byte :=
  beBytes 1 (selectorNumber sel) ++ beBytes 1 quarter ++ beBytes 4 generation ++
    (match sel with
     | .active => []
     | .pending => boolByte pendingDay.isSome ++ optBytes 2 pendingDay) ++
    (entries.map entryBytes).flatten

/-- The kind code of a reply (Table 11-5). -/
def replyKind : Reply → Byte
  | .refused _ _ _ _ => kindRefused
  | .quoteOk _ _ _ _ _ _ => 0x91
  | .token _ => 0x92
  | .cancelOk _ _ => 0x93
  | .tillStatusData _ => 0x95
  | .enrolOk _ _ _ _ => 0xA1
  | .editOk _ _ _ _ _ => 0xA2
  | .stateOk _ _ _ => 0xA3
  | .purgeOk _ _ => 0xA6
  | .restoreOk _ _ _ => 0xA7
  | .meterData _ _ => 0xA8
  | .stageOk _ _ _ => 0xB0
  | .unstageOk _ => 0xB1
  | .loadOk _ _ _ => 0xB2
  | .tariffData _ _ _ _ _ => 0xB3
  | .voucherOk _ _ _ _ => 0xB8
  | .floorOk _ _ _ _ => 0xB9
  | .journalData _ => 0xC0
  | .journalReleaseOk _ _ => 0xC1
  | .clockOk _ _ _ _ => 0xC8
  | .clockData _ _ _ => 0xC9
  | .summaryData _ _ => 0xD0
  | .totalsData _ _ _ _ => 0xD1
  | .tillCloseOk _ _ _ => 0xD2
  | .holdOk _ => 0xD8
  | .releaseOk => 0xD9
  | .linkOk _ _ _ _ => 0xE0
  | .quoteTimeOk _ _ => 0xE1
  | .maskOk _ _ => 0xE2
  | .clearOk _ _ => 0xE3
  | .statusData _ => 0xE4
  | .commissionOk _ => 0xE8
  | .retryOk _ _ => 0xE9

/-- The body of a reply (11.6, 11.8; log 14). Below four quarters STAGE_OK has no bytes for the effective day and LOAD_OK
none for the generation, and both send the sequence absent, as four bytes FF (R26; log 20). DESIGN CHOICE. -/
def replyBody : Reply → List Byte
  | .refused code kind quoteId detail =>
    beBytes 1 (refusalNumber code) ++ [kind] ++ beBytes 2 quoteId ++ beBytes 4 detail
  | .quoteOk id meter tender p expiry holdTime => quoteOkBytes id meter tender p expiry holdTime
  | .token k => tokenReplyBytes k
  | .cancelOk id outcome => beBytes 2 id ++ beBytes 1 (outcomeNumber outcome)
  | .tillStatusData d => tillStatusBytes d
  | .enrolOk meter slot rate seq => beBytes 5 meter ++ beBytes 2 slot ++ beBytes 1 rate ++ beBytes 4 seq
  | .editOk tariff rate arrears eligible seq =>
    beBytes 1 tariff ++ beBytes 1 rate ++ beBytes 4 arrears ++ boolByte eligible ++ optBytes 4 seq
  | .stateOk meter account seq => beBytes 5 meter ++ beBytes 1 (accountNumber account) ++ beBytes 4 seq
  | .purgeOk meter seq => beBytes 5 meter ++ beBytes 4 seq
  | .restoreOk meter rate seq => beBytes 5 meter ++ beBytes 1 rate ++ beBytes 4 seq
  | .meterData r monthCurrent => meterDataBytes r monthCurrent
  | .stageOk quarters day seq =>
    beBytes 1 quarters ++ (if quarters = 4 then optBytes 2 day else []) ++ optBytes 4 seq
  | .unstageOk seq => beBytes 4 seq
  | .loadOk quarters g seq => beBytes 1 quarters ++ (if quarters = 4 then beBytes 4 (g.getD 0) else []) ++ optBytes 4 seq
  | .tariffData sel quarter g day entries => tariffDataBytes sel quarter g day entries
  | .voucherOk serial amount b seq => beBytes 4 serial ++ beBytes 4 amount ++ beBytes 4 b ++ beBytes 4 seq
  | .floorOk floor b r seq => beBytes 4 floor ++ beBytes 4 b ++ beBytes 4 r ++ optBytes 4 seq
  | .journalData entries =>
    listBytes (entries.map fun e => beBytes 1 (journalEntryBytes e).length ++ journalEntryBytes e)
  | .journalReleaseOk point held => beBytes 4 point ++ beBytes 2 held
  | .clockOk value day rolled seq => dateTimeBytes value ++ beBytes 2 day ++ boolByte rolled ++ optBytes 4 seq
  | .clockData valid now day =>
    boolByte valid ++ optDateTimeBytes now ++ optBytes 2 (now.map (·.day)) ++
      optBytes 2 (now.map fun d => monthTagOf d.day) ++ beBytes 2 day
  | .summaryData index d =>
    beBytes 1 index ++ beBytes 2 d.day ++ optDateTimeBytes d.closedAt ++ countsBytes d.counts ++ optBytes 4 d.seq
  | .totalsData day c tills units =>
    beBytes 2 day ++ countsBytes c ++ (allTills.map fun t => countsBytes (tills.get t)).flatten ++ beBytes 1 units
  | .tillCloseOk t c seq => beBytes 1 t.val ++ countsBytes c ++ beBytes 4 seq
  | .holdOk lapse => optDateTimeBytes lapse
  | .releaseOk => []
  | .linkOk t v link seq =>
    beBytes 1 t.val ++ linkSettingsBytes v ++ beBytes 1 (linkStateNumber link) ++ optBytes 4 seq
  | .quoteTimeOk v seq => beBytes 2 v ++ optBytes 4 seq
  | .maskOk m seq => beBytes 2 (maskNumber m) ++ optBytes 4 seq
  | .clearOk latches tillSet => latchBytes latches ++ beBytes 1 (tillSetNumber tillSet)
  | .statusData d => statusBytes d
  | .commissionOk seq => beBytes 4 seq
  | .retryOk cleared seq => beBytes 1 (if cleared then 1 else 2) ++ optBytes 4 seq

/-- The fields of a notice beyond the condition and the date-time (Table 9-3). A STORE_FAULT notice that begins when the
Commit Buffer holds no unit sends the sequence absent (log 49). DESIGN CHOICE. -/
def noticeFields (s : State) : Condition → List Byte
  | .journalHigh => beBytes 2 s.held ++ beBytes 2 s.salesFree
  | .journalFull => beBytes 2 s.held ++ beBytes 2 s.salesFree
  | .budgetLow => beBytes 4 s.site.budget ++ beBytes 4 s.reserved ++ beBytes 4 s.site.floor
  | .lineFault => beBytes 1 (tillSetNumber s.conditions.tillSet)
  | .storeFault => optBytes 4 ((s.buffer.head?.bind (·.entry)).map (·.seq))
  | .clockInvalid => []
  | .tariffShifted => beBytes 4 s.site.generation
  | .holdLapsed => []
  | .powerUp => beBytes 4 s.site.outageNumber

/-- The frame of a ready item as its transmission begins: a notice takes the values in force then (R173, R207). -/
def frameOf (s : State) : TxItem → Frame
  | .reply tag r _ => ⟨replyKind r, tag, replyBody r⟩
  | .notice c => ⟨kindNotice, 0, beBytes 1 (conditionNumber c) ++ optDateTimeBytes s.now ++ noticeFields s c⟩

end Sys2Proof.Machine
end

