-- ==== Sys2Proof/Machine/Ops.lean ====
section
/-! DEFINITION. The shared operations: replies, pins and lines, reservations, the closing of quotes, the adding and the
completing of commit units, the Record Store's choice, the grant of the office hold, and what every step ends with. -/

namespace Sys2Proof.Machine

/-! ### Replies (R199, R200, R201) -/

/-- A reply made at a port: it enters the transmit order of an ACTIVE link, and is discarded otherwise (R199). -/
def pushReply (p : PortId) (tag : Byte) (r : Reply) (immediate : Bool) (s : State) : State :=
  if s.running && (s.port p).link == .active then
    s.modPort p fun q => { q with order := q.order ++ [.reply tag r immediate] }
  else s

/-- The outstanding request of a port ends (R199). -/
def endOutstanding (p : PortId) (s : State) : State := s.modPort p fun q => { q with outstanding := none }

/-- The reply to the port's outstanding request under its tag: the request ends and the reply is made (R199). -/
def answer (p : PortId) (tag : Byte) (r : Reply) (s : State) : State := pushReply p tag r false (endOutstanding p s)

/-- The reply to a till's request; a reply that its link no longer waits for is discarded (R199, R204). -/
def tillReply (t : Till) (tag : Option Byte) (r : Reply) (s : State) : State :=
  match tag with
  | none => s
  | some k => answer (.till t) k r s

/-- The reply to the office's outstanding request. -/
def officeReply (r : Reply) (s : State) : State :=
  match s.officePort.outstanding with
  | none => s
  | some o => answer .office o.tag r s

/-- A refusal of the office's outstanding request with a detail (Table 11-10). -/
def officeRefuseWith (code : RefusalCode) (detail : Nat) (s : State) : State :=
  match s.officePort.outstanding with
  | none => s
  | some o => answer .office o.tag (.refused code o.kind 0 detail) s

/-- A refusal of the office's outstanding request. -/
def officeRefuse (code : RefusalCode) (s : State) : State := officeRefuseWith code 0 s

/-! ### Lines and pins (06) -/

/-- The line that holds or awaits a meter (R96). -/
def findLine (meter : Nat) (s : State) : Option LineNo := allLines.find? fun l => (s.line l).meter == some meter

/-- The line an owner pins (R96). -/
def findPinned (o : Owner) (s : State) : Option LineNo := allLines.find? fun l => (s.line l).pin == some o

/-- A line moved to the most recent end (R97). -/
def touchLine (l : LineNo) (s : State) : State :=
  { s with working := { s.working with recency := s.working.recency.erase l ++ [l] } }

/-- A line that becomes FREE loses what it holds and moves to the least recent end (R105). -/
def freeLine (l : LineNo) (s : State) : State :=
  let s1 := s.setLine l Line.freed
  { s1 with working := { s1.working with recency := l :: s1.working.recency.erase l } }

/-- The line may be a victim although it holds a meter (R99). -/
def Line.evictable (v : Line) : Bool := v.state == .valid && v.pin == none && v.dirty == 0

/-- The victim of a miss: the least recent FREE line, or else the least recent VALID line that is unpinned and clean.
One always exists (R99); line 0 stands where none does. -/
def victim (s : State) : LineNo :=
  match s.working.recency.find? fun l => (s.line l).state == .free with
  | some l => l
  | none => (s.working.recency.find? fun l => (s.line l).evictable).getD 0

/-- The meter that an owner's pin is on, as the slot keeps it (Table 4-2). -/
def notePin (o : Owner) (meter : Option Nat) (s : State) : State :=
  match o with
  | .office => s
  | .slot t => s.modSlot t fun v => { v with pin := meter }

/-- An owner's pin released: the line keeps everything else (R102). -/
def releasePin (o : Owner) (s : State) : State :=
  match findPinned o s with
  | none => notePin o none s
  | some l => notePin o none (s.modLine l fun v => { v with pin := none })

/-- The outcomes of a lookup (R98). -/
inductive Lookup where
  | busy
  | hit (l : LineNo)
  | miss
  deriving DecidableEq, Repr

/-- The lookup of a meter for a requester (R98). -/
def lookup (o : Owner) (meter : Nat) (s : State) : Lookup :=
  match findLine meter s with
  | none => .miss
  | some l => if (s.line l).pin == none || (s.line l).pin == some o then .hit l else .busy

/-- A hit: the line is pinned to the requester and moves to the most recent end (R98). -/
def pinLine (o : Owner) (l : LineNo) (meter : Nat) (s : State) : State :=
  notePin o (some meter) (touchLine l (s.modLine l fun v => { v with pin := some o }))

/-- A miss: the victim is FILLING for the meter, pinned to the requester, and a fetch is queued (R98, R108). -/
def startFetch (o : Owner) (meter slot : Nat) (s : State) : State :=
  let l := victim s
  let s1 := notePin o (some meter) (touchLine l (s.setLine l ⟨.filling, some meter, some o, 0, none⟩))
  { s1 with store := { s1.store with queue := s1.store.queue ++ [.record l meter slot] } }

/-- A line taken VALID without a fetch for METER_ENROL and METER_RESTORE, pinned to the office (R100). -/
def takeLineValid (meter : Nat) (r : Record) (s : State) : State :=
  let l := victim s
  touchLine l (s.setLine l ⟨.valid, some meter, some .office, 0, some r⟩)

/-- A request that took its line without a fetch ends before posting: the line becomes FREE (R100, R105). -/
def freeOfficeLine (s : State) : State :=
  match findPinned .office s with
  | none => s
  | some l => freeLine l s

/-- The line of a posted unit's meter takes the record image: dirty count up by 1, most recent (R103). -/
def lineTakesImage (meter : Nat) (r : Record) (s : State) : State :=
  match findLine meter s with
  | none => s
  | some l => touchLine l (s.modLine l fun v => { v with record := some r, dirty := v.dirty + 1 })

/-- The record copy of the line that holds a meter. -/
def lineRecord (meter : Nat) (s : State) : Option Record := (findLine meter s).bind fun l => (s.line l).record

/-! ### Journal reservations (R133, R134) -/

/-- One open reservation taken. -/
def takeReservation (s : State) : State :=
  reportLevels { s with journal := { s.journal with reservations := s.journal.reservations + 1 } }

/-- One open reservation released. -/
def giveReservation (s : State) : State :=
  reportLevels { s with journal := { s.journal with reservations := s.journal.reservations - 1 } }

/-! ### Closing a quote (R65, R66) -/

/-- The number of an outcome in a refusal's detail (Table 11-11, note 2). -/
def AbandonCause.outcome : AbandonCause → CloseOutcome
  | .cancelled => .cancelled
  | .rollover => .rollover
  | .linkOff => .linkOff

/-- A reprint in progress holds the slot's pin from its lookup on (R73). -/
def VendSlot.reprintHoldsPin (v : VendSlot) : Bool :=
  match v.reprint with
  | none => false
  | some w => w.stage != .lookup

/-- The reservations a quote still holds are given back (R65, R163). -/
def giveBack (q : QuoteRecord) (s : State) : State :=
  reportLevels { s with
    reserved := s.reserved - q.reservedBudget.getD 0
    journal := { s.journal with reservations := s.journal.reservations - (if q.journalReservation then 1 else 0) } }

/-- A slot's quote closes with an outcome (R65). -/
def closeQuote (t : Till) (outcome : CloseOutcome) (s : State) : State :=
  match (s.slot t).quote with
  | none => s
  | some q =>
    let s1 := giveBack q s
    let s2 := if (s.slot t).reprintHoldsPin then s1 else releasePin (.slot t) s1
    s2.modSlot t fun v =>
      { v with state := .idle, quote := none, abandon := none, timer := none, lastClosed := some (q.id, outcome) }

/-- A quote with an abandon cause closes at its stage boundary, and the QUOTE is answered QUOTE_EXPIRED (R66). -/
def abandonQuote (t : Till) (q : QuoteRecord) (c : AbandonCause) (s : State) : State :=
  tillReply t q.replyTag (.refused .quoteExpired kindQuote q.id (outcomeNumber c.outcome)) (closeQuote t c.outcome s)

/-- A quote refused after it was taken closes REFUSED; with an abandon cause it closes with the cause (R62, R66). -/
def refuseQuote (t : Till) (q : QuoteRecord) (code : RefusalCode) (detail : Nat) (s : State) : State :=
  match (s.slot t).abandon with
  | some c => abandonQuote t q c s
  | none => tillReply t q.replyTag (.refused code kindQuote q.id detail) (closeQuote t .refused s)

/-! ### Reprints (R73) -/

/-- A reprint in progress ends: its pin is released if no quote of the slot holds it (R73). -/
def endReprint (t : Till) (s : State) : State :=
  let v := s.slot t
  let s1 := if v.quote.isSome || !v.reprintHoldsPin then s else releasePin (.slot t) s
  s1.modSlot t fun v => { v with reprint := none }

/-- The kind of the request a reprint serves. -/
def ReprintRequest.kind : ReprintRequest → Byte
  | .reprint _ => kindReprint
  | .repeatConfirm _ _ => kindConfirm

/-- The quote id a refusal of it carries (Table 11-11, note 1). -/
def ReprintRequest.quoteId : ReprintRequest → Nat
  | .reprint _ => 0
  | .repeatConfirm id _ => id

/-- A reprint or repeat search refused (R71, R73). -/
def refuseReprint (t : Till) (w : ReprintWork) (code : RefusalCode) (detail : Nat) (s : State) : State :=
  tillReply t w.replyTag (.refused code w.request.kind w.request.quoteId detail) (endReprint t s)

/-! ### Commit units (07) -/

/-- A unit enters the buffer; its entry takes the next sequence and the unlogged count (R121, R127, R137), its
reservation becomes the buffered entry, and it takes the site state image as it stands then (R120). The counts that an
entry changes are reported, with what its poster has changed of B, R, the floor and the site code (R138, R171). -/
def addUnit (kind : UnitKind) (part : Option RecordPart) (entry : Option (Source × EntryBody))
    (summary : Option DaySummary) (s : State) : State :=
  match entry with
  | none => { s with buffer := s.buffer ++ [⟨kind, part, none, summary, s.site⟩] }
  | some (source, body) =>
    let seq := s.journal.nextSeq
    let e : JournalEntry :=
      ⟨seq, s.now, source, if s.site.unlogged = 0 then none else some s.site.unlogged, body⟩
    let site := { s.site with unlogged := 0 }
    reportLevels { s with
      site
      journal := ⟨seq + 1, s.journal.reservations - 1⟩
      buffer := s.buffer ++ [⟨kind, part, some e, summary.map fun d => { d with seq := some seq }, site⟩] }

/-- The place of the image area that does not hold the kept image (R184). -/
def ImageArea.place (a : ImageArea) : ImagePlace :=
  match a.kept with
  | some .first => .second
  | _ => .first

/-- An image written into the other place (R184). -/
def ImageArea.write (a : ImageArea) (v : SiteState) : ImageArea :=
  match a.place with
  | .first => { a with first := some v }
  | .second => { a with second := some v }

/-- A verified image becomes the kept one (R184). -/
def ImageArea.keep (a : ImageArea) (v : SiteState) : ImageArea := { a.write v with kept := some a.place }

/-- The kept image. -/
def ImageArea.image (a : ImageArea) : Option SiteState :=
  match a.kept with
  | none => none
  | some .first => a.first
  | some .second => a.second

/-- The journal area with an entry added: the oldest place is reused when all are taken (R132, log 25). -/
def appendEntry (e : JournalEntry) (j : List JournalEntry) : List JournalEntry :=
  (j ++ [e]).drop (j.length + 1 - journalPlaces)

/-- The day summary list holds 31 summaries, newest first (R155). -/
def maxSummaries : Nat := 31

/-- The store after the verified write of a unit (R110, R155, R184). -/
def RecordStore.written (st : RecordStore) (u : CommitUnit) : RecordStore :=
  { st with
    slots := match u.part with
      | none => st.slots
      | some (.image slot r) => slotPut slot ⟨r, some r⟩ st.slots
      | some (.erase slot _) => slotErase slot st.slots
    journal := match u.entry with
      | none => st.journal
      | some e => appendEntry e st.journal
    summaries := match u.summary with
      | none => st.summaries
      | some d => (d :: st.summaries).take maxSummaries
    image := st.image.keep u.image }

/-- The store after a failed write of a unit: the image stands unmarked in the other place, and the record contents of
an occupied slot may be altered; no other part is marked (R112, R184, log 10). -/
def RecordStore.failed (st : RecordStore) (u : CommitUnit) (altered : Bool) : RecordStore :=
  { st with
    image := st.image.write u.image
    slots := match altered, u.part with
      | true, some (.image slot _) => slotAlter slot st.slots
      | true, some (.erase slot _) => slotAlter slot st.slots
      | _, _ => st.slots }

/-- The dirty count of a written unit's meter falls (R104). -/
def lowerDirty (u : CommitUnit) (s : State) : State :=
  match u.part with
  | some (.image _ r) =>
    match findLine r.meter s with
    | none => s
    | some l => s.modLine l fun v => { v with dirty := v.dirty - 1 }
  | _ => s

/-- A verified write of the head unit: it leaves the buffer and is durable (R110, R126), and the Journal reports its
counts (R138). The dirty count of its meter
falls at every verified write (R104, R110, R183), in HOLD and in the drain too, where R116 says that lines are not
changed (log 51). DEDUCED. -/
def completeUnit (u : CommitUnit) (s : State) : State :=
  reportLevels (lowerDirty u { s with store := s.store.written u, buffer := s.buffer.tail })

/-- A failed write of the head unit, which stays at the head (R111, R112). -/
def failUnit (u : CommitUnit) (altered : Bool) (s : State) : State := { s with store := s.store.failed u altered }

/-- The service state of the store set. -/
def setService (v : Service) (s : State) : State := { s with store := { s.store with service := v } }

/-! ### What every step ends with -/

/-- The seconds of an office hold (R81). -/
def holdSeconds : Nat := 120

/-- A PENDING office hold becomes HELD when the Commit Buffer holds no unit: the engine is free between steps (R81). -/
def grantHold (s : State) : State :=
  if s.running && s.arbiter.hold == .pending && s.buffer.isEmpty then
    officeReply (.holdOk (s.now.map fun d => reportedTime d holdSeconds))
      { s with arbiter := { s.arbiter with hold := .held, lapse := some holdSeconds } }
  else s

/-- The units the Commit Buffer holds at most (R121). -/
def bufferSize : Nat := 4

/-- The next operation of an IDLE Record Store with work waiting (R109). In RUN only: START makes no unit write, and a
HOLD is served by its drain (R182, R190). -/
def chooseOperation (s : State) : State :=
  if s.running && s.store.service == .idle then
    if s.store.retryWaiting then { s with store := { s.store with service := .retrying false, retryWaiting := false } }
    else if !s.store.faulted && decide (bufferSize ≤ s.buffer.length) then setService .writing s
    else
      match s.store.queue with
      | f :: rest => { s with store := { s.store with service := .reading f, queue := rest } }
      | [] => if !s.store.faulted && !s.buffer.isEmpty then setService .writing s else s
  else s

/-- The rate of a link's frames: the settings in force as each frame begins (R201, R204, log 31). -/
def State.linkRate (s : State) : PortId → LinkRate
  | .office => .r19200
  | .till t => (s.site.links.get t).rate

/-- The frame at the head of an ACTIVE link's order begins when none is in transmission (R201). -/
def pumpPort (p : PortId) (s : State) : State :=
  let q := s.port p
  match q.link, q.transmitting, q.order with
  | .active, none, i :: rest =>
    if s.running then s.setPort p { q with order := rest, transmitting := some ⟨frameOf s i, s.linkRate p⟩ } else s
  | _, _, _ => s

/-- The level of a port's transmit line so many bit times after the frame in transmission began: between characters and
between frames the line rests at the marking level, and a link that sends nothing stays there (R193, Table 11-2). -/
def LinkPort.lineOut (q : LinkPort) (bitTime : Nat) : LineLevel :=
  match q.transmitting with
  | none => .marking
  | some f => (frameLevels f.frame).getD bitTime .marking

/-- Every port's transmitter. -/
def pumpAll (s : State) : State :=
  pumpPort (.till 3) (pumpPort (.till 2) (pumpPort (.till 1) (pumpPort (.till 0) (pumpPort .office s))))

/-- What comes about "at once" when a step's own work is done: the grant of a PENDING hold (R81), the store's choice
(R109), and the frames that begin (R201). -/
def settle (s : State) : State := pumpAll (chooseOperation (grantHold s))

/-- What a command answers. -/
abbrev Result := Host.Outcome State Fault Refusal

/-- A command's own work done: the step ends, and its state is the next one. -/
def finish (s : State) : Result := .next (settle s)

end Sys2Proof.Machine
end

