-- ==== Sys2Proof/Machine/Pricing.lean ====
section
/-! DEFINITION. Vend arithmetic: stages 1 to 8 of a quote (03). Stage 9, the reservation, stands in Engine.lean. -/

namespace Sys2Proof.Machine

/-- The token capacity in tenths (R45). -/
def tokenCapacity : Nat := 999999

/-- A block of the walk: its number, its room (none: unbounded) and its price (R46). -/
structure Block where
  number : Nat
  room : Option Nat
  price : Nat
  deriving DecidableEq, Repr

/-- The blocks after the start block: block i has room Ui − U(i−1), block k is unbounded (R46). -/
def laterBlocks (i below : Nat) : List Nat → List Nat → List Block
  | u :: us, p :: ps => ⟨i, some (u - below), p⟩ :: laterBlocks (i + 1) u us ps
  | [], p :: _ => [⟨i, none, p⟩]
  | _, [] => []

/-- The blocks from the start block on: the first block whose bound exceeds M, or block k (R22, R46). -/
def blocksFrom (m i : Nat) : List Nat → List Nat → List Block
  | u :: us, p :: ps =>
    if m < u then ⟨i, some (u - m), p⟩ :: laterBlocks (i + 1) u us ps else blocksFrom m (i + 1) us ps
  | [], p :: _ => [⟨i, none, p⟩]
  | _, [] => []

/-- Where a walk stands: the tenths purchased, the money W left, the lines so far, and whether the cap ended it. -/
structure Walk where
  purchased : Nat
  money : Nat
  lines : List BlockLine
  byCap : Bool
  deriving DecidableEq, Repr

/-- The take at a block: the smallest of the room, the affordable count and C − purchased (R46). -/
def blockTake (cap : Nat) (b : Block) (w : Walk) : Nat :=
  let afford := min (w.money / b.price) (cap - w.purchased)
  match b.room with
  | none => afford
  | some r => min r afford

/-- The walk after its take at a block (R46). -/
def walkBlock (cap : Nat) (b : Block) (w : Walk) : Walk :=
  let take := blockTake cap b w
  { purchased := w.purchased + take
    money := w.money - take * b.price
    lines := if take = 0 then w.lines else w.lines ++ [⟨b.number, take, take * b.price⟩]
    byCap := decide (w.purchased + take = cap) }

/-- The block walk: it ends by the cap, goes on where the take was the room, and ends by affordability otherwise
(R46, R47, R48). -/
def walkBlocks (cap : Nat) : List Block → Walk → Walk
  | [], w => w
  | b :: rest, w =>
    let w' := walkBlock cap b w
    if w'.byCap then w'
    else if b.room = some (blockTake cap b w) then walkBlocks cap rest w' else w'

/-- The working month values of stage 1: month-to-date, service paid, lifeline given (R40). -/
def monthRoll (r : Record) (month : Nat) : Nat × Bool × Bool :=
  if r.monthTag = month then (r.monthUnits, r.servicePaid, r.lifelineGiven) else (0, false, false)

/-- The refusals of step 10 (Table 3-2); BELOW_CHARGES carries S. -/
inductive PriceRefusal where
  | nothingToIssue
  | belowCharges (service : Nat)
  deriving DecidableEq, Repr

/-- The token class of a paid quote (Table 3-5). -/
def paidClass (purchased lifeline : Nat) : TokenClass :=
  if purchased = 0 then (if lifeline = 0 then .receipt else .lifeline)
  else (if lifeline = 0 then .credit else .creditLifeline)

/-- The service due (R43). -/
def serviceDue (tf : Tariff) (paid : Bool) : Nat := if paid then 0 else tf.serviceCharge

/-- The recovery taken D (R44). -/
def recoveryTaken (arrears rate v0 : Nat) : Nat := min arrears (v0 * rate / 100)

/-- The lifeline grant G (R41, R45). -/
def lifelineGrant (r : Record) (tf : Tariff) (given : Bool) : Nat :=
  if r.lifelineEligible && !given && decide (0 < tf.lifeline) then tf.lifeline else 0

/-- The walk of stage 6 over money for energy V with residue Q, from month-to-date M, up to the cap C (R46). -/
def energyWalk (tf : Tariff) (m cap v q : Nat) : Walk :=
  walkBlocks cap (blocksFrom m 1 tf.bounds tf.prices) ⟨0, v * 1000 + q, [], false⟩

/-- The change of a walk (R47, R48). -/
def walkChange (w : Walk) (v : Nat) : Nat := if w.byCap then min (w.money / 1000) v else 0

/-- Stages 3 to 8 of a paid quote on the working month values (R43 to R53). -/
def pricePaid (r : Record) (tf : Tariff) (generation month tender : Nat) : Except PriceRefusal Priced :=
  let (m, paid, given) := monthRoll r month
  let service := serviceDue tf paid
  if tender < service then .error (.belowCharges tf.serviceCharge)
  else
    let v0 := tender - service
    let d := recoveryTaken r.arrears r.recoveryRate v0
    let v := v0 - d
    let g := lifelineGrant r tf given
    let w := energyWalk tf m (tokenCapacity - g) v r.residue
    let change := walkChange w v
    .ok { tariffIndex := r.tariffIndex, generation, service, recovery := d, energyMoney := v, lines := w.lines
          purchased := w.purchased, lifeline := g, total := w.purchased + g, change, consumed := tender - change
          cls := paidClass w.purchased g
          newMonthTag := month
          newMonthUnits := min maxMonthUnits (m + w.purchased)
          newServicePaid := decide (0 < service) || paid
          newLifelineGiven := decide (0 < g) || given
          newArrears := r.arrears - d
          newResidue := w.money - change * 1000 }

/-- A lifeline-only quote (R41, R42). -/
def priceLifeline (r : Record) (tf : Tariff) (generation month : Nat) : Except PriceRefusal Priced :=
  let (m, paid, given) := monthRoll r month
  let g := lifelineGrant r tf given
  if g = 0 then .error .nothingToIssue
  else
    .ok { tariffIndex := r.tariffIndex, generation, service := 0, recovery := 0, energyMoney := 0, lines := []
          purchased := 0, lifeline := g, total := g, change := 0, consumed := 0, cls := .lifeline
          newMonthTag := month, newMonthUnits := m, newServicePaid := paid, newLifelineGiven := true
          newArrears := r.arrears, newResidue := r.residue }

/-- Stages 1 to 8: the kind of quote is decided by the tender (R41). -/
def priceQuote (r : Record) (tf : Tariff) (generation month tender : Nat) : Except PriceRefusal Priced :=
  if tender = 0 then priceLifeline r tf generation month else pricePaid r tf generation month tender

end Sys2Proof.Machine
end

