-- ==== Sys2Proof/Machine/Posting.lean ====
section
/-! DEFINITION. Posting: what each poster's unit changes at its posting, the post wait list, the withdrawal of waiters,
the day rollover and the taking of link settings (07.2; 08.2, 08.5; 02.5; 11.5). -/

namespace Sys2Proof.Machine

/-! ### Units of the part itself (R131) -/

/-- An entry of the unit, or none when it carries none (R119). -/
def entryIf (hasEntry : Bool) (source : Source) (body : EntryBody) : Option (Source × EntryBody) :=
  if hasEntry then some (source, body) else none

/-- The posting of a SYSTEM unit of the Sales Totals, the Tariff Tables or the Supply Monitor (R34, R154, R189). -/
def runSystemJob (w : Waiter) (s : State) : State :=
  match w.job with
  | .dayClose d => addUnit .system none (entryIf w.hasEntry .part (.dayClose d.day d.counts)) (some d) s
  | .tariffShift g day => addUnit .system none (entryIf w.hasEntry .part (.tariffShift g day)) none s
  | .powerUp f => addUnit .system none (entryIf w.hasEntry .part (.powerUp f)) none s
  | _ => addUnit .system none none none s

/-- The Commit Buffer has room and no waiter stands before a new poster (R121). -/
def State.postsAtOnce (s : State) : Bool := decide (s.buffer.length < bufferSize) && s.waiters.isEmpty

/-- A SYSTEM unit posts or joins the post wait list; the STORE_FAULT latch does not withdraw it (R122, R124). -/
def postSystem (w : Waiter) (s : State) : State :=
  if s.postsAtOnce then runSystemJob w s else { s with waiters := s.waiters ++ [w] }

/-- The unlogged count raised (R137). -/
def raiseUnlogged (n : Nat) (s : State) : State := { s with site := { s.site with unlogged := satAdd s.site.unlogged n } }

/-- A system entry is checked for space when it is built: it takes a reservation, or it is dropped and the unlogged
count rises; without its entry the unit posts only if it carries a summary (R135, R136). A BLANK part posts the image
alone (R34, R154). -/
def postSystemEntry (job : Job) (unitWithoutEntry : Bool) (s : State) : State :=
  if !s.commissioned then postSystem ⟨.imageOnly, false⟩ s
  else if s.roomForSystem then postSystem ⟨job, true⟩ (takeReservation s)
  else if unitWithoutEntry then postSystem ⟨job, false⟩ (raiseUnlogged 1 s)
  else raiseUnlogged 1 s

/-! ### The day rollover (R147) -/

/-- A slot's response to a rollover (R76). -/
def slotRollover (t : Till) (s : State) : State :=
  match (s.slot t).state with
  | .opened => closeQuote t .rollover s
  | .quoting => s.modSlot t fun v => { v with abandon := v.abandon.or (some .rollover) }
  | .fetching => s.modSlot t fun v => { v with abandon := v.abandon.or (some .rollover) }
  | _ => s

/-- The Tariff Tables' response: a pending set whose effective day is reached is shifted (R33, R34). Its TARIFF_SHIFTED
notice is ready before a JOURNAL_HIGH or JOURNAL_FULL notice that the unit's reservation brings (log 53). DESIGN CHOICE. -/
def tariffRollover (s : State) : State :=
  match s.site.pendingSet with
  | none => s
  | some p =>
    if s.site.businessDay < p.effectiveDay then s
    else
      let g := raiseNumber s.site.generation
      postSystemEntry (.tariffShift g p.effectiveDay) false
        (arise .tariffShifted
          { s with site := { s.site with active := p.entries, generation := g, pendingSet := none } })

/-- The business day moves on (R147), and the day totals return to 0 at the same moment (R154), so that every unit posted
from here on carries both (R155, R160); a BLANK part captures nothing. -/
def beginDay (day : Nat) (s : State) : State :=
  { s with site := { s.site with
      businessDay := day, dayTotals := if s.commissioned then Counts.zero else s.site.dayTotals } }

/-- The Sales Totals' unit for the day captured (R154); a BLANK part posts the image alone. -/
def closeDay (d : DaySummary) (s : State) : State := postSystemEntry (.dayClose d) true s

/-- The calendar is valid and its day is after the business day (R147). -/
def State.rolloverDue (s : State) : Bool :=
  match s.now with
  | none => false
  | some d => decide (s.site.businessDay < d.day)

/-- The day rollover (R147). The day is captured from the state the rollover finds, and the site state changes before any
unit is posted. No order is fixed among the responses: slots, tariff, totals (log 23). DESIGN CHOICE. -/
def rollover (s : State) : State :=
  match s.now with
  | none => s
  | some d =>
    closeDay ⟨s.site.businessDay, s.site.dayTotals, s.now, none⟩
      (tariffRollover
        (slotRollover 3 (slotRollover 2 (slotRollover 1 (slotRollover 0 (beginDay d.day s))))))

/-! ### Link settings (R204) -/

/-- The replies a slot still owes are discarded when made: its link has become OFF (R199, R204). -/
def dropReplyTags (t : Till) (s : State) : State :=
  s.modSlot t fun v =>
    { v with quote := v.quote.map fun q => { q with replyTag := none }
             reprint := v.reprint.map fun w => { w with replyTag := none } }

/-- A slot's response to its link becoming OFF (R77). -/
def slotLinkOff (t : Till) (s : State) : State :=
  let s1 := dropReplyTags t s
  match (s1.slot t).state with
  | .opened => closeQuote t .linkOff s1
  | .quoting => s1.modSlot t fun v => { v with abandon := v.abandon.or (some .linkOff) }
  | .fetching => s1.modSlot t fun v => { v with abandon := v.abandon.or (some .linkOff) }
  | _ => s1

/-- The receive side of a till link takes the settings in force (R204). -/
def takeSettings (t : Till) (s : State) : State :=
  let v := s.site.links.get t
  let q := s.port (.till t)
  let q1 := { q with rate := v.rate, receiver := .hunt, settingsWaiting := false }
  if v.enabled then
    s.setPort (.till t) { q1 with link := if q.link == .off then .active else q.link }
  else if q.link == .off then s.setPort (.till t) q1
  else slotLinkOff t (s.setPort (.till t) { q1 with link := .off, order := [], outstanding := none })

/-- The receive side at the posting of a LINK_SET: the settings apply at once, or wait for the end of a frame in
reception, which only an ACTIVE link can have (R204). Whether one is in reception is a free value (log 12). -/
def offerSettings (t : Till) (s : State) : State :=
  let q := s.port (.till t)
  if q.link == .active then
    if q.settingsWaiting then s
    else if Config.frameInReception s.freeCount then
      { s.setPort (.till t) { q with receiver := .receiving, settingsWaiting := true } with freeCount := s.freeCount + 1 }
    else takeSettings t { s with freeCount := s.freeCount + 1 }
  else takeSettings t s

/-! ### The posting of each poster's unit (R121) -/

/-- A sale added to five counts (R153, Table 8-4). -/
def addSale (p : Priced) (c : Counts) : Counts where
  tokens := satAdd c.tokens (if p.cls = .receipt then 0 else 1)
  receipts := satAdd c.receipts (if p.cls = .receipt then 1 else 0)
  cents := satAdd c.cents p.consumed
  units := satAdd c.units p.purchased
  lifeline := satAdd c.lifeline p.lifeline

/-- The recent-token list with a new token at its head, three entries at most (R2, R90). -/
def pushToken (k : RecentToken) (l : List RecentToken) : List RecentToken := (k :: l).take 3

/-- The record image of a SALE unit: the new record values, and the token if one is issued (R1, R2, R3, R89, R90). -/
def saleImage (r : Record) (q : QuoteRecord) (p : Priced) (b : BuiltSale) (seq : Nat) : Record :=
  let r1 := { r with
    arrears := p.newArrears, monthTag := p.newMonthTag, monthUnits := p.newMonthUnits
    servicePaid := p.newServicePaid, lifelineGiven := p.newLifelineGiven, residue := p.newResidue, lastSeq := seq }
  match b.token with
  | none => r1
  | some k =>
    { r1 with lastToken := k.sequence
              recent := pushToken ⟨k.digits, k.sequence, p.cls, p.total, b.issueDay, q.id, seq⟩ r.recent }

/-- The SALE entry of a quote (R129). -/
def saleFields (q : QuoteRecord) (p : Priced) (b : BuiltSale) : SaleFields where
  meter := q.meter
  quoteId := q.id
  tender := q.tender
  service := p.service
  recovery := p.recovery
  change := p.change
  purchased := p.purchased
  lifeline := p.lifeline
  cls := p.cls
  tariffIndex := p.tariffIndex
  generation := p.generation
  token := b.token

/-- The TOKEN reply of a sale (R70). -/
def saleToken (q : QuoteRecord) (p : Priced) (b : BuiltSale) (seq : Nat) : TokenReply where
  mark := .fresh
  quoteId := q.id
  meter := q.meter
  cls := p.cls
  token := b.token
  total := p.total
  purchased := some p.purchased
  lifeline := some p.lifeline
  change := some p.change
  issueDay := b.issueDay
  index := none
  seq := seq

/-- The Budget Account and the Sales Totals take a sale (R153, R164). -/
def takeSale (t : Till) (tender : Nat) (p : Priced) (s : State) : State :=
  { s with
    reserved := s.reserved - tender
    site := { s.site with
      budget := s.site.budget - p.consumed
      dayTotals := addSale p s.site.dayTotals
      tillTotals := s.site.tillTotals.set t.val (addSale p (s.site.tillTotals.get t)) t.isLt } }

/-- The posting of a SALE unit (R70): its parts are the quote record's, so a slot without them posts nothing. -/
def postSale (t : Till) (s : State) : State :=
  match (s.slot t).quote with
  | none => s
  | some q =>
    match q.priced, q.built, lineRecord q.meter s, dirFind q.meter s.directory with
    | some p, some b, some r, some e =>
      let seq := s.journal.nextSeq
      let image := saleImage r q p b seq
      let s1 := addUnit .sale (some (.image e.slot image)) (some (.till t, .sale (saleFields q p b))) none
        (takeSale t q.tender p s)
      let s2 := lineTakesImage q.meter image s1
      let s3 := s2.modSlot t fun v => { v with quote := some { q with reservedBudget := none, journalReservation := false } }
      tillReply t q.replyTag (.token (saleToken q p b seq)) (closeQuote t .committed s3)
    | _, _, _, _ => s

/-- The TOKEN reply of a reprint or a repeat (R71, R74, Table 11-9). -/
def recentToken (meter : Nat) (k : RecentToken) (index : Nat) (rep : Bool) : TokenReply where
  mark := if rep then .again else .reprint
  quoteId := k.quoteId
  meter := meter
  cls := k.cls
  token := some ⟨k.digits, k.sequence⟩
  total := k.units
  purchased := none
  lifeline := none
  change := none
  issueDay := k.issueDay
  index := if rep then none else some index
  seq := k.journalSeq

/-- The posting of a REPRINT unit (R71, R74). -/
def postReprint (t : Till) (meter index : Nat) (k : RecentToken) (rep : Bool) (s : State) : State :=
  match (s.slot t).reprint with
  | none => s
  | some w =>
    let s1 := addUnit .journalOnly none (some (.till t, .reprint meter index k.sequence rep k.quoteId)) none s
    tillReply t w.replyTag (.token (recentToken meter k index rep)) (endReprint t s1)

/-- The fields METER_ENROL gives, with the values taken (R14, R130), in the order its request carries them (log 57).
DESIGN CHOICE. -/
def enrolItems (r : Record) : List RecordValue :=
  [.tariffIndex r.tariffIndex, .lifelineEligible r.lifelineEligible, .recoveryRate r.recoveryRate, .arrears r.arrears]

/-- The fields METER_RESTORE gives, with new values and no old ones (R16, R130), in the order its request carries them
(log 57). DESIGN CHOICE. -/
def restoreItems (r : Record) : List (Option RecordValue × RecordValue) :=
  [(none, .account r.account), (none, .tariffIndex r.tariffIndex), (none, .lifelineEligible r.lifelineEligible),
   (none, .recoveryRate r.recoveryRate), (none, .arrears r.arrears), (none, .monthTag r.monthTag),
   (none, .monthUnits r.monthUnits), (none, .servicePaid r.servicePaid), (none, .lifelineGiven r.lifelineGiven),
   (none, .residue r.residue), (none, .lastToken r.lastToken), (none, .enrolDay r.enrolDay)]

/-- An EDIT unit with a record image: the entry, the image in the line, and the office's pin released (R12, R103). -/
def postImage (slot : Nat) (r : Record) (body : EntryBody) (s : State) : State :=
  releasePin .office
    (lineTakesImage r.meter r (addUnit .edit (some (.image slot r)) (some (.office, body)) none s))

/-- The posting of METER_ENROL (R14). -/
def postEnrol (slot : Nat) (r0 : Record) (s : State) : State :=
  let seq := s.journal.nextSeq
  let r := { r0 with lastSeq := seq }
  let s1 := postImage slot r (.meterEnrol r.meter (enrolItems r)) s
  officeReply (.enrolOk r.meter slot r.recoveryRate seq)
    { s1 with directory := dirInsert ⟨r.meter, slot, false⟩ s1.directory }

/-- The posting of METER_EDIT (R18). -/
def postEdit (slot : Nat) (r0 : Record) (items : List (Option RecordValue × RecordValue)) (s : State) : State :=
  let seq := s.journal.nextSeq
  let r := { r0 with lastSeq := seq }
  officeReply (.editOk r.tariffIndex r.recoveryRate r.arrears r.lifelineEligible (some seq))
    (postImage slot r (.meterEdit r.meter items) s)

/-- The posting of a state request (R19). -/
def postAccountState (slot : Nat) (r0 : Record) (old : AccountState) (s : State) : State :=
  let seq := s.journal.nextSeq
  let r := { r0 with lastSeq := seq }
  officeReply (.stateOk r.meter r.account seq) (postImage slot r (.meterState r.meter old (.account r.account)) s)

/-- The posting of METER_PURGE: the entry is removed, its slot is free and the line becomes FREE (R15). -/
def postPurge (slot meter : Nat) (s : State) : State :=
  let seq := s.journal.nextSeq
  let s1 := addUnit .edit (some (.erase slot meter)) (some (.office, .meterState meter .retired .purged)) none s
  let s2 := freeOfficeLine { s1 with directory := dirErase meter s1.directory }
  officeReply (.purgeOk meter seq) s2

/-- The posting of METER_RESTORE: the damaged mark is cleared (R16). -/
def postRestore (slot : Nat) (r0 : Record) (s : State) : State :=
  let seq := s.journal.nextSeq
  let r := { r0 with lastSeq := seq }
  let s1 := postImage slot r (.meterEdit r.meter (restoreItems r)) s
  officeReply (.restoreOk r.meter r.recoveryRate seq)
    { s1 with directory := dirMark r.meter false s1.directory }

/-- A JOURNAL-ONLY unit of an office request (Table 7-1). -/
def postSetting (hasEntry : Bool) (body : EntryBody) (s : State) : State :=
  addUnit .journalOnly none (entryIf hasEntry .office body) none s

/-- The sequence a reply carries: absent when the unit has no entry. -/
def seqIf (hasEntry : Bool) (s : State) : Option Nat := if hasEntry then some s.journal.nextSeq else none

/-- The posting of a completing TARIFF_STAGE (R28). -/
def postTariffStage (hasEntry : Bool) (entries : TariffSet) (day : Nat) (s : State) : State :=
  officeReply (.stageOk 4 (some day) (seqIf hasEntry s))
    (postSetting hasEntry (.tariffStaged s.site.generation (some day))
      { s with site := { s.site with pendingSet := some ⟨entries, day⟩ }, assembly := none })

/-- The posting of TARIFF_UNSTAGE (R30). -/
def postTariffUnstage (s : State) : State :=
  officeReply (.unstageOk s.journal.nextSeq)
    (postSetting true (.tariffStaged s.site.generation none) { s with site := { s.site with pendingSet := none } })

/-- The posting of a completing TARIFF_LOAD_NOW (R31). -/
def postTariffLoad (entries : TariffSet) (s : State) : State :=
  let g := raiseNumber s.site.generation
  officeReply (.loadOk 4 (some g) (some s.journal.nextSeq))
    (postSetting true (.tariffLoaded g s.site.businessDay)
      { s with site := { s.site with active := entries, generation := g }, assembly := none })

/-- The posting of BUDGET_VOUCHER (R165, R166). -/
def postVoucher (serial amount : Nat) (s : State) : State :=
  let b := s.site.budget + amount
  officeReply (.voucherOk serial amount b s.journal.nextSeq)
    (postSetting true (.budgetVoucher serial amount b)
      { s with site := { s.site with budget := b, lastVoucher := serial } })

/-- The posting of BUDGET_FLOOR_SET (R168). -/
def postFloor (v : Nat) (s : State) : State :=
  officeReply (.floorOk v s.site.budget s.reserved (some s.journal.nextSeq))
    (postSetting true (.settings (.budgetFloor s.site.floor v)) { s with site := { s.site with floor := v } })

/-- The posting of QUOTE_TIME_SET (R64). -/
def postQuoteTime (v : Nat) (s : State) : State :=
  officeReply (.quoteTimeOk v (some s.journal.nextSeq))
    (postSetting true (.settings (.quoteHoldTime s.site.quoteHoldTime v))
      { s with site := { s.site with quoteHoldTime := v } })

/-- The posting of NOTICE_MASK_SET: a pending notice whose enable it turns off is withdrawn (R176). -/
def postMask (v : ConditionSet) (s : State) : State :=
  officeReply (.maskOk v (some s.journal.nextSeq))
    (withdrawDisabled v
      (postSetting true (.settings (.noticeMask s.site.mask v)) { s with site := { s.site with mask := v } }))

/-- The posting of LINK_SET (R203, R204). -/
def postLinkSet (hasEntry : Bool) (t : Till) (v : LinkSettings) (s : State) : State :=
  let s1 := offerSettings t
    (postSetting hasEntry (.settings (.tillLink t (s.site.links.get t) v))
      { s with site := { s.site with links := s.site.links.set t.val v t.isLt } })
  officeReply (.linkOk t v (s1.port (.till t)).link (seqIf hasEntry s)) s1

/-- The posting of CLOCK_SET: the Calendar takes the adjusted date-time and becomes valid, the running mark is set,
and a later day takes the rollover (R149). -/
def postClockSet (hasEntry : Bool) (old : Option DateTime) (value : DateTime) (elapsed : Nat) (s : State) : State :=
  let d := addSeconds value elapsed
  let s1 := reportLevels (postSetting hasEntry (.clockSet old d)
    { s with calendar := ⟨some d, true⟩, cell := ⟨true, some d⟩ })
  let rolled := s1.rolloverDue
  let s2 := if rolled then rollover s1 else s1
  officeReply (.clockOk d s2.site.businessDay rolled (seqIf hasEntry s)) s2

/-- Captured counts taken from a till's counts (R159). -/
def subCounts (c captured : Counts) : Counts :=
  ⟨c.tokens - captured.tokens, c.receipts - captured.receipts, c.cents - captured.cents, c.units - captured.units,
   c.lifeline - captured.lifeline⟩

/-- The posting of TILL_CLOSE (R159). -/
def postTillClose (t : Till) (captured : Counts) (s : State) : State :=
  officeReply (.tillCloseOk t captured s.journal.nextSeq)
    (postSetting true (.tillClose t captured)
      { s with site := { s.site with
        tillTotals := s.site.tillTotals.set t.val (subCounts (s.site.tillTotals.get t) captured) t.isLt } })

/-- The posting of SITE_CODE_LOAD: the part is COMMISSIONED and its journal begins (R93, R142). -/
def postSiteCode (code : Digits) (s : State) : State :=
  officeReply (.commissionOk s.journal.nextSeq)
    (addUnit .system none (some (.part, .commissioned)) none { s with site := { s.site with siteCode := some code } })

/-- The posting of a unit by its poster (R121). -/
def runJob (w : Waiter) (s : State) : State :=
  match w.job with
  | .sale t => postSale t s
  | .reprint t meter index k rep => postReprint t meter index k rep s
  | .enrol slot r => postEnrol slot r s
  | .edit slot r items => postEdit slot r items s
  | .accountState slot r old => postAccountState slot r old s
  | .purge slot meter => postPurge slot meter s
  | .restore slot r => postRestore slot r s
  | .tariffStage entries day => postTariffStage w.hasEntry entries day s
  | .tariffUnstage => postTariffUnstage s
  | .tariffLoad entries => postTariffLoad entries s
  | .voucher serial amount => postVoucher serial amount s
  | .floorSet v => postFloor v s
  | .quoteTimeSet v => postQuoteTime v s
  | .maskSet v => postMask v s
  | .linkSet t v => postLinkSet w.hasEntry t v s
  | .clockSet old value elapsed => postClockSet w.hasEntry old value elapsed s
  | .tillClose t captured => postTillClose t captured s
  | .siteCode code => postSiteCode code s
  | .dayClose _ => runSystemJob w s
  | .tariffShift _ _ => runSystemJob w s
  | .imageOnly => runSystemJob w s
  | .powerUp _ => runSystemJob w s

/-! ### The post wait list (R122 to R125) -/

/-- A unit that the STORE_FAULT latch withdraws: every one but a SALE and the part's own (R124). -/
def Job.withdrawable : Job → Bool
  | .sale _ => false
  | .dayClose _ => false
  | .tariffShift _ _ => false
  | .imageOnly => false
  | .powerUp _ => false
  | _ => true

/-- A hold-only request's unit (R83). -/
def Job.holdOnly : Job → Bool
  | .purge _ _ => true
  | .restore _ _ => true
  | .tariffLoad _ => true
  | _ => false

/-- A waiter's unit is discarded: a reservation of its own is released (R124); a SALE uses its quote's (R133). -/
def dropWaiterReservation (w : Waiter) (s : State) : State := if w.hasEntry then giveReservation s else s

/-- A waiter leaves the list without posting: its pin is released and its request refused (R124, R123). A withdrawn STAGE
or LOAD_NOW empties the assembly area (R29); a withdrawn UNSTAGE leaves it as it stands, as R26 and R30 say of that
request, where R29 says of all three that the area is empty (log 43). DESIGN CHOICE. -/
def refuseJob (w : Waiter) (code : RefusalCode) (s : State) : State :=
  let s1 := dropWaiterReservation w s
  match w.job with
  | .reprint t _ _ _ _ =>
    match (s1.slot t).reprint with
    | none => s1
    | some v => refuseReprint t v code 0 s1
  | .enrol _ _ => officeRefuse code (freeOfficeLine s1)
  | .restore _ _ => officeRefuse code (freeOfficeLine s1)
  | .edit _ _ _ => officeRefuse code (releasePin .office s1)
  | .accountState _ _ _ => officeRefuse code (releasePin .office s1)
  | .purge _ _ => officeRefuse code (releasePin .office s1)
  | .tariffStage _ _ => officeRefuse code { s1 with assembly := none }
  | .tariffLoad _ => officeRefuse code { s1 with assembly := none }
  | _ => officeRefuse code s1

/-- The slot of a till poster that waits for room (R69, R74). -/
def markWaiting (j : Job) (s : State) : State :=
  match j with
  | .sale t => s.modSlot t fun v => { v with state := .posting }
  | .reprint t _ _ _ _ => s.modSlot t fun v => { v with reprint := v.reprint.map fun w => { w with stage := .posting } }
  | _ => s

/-- A poster asks to post (R121): at once, or from the end of the post wait list, where the set STORE_FAULT latch
withdraws it (R122, R124). -/
def postOrWait (w : Waiter) (s : State) : State :=
  if s.postsAtOnce then runJob w s
  else if s.storeFaultLatched && w.job.withdrawable then refuseJob w .suspended s
  else markWaiting w.job { s with waiters := s.waiters ++ [w] }

/-- An office or sales class poster whose space check has passed takes its reservation and asks to post (R134). -/
def reserveAndPost (j : Job) (s : State) : State := postOrWait ⟨j, true⟩ (takeReservation s)

/-- The tests a waiter makes at its posting (R123, R150); a refusal code when one fails. -/
def postingTest (j : Job) (s : State) : Option RefusalCode :=
  match j with
  | .tariffStage _ day => if s.site.businessDay < day then none else some .fieldRange
  | .tariffUnstage => if s.site.pendingSet.isSome then none else some .stateConflict
  | .clockSet _ value elapsed =>
    if (addSeconds value elapsed).day < s.site.businessDay then some .clockBackward else none
  | j => if j.holdOnly && s.arbiter.hold != .held then some .notHeld else none

/-- Room offered to the head waiter: it posts, or its test refuses it and the next is offered the room (R123). -/
def offerRoomTo : Nat → State → State
  | 0, s => s
  | n + 1, s =>
    match s.waiters with
    | [] => s
    | w :: rest =>
      if s.buffer.length < bufferSize then
        let s1 := { s with waiters := rest }
        match postingTest w.job s1 with
        | none => runJob w s1
        | some code => offerRoomTo n (refuseJob w code s1)
      else s

/-- Room offered to the waiters as they stand (R123). -/
def offerRoom (s : State) : State := offerRoomTo s.waiters.length s

/-- The waiters for which a test holds leave the list with a refusal, in their order (R124). -/
def withdrawWaiters (test : Job → Bool) (code : RefusalCode) (s : State) : State :=
  (s.waiters.filter fun w => test w.job).foldl (fun s w => refuseJob w code s)
    { s with waiters := s.waiters.filter fun w => !test w.job }

end Sys2Proof.Machine
end

