-- ==== Sys2Proof/Machine/Ports.lean ====
section
/-! DEFINITION. The ports: the taking of a request, immediate replies and the events of the lines (11.2 to 11.5). -/

namespace Sys2Proof.Machine

/-- The immediate replies a port holds at most that have not begun transmission (R200). -/
def maxImmediate : Nat := 2

/-- The immediate replies of a port that have not begun transmission. -/
def LinkPort.immediates (q : LinkPort) : Nat :=
  (q.order.filter fun i => match i with
    | .reply _ _ immediate => immediate
    | .notice _ => false).length

/-- The port has room for one more immediate reply; a request that would make a third is discarded (R200). -/
def LinkPort.roomForImmediate (q : LinkPort) : Bool := decide (q.immediates < maxImmediate)

/-- The port receives frames: the part is in RUN and the link ACTIVE (R194, R198). -/
def State.receives (s : State) (p : PortId) : Bool := s.running && (s.port p).link == .active

/-- The end of a frame: the receiver is in HUNT again, and a till link takes settings that waited for it (R194, R204). -/
def endFrame (p : PortId) (s : State) : State :=
  match p with
  | .office => s
  | .till t => if (s.port p).settingsWaiting then takeSettings t s else s

/-- The quote id that a LINK_BUSY refusal carries: the one a CONFIRM names (Table 11-11, note 1; log 22). R199 tests the
outstanding request before the kind, so it is read from the kind alone: on the office link too, whose UNKNOWN_KIND
refusal of that kind carries 0 (log 55). DESIGN CHOICE. -/
def busyId (kind : Byte) (body : List Byte) : Nat := if kind = kindConfirm then confirmNames body else 0

/-- A frame at its port (R197, R199): a port that receives takes it; a frame in reception while settings wait is
discarded (R204); a tag of 0 or a body above 200 bytes makes no request. -/
def portTake (p : PortId) (kind tag : Byte) (body : List Byte) (busy serve : State → State) (s : State) : State :=
  if !s.receives p then s
  else if (s.port p).settingsWaiting then endFrame p s
  else if tag = 0 ∨ maxBody < body.length then s
  else if (s.port p).outstanding.isSome then
    if (s.port p).roomForImmediate then busy s else s
  else serve (s.modPort p fun q => { q with outstanding := some ⟨tag, kind⟩ })

/-- LINK_BUSY as an immediate reply (R199, R200). -/
def refuseBusy (p : PortId) (kind tag : Byte) (body : List Byte) (s : State) : State :=
  pushReply p tag (.refused .linkBusy kind (busyId kind body) 0) true s

/-- A request frame taken by its port and handed to the block that serves it (R199). -/
def takeRequest (p : PortId) (kind tag : Byte) (body : List Byte) (serve : State → State) (s : State) : State :=
  portTake p kind tag body (refuseBusy p kind tag body) serve s

/-- An office request. -/
def takeOffice (kind tag : Byte) (body : List Byte) (serve : State → State) (s : State) : State :=
  takeRequest .office kind tag body serve s

/-- UNKNOWN_KIND: a good frame whose kind is no request kind of its link (R199). -/
def execUnknownKind (p : PortId) (kind tag : Byte) (body : List Byte) (s : State) : Result :=
  finish (takeRequest p kind tag body (answer p tag (.refused .unknownKind kind 0 0)) s)

/-- FRAME_DISCARDED: the receiver returns to HUNT; nothing else follows (R197), but that settings which waited for the
frame's end are taken (R204). -/
def execFrameDiscarded (p : PortId) (chars : List RxChar) (s : State) : Result :=
  finish (if s.receives p && isDiscarded chars then endFrame p s else s)

/-- FRAME_TIME_LIMIT: a frame still in reception when its limit has run out is discarded (R196). -/
def execFrameTimeLimit (p : PortId) (chars : List RxChar) (elapsed : Nat) (s : State) : Result :=
  finish (if s.receives p && limitRanOut chars elapsed then endFrame p s else s)

/-- FRAME_TRANSMITTED: the frame in transmission has been sent whole, and the next begins (R174, R201). -/
def execFrameTransmitted (p : PortId) (s : State) : Result :=
  finish (s.modPort p fun q => { q with transmitting := none })

/-- A port's link set to FAULT, its receiver out of use (R198). -/
def setFault (p : PortId) (s : State) : State := s.modPort p fun q => { q with link := .fault, receiver := .hunt }

/-- An ACTIVE link enters FAULT: a frame in reception is discarded, and settings that waited for its end are taken; a
till link that is then still ACTIVE is reported to the Condition Unit (R172, R198, R204). No rule orders the two: the
settings come first, so a link they make OFF enters no FAULT and latches nothing (log 56). DESIGN CHOICE. -/
def enterFault (p : PortId) (s : State) : State :=
  let s1 := endFrame p s
  if (s1.port p).link == .active then
    match p with
    | .office => setFault .office s1
    | .till t => ariseLineFault t (setFault (.till t) s1)
  else s1

/-- LINK_ENTERS_FAULT: a receive line held at spacing for 30 bit times (R198). -/
def execLinkEntersFault (p : PortId) (s : State) : Result :=
  finish (if s.receives p then enterFault p s else s)

/-- LINK_FAULT_END: the line held at marking for 30 bit times; the link is ACTIVE again, its receiver in HUNT (R198). -/
def execLinkFaultEnd (p : PortId) (s : State) : Result :=
  finish (if s.running && (s.port p).link == .fault then
    s.modPort p fun q => { q with link := .active, receiver := .hunt } else s)

/-- LINK_SETTINGS_TAKEN: the receive side reaches a frame boundary with settings waiting and takes them (R204). -/
def execLinkSettingsTaken (t : Till) (s : State) : Result :=
  finish (if s.running && (s.port (.till t)).settingsWaiting then takeSettings t s else s)

end Sys2Proof.Machine
end

