-- ==== Sys2Proof/Machine/Settings.lean ====
section
/-! DEFINITION. Budget and settings requests: BUDGET_VOUCHER, BUDGET_FLOOR_SET, QUOTE_TIME_SET, LINK_SET,
NOTICE_MASK_SET, SITE_CODE_LOAD (09.2, 09.3; 04.4; 11.5; 05.5). Each is executed in its office grant. -/

namespace Sys2Proof.Machine

/-- COMMISSIONED, and STORE_FAULT not latched (R64, R165, R168, R176). -/
def settingRefusal (s : State) : Option RefusalCode :=
  if !s.commissioned then some .notCommissioned else if s.storeFaultLatched then some .suspended else none

/-- The office-class space check, and the unit that asks to post (R134, R135). -/
def postOffice (j : Job) (s : State) : State :=
  if s.roomForOffice then reserveAndPost j s else officeRefuse .journalFull s

/-- BUDGET_VOUCHER by the order of R165. -/
def serveVoucher (body : List Byte) (s : State) : State :=
  match parseVoucher body with
  | none => officeRefuse .fieldRange s
  | some (serial, amount) =>
    match settingRefusal s with
    | some code => officeRefuse code s
    | none =>
      if serial ≤ s.site.lastVoucher then officeRefuseWith .voucherOld s.site.lastVoucher s
      else if maxBudget < s.site.budget + amount then officeRefuseWith .budgetCap (maxBudget - s.site.budget) s
      else postOffice (.voucher serial amount) s

/-- BUDGET_FLOOR_SET by the order of R168. -/
def serveFloor (body : List Byte) (s : State) : State :=
  match parseFloor body with
  | none => officeRefuse .fieldRange s
  | some v =>
    match settingRefusal s with
    | some code => officeRefuse code s
    | none =>
      if v = s.site.floor then officeReply (.floorOk v s.site.budget s.reserved none) s else postOffice (.floorSet v) s

/-- QUOTE_TIME_SET; its value is clamped to 15 to 600 (R64). -/
def serveQuoteTime (body : List Byte) (s : State) : State :=
  match parseQuoteTime body with
  | none => officeRefuse .fieldRange s
  | some v =>
    match settingRefusal s with
    | some code => officeRefuse code s
    | none =>
      if v = s.site.quoteHoldTime then officeReply (.quoteTimeOk v none) s else postOffice (.quoteTimeSet v) s

/-- NOTICE_MASK_SET: the conditions named are enabled, the others are not (R176). -/
def serveMask (body : List Byte) (s : State) : State :=
  match parseConditions body with
  | none => officeRefuse .fieldRange s
  | some cs =>
    match settingRefusal s with
    | some code => officeRefuse code s
    | none =>
      let v := conditionSetOf cs
      if v = s.site.mask then officeReply (.maskOk v none) s else postOffice (.maskSet v) s

/-- A LINK_SET that changes the settings; a BLANK part's unit carries no entry (R203). -/
def changeLink (t : Till) (v : LinkSettings) (s : State) : State :=
  if s.commissioned then postOffice (.linkSet t v) s else postOrWait ⟨.linkSet t v, false⟩ s

/-- LINK_SET by the order of R203. -/
def serveLinkSet (body : List Byte) (s : State) : State :=
  match parseLinkSet body with
  | none => officeRefuse .fieldRange s
  | some (t, v) =>
    if s.storeFaultLatched then officeRefuse .suspended s
    else if v = s.site.links.get t then officeReply (.linkOk t v (s.port (.till t)).link none) s
    else changeLink t v s

/-- SITE_CODE_LOAD by the order of R93; its entry's system class check always passes (R135). -/
def serveSiteCode (body : List Byte) (s : State) : State :=
  match parseSiteCode body with
  | none => officeRefuse .fieldRange s
  | some code =>
    if s.commissioned then officeRefuse .alreadyCommissioned s
    else if !s.calendar.valid then officeRefuse .clockUnset s
    else if s.storeFaultLatched then officeRefuse .suspended s
    else reserveAndPost (.siteCode code) s

/-- BUDGET_VOUCHER (R165). -/
def execBudgetVoucher (tag : Byte) (body : List Byte) (s : State) : Result :=
  finish (takeOffice kindBudgetVoucher tag body (serveVoucher body) s)

/-- BUDGET_FLOOR_SET (R168). -/
def execBudgetFloorSet (tag : Byte) (body : List Byte) (s : State) : Result :=
  finish (takeOffice kindBudgetFloorSet tag body (serveFloor body) s)

/-- QUOTE_TIME_SET (R64). -/
def execQuoteTimeSet (tag : Byte) (body : List Byte) (s : State) : Result :=
  finish (takeOffice kindQuoteTimeSet tag body (serveQuoteTime body) s)

/-- NOTICE_MASK_SET (R176). -/
def execNoticeMaskSet (tag : Byte) (body : List Byte) (s : State) : Result :=
  finish (takeOffice kindNoticeMaskSet tag body (serveMask body) s)

/-- LINK_SET (R203). -/
def execLinkSet (tag : Byte) (body : List Byte) (s : State) : Result :=
  finish (takeOffice kindLinkSet tag body (serveLinkSet body) s)

/-- SITE_CODE_LOAD (R93). -/
def execSiteCodeLoad (tag : Byte) (body : List Byte) (s : State) : Result :=
  finish (takeOffice kindSiteCodeLoad tag body (serveSiteCode body) s)

end Sys2Proof.Machine
end

