-- ==== Sys2Proof/Machine/Clock.lean ====
section
/-! DEFINITION. The Calendar and the Sales Totals: CLOCK_SET, CLOCK_READ, CALENDAR_SECOND, DAY_ROLLOVER,
BACKUP_CELL_FAILED, SUMMARY_READ, TOTALS_SNAPSHOT, TILL_CLOSE (08). -/

namespace Sys2Proof.Machine

/-- A CLOCK_SET that passed its checks; its old date-time is the one at its building (R119, R148). -/
def buildClockSet (d : DateTime) (s : State) : State :=
  if s.commissioned then postOffice (.clockSet s.now d 0) s else postOrWait ⟨.clockSet s.now d 0, false⟩ s

/-- CLOCK_SET by the order of R148. -/
def serveClockSet (body : List Byte) (s : State) : State :=
  match parseClock body with
  | none => officeRefuse .fieldRange s
  | some d =>
    if s.storeFaultLatched then officeRefuse .suspended s
    else if d.day < s.site.businessDay then officeRefuse .clockBackward s
    else buildClockSet d s

/-- CLOCK_READ (R151). -/
def serveClockRead (body : List Byte) (s : State) : State :=
  match parseNone body with
  | none => officeRefuse .fieldRange s
  | some _ => officeReply (.clockData s.calendar.valid s.now s.site.businessDay) s

/-- SUMMARY_READ queues an area read; step 3 is tested when the read is performed (R156, log 34). -/
def serveSummaryRead (body : List Byte) (s : State) : State :=
  match parseSummary body with
  | none => officeRefuse .fieldRange s
  | some i =>
    if s.commissioned then { s with store := { s.store with queue := s.store.queue ++ [.summary i] } }
    else officeRefuse .notCommissioned s

/-- TOTALS_SNAPSHOT (R157). -/
def serveTotals (body : List Byte) (s : State) : State :=
  match parseNone body with
  | none => officeRefuse .fieldRange s
  | some _ =>
    if s.commissioned then
      officeReply (.totalsData s.site.businessDay s.site.dayTotals s.site.tillTotals s.buffer.length) s
    else officeRefuse .notCommissioned s

/-- TILL_CLOSE captures the till's counts as they stand (R158). -/
def serveTillClose (body : List Byte) (s : State) : State :=
  match parseTillClose body with
  | none => officeRefuse .fieldRange s
  | some t =>
    match settingRefusal s with
    | some code => officeRefuse code s
    | none => postOffice (.tillClose t (s.site.tillTotals.get t)) s

/-- CLOCK_SET (R148). -/
def execClockSet (tag : Byte) (body : List Byte) (s : State) : Result :=
  finish (takeOffice kindClockSet tag body (serveClockSet body) s)

/-- CLOCK_READ (R151). -/
def execClockRead (tag : Byte) (body : List Byte) (s : State) : Result :=
  finish (takeOffice kindClockRead tag body (serveClockRead body) s)

/-- SUMMARY_READ (R156). -/
def execSummaryRead (tag : Byte) (body : List Byte) (s : State) : Result :=
  finish (takeOffice kindSummaryRead tag body (serveSummaryRead body) s)

/-- TOTALS_SNAPSHOT (R157). -/
def execTotalsSnapshot (tag : Byte) (body : List Byte) (s : State) : Result :=
  finish (takeOffice kindTotalsSnapshot tag body (serveTotals body) s)

/-- TILL_CLOSE (R158). -/
def execTillClose (tag : Byte) (body : List Byte) (s : State) : Result :=
  finish (takeOffice kindTillClose tag body (serveTillClose body) s)

/-! ### Seconds -/

/-- The hold timer of an OPEN quote counts down; at 0 its expiry is due (R63, log 8). -/
def VendSlot.tick (v : VendSlot) : VendSlot := { v with timer := v.timer.map (· - 1) }

/-- The seconds a CLOCK_SET has waited (R149). -/
def Waiter.tick (w : Waiter) : Waiter :=
  match w.job with
  | .clockSet old value elapsed => { w with job := .clockSet old value (elapsed + 1) }
  | _ => w

/-- CALENDAR_SECOND: the date-time of a valid calendar and the one the backup cell keeps advance; the hold timers, the
office hold's lapse and a waiting CLOCK_SET count the second (R63, R82, R144, R149). -/
def execCalendarSecond (s : State) : Result :=
  finish { s with
    calendar := { s.calendar with dateTime := s.calendar.dateTime.map nextSecond }
    cell := { s.cell with dateTime := s.cell.dateTime.map nextSecond }
    slots := #v[(s.slot 0).tick, (s.slot 1).tick, (s.slot 2).tick, (s.slot 3).tick]
    arbiter := { s.arbiter with lapse := s.arbiter.lapse.map (· - 1) }
    waiters := s.waiters.map Waiter.tick }

/-- DAY_ROLLOVER: midnight has passed in RUN, or in START after start-up's own comparison (R147). -/
def execDayRollover (s : State) : Result :=
  finish (if s.takesArisings && s.rolloverDue then rollover s else s)

/-- BACKUP_CELL_FAILED: the cell loses its mark and date-time. Outside RUN, where the Calendar runs from the cell, the
calendar loses its date-time with it (R144, R145, log 28). -/
def execBackupCellFailed (s : State) : Result :=
  let s1 := { s with cell := ⟨false, none⟩ }
  finish (if s.running then s1 else reportLevels { s1 with calendar := ⟨none, false⟩ })

end Sys2Proof.Machine
end

