-- ==== Sys2Proof/Machine/Office.lean ====
section
/-! DEFINITION. The journal requests, the office hold, CONDITION_CLEAR, STATUS_READ and STORE_RETRY (07.7; 04.11; 09.5,
09.7; R115). -/

namespace Sys2Proof.Machine

/-! ### Journal -/

/-- Steps 2 and 3 of R139. -/
def journalReadRefusal (start : Nat) (s : State) : Option RefusalCode :=
  if !s.commissioned then some .notCommissioned
  else if s.heldEntries.isEmpty || decide (start ≤ s.site.releasePoint) || decide (s.newestDurable.getD 0 < start) then
    some .fieldRange
  else none

/-- JOURNAL_READ queues an area read (R139). -/
def serveJournalRead (body : List Byte) (s : State) : State :=
  match parseJournalRead body with
  | none => officeRefuse .fieldRange s
  | some (start, count) =>
    match journalReadRefusal start s with
    | some code => officeRefuse code s
    | none => { s with store := { s.store with queue := s.store.queue ++ [.journal start count] } }

/-- The release point raised: entries at or below it stop being held (R140). -/
def releaseJournal (upto : Nat) (s : State) : State :=
  if upto ≤ s.site.releasePoint then s else reportLevels { s with site := { s.site with releasePoint := upto } }

/-- JOURNAL_RELEASE (R140). -/
def serveRelease (body : List Byte) (s : State) : State :=
  match parseRelease body with
  | none => officeRefuse .fieldRange s
  | some upto =>
    if !s.commissioned then officeRefuse .notCommissioned s
    else
      match s.newestDurable with
      | none => officeRefuse .fieldRange s
      | some newest =>
        if newest < upto then officeRefuse .fieldRange s
        else
          let s1 := releaseJournal upto s
          officeReply (.journalReleaseOk s1.site.releasePoint s1.held) s1

/-- JOURNAL_READ (R139). -/
def execJournalRead (tag : Byte) (body : List Byte) (s : State) : Result :=
  finish (takeOffice kindJournalRead tag body (serveJournalRead body) s)

/-- JOURNAL_RELEASE (R140). -/
def execJournalRelease (tag : Byte) (body : List Byte) (s : State) : Result :=
  finish (takeOffice kindJournalRelease tag body (serveRelease body) s)

/-! ### The office hold (R81, R82) -/

/-- HOLD_REQUEST: taken in NONE, its reply is made when the hold is granted (R81). -/
def serveHoldRequest (body : List Byte) (s : State) : State :=
  match parseNone body with
  | none => officeRefuse .fieldRange s
  | some _ =>
    if !s.commissioned then officeRefuse .notCommissioned s
    else if s.storeFaultLatched then officeRefuse .suspended s
    else if s.arbiter.hold == .held then officeRefuse .holdActive s
    else { s with arbiter := { s.arbiter with hold := .pending } }

/-- A LOAD collection is emptied and a STAGE collection stays (R26). -/
def dropLoad (a : Option Assembly) : Option Assembly := a.filter fun c => c.purpose != .load

/-- The office hold ends (R82). -/
def endHold (s : State) : State :=
  { s with arbiter := { s.arbiter with hold := .none, lapse := none }, assembly := dropLoad s.assembly }

/-- HOLD_RELEASE (R82). -/
def serveHoldRelease (body : List Byte) (s : State) : State :=
  match parseNone body with
  | none => officeRefuse .fieldRange s
  | some _ =>
    if !s.commissioned then officeRefuse .notCommissioned s
    else if s.arbiter.hold == .held then officeReply .releaseOk (endHold s)
    else officeRefuse .notHeld s

/-- HOLD_REQUEST (R81). -/
def execHoldRequest (tag : Byte) (body : List Byte) (s : State) : Result :=
  finish (takeOffice kindHoldRequest tag body (serveHoldRequest body) s)

/-- HOLD_RELEASE (R82). -/
def execHoldRelease (tag : Byte) (body : List Byte) (s : State) : Result :=
  finish (takeOffice kindHoldRelease tag body (serveHoldRelease body) s)

/-- The lapse: HOLD_LAPSED latches and waiting hold-only units are withdrawn NOT_HELD (R29, R82, R124). The rules fix no
order between the notice and the refusal: the notice becomes ready first (log 44). DESIGN CHOICE. -/
def lapseHold (s : State) : State := withdrawWaiters Job.holdOnly .notHeld (arise .holdLapsed (endHold s))

/-- OFFICE_HOLD_LAPSE: 120 seconds have passed since the grant (R82). -/
def execOfficeHoldLapse (s : State) : Result :=
  finish (if s.running && s.arbiter.hold == .held && s.arbiter.lapse == some 0 then lapseHold s else s)

/-! ### Conditions and status -/

/-- CONDITION_CLEAR (R175). The conditions are taken in the order of the names in the request, so several levels still
present arise again, and queue their notices, in that order (log 52). DESIGN CHOICE. -/
def serveClear (body : List Byte) (s : State) : State :=
  match parseConditions body with
  | none => officeRefuse .fieldRange s
  | some cs =>
    if s.commissioned then
      let s1 := cs.eraseDups.foldl clearCondition s
      officeReply (.clearOk s1.conditions.latches s1.conditions.tillSet) s1
    else officeRefuse .notCommissioned s

/-- A till's link state and its rate in force (R202). -/
def State.linkStatus (s : State) (t : Till) : LinkState × LinkRate := ((s.port (.till t)).link, (s.site.links.get t).rate)

/-- A slot's state and whether a reprint is in progress (Table 9-4). -/
def State.slotStatus (s : State) (t : Till) : SlotState × Bool := ((s.slot t).state, (s.slot t).reprint.isSome)

/-- The fields of STATUS_DATA (Table 9-4). -/
def statusOf (s : State) : StatusData where
  latches := s.conditions.latches
  tillSet := s.conditions.tillSet
  mask := s.site.mask
  supply := s.supply.state
  commissioned := s.commissioned
  valid := s.calendar.valid
  businessDay := s.site.businessDay
  directoryCount := s.directory.length
  held := s.held
  salesFree := s.salesFree
  unlogged := s.site.unlogged
  newestDurable := s.newestDurable
  releasePoint := s.site.releasePoint
  units := s.buffer.length
  waiters := s.waiters.length
  faulted := s.store.faulted
  budget := s.site.budget
  reserved := s.reserved
  floor := s.site.floor
  lastVoucher := s.site.lastVoucher
  hold := s.arbiter.hold
  links := #v[s.linkStatus 0, s.linkStatus 1, s.linkStatus 2, s.linkStatus 3]
  slots := #v[s.slotStatus 0, s.slotStatus 1, s.slotStatus 2, s.slotStatus 3]

/-- STATUS_READ (R178). -/
def serveStatus (body : List Byte) (s : State) : State :=
  match parseNone body with
  | none => officeRefuse .fieldRange s
  | some _ => officeReply (.statusData (statusOf s)) s

/-- STORE_RETRY waits to be served by the Record Store (R115). -/
def serveRetry (body : List Byte) (s : State) : State :=
  match parseNone body with
  | none => officeRefuse .fieldRange s
  | some _ =>
    if !s.commissioned then officeRefuse .notCommissioned s
    else if s.store.faulted then { s with store := { s.store with retryWaiting := true } }
    else officeRefuse .stateConflict s

/-- CONDITION_CLEAR (R175). -/
def execConditionClear (tag : Byte) (body : List Byte) (s : State) : Result :=
  finish (takeOffice kindConditionClear tag body (serveClear body) s)

/-- STATUS_READ (R178). -/
def execStatusRead (tag : Byte) (body : List Byte) (s : State) : Result :=
  finish (takeOffice kindStatusRead tag body (serveStatus body) s)

/-- STORE_RETRY (R115). -/
def execStoreRetry (tag : Byte) (body : List Byte) (s : State) : Result :=
  finish (takeOffice kindStoreRetry tag body (serveRetry body) s)

end Sys2Proof.Machine
end

