-- ==== Sys2Proof/Machine/Tills.lean ====
section
/-! DEFINITION. The till requests at the vend slot: QUOTE, CONFIRM, CANCEL, REPRINT, TILL_STATUS, and the expiry of the
hold timer (04.3 to 04.8). -/

namespace Sys2Proof.Machine

/-- A refusal of a till's outstanding request. -/
def tillRefuse (t : Till) (tag : Byte) (code : RefusalCode) (kind : Byte) (id detail : Nat) (s : State) : State :=
  answer (.till t) tag (.refused code kind id detail) s

/-- A slot asks the Engine Arbiter for a grant (R79). -/
def askGrant (t : Till) (s : State) : State :=
  { s with arbiter := { s.arbiter with pending := s.arbiter.pending.set t.val true t.isLt } }

/-- The steps that QUOTE, CONFIRM and REPRINT share: COMMISSIONED, calendar valid, STORE_FAULT not latched (Tables 3-2,
4-4; R74). -/
def sellingRefusal (s : State) : Option RefusalCode :=
  if !s.commissioned then some .notCommissioned
  else if !s.calendar.valid then some .clockUnset
  else if s.storeFaultLatched then some .suspended
  else none

/-! ### QUOTE -/

/-- The quote id after an id: from 65,535 to 1 (R57). -/
def nextId (n : Nat) : Nat := if n = 65535 then 1 else n + 1

/-- The ids of the quotes that slots hold (R57). -/
def State.heldIds (s : State) : List Nat := allTills.filterMap fun t => (s.slot t).quote.map (·.id)

/-- The counter advanced past each id in use, of which there are at most four (R57). -/
def freeId : Nat → List Nat → Nat → Nat
  | 0, _, n => n
  | k + 1, used, n => if used.contains n then freeId k used (nextId n) else n

/-- A quote record as it is created (R58). -/
def QuoteRecord.taken (id meter tender : Nat) (tag : Byte) : QuoteRecord :=
  ⟨id, meter, tender, none, none, false, none, none, none, some tag⟩

/-- A QUOTE that passes steps 1 to 5 is taken into QUOTING (R57, R59). -/
def takeQuote (t : Till) (tag : Byte) (meter tender : Nat) (s : State) : State :=
  let id := freeId 4 s.heldIds s.nextQuoteId
  askGrant t
    ({ s with nextQuoteId := nextId id }.modSlot t fun v =>
      { v with state := .quoting, quote := some (QuoteRecord.taken id meter tender tag) })

/-- The slot is IDLE with no reprint in progress (R59). -/
def VendSlot.free (v : VendSlot) : Bool := v.state == .idle && v.reprint.isNone

/-- QUOTE at its slot: steps 1 to 5 of Table 3-2 (R59). -/
def serveQuote (t : Till) (tag : Byte) (body : List Byte) (s : State) : State :=
  match parseQuote body with
  | none => tillRefuse t tag .fieldRange kindQuote 0 0 s
  | some (meter, tender) =>
    match sellingRefusal s with
    | some code => tillRefuse t tag code kindQuote 0 0 s
    | none =>
      if (s.slot t).free then takeQuote t tag meter tender s else tillRefuse t tag .slotBusy kindQuote 0 0 s

/-- QUOTE (R59). -/
def execQuote (t : Till) (tag : Byte) (body : List Byte) (s : State) : Result :=
  finish (takeRequest (.till t) kindQuote tag body (serveQuote t tag body) s)

/-! ### Reprints -/

/-- A reprint may begin: none is in progress, and the slot is IDLE, or OPEN with its quote on the meter (R73). -/
def VendSlot.mayReprint (v : VendSlot) (meter : Nat) : Bool :=
  v.reprint.isNone && (v.state == .idle || (v.state == .opened && v.quote.any fun q => q.meter == meter))

/-- A reprint in progress begins, or the request is refused SLOT_BUSY (R71, R73). -/
def beginReprint (t : Till) (tag : Byte) (meter : Nat) (r : ReprintRequest) (s : State) : State :=
  if (s.slot t).mayReprint meter then
    askGrant t (s.modSlot t fun v => { v with reprint := some ⟨meter, r, .lookup, some tag⟩ })
  else tillRefuse t tag .slotBusy r.kind r.quoteId 0 s

/-- REPRINT at its slot: steps 1 to 5 (R74). -/
def serveReprint (t : Till) (tag : Byte) (body : List Byte) (s : State) : State :=
  match parseReprint body with
  | none => tillRefuse t tag .fieldRange kindReprint 0 0 s
  | some (meter, index) =>
    match sellingRefusal s with
    | some code => tillRefuse t tag code kindReprint 0 0 s
    | none => beginReprint t tag meter (.reprint index) s

/-- REPRINT (R74). -/
def execReprint (t : Till) (tag : Byte) (body : List Byte) (s : State) : Result :=
  finish (takeRequest (.till t) kindReprint tag body (serveReprint t tag body) s)

/-! ### CONFIRM -/

/-- A CONFIRM of the OPEN quote is taken: the timer stops (R68). -/
def takeConfirm (t : Till) (tag : Byte) (s : State) : State :=
  askGrant t (s.modSlot t fun v =>
    { v with state := .confirming, timer := none, quote := v.quote.map fun q => { q with replyTag := some tag } })

/-- Steps 8 and 9 of Table 4-4: the last-closed record, or the repeat search (R67, R71). -/
def confirmClosed (t : Till) (tag : Byte) (meter id : Nat) (s : State) : State :=
  match (s.slot t).lastClosed with
  | none => beginReprint t tag meter (.repeatConfirm id false) s
  | some (closed, outcome) =>
    if closed = id then
      if outcome = .committed then beginReprint t tag meter (.repeatConfirm id true) s
      else tillRefuse t tag .quoteExpired kindConfirm id (outcomeNumber outcome) s
    else beginReprint t tag meter (.repeatConfirm id false) s

/-- Steps 5 to 9 of Table 4-4 (R67, R68). -/
def resolveConfirm (t : Till) (tag : Byte) (meter id : Nat) (s : State) : State :=
  match (s.slot t).quote with
  | none => confirmClosed t tag meter id s
  | some q =>
    if q.id = id then
      match (s.slot t).state with
      | .opened =>
        if q.meter = meter then takeConfirm t tag s else tillRefuse t tag .quoteUnknown kindConfirm id 0 s
      | .confirming => tillRefuse t tag .commitUnderway kindConfirm id 0 s
      | .posting => tillRefuse t tag .commitUnderway kindConfirm id 0 s
      | _ => tillRefuse t tag .quoteUnknown kindConfirm id 0 s
    else confirmClosed t tag meter id s

/-- CONFIRM at its slot, by Table 4-4 (R67). -/
def serveConfirm (t : Till) (tag : Byte) (body : List Byte) (s : State) : State :=
  match parseConfirm body with
  | none => tillRefuse t tag .fieldRange kindConfirm (confirmNames body) 0 s
  | some (meter, id) =>
    match sellingRefusal s with
    | some code => tillRefuse t tag code kindConfirm id 0 s
    | none => resolveConfirm t tag meter id s

/-- CONFIRM (R67). -/
def execConfirm (t : Till) (tag : Byte) (body : List Byte) (s : State) : Result :=
  finish (takeRequest (.till t) kindConfirm tag body (serveConfirm t tag body) s)

/-! ### CANCEL -/

/-- A CANCEL that names no quote of the slot (R72). -/
def cancelClosed (v : VendSlot) (id : Nat) : Reply :=
  match v.lastClosed with
  | none => .refused .quoteUnknown kindCancel id 0
  | some (closed, outcome) =>
    if closed = id then .refused .quoteExpired kindCancel id (outcomeNumber outcome)
    else .refused .quoteUnknown kindCancel id 0

/-- The abandon cause set unless one is set already (R66). -/
def setAbandon (t : Till) (c : AbandonCause) (s : State) : State :=
  s.modSlot t fun v => { v with abandon := v.abandon.or (some c) }

/-- CANCEL acts by the slot's state and the id it names; its reply, and the state after it (R72). -/
def cancelSlot (t : Till) (id : Nat) (s : State) : Reply × State :=
  match (s.slot t).quote with
  | none => (cancelClosed (s.slot t) id, s)
  | some q =>
    if id = 0 ∨ id = q.id then
      match (s.slot t).state with
      | .opened => (.cancelOk q.id .cancelled, closeQuote t .cancelled s)
      | .quoting => (.cancelOk q.id (((s.slot t).abandon.getD .cancelled).outcome), setAbandon t .cancelled s)
      | .fetching => (.cancelOk q.id (((s.slot t).abandon.getD .cancelled).outcome), setAbandon t .cancelled s)
      | .confirming => (.refused .commitUnderway kindCancel q.id 0, s)
      | .posting => (.refused .commitUnderway kindCancel q.id 0, s)
      | .idle => (cancelClosed (s.slot t) id, s)
    else (cancelClosed (s.slot t) id, s)

/-- CANCEL with its checks (R72). -/
def cancelOutcome (t : Till) (body : List Byte) (s : State) : Reply × State :=
  match parseCancel body with
  | none => (.refused .fieldRange kindCancel 0 0, s)
  | some id => if s.commissioned then cancelSlot t id s else (.refused .notCommissioned kindCancel id 0, s)

/-- CANCEL with nothing outstanding, answered like any request (R199). -/
def serveCancel (t : Till) (tag : Byte) (body : List Byte) (s : State) : State :=
  let (r, s1) := cancelOutcome t body s
  answer (.till t) tag r s1

/-- CANCEL while another request of the till is outstanding, answered by an immediate reply (R200). -/
def cancelAtOnce (t : Till) (tag : Byte) (body : List Byte) (s : State) : State :=
  let (r, s1) := cancelOutcome t body s
  pushReply (.till t) tag r true s1

/-- CANCEL (R72, R200). -/
def execCancel (t : Till) (tag : Byte) (body : List Byte) (s : State) : Result :=
  finish (portTake (.till t) kindCancel tag body (cancelAtOnce t tag body) (serveCancel t tag body) s)

/-! ### TILL_STATUS -/

/-- The fields of TILL_STATUS_DATA (R75). -/
def tillStatusOf (t : Till) (s : State) : TillStatusData :=
  let v := s.slot t
  { state := v.state
    reprinting := v.reprint.isSome
    quote := v.quote.map fun q => (q.id, q.meter, q.tender)
    secondsLeft := if v.state = .opened then v.timer else none
    lastClosed := v.lastClosed
    quoteHoldTime := s.site.quoteHoldTime
    totals := s.site.tillTotals.get t
    valid := s.calendar.valid
    businessDay := s.site.businessDay
    commissioned := s.commissioned }

/-- TILL_STATUS at its slot (R75). -/
def serveTillStatus (t : Till) (tag : Byte) (body : List Byte) (s : State) : State :=
  match parseNone body with
  | none => tillRefuse t tag .fieldRange kindTillStatus 0 0 s
  | some _ => answer (.till t) tag (.tillStatusData (tillStatusOf t s)) s

/-- TILL_STATUS (R75). -/
def execTillStatus (t : Till) (tag : Byte) (body : List Byte) (s : State) : Result :=
  finish (takeRequest (.till t) kindTillStatus tag body (serveTillStatus t tag body) s)

/-! ### The hold timer -/

/-- QUOTE_HOLD_EXPIRY: the hold timer of an OPEN quote has reached 0, and the quote closes EXPIRED (R63). -/
def execQuoteHoldExpiry (t : Till) (s : State) : Result :=
  finish (if s.running && (s.slot t).state == .opened && (s.slot t).timer == some 0 then closeQuote t .expired s else s)

end Sys2Proof.Machine
end

