-- ==== Sys2Proof/Machine/Engine.lean ====
section
/-! DEFINITION. The Engine Arbiter's grant to a slot, and the stages a slot's grant serves: quote, confirm build, reprint
(03.8; 04.3, 04.6, 04.8, 04.10). -/

namespace Sys2Proof.Machine

/-! ### Quote stages -/

/-- Stage 9 passed: the tender and one journal entry are reserved (R54, R162). -/
def reserveQuote (tender : Nat) (s : State) : State :=
  reportLevels { s with
    reserved := s.reserved + tender
    journal := { s.journal with reservations := s.journal.reservations + 1 } }

/-- The quote's expiry as reported: opening plus the hold time (R62, R63). -/
def State.expiry (s : State) : Option DateTime := s.now.map fun d => reportedTime d s.site.quoteHoldTime

/-- The complete quote record of an OPEN quote (Table 4-3); its QUOTE has been answered. -/
def openedQuote (q : QuoteRecord) (p : Priced) (s : State) : QuoteRecord :=
  { q with priced := some p, reservedBudget := some q.tender, journalReservation := true, openedAt := s.now
           expiresAt := s.expiry, replyTag := none }

/-- The slot enters OPEN, starts its hold timer and answers QUOTE_OK (R54, R62). -/
def openQuote (t : Till) (q : QuoteRecord) (p : Priced) (s : State) : State :=
  let s1 := reserveQuote q.tender s
  let s2 := s1.modSlot t fun v =>
    { v with state := .opened, quote := some (openedQuote q p s), timer := some s.site.quoteHoldTime }
  tillReply t q.replyTag (.quoteOk q.id q.meter q.tender p s.expiry s.site.quoteHoldTime) s2

/-- The refusal of the account state at step 8 (R7). -/
def accountRefusal : AccountState → Option RefusalCode
  | .active => none
  | .blocked => some .meterBlocked
  | .retired => some .meterRetired

/-- The tariff entry a record is priced by, from the active set (R35). -/
def State.tariffOf (s : State) (r : Record) : TariffEntry := s.site.active[r.tariffIndex]?.getD none

/-- The computing grant: steps 8 to 12 of Table 3-2 (R38, R39, R54, R62). -/
def computeQuote (t : Till) (q : QuoteRecord) (r : Record) (s : State) : State :=
  match accountRefusal r.account with
  | some code => refuseQuote t q code 0 s
  | none =>
    match s.tariffOf r with
    | none => refuseQuote t q .tariffUnset 0 s
    | some tf =>
      match priceQuote r tf s.site.generation s.currentMonth q.tender with
      | .error .nothingToIssue => refuseQuote t q .nothingToIssue 0 s
      | .error (.belowCharges c) => refuseQuote t q .belowCharges c s
      | .ok p =>
        if s.site.budget - s.reserved < q.tender then refuseQuote t q .budgetShort (s.site.budget - s.reserved) s
        else if s.roomForOffice then openQuote t q p s
        else refuseQuote t q .journalFull 0 s

/-- The computing grant on the record copy of the meter's line. -/
def computeFromLine (t : Till) (q : QuoteRecord) (s : State) : State :=
  match lineRecord q.meter s with
  | none => s
  | some r => computeQuote t q r s

/-- The first grant of a quote: directory and Working Set (R60, R98). -/
def lookupQuote (t : Till) (q : QuoteRecord) (s : State) : State :=
  match dirFind q.meter s.directory with
  | none => refuseQuote t q .meterUnknown 0 s
  | some e =>
    if e.damaged then refuseQuote t q .meterDamaged 0 s
    else
      match lookup (.slot t) q.meter s with
      | .busy => refuseQuote t q .meterBusy 0 s
      | .hit l => computeFromLine t q (pinLine (.slot t) l q.meter s)
      | .miss => (startFetch (.slot t) q.meter e.slot s).modSlot t fun v => { v with state := .fetching }

/-- A grant of a QUOTING quote: used for nothing when an abandon cause is set (R66); the lookup, or the continuation
once the quote holds its pin (R60, R61). -/
def quoteStage (t : Till) (s : State) : State :=
  match (s.slot t).quote with
  | none => s
  | some q =>
    match (s.slot t).abandon with
    | some c => abandonQuote t q c s
    | none => if (s.slot t).pin.isSome then computeFromLine t q s else lookupQuote t q s

/-! ### Confirm build -/

/-- The day of the Calendar at a grant. Without a valid calendar, which no confirm grant meets, it reads 0 (log 39). -/
def State.today (s : State) : Nat := (s.now.map (·.day)).getD 0

/-- The token of a confirm grant; a RECEIPT quote builds none (R69, R84, R89). -/
def buildToken (s : State) (q : QuoteRecord) (p : Priced) (r : Record) : Option BuiltToken :=
  if p.cls = .receipt then none
  else
    let seq := (r.lastToken + 1) % 1000
    some ⟨tokenDigits (s.site.siteCode.getD []) p.cls seq p.total s.today q.meter, seq⟩

/-- The confirm grant: the token and the SALE unit are built, and the unit is posted or waits (R69). -/
def confirmStage (t : Till) (s : State) : State :=
  match (s.slot t).quote with
  | none => s
  | some q =>
    match q.priced, lineRecord q.meter s with
    | some p, some r =>
      postOrWait ⟨.sale t, true⟩
        (s.modSlot t fun v => { v with quote := some { q with built := some ⟨buildToken s q p r, s.today⟩ } })
    | _, _ => s

/-! ### Reprint stages -/

/-- The stage of a reprint in progress set. -/
def setReprintStage (t : Till) (st : ReprintStage) (s : State) : State :=
  s.modSlot t fun v => { v with reprint := v.reprint.map fun w => { w with stage := st } }

/-- A REPRINT entry is posted when sales-free is above 16 (R71, R74). -/
def issueReprint (t : Till) (w : ReprintWork) (index : Nat) (k : RecentToken) (rep : Bool) (s : State) : State :=
  if s.roomForOffice then reserveAndPost (.reprint t w.meter index k rep) s else refuseReprint t w .journalFull 0 s

/-- The repeat search of a recent-token list: the newest entry with the quote id (R71). -/
def findToken (id : Nat) (l : List RecentToken) : Option (Nat × RecentToken) :=
  match l.findIdx? fun k => k.quoteId == id with
  | none => none
  | some i => l[i]?.map fun k => (i, k)

/-- The steps made once the record is present (R71, R74). -/
def presentReprint (t : Till) (w : ReprintWork) (r : Record) (s : State) : State :=
  if r.account = .retired then refuseReprint t w .meterRetired 0 s
  else
    match w.request with
    | .reprint index =>
      match r.recent[index]? with
      | none => refuseReprint t w .tokenAbsent 0 s
      | some k => issueReprint t w index k false s
    | .repeatConfirm id found =>
      match findToken id r.recent with
      | some (index, k) => issueReprint t w index k true s
      | none =>
        if found then refuseReprint t w .quoteExpired (outcomeNumber .committed) s
        else refuseReprint t w .quoteUnknown 0 s

/-- The steps of a reprint on the record copy of the meter's line. -/
def presentFromLine (t : Till) (w : ReprintWork) (s : State) : State :=
  match lineRecord w.meter s with
  | none => s
  | some r => presentReprint t w r s

/-- A damaged entry refuses a repeat search that step 8 had found COMMITTED with QUOTE_EXPIRED, without a lookup in the
Working Set (R71). The rule does not say whether the CONFIRM itself or its grant refuses it: the slot's grant does,
after the SLOT_BUSY test, as for every other repeat search (log 46). DESIGN CHOICE. -/
def refuseDamagedReprint (t : Till) (w : ReprintWork) (s : State) : State :=
  match w.request with
  | .repeatConfirm _ true => refuseReprint t w .quoteExpired (outcomeNumber .committed) s
  | _ => refuseReprint t w .meterDamaged 0 s

/-- The first grant of a reprint: directory and Working Set (R71, R74, R98). -/
def lookupReprint (t : Till) (w : ReprintWork) (s : State) : State :=
  match dirFind w.meter s.directory with
  | none => refuseReprint t w .meterUnknown 0 s
  | some e =>
    if e.damaged then refuseDamagedReprint t w s
    else
      match lookup (.slot t) w.meter s with
      | .busy => refuseReprint t w .meterBusy 0 s
      | .hit l => presentFromLine t w (setReprintStage t .present (pinLine (.slot t) l w.meter s))
      | .miss => setReprintStage t .fetching (startFetch (.slot t) w.meter e.slot s)

/-- A grant of a reprint (R74). -/
def reprintStage (t : Till) (s : State) : State :=
  match (s.slot t).reprint with
  | none => s
  | some w =>
    match w.stage with
    | .lookup => lookupReprint t w s
    | .present => presentFromLine t w s
    | _ => s

/-! ### The grant -/

/-- A slot's work waits for a grant: QUOTING, CONFIRMING, or a reprint before its lookup or after its fetch (R79). -/
def VendSlot.wantsGrant (v : VendSlot) : Bool :=
  v.state == .quoting || v.state == .confirming ||
    v.reprint.any fun w => w.stage == .lookup || w.stage == .present

/-- The slots in the order following the pointer (R79). -/
def grantOrder (p : Till) : List Till := [p + 1, p + 2, p + 3, p]

/-- The slot granted next, when the office hold is NONE (R79, R81, R82). -/
def State.nextGrant (s : State) : Option Till :=
  if s.running && s.arbiter.hold == .none then
    (grantOrder s.arbiter.pointer).find? fun t => s.arbiter.pending.get t
  else none

/-- One stage of a slot's work: its quote's, and else its reprint's (R80; log 41). -/
def slotStage (t : Till) (s : State) : State :=
  match (s.slot t).state with
  | .quoting => quoteStage t s
  | .confirming => confirmStage t s
  | _ => reprintStage t s

/-- A slot's request stays pending after a grant only while other work of it waits. -/
def settlePending (t : Till) (s : State) : State :=
  { s with arbiter := { s.arbiter with pending := s.arbiter.pending.set t.val (s.slot t).wantsGrant t.isLt } }

/-- ENGINE_GRANT: the free engine is granted for one stage to the next slot with a pending request (R79, R80). -/
def execEngineGrant (s : State) : Result :=
  finish (match s.nextGrant with
    | none => s
    | some t => settlePending t (slotStage t { s with arbiter := { s.arbiter with pointer := t } }))

end Sys2Proof.Machine
end

