-- ==== Sys2Proof/Machine/Records.lean ====
section
/-! DEFINITION. The office record requests (01.5): METER_ENROL to METER_READ, each executed in its office grant, and the
continuation of one that waited for a fetch (R12). -/

namespace Sys2Proof.Machine

/-- Steps 2 to 5 of Table 1-5, of which a request makes those that apply to it (R12). -/
def recordRefusal (needsHold needsClock needsStore : Bool) (s : State) : Option RefusalCode :=
  if !s.commissioned then some .notCommissioned
  else if needsHold && s.arbiter.hold != .held then some .notHeld
  else if needsClock && !s.calendar.valid then some .clockUnset
  else if needsStore && s.storeFaultLatched then some .suspended
  else none

/-- A refusal after the pin releases the pin (R12). -/
def refuseRecord (code : RefusalCode) (s : State) : State := officeRefuse code (releasePin .office s)

/-- Step 9 of Table 1-5: the unit takes its reservation and is posted, or the request is refused JOURNAL_FULL (R12). -/
def postRecord (j : Job) (s : State) : State :=
  if s.roomForOffice then reserveAndPost j s else refuseRecord .journalFull s

/-! ### METER_EDIT (R18) -/

/-- One field of an edit: listed when its value changes. -/
def editItem {α : Type} [DecidableEq α] (mk : α → RecordValue) (old : α) (given : Option α) :
    List (Option RecordValue × RecordValue) :=
  match given with
  | none => []
  | some v => if v = old then [] else [(some (mk old), mk v)]

/-- The fields whose value an edit changes, with old and new value (R18, R130). No rule orders the list when several
change: it takes the order in which R18 names the fields, not the record field numbers of Table 11-4 (log 57).
DESIGN CHOICE. -/
def editItems (r : Record) (e : EditRequest) : List (Option RecordValue × RecordValue) :=
  editItem .tariffIndex r.tariffIndex e.tariffIndex ++ editItem .recoveryRate r.recoveryRate e.recoveryRate ++
    editItem .arrears r.arrears e.arrears ++ editItem .lifelineEligible r.lifelineEligible e.lifelineEligible

/-- The record with the given fields. -/
def editRecord (r : Record) (e : EditRequest) : Record :=
  { r with
    tariffIndex := e.tariffIndex.getD r.tariffIndex, recoveryRate := e.recoveryRate.getD r.recoveryRate
    arrears := e.arrears.getD r.arrears, lifelineEligible := e.lifelineEligible.getD r.lifelineEligible }

/-- METER_EDIT once the record is present (R18). -/
def continueEdit (e : EditRequest) (slot : Nat) (r : Record) (s : State) : State :=
  if r.account = .retired then refuseRecord .stateConflict s
  else if (editItems r e).isEmpty then
    officeReply (.editOk r.tariffIndex r.recoveryRate r.arrears r.lifelineEligible none) (releasePin .office s)
  else postRecord (.edit slot (editRecord r e) (editItems r e)) s

/-! ### State requests (R6, R19) and METER_PURGE (R15) -/

/-- The state METER_BLOCK makes of a state; none is STATE_CONFLICT (R6). -/
def blockState : AccountState → Option AccountState
  | .active => some .blocked
  | _ => none

/-- The state METER_UNBLOCK makes of a state (R6). -/
def unblockState : AccountState → Option AccountState
  | .blocked => some .active
  | _ => none

/-- The state METER_RETIRE makes of a state (R6). -/
def retireState : AccountState → Option AccountState
  | .active => some .retired
  | .blocked => some .retired
  | .retired => none

/-- A state request once the record is present (R6, R19). -/
def continueState (next : AccountState → Option AccountState) (slot : Nat) (r : Record) (s : State) : State :=
  match next r.account with
  | none => refuseRecord .stateConflict s
  | some a => postRecord (.accountState slot { r with account := a } r.account) s

/-- METER_PURGE once the record is present; the hold is tested at each stage (R15, R83). -/
def continuePurge (slot : Nat) (r : Record) (s : State) : State :=
  if s.arbiter.hold != .held then refuseRecord .notHeld s
  else if r.account ≠ .retired then refuseRecord .stateConflict s
  else if s.site.releasePoint < r.lastSeq then refuseRecord .purgeRefused s
  else postRecord (.purge slot r.meter) s

/-! ### METER_READ (R17) -/

/-- The month-current field: absent when the calendar is not valid (R17). -/
def monthCurrentOf (r : Record) (s : State) : Option Bool := s.now.map fun d => r.monthTag == monthTagOf d.day

/-- METER_DATA (R17). -/
def readReply (r : Record) (s : State) : Reply := .meterData r (monthCurrentOf r s)

/-! ### The grant and the continuation -/

/-- The meter a record request names. -/
def RecordRequest.meter : RecordRequest → Nat
  | .edit e => e.meter
  | .block m => m
  | .unblock m => m
  | .retire m => m
  | .purge m => m
  | .read m => m

/-- A record request from step 8 on, its record in the pinned line (R12). -/
def continueRecord (req : RecordRequest) (slot : Nat) (r : Record) (s : State) : State :=
  match req with
  | .edit e => continueEdit e slot r s
  | .block _ => continueState blockState slot r s
  | .unblock _ => continueState unblockState slot r s
  | .retire _ => continueState retireState slot r s
  | .purge _ => continuePurge slot r s
  | .read _ => officeReply (readReply r s) (releasePin .office s)

/-- A record request on the record copy of the meter's line. -/
def continueFromLine (req : RecordRequest) (slot : Nat) (s : State) : State :=
  match lineRecord req.meter s with
  | none => s
  | some r => continueRecord req slot r s

/-- Steps 6 and 7 of Table 1-5: the directory, the lookup and the pin; a miss waits for its fetch (R12, R98). -/
def lookupRecord (req : RecordRequest) (s : State) : State :=
  match dirFind req.meter s.directory with
  | none => officeRefuse .meterUnknown s
  | some e =>
    if e.damaged then officeRefuse .meterDamaged s
    else
      match lookup .office req.meter s with
      | .busy => officeRefuse .meterBusy s
      | .hit l => continueFromLine req e.slot (pinLine .office l req.meter s)
      | .miss => { startFetch .office req.meter e.slot s with officeRequest := some req }

/-- Steps 2 to 7 of a request that changes a record. -/
def serveChange (needsHold : Bool) (req : RecordRequest) (s : State) : State :=
  match recordRefusal needsHold false true s with
  | some code => officeRefuse code s
  | none => lookupRecord req s

/-- A request that carries a meter number alone. -/
def serveMeter (body : List Byte) (serve : Nat → State → State) (s : State) : State :=
  match parseMeter body with
  | none => officeRefuse .fieldRange s
  | some meter => serve meter s

/-- METER_EDIT (R18). -/
def serveEdit (body : List Byte) (s : State) : State :=
  match parseEdit body with
  | none => officeRefuse .fieldRange s
  | some e => serveChange false (.edit e) s

/-- METER_READ: a VALID line answers at once, without a pin (R17). -/
def serveRead (meter : Nat) (s : State) : State :=
  match recordRefusal false false false s with
  | some code => officeRefuse code s
  | none =>
    match dirFind meter s.directory with
    | none => officeRefuse .meterUnknown s
    | some e =>
      if e.damaged then officeRefuse .meterDamaged s
      else
        match findLine meter s with
        | none => { startFetch .office meter e.slot s with officeRequest := some (.read meter) }
        | some l =>
          match (s.line l).record with
          | some r => officeReply (readReply r s) s
          | none => officeRefuse .meterBusy s

/-- The record METER_ENROL builds (R14). -/
def enrolRecord (meter tariff : Nat) (eligible : Bool) (rate arrears : Nat) (s : State) : Record where
  meter := meter
  account := .active
  tariffIndex := tariff
  lifelineEligible := eligible
  recoveryRate := rate
  arrears := arrears
  monthTag := s.currentMonth
  monthUnits := 0
  servicePaid := false
  lifelineGiven := false
  residue := 0
  lastToken := 0
  recent := []
  lastSeq := 0
  enrolDay := s.today

/-- Step 9 for a request that took its line without a fetch: refused, the line becomes FREE (R100, log 36). -/
def postTaken (j : Job) (s : State) : State :=
  if s.roomForOffice then reserveAndPost j s else officeRefuse .journalFull (freeOfficeLine s)

/-- METER_ENROL from step 6 on (R14, R100). -/
def enrolMeter (meter tariff : Nat) (eligible : Bool) (rate arrears : Nat) (s : State) : State :=
  if (dirFind meter s.directory).isSome then officeRefuse .meterExists s
  else if recordSlots ≤ s.takenSlots.length then officeRefuse .directoryFull s
  else
    let r := enrolRecord meter tariff eligible rate arrears s
    postTaken (.enrol (lowestFree s.takenSlots) r) (takeLineValid meter r s)

/-- METER_ENROL (R14). -/
def serveEnrol (body : List Byte) (s : State) : State :=
  match parseEnrol body with
  | none => officeRefuse .fieldRange s
  | some (meter, tariff, eligible, rate, arrears) =>
    match recordRefusal false true true s with
    | some code => officeRefuse code s
    | none => enrolMeter meter tariff eligible rate arrears s

/-- METER_RESTORE from step 6 on (R16, R100). -/
def restoreMeter (r : Record) (s : State) : State :=
  match dirFind r.meter s.directory with
  | none => officeRefuse .meterUnknown s
  | some e =>
    if e.damaged then postTaken (.restore e.slot r) (takeLineValid r.meter r s) else officeRefuse .stateConflict s

/-- METER_RESTORE (R16). -/
def serveRestore (body : List Byte) (s : State) : State :=
  match parseRestore body with
  | none => officeRefuse .fieldRange s
  | some r =>
    match recordRefusal true false true s with
    | some code => officeRefuse code s
    | none => restoreMeter r s

/-- METER_ENROL (R14). -/
def execMeterEnrol (tag : Byte) (body : List Byte) (s : State) : Result :=
  finish (takeOffice kindMeterEnrol tag body (serveEnrol body) s)

/-- METER_EDIT (R18). -/
def execMeterEdit (tag : Byte) (body : List Byte) (s : State) : Result :=
  finish (takeOffice kindMeterEdit tag body (serveEdit body) s)

/-- METER_BLOCK (R19). -/
def execMeterBlock (tag : Byte) (body : List Byte) (s : State) : Result :=
  finish (takeOffice kindMeterBlock tag body (serveMeter body fun m => serveChange false (.block m)) s)

/-- METER_UNBLOCK (R19). -/
def execMeterUnblock (tag : Byte) (body : List Byte) (s : State) : Result :=
  finish (takeOffice kindMeterUnblock tag body (serveMeter body fun m => serveChange false (.unblock m)) s)

/-- METER_RETIRE (R19). -/
def execMeterRetire (tag : Byte) (body : List Byte) (s : State) : Result :=
  finish (takeOffice kindMeterRetire tag body (serveMeter body fun m => serveChange false (.retire m)) s)

/-- METER_PURGE (R15). -/
def execMeterPurge (tag : Byte) (body : List Byte) (s : State) : Result :=
  finish (takeOffice kindMeterPurge tag body (serveMeter body fun m => serveChange true (.purge m)) s)

/-- METER_RESTORE (R16). -/
def execMeterRestore (tag : Byte) (body : List Byte) (s : State) : Result :=
  finish (takeOffice kindMeterRestore tag body (serveRestore body) s)

/-- METER_READ (R17). -/
def execMeterRead (tag : Byte) (body : List Byte) (s : State) : Result :=
  finish (takeOffice kindMeterRead tag body (serveMeter body serveRead) s)

end Sys2Proof.Machine
end

