-- ==== Sys2Proof/Machine/Store.lean ====
section
/-! DEFINITION. The completions of the Record Store's operations, and the drain of a HOLD with its hold cell write
(06.3 to 06.6; 10.3, 10.4). -/

namespace Sys2Proof.Machine

/-! ### The drain (R182, R183, R185) -/

/-- The stage of a HOLD set. -/
def setDrain (d : DrainStage) (s : State) : State := { s with supply := { s.supply with drain := d } }

/-- The outage number of the kept image; a part with no image reads 0 (log 26). -/
def State.keptOutage (s : State) : Nat := (s.store.image.image.map (·.outageNumber)).getD 0

/-- The drain ends: the hold record takes its outage number, and the hold cell write begins (R185). -/
def endDrain (s : State) : State :=
  setDrain .cellWrite { s with supply := { s.supply with
    holdRecord := s.supply.holdRecord.map fun h => { h with outageNumber := some (raiseNumber s.keptOutage) } } }

/-- The next unit of the drain is written, or the drain ends with the buffer empty (R182). -/
def drainNext (s : State) : State :=
  if s.buffer.isEmpty then endDrain (setService .idle s) else setDrain .draining (setService .writing s)

/-- The drain begins: a head unit of a FAULTED store is tried once more (R182, R183). -/
def startDrain (s : State) : State :=
  if s.store.faulted && !s.buffer.isEmpty then setDrain .lastTry (setService .writing s) else drainNext s

/-- The sequences of the units in the buffer. -/
def State.bufferSeqs (s : State) : List Nat := s.buffer.filterMap fun u => u.entry.map (·.seq)

/-- Every unit in the buffer is dropped into the hold record, and the drain ends (R183). -/
def dropAll (s : State) : State :=
  endDrain (setService .idle { s with
    buffer := []
    supply := { s.supply with holdRecord := s.supply.holdRecord.map fun h =>
      { h with dropped := s.buffer.length, firstDropped := s.bufferSeqs.min?, lastDropped := s.bufferSeqs.max? } } })

/-- An operation that was in progress at the entry to HOLD has completed: the drain begins (R182). -/
def afterOperation (s : State) : State :=
  if s.supply.state == .hold && s.supply.drain == .settling then startDrain s else s

/-- The store's fault state set. -/
def setFaulted (b : Bool) (s : State) : State := { s with store := { s.store with faulted := b } }

/-- A drain write read back: the head unit completes, is rewritten once, or is dropped with every unit behind it; the one
attempt at a faulted head unit has no rewrite (R182, R183). Of a unit's second failure R112 says that the store becomes
FAULTED; R182 and R183 say of the drain only that the units are dropped, and the fault state stays as it was (log 58).
DESIGN CHOICE. -/
def drainWrite (u : CommitUnit) (r : ReadBack) (s : State) : State :=
  match r, s.supply.drain, s.store.service with
  | .verified, .lastTry, _ => drainNext (setFaulted false (completeUnit u s))
  | .verified, _, _ => drainNext (completeUnit u s)
  | .failed a, .draining, .writing => setService .rewriting (failUnit u a s)
  | .failed a, _, _ => dropAll (failUnit u a s)

/-- The drain has a write in progress. -/
def State.draining (s : State) : Bool :=
  s.supply.state == .hold && (s.supply.drain == .draining || s.supply.drain == .lastTry)

/-- DRAIN_WRITE_COMPLETE (R182). -/
def execDrainWriteComplete (r : ReadBack) (s : State) : Result :=
  finish (match s.buffer with
    | [] => s
    | u :: _ => if s.draining then drainWrite u r s else s)

/-- The hold cell as a hold record is written into it (Table 10-3). -/
def HoldRecord.cell (h : HoldRecord) (good : Bool) : HoldCell :=
  ⟨h.outageNumber.getD 0, h.cause, h.start, h.dropped, h.firstDropped, h.lastDropped, h.unloggedRaise, good⟩

/-- The cell after its write: a failed one leaves it altered, its check bad, or as it was (R185, log 11). -/
def cellAfter (h : HoldRecord) (r : CellReadBack) (old : Option HoldCell) : Option HoldCell :=
  match r with
  | .verified => some (h.cell true)
  | .failed true => some (h.cell false)
  | .failed false => old

/-- START entered, with the cause reported when the hold cell does not describe the outage (R187). -/
def enterStart (cause : OutageCause) (s : State) : State :=
  { s with supply := { s.supply with state := .start, started := false, startCause := cause } }

/-- The state set with nothing else. -/
def setSupply (v : SupplyState) (s : State) : State := { s with supply := { s.supply with state := v } }

/-- The end of a HOLD (Table 10-2). -/
def endHoldState (h : HoldRecord) (s : State) : State :=
  let s1 := { s with supply := { s.supply with holdRecord := none, drain := .none } }
  if !s.supply.levelOk then setSupply .down s1
  else if s.supply.resetAsserted then setSupply .resetWait s1
  else enterStart h.cause s1

/-- HOLD_CELL_WRITE_COMPLETE: the hold ends whether the cell verified or not (R185). -/
def execHoldCellWriteComplete (r : CellReadBack) (s : State) : Result :=
  finish (match s.supply.holdRecord with
    | none => s
    | some h =>
      if s.supply.state == .hold && s.supply.drain == .cellWrite then
        endHoldState h { s with store := { s.store with holdCell := cellAfter h r s.store.holdCell } }
      else s)

/-! ### Fetches (R101, R107) -/

/-- The check of a record fetch: the slot is occupied, by the meter, and the check code is the record's (R107). -/
def fetchResult (meter : Nat) (v : Option StoredRecord) : Option Record :=
  match v with
  | none => none
  | some x => if x.record.meter = meter ∧ x.check = some x.record then some x.record else none

/-- A slot whose fetch had a good check: it acts on its abandon cause, or asks for the continuation (R61, R66, R74). -/
def slotFetched (t : Till) (s : State) : State :=
  let v := s.slot t
  if v.state == .fetching then
    match v.quote, v.abandon with
    | some q, some c => abandonQuote t q c s
    | _, _ => askGrant t (s.modSlot t fun v => { v with state := .quoting })
  else if v.reprint.any fun w => w.stage == .fetching then askGrant t (setReprintStage t .present s)
  else s

/-- A slot whose fetch had a bad check: METER_DAMAGED, or the abandon cause (R61, R66, R101). -/
def slotFetchFailed (t : Till) (s : State) : State :=
  let v := s.slot t
  match v.state, v.quote, v.reprint with
  | .fetching, some q, _ => refuseQuote t q .meterDamaged 0 s
  | _, _, some w => if w.stage == .fetching then refuseReprint t w .meterDamaged 0 s else s
  | _, _, _ => s

/-- The pin owner goes on with a fetched record; an office request runs its continuation (R12, R101, log 6). -/
def ownerFetched (o : Option Owner) (slot : Nat) (s : State) : State :=
  match o with
  | none => s
  | some (.slot t) => slotFetched t s
  | some .office =>
    match s.officeRequest with
    | none => s
    | some req => continueFromLine req slot { s with officeRequest := none }

/-- The pin owner is refused METER_DAMAGED (R101). -/
def ownerFetchFailed (o : Option Owner) (s : State) : State :=
  match o with
  | none => s
  | some (.slot t) => slotFetchFailed t s
  | some .office => officeRefuse .meterDamaged { s with officeRequest := none }

/-- The Working Set takes a fetch's result: the line is VALID, or FREE with the entry marked damaged (R8, R101). -/
def fillLine (l : LineNo) (meter slot : Nat) (result : Option Record) (s : State) : State :=
  let o := (s.line l).pin
  match result with
  | some r => ownerFetched o slot (touchLine l (s.modLine l fun v => { v with state := .valid, record := some r }))
  | none =>
    let s1 := freeLine l s
    ownerFetchFailed o { s1 with directory := dirMark meter true s1.directory }

/-- The slot's contents as the store finds them at the fetch. -/
def alterSlot (damaged : Bool) (slot : Nat) (s : State) : State :=
  if damaged then { s with store := { s.store with slots := slotAlter slot s.store.slots } } else s

/-- RECORD_FETCH_COMPLETE; in HOLD the result is discarded (R101, R116). -/
def execRecordFetchComplete (damaged : Bool) (s : State) : Result :=
  finish (match s.store.service with
    | .reading (.record l meter slot) =>
      let s1 := setService .idle (alterSlot damaged slot s)
      if s.running then fillLine l meter slot (fetchResult meter (slotGet slot s1.store.slots)) s1 else afterOperation s1
    | _ => s)

/-- The entries an area read returns (R139, R206). -/
def State.entriesFrom (s : State) (start count : Nat) : List JournalEntry :=
  fitEntries 1 ((s.heldEntries.filter fun e => decide (start ≤ e.seq)).take count)

/-- The reply of a performed area read (R139, R156). -/
def areaReply (f : Fetch) (s : State) : State :=
  match f with
  | .journal start count => officeReply (.journalData (s.entriesFrom start count)) s
  | .summary i =>
    match s.store.summaries[i]? with
    | none => officeRefuse .summaryAbsent s
    | some d => officeReply (.summaryData i d) s
  | .record _ _ _ => s

/-- The operation in progress is an area read. -/
def Fetch.isArea : Fetch → Bool
  | .record _ _ _ => false
  | _ => true

/-- AREA_READ_COMPLETE; in HOLD the result is discarded (R107, R116). -/
def execAreaReadComplete (s : State) : Result :=
  finish (match s.store.service with
    | .reading f =>
      if f.isArea then
        if s.running then areaReply f (setService .idle s) else afterOperation (setService .idle s)
      else s
    | _ => s)

/-! ### Unit writes (R110 to R115) -/

/-- A PENDING hold is refused SUSPENDED when STORE_FAULT latches (R81). -/
def refusePendingHold (s : State) : State :=
  if s.arbiter.hold == .pending then
    officeRefuse .suspended { s with arbiter := { s.arbiter with hold := .none, lapse := none } }
  else s

/-- The second failure of a unit: the store is FAULTED, STORE_FAULT latches, and the waiters that the latch withdraws are
refused SUSPENDED (R112, R124). In HOLD nothing arises (R116). The rules fix no order between the notice and the
refusals: the notice becomes ready first, then the withdrawn waiters' refusals in the order of the list, then that of
a PENDING hold (log 44). DESIGN CHOICE. -/
def storeFault (s : State) : State :=
  let s1 := reportLevels (setService .idle (setFaulted true s))
  if s.running then refusePendingHold (withdrawWaiters Job.withdrawable .suspended s1)
  else afterOperation s1

/-- A verified unit write: the unit completes and its room is offered (R110, R123, R126). -/
def writeVerified (u : CommitUnit) (s : State) : State :=
  let s1 := setService .idle (completeUnit u s)
  if s.running then offerRoom s1 else afterOperation s1

/-- UNIT_WRITE_COMPLETE: verified, rewritten once, or a second failure (R110, R111, R112). A write of the drain is not
completed so. -/
def unitWrite (u : CommitUnit) (r : ReadBack) (s : State) : State :=
  match r, s.store.service with
  | .verified, .writing => writeVerified u s
  | .verified, .rewriting => writeVerified u s
  | .failed a, .writing => setService .rewriting (failUnit u a s)
  | .failed a, .rewriting => storeFault (failUnit u a s)
  | _, _ => s

/-- UNIT_WRITE_COMPLETE (R110). -/
def execUnitWriteComplete (r : ReadBack) (s : State) : Result :=
  finish (match s.buffer with
    | [] => s
    | u :: _ => if s.draining then s else unitWrite u r s)

/-- A verified STORE_RETRY: the unit completes, the store is NORMAL and writes again (R115). -/
def retryVerified (u : CommitUnit) (s : State) : State :=
  let s1 := reportLevels (setService .idle (setFaulted false (completeUnit u s)))
  if s.running then offerRoom (officeReply (.retryOk true (u.entry.map (·.seq))) s1)
  else afterOperation s1

/-- Both attempts of a STORE_RETRY have failed (R115). The rule names the outcome alone: RETRY_OK carries the sequence
field absent (log 47). DESIGN CHOICE. -/
def retryFailed (s : State) : State :=
  let s1 := setService .idle s
  if s.running then officeReply (.retryOk false none) s1 else afterOperation s1

/-- An attempt of a STORE_RETRY read back (R115). -/
def retryAttempt (u : CommitUnit) (r : ReadBack) (s : State) : State :=
  match r, s.store.service with
  | .verified, .retrying _ => retryVerified u s
  | .failed a, .retrying false => setService (.retrying true) (failUnit u a s)
  | .failed a, .retrying true => retryFailed (failUnit u a s)
  | _, _ => s

/-- RETRY_ATTEMPT_COMPLETE (R115). -/
def execRetryAttemptComplete (r : ReadBack) (s : State) : Result :=
  finish (match s.buffer with
    | [] => s
    | u :: _ => retryAttempt u r s)

end Sys2Proof.Machine
end

