-- ==== Sys2Proof/Machine/Supply.lean ====
section
/-! DEFINITION. The Supply Monitor: the entry to HOLD, the supply and RESET events, and start-up (10). -/

namespace Sys2Proof.Machine

/-! ### The entry to HOLD (R180, R181) -/

/-- A port closed: nothing is received, outstanding or ready; a frame in transmission is sent whole (R180). -/
def LinkPort.closed (q : LinkPort) : LinkPort :=
  { q with receiver := .hunt, settingsWaiting := false, outstanding := none, order := [] }

/-- A slot whose quote and reprint are abandoned; its pin and last-closed record are left as they stand (R78, R181). -/
def VendSlot.abandoned (v : VendSlot) : VendSlot :=
  { v with state := .idle, quote := none, abandon := none, timer := none, reprint := none }

/-- A SYSTEM unit with an entry on the post wait list, which raises the unlogged count when it is abandoned (R125). The
journal of SITE_CODE_LOAD has not begun (R94). -/
def Waiter.countsUnlogged (w : Waiter) : Bool :=
  match w.job with
  | .dayClose _ => w.hasEntry
  | .tariffShift _ _ => w.hasEntry
  | .powerUp _ => w.hasEntry
  | _ => false

/-- All work not yet posted is abandoned and the ports close (R180, R181). The lines and pins stand as R116 and R181 say,
also the line of an abandoned METER_ENROL or METER_RESTORE, which R100, R102 and R105 would free (log 54). DEDUCED. -/
def abandonWork (s : State) : State :=
  { s with
    officePort := s.officePort.closed
    tillPorts := #v[(s.tillPorts.get 0).closed, (s.tillPorts.get 1).closed, (s.tillPorts.get 2).closed,
      (s.tillPorts.get 3).closed]
    slots := #v[(s.slot 0).abandoned, (s.slot 1).abandoned, (s.slot 2).abandoned, (s.slot 3).abandoned]
    waiters := []
    officeRequest := none
    store := { s.store with queue := [], retryWaiting := false }
    arbiter := { s.arbiter with pending := Vector.replicate 4 false, hold := .none, lapse := none }
    assembly := none }

/-- The hold record as it begins (R180, R181). -/
def holdRecordOf (cause : OutageCause) (raise : Nat) (s : State) : HoldRecord :=
  ⟨none, cause, s.now, 0, none, none, raise⟩

/-- The entry to HOLD: the hold record begins, all unposted work is abandoned, and the drain begins unless a store
operation is in progress (R180, R181, R182). -/
def enterHold (cause : OutageCause) (s : State) : State :=
  let raise := (s.waiters.filter Waiter.countsUnlogged).length
  let s1 := raiseUnlogged raise (abandonWork s)
  let s2 := { s1 with supply := { s1.supply with
    state := .hold, holdRecord := some (holdRecordOf cause raise s), drain := .settling } }
  if s.store.service == .idle then startDrain s2 else s2

/-- Start-up abandoned: every unit posted in START is discarded unwritten (R190). -/
def abandonStart (s : State) : State :=
  { s with
    supply := { s.supply with started := false }
    buffer := []
    waiters := []
    officePort := s.officePort.closed }

/-- SUPPLY_LOW (R179, Table 10-2). -/
def execSupplyLow (s : State) : Result :=
  let s1 := { s with supply := { s.supply with levelOk := false } }
  finish (match s.supply.state with
    | .run => enterHold .supply s1
    | .resetWait => setSupply .down s1
    | .start => setSupply .down (abandonStart s1)
    | .hold => s1
    | .down => s1)

/-- SUPPLY_OK (R179, Table 10-2). -/
def execSupplyOk (s : State) : Result :=
  let s1 := { s with supply := { s.supply with levelOk := true } }
  finish (match s.supply.state with
    | .down => if s.supply.resetAsserted then setSupply .resetWait s1 else enterStart .supply s1
    | _ => s1)

/-- RESET_ASSERTED (R186, Table 10-2). -/
def execResetAsserted (s : State) : Result :=
  let s1 := { s with supply := { s.supply with resetAsserted := true } }
  finish (match s.supply.state with
    | .run => enterHold .resetLine s1
    | .start => setSupply .resetWait (abandonStart s1)
    | _ => s1)

/-- RESET_RELEASED (R186, Table 10-2). -/
def execResetReleased (s : State) : Result :=
  let s1 := { s with supply := { s.supply with resetAsserted := false } }
  finish (match s.supply.state with
    | .resetWait => enterStart .resetLine s1
    | _ => s1)

/-! ### Start-up (R187 to R191) -/

/-- The hold cell when it describes the outage just ended: its check passes, and its outage number is the image's plus
one; without an image it is not consulted (R187). -/
def State.describingCell (s : State) : Option HoldCell :=
  match s.store.image.image with
  | none => none
  | some v => s.store.holdCell.filter fun c => c.checkGood && c.outageNumber == raiseNumber v.outageNumber

/-- The unlogged raise that start-up adds to an image's count: the hold cell's, when it describes the outage (R187). On a
BLANK part the count is not raised, and the cell is consulted for the outage number alone (R137, R142, R191). -/
def State.cellRaise (s : State) (v : SiteState) : Nat :=
  if v.siteCode.isSome then (s.describingCell.map (·.unloggedRaise)).getD 0 else 0

/-- The working state that the image gives, with the working outage number and the unlogged raise; without an image, the
values of R191 (R187). -/
def startSite (s : State) : SiteState :=
  match s.store.image.image with
  | none => SiteState.blank
  | some v =>
    { v with
      outageNumber := raiseNumber v.outageNumber
      unlogged := satAdd v.unlogged (s.cellRaise v) }

/-- The next sequence: one more than the larger of the newest durable sequence and the last dropped sequence the cell
reports (R143, R187). On a BLANK part it is 1 (Table 7-3, log 27). -/
def startSequence (s : State) (site : SiteState) : Nat :=
  if site.siteCode.isNone then 1
  else max (s.newestDurable.getD 0) ((s.describingCell.bind (·.lastDropped)).getD 0) + 1

/-- The fields of the POWER_UP entry (R189). -/
def powerUpFields (cell : Option HoldCell) (s : State) : PowerUpFields where
  outageNumber := s.site.outageNumber
  start := cell.bind (·.start)
  finish := s.now
  cause := (cell.map (·.cause)).getD s.supply.startCause
  dropped := cell.map (·.dropped)
  firstDropped := cell.bind (·.firstDropped)

/-- Volatile state as each block's chapter gives it (R188). -/
def resetVolatile (s : State) : State :=
  { s with
    supply := { s.supply with started := true }
    slots := Vector.replicate 4 VendSlot.empty
    nextQuoteId := 1
    arbiter := Arbiter.initial
    working := WorkingSet.initial
    store := { s.store with queue := [], faulted := false, service := .idle, retryWaiting := false }
    buffer := []
    waiters := []
    journal := { s.journal with reservations := 0 }
    reserved := 0
    assembly := none
    conditions := ConditionUnit.initial
    officeRequest := none
    officePort := s.officePort.closed
    tillPorts := #v[(s.tillPorts.get 0).closed, (s.tillPorts.get 1).closed, (s.tillPorts.get 2).closed,
      (s.tillPorts.get 3).closed] }

/-- What is read from the Record Store taken into working state (R11, R143, R187). -/
def readStore (s : State) : State :=
  let site := startSite s
  { s with
    site
    directory := rebuildDirectory s.store.slots
    journal := { s.journal with nextSeq := startSequence s site } }

/-- The Calendar's test of the backup cell (R145). -/
def testCell (businessDay : Nat) (c : BackupCell) : Bool :=
  c.mark && c.dateTime.any fun d => inRange d && decide (businessDay ≤ d.day)

/-- The Calendar after its test; a failed one leaves no date-time, in the cell either (R145, log 29). -/
def testCalendar (s : State) : State :=
  if testCell s.site.businessDay s.cell then { s with calendar := ⟨s.cell.dateTime, true⟩ }
  else { s with calendar := ⟨none, false⟩, cell := { s.cell with dateTime := none } }

/-- The POWER_UP entry of a COMMISSIONED part; a dropped one posts no unit (R136, R189). -/
def postPowerUp (cell : Option HoldCell) (s : State) : State :=
  if s.commissioned then postSystemEntry (.powerUp (powerUpFields cell s)) false s else s

/-- A link as start-up sets it: its stored enable and rate (R190, R202). -/
def LinkPort.started (q : LinkPort) (v : LinkSettings) : LinkPort :=
  { q with link := if v.enabled then .active else .off, rate := v.rate }

/-- Every link as start-up sets it (R190). -/
def startLinks (s : State) : State :=
  { s with
    officePort := { s.officePort with link := .active }
    tillPorts := #v[(s.tillPorts.get 0).started (s.site.links.get 0), (s.tillPorts.get 1).started (s.site.links.get 1),
      (s.tillPorts.get 2).started (s.site.links.get 2), (s.tillPorts.get 3).started (s.site.links.get 3)] }

/-- Start-up's own comparison of the calendar day with the business day (R147, R190). -/
def startRollover (s : State) : State := if s.rolloverDue then rollover s else s

/-- Start-up up to its completion, in the order of R187 to R190. -/
def startUp (s : State) : State :=
  let cell := s.describingCell
  startRollover (startLinks (postPowerUp cell (reportLevels (testCalendar (resetVolatile (readStore s))))))

/-- START_UP (R187). -/
def execStartUp (s : State) : Result :=
  finish (if s.supply.state == .start && !s.supply.started then startUp s else s)

/-- START_UP_COMPLETE: RUN, POWER_UP arises, the ports open and the store begins to write (R190). -/
def execStartUpComplete (s : State) : Result :=
  finish (if s.supply.state == .start && s.supply.started then
    arise .powerUp { s with supply := { s.supply with state := .run, started := false } }
  else s)

end Sys2Proof.Machine
end

