-- ==== Sys2Proof/Machine/Tariffs.lean ====
section
/-! DEFINITION. The tariff requests: TARIFF_STAGE, TARIFF_UNSTAGE, TARIFF_LOAD_NOW, TARIFF_READ (02.3, 02.4). -/

namespace Sys2Proof.Machine

/-- A quarter frame refused at a step of Table 2-3, with a detail, empties the assembly area (R26). -/
def refuseQuarterWith (code : RefusalCode) (detail : Nat) (s : State) : State :=
  officeRefuseWith code detail { s with assembly := none }

/-- A quarter frame refused with no detail. -/
def refuseQuarter (code : RefusalCode) (s : State) : State := refuseQuarterWith code 0 s

/-- A quarter follows the collection in the area; quarter 0 starts one (R26). -/
def quarterFollows (purpose : Purpose) (quarter : Nat) (a : Option Assembly) : Bool :=
  quarter == 0 || a.any fun c => c.purpose == purpose && c.entries.length == 4 * quarter

/-- The area with a quarter taken (R26). -/
def addQuarter (purpose : Purpose) (quarter : Nat) (es : List RawEntry) (a : Option Assembly) : Assembly :=
  let entries := es.map RawEntry.entry
  if quarter = 0 then ⟨purpose, entries⟩ else ⟨purpose, (a.elim [] (·.entries)) ++ entries⟩

/-- The sixteen entries of a completed collection (R26). -/
def Assembly.set (a : Assembly) : TariffSet := Vector.ofFn fun i => a.entries.getD i.val none

/-- The index, 0 to 15, of the lowest-numbered invalid entry of a quarter's frame (R23). -/
def lowestInvalid (quarter : Nat) (es : List RawEntry) : Nat := 4 * quarter + es.findIdx fun e => !e.valid

/-- The detail a refusal of a quarter carries: TARIFF_INVALID names the entry (R23, Table 11-11). -/
def quarterDetail (code : RefusalCode) (quarter : Nat) (es : List RawEntry) : Nat :=
  if code = .tariffInvalid then lowestInvalid quarter es else 0

/-- Steps 5 to 7 and 9 of Table 2-3 for a quarter frame (R26, R27). -/
def quarterRefusal (purpose : Purpose) (quarter : Nat) (es : List RawEntry) (s : State) : Option RefusalCode :=
  if !quarterFollows purpose quarter s.assembly then some .stateConflict
  else if !es.all RawEntry.valid then some .tariffInvalid
  else if (match purpose with
      | .stage day => decide (day ≤ s.site.businessDay)
      | .load => false) then some .fieldRange
  else if quarter == 3 && s.commissioned && !s.roomForOffice then some .journalFull
  else none

/-- A completing STAGE asks to post; a BLANK part's unit carries no entry (R28). -/
def completeStage (a : Assembly) (day : Nat) (s : State) : State :=
  if s.commissioned then reserveAndPost (.tariffStage a.set day) s else postOrWait ⟨.tariffStage a.set day, false⟩ s

/-- A STAGE quarter that passed every check (R26, R28). -/
def takeStage (quarter : Nat) (es : List RawEntry) (day : Nat) (s : State) : State :=
  let a := addQuarter (.stage day) quarter es s.assembly
  let s1 := { s with assembly := some a }
  if quarter = 3 then completeStage a day s1 else officeReply (.stageOk (quarter + 1) none none) s1

/-- TARIFF_STAGE by Table 2-3 (R27). -/
def serveStage (body : List Byte) (s : State) : State :=
  match parseStage body with
  | none => refuseQuarter .fieldRange s
  | some (quarter, es, day) =>
    if s.storeFaultLatched then refuseQuarter .suspended s
    else
      match quarterRefusal (.stage day) quarter es s with
      | some code => refuseQuarterWith code (quarterDetail code quarter es) s
      | none => takeStage quarter es day s

/-- A LOAD quarter that passed every check (R26, R31). -/
def takeLoad (quarter : Nat) (es : List RawEntry) (s : State) : State :=
  let a := addQuarter .load quarter es s.assembly
  let s1 := { s with assembly := some a }
  if quarter = 3 then reserveAndPost (.tariffLoad a.set) s1 else officeReply (.loadOk (quarter + 1) none none) s1

/-- TARIFF_LOAD_NOW by Table 2-3 (R27). -/
def serveLoad (body : List Byte) (s : State) : State :=
  match parseLoad body with
  | none => refuseQuarter .fieldRange s
  | some (quarter, es) =>
    if !s.commissioned then refuseQuarter .notCommissioned s
    else if s.arbiter.hold != .held then refuseQuarter .notHeld s
    else if s.storeFaultLatched then refuseQuarter .suspended s
    else
      match quarterRefusal .load quarter es s with
      | some code => refuseQuarterWith code (quarterDetail code quarter es) s
      | none => takeLoad quarter es s

/-- TARIFF_UNSTAGE by Table 2-3; it leaves the area as it stands (R26, R30). -/
def serveUnstage (body : List Byte) (s : State) : State :=
  match parseNone body with
  | none => officeRefuse .fieldRange s
  | some _ =>
    if !s.commissioned then officeRefuse .notCommissioned s
    else if s.storeFaultLatched then officeRefuse .suspended s
    else if s.site.pendingSet.isNone then officeRefuse .stateConflict s
    else if s.roomForOffice then reserveAndPost .tariffUnstage s
    else officeRefuse .journalFull s

/-- The four entries of a quarter of a set (R32). -/
def quarterOf (v : TariffSet) (quarter : Nat) : List TariffEntry :=
  [v[4 * quarter]?.getD none, v[4 * quarter + 1]?.getD none, v[4 * quarter + 2]?.getD none, v[4 * quarter + 3]?.getD none]

/-- TARIFF_DATA (R32). -/
def tariffReply (sel : SetSelector) (quarter : Nat) (s : State) : Reply :=
  match sel with
  | .active => .tariffData .active quarter s.site.generation none (quarterOf s.site.active quarter)
  | .pending =>
    match s.site.pendingSet with
    | none => .tariffData .pending quarter s.site.generation none []
    | some p => .tariffData .pending quarter s.site.generation (some p.effectiveDay) (quarterOf p.entries quarter)

/-- TARIFF_READ, answered without an engine grant (R32). -/
def serveTariffRead (body : List Byte) (s : State) : State :=
  match parseTariffRead body with
  | none => officeRefuse .fieldRange s
  | some (sel, quarter) => officeReply (tariffReply sel quarter s) s

/-- TARIFF_STAGE (R26, R28). -/
def execTariffStage (tag : Byte) (body : List Byte) (s : State) : Result :=
  finish (takeOffice kindTariffStage tag body (serveStage body) s)

/-- TARIFF_UNSTAGE (R30). -/
def execTariffUnstage (tag : Byte) (body : List Byte) (s : State) : Result :=
  finish (takeOffice kindTariffUnstage tag body (serveUnstage body) s)

/-- TARIFF_LOAD_NOW (R31). -/
def execTariffLoadNow (tag : Byte) (body : List Byte) (s : State) : Result :=
  finish (takeOffice kindTariffLoadNow tag body (serveLoad body) s)

/-- TARIFF_READ (R32). -/
def execTariffRead (tag : Byte) (body : List Byte) (s : State) : Result :=
  finish (takeOffice kindTariffRead tag body (serveTariffRead body) s)

end Sys2Proof.Machine
end

