-- ==== Sys2Proof/Machine/Dispatch.lean ====
section
/-! DEFINITION. The dispatch of a command to its meaning: one arm per row of spec/opcode_table.json. -/

namespace Sys2Proof.Machine

/-- The effect of a command on everything but the queue (R56 to R207; each meaning cites its rule). -/
def exec (i : Instr) (s : State) : Host.Outcome State Fault Refusal :=
  match i with
  | .quote t tag body => Sys2Proof.Machine.execQuote t tag body s
  | .confirm t tag body => Sys2Proof.Machine.execConfirm t tag body s
  | .cancel t tag body => Sys2Proof.Machine.execCancel t tag body s
  | .reprint t tag body => Sys2Proof.Machine.execReprint t tag body s
  | .tillStatus t tag body => Sys2Proof.Machine.execTillStatus t tag body s
  | .meterEnrol tag body => Sys2Proof.Machine.execMeterEnrol tag body s
  | .meterEdit tag body => Sys2Proof.Machine.execMeterEdit tag body s
  | .meterBlock tag body => Sys2Proof.Machine.execMeterBlock tag body s
  | .meterUnblock tag body => Sys2Proof.Machine.execMeterUnblock tag body s
  | .meterRetire tag body => Sys2Proof.Machine.execMeterRetire tag body s
  | .meterPurge tag body => Sys2Proof.Machine.execMeterPurge tag body s
  | .meterRestore tag body => Sys2Proof.Machine.execMeterRestore tag body s
  | .meterRead tag body => Sys2Proof.Machine.execMeterRead tag body s
  | .tariffStage tag body => Sys2Proof.Machine.execTariffStage tag body s
  | .tariffUnstage tag body => Sys2Proof.Machine.execTariffUnstage tag body s
  | .tariffLoadNow tag body => Sys2Proof.Machine.execTariffLoadNow tag body s
  | .tariffRead tag body => Sys2Proof.Machine.execTariffRead tag body s
  | .budgetVoucher tag body => Sys2Proof.Machine.execBudgetVoucher tag body s
  | .budgetFloorSet tag body => Sys2Proof.Machine.execBudgetFloorSet tag body s
  | .journalRead tag body => Sys2Proof.Machine.execJournalRead tag body s
  | .journalRelease tag body => Sys2Proof.Machine.execJournalRelease tag body s
  | .clockSet tag body => Sys2Proof.Machine.execClockSet tag body s
  | .clockRead tag body => Sys2Proof.Machine.execClockRead tag body s
  | .summaryRead tag body => Sys2Proof.Machine.execSummaryRead tag body s
  | .totalsSnapshot tag body => Sys2Proof.Machine.execTotalsSnapshot tag body s
  | .tillClose tag body => Sys2Proof.Machine.execTillClose tag body s
  | .holdRequest tag body => Sys2Proof.Machine.execHoldRequest tag body s
  | .holdRelease tag body => Sys2Proof.Machine.execHoldRelease tag body s
  | .linkSet tag body => Sys2Proof.Machine.execLinkSet tag body s
  | .quoteTimeSet tag body => Sys2Proof.Machine.execQuoteTimeSet tag body s
  | .noticeMaskSet tag body => Sys2Proof.Machine.execNoticeMaskSet tag body s
  | .conditionClear tag body => Sys2Proof.Machine.execConditionClear tag body s
  | .statusRead tag body => Sys2Proof.Machine.execStatusRead tag body s
  | .siteCodeLoad tag body => Sys2Proof.Machine.execSiteCodeLoad tag body s
  | .storeRetry tag body => Sys2Proof.Machine.execStoreRetry tag body s
  | .unknownKind p kind tag body => Sys2Proof.Machine.execUnknownKind p kind tag body s
  | .frameDiscarded p chars => Sys2Proof.Machine.execFrameDiscarded p chars s
  | .frameTimeLimit p chars elapsed => Sys2Proof.Machine.execFrameTimeLimit p chars elapsed s
  | .frameTransmitted p => Sys2Proof.Machine.execFrameTransmitted p s
  | .linkEntersFault p => Sys2Proof.Machine.execLinkEntersFault p s
  | .linkFaultEnd p => Sys2Proof.Machine.execLinkFaultEnd p s
  | .linkSettingsTaken t => Sys2Proof.Machine.execLinkSettingsTaken t s
  | .engineGrant => Sys2Proof.Machine.execEngineGrant s
  | .quoteHoldExpiry t => Sys2Proof.Machine.execQuoteHoldExpiry t s
  | .officeHoldLapse => Sys2Proof.Machine.execOfficeHoldLapse s
  | .dayRollover => Sys2Proof.Machine.execDayRollover s
  | .recordFetchComplete damaged => Sys2Proof.Machine.execRecordFetchComplete damaged s
  | .areaReadComplete => Sys2Proof.Machine.execAreaReadComplete s
  | .unitWriteComplete r => Sys2Proof.Machine.execUnitWriteComplete r s
  | .retryAttemptComplete r => Sys2Proof.Machine.execRetryAttemptComplete r s
  | .supplyLow => Sys2Proof.Machine.execSupplyLow s
  | .supplyOk => Sys2Proof.Machine.execSupplyOk s
  | .resetAsserted => Sys2Proof.Machine.execResetAsserted s
  | .resetReleased => Sys2Proof.Machine.execResetReleased s
  | .drainWriteComplete r => Sys2Proof.Machine.execDrainWriteComplete r s
  | .holdCellWriteComplete r => Sys2Proof.Machine.execHoldCellWriteComplete r s
  | .startUp => Sys2Proof.Machine.execStartUp s
  | .startUpComplete => Sys2Proof.Machine.execStartUpComplete s
  | .calendarSecond => Sys2Proof.Machine.execCalendarSecond s
  | .backupCellFailed => Sys2Proof.Machine.execBackupCellFailed s

end Sys2Proof.Machine
end

