-- ==== Sys2Proof/Safety.lean ====
section
/-! DEFINITION. What claims speak of: the parts of the state a step keeps, the replies a port has ready, when a port takes a
request, and the laws that every step keeps. -/

namespace Sys2Proof.Machine

/-! ### Replies -/

/-- A reply as a frame (11.2). -/
def replyFrame (tag : Byte) (r : Reply) : Frame := ⟨replyKind r, tag, replyBody r⟩

/-- The frame of a ready item that is a reply. -/
def TxItem.replyFrame? : TxItem → Option Frame
  | .reply tag r _ => some (replyFrame tag r)
  | .notice _ => none

/-- The frame in transmission when it is no notice. -/
def LinkPort.sending (q : LinkPort) : List Frame :=
  match q.transmitting with
  | none => []
  | some f => if f.frame.kind = kindNotice then [] else [f.frame]

/-- The replies of a port that are in transmission or ready, in the order they leave it (R201). -/
def State.replies (s : State) (p : PortId) : List Frame :=
  (s.port p).sending ++ (s.port p).order.filterMap TxItem.replyFrame?

/-! ### Parts of the state -/

/-- The parts of the state that a claim names as changed or kept. The store's service and fetch queue and the
pending notices are no part: the step's end moves them on (R109, R174). -/
inductive Part where
  | supply
  | site
  | clock
  | areas
  | directory
  | lines
  | buffer
  | waiters
  | journal
  | reserved
  | slot (t : Till)
  | quoteIds
  | grants
  | hold
  | assembly
  | conditions
  | officeRequest
  | link (p : PortId)
  | outstanding (p : PortId)
  | replies (p : PortId)
  deriving DecidableEq, Repr

/-- What a link's settings and receiver stand at (R194, R202). -/
def LinkPort.standing (q : LinkPort) : LinkState × LinkRate × RxMode × Bool := (q.link, q.rate, q.receiver, q.settingsWaiting)

/-- The Record Store's areas with its fault state (Table 6-2, R112). -/
def RecordStore.areas (st : RecordStore) :
    List (Nat × StoredRecord) × List JournalEntry × List DaySummary × ImageArea × Option HoldCell × Bool :=
  (st.slots, st.journal, st.summaries, st.image, st.holdCell, st.faulted)

/-- A part is the same in two states. -/
def Part.same (s t : State) : Part → Prop
  | .supply => t.supply = s.supply
  | .site => t.site = s.site
  | .clock => t.calendar = s.calendar ∧ t.cell = s.cell
  | .areas => t.store.areas = s.store.areas
  | .directory => t.directory = s.directory
  | .lines => t.working = s.working
  | .buffer => t.buffer = s.buffer
  | .waiters => t.waiters = s.waiters
  | .journal => t.journal = s.journal
  | .reserved => t.reserved = s.reserved
  | .slot k => t.slot k = s.slot k
  | .quoteIds => t.nextQuoteId = s.nextQuoteId
  | .grants => t.arbiter.pending = s.arbiter.pending ∧ t.arbiter.pointer = s.arbiter.pointer
  | .hold => t.arbiter.hold = s.arbiter.hold ∧ t.arbiter.lapse = s.arbiter.lapse
  | .assembly => t.assembly = s.assembly
  | .conditions => t.conditions = s.conditions
  | .officeRequest => t.officeRequest = s.officeRequest
  | .link p => (t.port p).standing = (s.port p).standing
  | .outstanding p => (t.port p).outstanding = (s.port p).outstanding
  | .replies p => t.replies p = s.replies p

/-- A step changed no part but those of the list. -/
def keepsAllBut (changed : List Part) (s t : State) : Prop := ∀ p : Part, p ∉ changed → p.same s t

/-- A request's reply was made at its port and nothing is outstanding there (R199). -/
def replied (p : PortId) (tag : Byte) (r : Reply) (s t : State) : Prop :=
  t.replies p = s.replies p ++ [replyFrame tag r] ∧ (t.port p).outstanding = none

/-- A slot's answer to its till's request: made under the request's tag, and discarded where the link is not ACTIVE; not
made for a request that a link made OFF has ended (R77, R199). -/
def tillReplied (k : Till) (tag : Option Byte) (r : Reply) (s t : State) : Prop :=
  match tag with
  | none => t.replies (.till k) = s.replies (.till k) ∧ (t.port (.till k)).outstanding = (s.port (.till k)).outstanding
  | some g =>
    t.replies (.till k) = s.replies (.till k) ++ (if s.receives (.till k) = true then [replyFrame g r] else []) ∧
      (t.port (.till k)).outstanding = none

/-! ### When a port takes a request -/

/-- A good frame on the port is taken as its outstanding request (R199): the part is in RUN, the link ACTIVE, no
settings wait for the frame's end, and nothing is outstanding. -/
abbrev State.takes (s : State) (p : PortId) (tag : Byte) (body : List Byte) : Prop :=
  s.receives p = true ∧ (s.port p).settingsWaiting = false ∧ (s.port p).outstanding = none ∧ tag ≠ 0 ∧
    body.length ≤ maxBody

/-- No PENDING hold waits for nothing: one with the buffer empty has been granted (R81). Every step ends so. -/
abbrev State.holdAtRest (s : State) : Prop := s.arbiter.hold = .pending → s.buffer ≠ []

/-- A request that tests them finds the part COMMISSIONED and STORE_FAULT not latched. -/
abbrev State.editable (s : State) : Prop := s.commissioned = true ∧ s.storeFaultLatched = false

/-- A sales or office class unit posts at once: there is room in the buffer, nobody waits, and sales-free is above 16
(R121, R135). -/
abbrev State.ready (s : State) : Prop := s.postsAtOnce = true ∧ s.roomForOffice = true

/-! ### Posting -/

/-- The unit that a posted entry makes (R119, R120, R127, R128, R137): `now` is the date-time at the posting and `v` the
site state as the posting's own changes leave it. -/
def postedUnit (s : State) (kind : UnitKind) (part : Option RecordPart) (now : Option DateTime) (source : Source)
    (body : EntryBody) (v : SiteState) : CommitUnit :=
  ⟨kind, part, some ⟨s.journal.nextSeq, now, source, if v.unlogged = 0 then none else some v.unlogged, body⟩, none,
    { v with unlogged := 0 }⟩

/-- A unit with an entry was posted (R121): it stands at the newest end of the buffer, the working site state is the
image it took, the next sequence is one higher, and so many reservations are open. -/
def posts (u : CommitUnit) (reservations : Nat) (s t : State) : Prop :=
  t.buffer = s.buffer ++ [u] ∧ t.site = u.image ∧ t.journal = ⟨s.journal.nextSeq + 1, reservations⟩

/-- An office request's unit was posted at once: it held its reservation for no time (R134). -/
def officePosts (kind : UnitKind) (part : Option RecordPart) (body : EntryBody) (v : SiteState) (s t : State) : Prop :=
  posts (postedUnit s kind part s.now .office body v) s.journal.reservations s t

/-- The condition is one that follows a level (R170). -/
def Condition.isLevel : Condition → Bool
  | .journalHigh => true
  | .journalFull => true
  | .budgetLow => true
  | .lineFault => false
  | .storeFault => true
  | .clockInvalid => true
  | .tariffShifted => false
  | .holdLapsed => false
  | .powerUp => false

/-- A condition's latch. -/
def State.latched (s : State) (c : Condition) : Bool := conditionBit s.conditions.latches c

/-- The Condition Unit has been told every level as it stands, and the latch of a level that is present is set (R138,
R169, R170, R171). -/
def State.levelsAtRest (s : State) : Prop :=
  ∀ c : Condition, c.isLevel = true →
    conditionBit s.conditions.levels c = s.levelOf c ∧ (s.levelOf c = true → s.latched c = true)

/-- A notice for the condition is queued on the office port: pending, or in transmission (R173, R174). -/
def State.noticeQueued (s : State) (c : Condition) : Prop :=
  s.noticePending c = true ∨ ∃ f, s.officePort.transmitting = some f ∧ f.frame.kind = kindNotice ∧
    f.frame.body.head? = some (BitVec.ofNat 8 (conditionNumber c))

/-- At most one notice of each condition is pending (R173). -/
def State.noticesOnce (s : State) : Prop := ∀ c : Condition, (s.officePort.order.filter (· == .notice c)).length ≤ 1

/-- A level of the Journal that passed within a step: one open reservation more makes it present, and a reservation was
given back in the step that took one: by a unit that the STORE_FAULT latch withdrew (R124), by the quotes that the day
rollover of a CLOCK_SET closed (R76, R149), or by the quote that a LINK_SET closed (R77). -/
def passingLevel (c : Condition) (s t : State) : Prop :=
  (c = .journalHigh ∨ c = .journalFull) ∧ (s.storeFaultLatched = true ∨ s.site.businessDay < t.site.businessDay ∨
      ∃ k id, (s.slot k).state = .opened ∧ (t.slot k).lastClosed = some (id, .linkOff)) ∧
    State.levelOf { s with journal := { s.journal with reservations := s.journal.reservations + 1 } } c = true

/-- Only level conditions may have arisen: the till set and the latches of the event conditions stand, and no latch was
cleared (R169, R170). Which levels arose, LevelsReported says of every command: those that went from absent to present. -/
def onlyLevels (s t : State) : Prop :=
  t.conditions.tillSet = s.conditions.tillSet ∧
    ∀ c : Condition, if c.isLevel then (s.latched c = true → t.latched c = true) else t.latched c = s.latched c

/-- An office request's JOURNAL-ONLY unit was posted at once and its request answered; besides these, levels and the
parts named changed nothing (R130, R134). -/
def settingPosts (tag : Byte) (body : EntryBody) (v : SiteState) (reply : Reply) (more : List Part) (s t : State) : Prop :=
  officePosts .journalOnly none body v s t ∧ replied .office tag reply s t ∧ onlyLevels s t ∧
    keepsAllBut (more ++ [.site, .buffer, .journal, .conditions, .replies .office]) s t

/-- An office request's unit joined the post wait list at its end with a reservation of its own, its request still
outstanding (R122, R134). -/
def waits (j : Job) (tag kind : Byte) (s t : State) : Prop :=
  t.waiters = s.waiters ++ [⟨j, true⟩] ∧ t.journal = ⟨s.journal.nextSeq, s.journal.reservations + 1⟩ ∧
    (t.port .office).outstanding = some ⟨tag, kind⟩ ∧ onlyLevels s t ∧
    keepsAllBut [.waiters, .journal, .conditions, .outstanding .office] s t

/-- An office request was answered and nothing else changed. -/
def onlyReplies (tag : Byte) (reply : Reply) (s t : State) : Prop :=
  replied .office tag reply s t ∧ keepsAllBut [.replies .office] s t

/-- A verified unit stands in the Record Store's areas (R110, R119, R132, R155, R184): its record part in its slot, its
entry newest in the journal, its summary newest in the list, and its image the kept one. -/
def stored (u : CommitUnit) (s t : State) : Prop :=
  (∀ n, slotGet n t.store.slots = match u.part with
    | none => slotGet n s.store.slots
    | some (.image slot r) => if n = slot then some ⟨r, some r⟩ else slotGet n s.store.slots
    | some (.erase slot _) => if n = slot then none else slotGet n s.store.slots) ∧
  t.store.journal = (match u.entry with
    | none => s.store.journal
    | some e => (s.store.journal ++ [e]).drop (s.store.journal.length + 1 - journalPlaces)) ∧
  t.store.summaries = (match u.summary with
    | none => s.store.summaries
    | some d => (d :: s.store.summaries).take 31) ∧
  t.store.image.image = some u.image ∧ t.store.holdCell = s.store.holdCell

/-- The record slot of a unit's record part (R119). -/
def RecordPart.slot : RecordPart → Nat
  | .image n _ => n
  | .erase n _ => n

/-- A unit whose write failed leaves the kept image, the journal, the summaries and the hold cell as they stood. So it
leaves the record slots, but that an altered slot of its record part keeps its record under a check that no longer fits,
and stays free if it was free; every other slot is as before (R112, R184; log 9, log 10). -/
def leftUnstored (u : CommitUnit) (altered : Bool) (s t : State) : Prop :=
  t.store.image.image = s.store.image.image ∧ t.store.image.kept = s.store.image.kept ∧
    t.store.journal = s.store.journal ∧ t.store.summaries = s.store.summaries ∧ t.store.holdCell = s.store.holdCell ∧
    (altered = false ∨ u.part = none → t.store.slots = s.store.slots) ∧
    ∀ p, altered = true → u.part = some p → ∀ n, slotGet n t.store.slots =
      if n = p.slot then (slotGet n s.store.slots).map fun x => { x with check := none } else slotGet n s.store.slots

/-- What a record fetch leaves in the areas: the slot it found damaged holds its record under a check that no longer fits;
every other slot, the journal, the summaries, the image area, the hold cell and the fault state stand (R107, R184;
log 9). -/
def fetchLeaves (damaged : Bool) (slot : Nat) (s t : State) : Prop :=
  (∀ n, slotGet n t.store.slots = if n = slot ∧ damaged = true then
    (slotGet n s.store.slots).map fun x => { x with check := none } else slotGet n s.store.slots) ∧
  t.store.journal = s.store.journal ∧ t.store.summaries = s.store.summaries ∧ t.store.image = s.store.image ∧
  t.store.holdCell = s.store.holdCell ∧ t.store.faulted = s.store.faulted ∧
  (damaged = false → t.store.areas = s.store.areas)

/-- A line after a verified unit left the buffer: the dirty count of a stored record image's line falls by one (R104). -/
def lineAfterStore (u : CommitUnit) (s : State) (j : LineNo) : Line :=
  match u.part with
  | some (.image _ r) => if findLine r.meter s = some j then { s.line j with dirty := (s.line j).dirty - 1 } else s.line j
  | _ => s.line j

/-- The dirty count of a stored record image's line falls by one; no line changes otherwise (R104). -/
def linesAfterStore (u : CommitUnit) (s t : State) : Prop :=
  t.working.recency = s.working.recency ∧ ∀ j, t.line j = lineAfterStore u s j

/-- The unit that a waiting SYSTEM poster of the part brings when it posts (R120, R127, R131, R154). -/
def Waiter.systemUnit (s : State) (w : Waiter) : Option CommitUnit :=
  let unit := fun (body : EntryBody) (summary : Option DaySummary) =>
    if w.hasEntry = true then { postedUnit s .system none s.now .part body s.site with
        summary := summary.map fun d => { d with seq := some s.journal.nextSeq } }
    else ⟨.system, none, none, summary, s.site⟩
  match w.job with
  | .dayClose d => some (unit (.dayClose d.day d.counts) (some d))
  | .tariffShift g day => some (unit (.tariffShift g day) none)
  | .powerUp f => some (unit (.powerUp f) none)
  | _ => none

/-- An office request's unit was refused at the room that the verified write of the unit `u` offered it (R123): it left
the list, its reservation is released, `behind` still wait, and the unit `posted` of the next waiter took the room. -/
def refusedAtRoom (o : Outstanding) (u : CommitUnit) (rest : List CommitUnit) (code : RefusalCode) (area : Option Assembly)
    (w : Waiter) (behind : List Waiter) (posted : Option CommitUnit) (s t : State) : Prop :=
  let entries := if posted.any (·.entry.isSome) = true then 1 else 0
  t.waiters = behind ∧ t.buffer = rest ++ posted.toList ∧ t.site = (posted.map (·.image)).getD s.site ∧
    t.assembly = area ∧
    t.journal = ⟨s.journal.nextSeq + entries, s.journal.reservations - (if w.hasEntry = true then 1 else 0) - entries⟩ ∧
    stored u s t ∧ linesAfterStore u s t ∧ replied .office o.tag (.refused code o.kind 0 0) s t ∧ onlyLevels s t ∧
    keepsAllBut [.areas, .lines, .buffer, .waiters, .assembly, .site, .journal, .conditions, .outstanding .office,
      .replies .office] s t

/-- A quarter goes on with the collection in the assembly area: quarter 0 begins one (R26). -/
def State.quarterFits (s : State) (purpose : Purpose) (quarter : Nat) : Prop :=
  quarter = 0 ∨ ∃ a, s.assembly = some a ∧ a.purpose = purpose ∧ a.entries.length = 4 * quarter

/-- The entries collected before a quarter (R26). -/
def State.collected (s : State) (quarter : Nat) : List TariffEntry :=
  if quarter = 0 then [] else s.assembly.elim [] (·.entries)

/-- The sixteen entries of a list. -/
def setOf (es : List TariffEntry) : TariffSet := Vector.ofFn fun i => es.getD i.val none

/-- The state of a link whose receive side has taken its settings (R204). -/
def linkAfter (old : LinkState) (v : LinkSettings) : LinkState :=
  if v.enabled = true then (if old = .off then .active else old) else .off

/-- What a slot owes is discarded when its link becomes OFF (R199). -/
def VendSlot.unanswered (v : VendSlot) : VendSlot :=
  { v with quote := v.quote.map fun q => { q with replyTag := none }
           reprint := v.reprint.map fun w => { w with replyTag := none } }

/-- A slot with its work abandoned at the entry to HOLD (R181). -/
def VendSlot.dropped (v : VendSlot) : VendSlot :=
  { v with state := .idle, quote := none, abandon := none, timer := none, reprint := none }

/-- The OPEN quote of a slot. -/
def VendSlot.openQuote? (v : VendSlot) : Option QuoteRecord := if v.state = .opened then v.quote else none

/-- A slot whose quote closed with an outcome; its pin stays where a reprint in progress holds it (R65, R73). -/
def VendSlot.closedWith (v : VendSlot) (id : Nat) (outcome : CloseOutcome) : VendSlot :=
  { v with state := .idle, quote := none, abandon := none, timer := none, lastClosed := some (id, outcome)
           pin := if v.reprintHoldsPin = true then v.pin else none }

/-- A closed quote's reserved budget is given back and the slot's pin released, where no reprint in progress holds it
(R65, R73). -/
def givesBack (k : Till) (q : QuoteRecord) (s t : State) : Prop :=
  t.reserved = s.reserved - q.reservedBudget.getD 0 ∧
    (∀ j, t.line j = if (s.slot k).reprintHoldsPin = false ∧ findPinned (.slot k) s = some j then
      { s.line j with pin := none } else s.line j) ∧
    t.working.recency = s.working.recency

/-- The journal reservation that a closing quote gives back (R65). -/
def QuoteRecord.reservation (q : QuoteRecord) : Nat := if q.journalReservation = true then 1 else 0

/-- A slot as its link is made OFF (R77): an OPEN quote closes LINK_OFF, one in QUOTING or FETCHING takes the abandon
cause unless one is set, one in CONFIRMING or POSTING goes on, and so does a reprint; the replies it owes are discarded
(R199). -/
def VendSlot.cutOff (v : VendSlot) : VendSlot :=
  match v.state, v.openQuote? with
  | .quoting, _ => { v.unanswered with abandon := some (v.abandon.getD .linkOff) }
  | .fetching, _ => { v.unanswered with abandon := some (v.abandon.getD .linkOff) }
  | _, some q => v.unanswered.closedWith q.id .linkOff
  | _, none => v.unanswered

/-- A till link made OFF (R77, R199, R204): its port owes and holds nothing but a frame in transmission, and the slot's
OPEN quote gives back what it holds. -/
def linkCut (k : Till) (s t : State) : Prop :=
  t.slot k = (s.slot k).cutOff ∧ (t.port (.till k)).outstanding = none ∧ t.replies (.till k) = (s.port (.till k)).sending ∧
    match (s.slot k).openQuote? with
    | none => t.reserved = s.reserved ∧ t.working = s.working
    | some q => givesBack k q s t

/-! ### Lines -/

/-- The meter's line is VALID and unpinned and holds the record, and the owner pins no line: its lookup is a hit (R98). -/
abbrev State.hits (s : State) (o : Owner) (meter : Nat) (l : LineNo) (r : Record) : Prop :=
  findLine meter s = some l ∧ s.line l = ⟨.valid, some meter, none, (s.line l).dirty, some r⟩ ∧ r.meter = meter ∧
    findPinned o s = none

/-- The meter's line is VALID, pinned by the owner and by it alone, and holds the record (R98, R102). -/
abbrev State.pins (s : State) (o : Owner) (meter : Nat) (l : LineNo) (r : Record) : Prop :=
  findLine meter s = some l ∧ s.line l = ⟨.valid, some meter, some o, (s.line l).dirty, some r⟩ ∧ r.meter = meter ∧
    findPinned o s = some l

/-- One line changed, with the recency order as given. -/
def lineIs (l : LineNo) (v : Line) (order : List LineNo) (s t : State) : Prop :=
  t.line l = v ∧ (∀ j, j ≠ l → t.line j = s.line j) ∧ t.working.recency = order

/-- One line changed and moved to the most recent end (R97). -/
def lineBecomes (l : LineNo) (v : Line) (s t : State) : Prop :=
  t.line l = v ∧ (∀ j, j ≠ l → t.line j = s.line j) ∧ t.working.recency = s.working.recency.erase l ++ [l]

/-- An office record request missed (R12, R98, R99, R108): the victim line is FILLING for the meter and pinned to the
office, the fetch of the entry's slot is queued behind the others or begun by the idle store, and the request stays
outstanding until the fetch completes. -/
def missesFor (req : RecordRequest) (slot : Nat) (tag kind : Byte) (l : LineNo) (s t : State) : Prop :=
  lineBecomes l ⟨.filling, some req.meter, some .office, 0, none⟩ s t ∧ t.officeRequest = some req ∧
    (t.port .office).outstanding = some ⟨tag, kind⟩ ∧
    (s.store.service ≠ .idle → t.store.service = s.store.service ∧
      t.store.queue = s.store.queue ++ [.record l req.meter slot]) ∧
    (s.store.service = .idle → s.buffer = [] → s.store.queue = [] → s.store.retryWaiting = false →
      t.store.service = .reading (.record l req.meter slot) ∧ t.store.queue = []) ∧
    keepsAllBut [.lines, .officeRequest, .outstanding .office] s t

/-! ### What the Record Store serves (R108, R109) -/

/-- What an IDLE Record Store takes up, with the retry and the queue that are left: a waiting STORE_RETRY; a unit of a full
buffer while NORMAL; the oldest fetch; a unit while NORMAL; or nothing (R109). -/
def RecordStore.choice (faulted : Bool) (units : Nat) (retry : Bool) (queue : List Fetch) : Service × Bool × List Fetch :=
  if retry = true then (.retrying false, false, queue)
  else if faulted = false ∧ 4 ≤ units then (.writing, false, queue)
  else
    match queue with
    | f :: rest => (.reading f, false, rest)
    | [] => if faulted = false ∧ units ≠ 0 then (.writing, false, []) else (.idle, false, [])

/-- What the store is doing, whether a STORE_RETRY waits, and the fetch queue. -/
def RecordStore.work (st : RecordStore) : Service × Bool × List Fetch := (st.service, st.retryWaiting, st.queue)

/-- The command completes the store's operation: a fetch or an area read, a write that verified or failed a second time, an
attempt of a STORE_RETRY that verified or was the second (R101, R107, R110, R112, R115). -/
def State.completes (s : State) (c : Instr) : Prop :=
  match s.store.service with
  | .idle => False
  | .reading f => if f.isArea = true then c = .areaReadComplete else ∃ damaged, c = .recordFetchComplete damaged
  | .writing => s.buffer ≠ [] ∧ c = .unitWriteComplete .verified
  | .rewriting => s.buffer ≠ [] ∧ ∃ r, c = .unitWriteComplete r
  | .retrying second => s.buffer ≠ [] ∧ ∃ r, c = .retryAttemptComplete r ∧ (r = .verified ∨ second = true)

/-- The command is a first failure of the store's write or attempt, which is made once more (R111, R115). -/
def State.tryAgain (s : State) (c : Instr) : Option Service :=
  match c, s.store.service, s.buffer with
  | .unitWriteComplete (.failed _), .writing, _ :: _ => some .rewriting
  | .retryAttemptComplete (.failed _), .retrying false, _ :: _ => some (.retrying true)
  | _, _, _ => none

/-! ### Requests as commands -/

/-- The port, kind, tag and body of a command that is a request frame. -/
def Request.of : Instr → Option (PortId × Byte × Byte × List Byte)
  | .quote t tag body => some (.till t, kindQuote, tag, body)
  | .confirm t tag body => some (.till t, kindConfirm, tag, body)
  | .cancel t tag body => some (.till t, kindCancel, tag, body)
  | .reprint t tag body => some (.till t, kindReprint, tag, body)
  | .tillStatus t tag body => some (.till t, kindTillStatus, tag, body)
  | .meterEnrol tag body => some (.office, kindMeterEnrol, tag, body)
  | .meterEdit tag body => some (.office, kindMeterEdit, tag, body)
  | .meterBlock tag body => some (.office, kindMeterBlock, tag, body)
  | .meterUnblock tag body => some (.office, kindMeterUnblock, tag, body)
  | .meterRetire tag body => some (.office, kindMeterRetire, tag, body)
  | .meterPurge tag body => some (.office, kindMeterPurge, tag, body)
  | .meterRestore tag body => some (.office, kindMeterRestore, tag, body)
  | .meterRead tag body => some (.office, kindMeterRead, tag, body)
  | .tariffStage tag body => some (.office, kindTariffStage, tag, body)
  | .tariffUnstage tag body => some (.office, kindTariffUnstage, tag, body)
  | .tariffLoadNow tag body => some (.office, kindTariffLoadNow, tag, body)
  | .tariffRead tag body => some (.office, kindTariffRead, tag, body)
  | .budgetVoucher tag body => some (.office, kindBudgetVoucher, tag, body)
  | .budgetFloorSet tag body => some (.office, kindBudgetFloorSet, tag, body)
  | .journalRead tag body => some (.office, kindJournalRead, tag, body)
  | .journalRelease tag body => some (.office, kindJournalRelease, tag, body)
  | .clockSet tag body => some (.office, kindClockSet, tag, body)
  | .clockRead tag body => some (.office, kindClockRead, tag, body)
  | .summaryRead tag body => some (.office, kindSummaryRead, tag, body)
  | .totalsSnapshot tag body => some (.office, kindTotalsSnapshot, tag, body)
  | .tillClose tag body => some (.office, kindTillClose, tag, body)
  | .holdRequest tag body => some (.office, kindHoldRequest, tag, body)
  | .holdRelease tag body => some (.office, kindHoldRelease, tag, body)
  | .linkSet tag body => some (.office, kindLinkSet, tag, body)
  | .quoteTimeSet tag body => some (.office, kindQuoteTimeSet, tag, body)
  | .noticeMaskSet tag body => some (.office, kindNoticeMaskSet, tag, body)
  | .conditionClear tag body => some (.office, kindConditionClear, tag, body)
  | .statusRead tag body => some (.office, kindStatusRead, tag, body)
  | .siteCodeLoad tag body => some (.office, kindSiteCodeLoad, tag, body)
  | .storeRetry tag body => some (.office, kindStoreRetry, tag, body)
  | .unknownKind p kind tag body => some (p, kind, tag, body)
  | .frameDiscarded _ _ => none
  | .frameTimeLimit _ _ _ => none
  | .frameTransmitted _ => none
  | .linkEntersFault _ => none
  | .linkFaultEnd _ => none
  | .linkSettingsTaken _ => none
  | .engineGrant => none
  | .quoteHoldExpiry _ => none
  | .officeHoldLapse => none
  | .dayRollover => none
  | .recordFetchComplete _ => none
  | .areaReadComplete => none
  | .unitWriteComplete _ => none
  | .retryAttemptComplete _ => none
  | .supplyLow => none
  | .supplyOk => none
  | .resetAsserted => none
  | .resetReleased => none
  | .drainWriteComplete _ => none
  | .holdCellWriteComplete _ => none
  | .startUp => none
  | .startUpComplete => none
  | .calendarSecond => none
  | .backupCellFailed => none

/-- A request's body passes the field check of its first step (R205). The requests that carry no fields have an empty
body. -/
def Request.fieldsOk (kind : Byte) (body : List Byte) : Bool :=
  if kind = kindQuote then (parseQuote body).isSome
  else if kind = kindConfirm then (parseConfirm body).isSome
  else if kind = kindCancel then (parseCancel body).isSome
  else if kind = kindReprint then (parseReprint body).isSome
  else if kind = kindMeterEnrol then (parseEnrol body).isSome
  else if kind = kindMeterEdit then (parseEdit body).isSome
  else if [kindMeterBlock, kindMeterUnblock, kindMeterRetire, kindMeterPurge, kindMeterRead].contains kind then
    (parseMeter body).isSome
  else if kind = kindMeterRestore then (parseRestore body).isSome
  else if kind = kindTariffStage then (parseStage body).isSome
  else if kind = kindTariffLoadNow then (parseLoad body).isSome
  else if kind = kindTariffRead then (parseTariffRead body).isSome
  else if kind = kindBudgetVoucher then (parseVoucher body).isSome
  else if kind = kindBudgetFloorSet then (parseFloor body).isSome
  else if kind = kindJournalRead then (parseJournalRead body).isSome
  else if kind = kindJournalRelease then (parseRelease body).isSome
  else if kind = kindClockSet then (parseClock body).isSome
  else if kind = kindSummaryRead then (parseSummary body).isSome
  else if kind = kindTillClose then (parseTillClose body).isSome
  else if kind = kindLinkSet then (parseLinkSet body).isSome
  else if kind = kindQuoteTimeSet then (parseQuoteTime body).isSome
  else if kind = kindNoticeMaskSet ∨ kind = kindConditionClear then (parseConditions body).isSome
  else if kind = kindSiteCodeLoad then (parseSiteCode body).isSome
  else (parseNone body).isSome

/-- The quote id a CONFIRM or a CANCEL names; no other request names one in a refusal (Table 11-11, note 1). -/
def Request.namedId (kind : Byte) (body : List Byte) : Nat :=
  if kind = kindConfirm then confirmNames body
  else if kind = kindCancel then (parseCancel body).getD 0
  else 0

/-- A quarter frame, whose refusal empties the assembly area (R26). -/
def Request.isQuarter (kind : Byte) : Bool := kind == kindTariffStage || kind == kindTariffLoadNow

/-- The requests served on a BLANK part (Table 5-7). -/
def Request.servedBlank : List Byte :=
  [kindTillStatus, kindStatusRead, kindClockSet, kindClockRead, kindLinkSet, kindTariffStage, kindTariffRead,
   kindSiteCodeLoad]

/-- The requests whose refusal order has a STORE_FAULT step (R114). -/
def Request.suspended : List Byte :=
  [kindQuote, kindConfirm, kindReprint, kindMeterEnrol, kindMeterEdit, kindMeterBlock, kindMeterUnblock, kindMeterRetire,
   kindMeterPurge, kindMeterRestore, kindTariffStage, kindTariffUnstage, kindTariffLoadNow, kindBudgetVoucher,
   kindBudgetFloorSet, kindClockSet, kindTillClose, kindHoldRequest, kindLinkSet, kindQuoteTimeSet, kindNoticeMaskSet,
   kindSiteCodeLoad]

/-- The steps that stand before the STORE_FAULT step of such a request, after its fields: the part is COMMISSIONED, but
for the four requests that a BLANK part serves; QUOTE, CONFIRM, REPRINT, METER_ENROL and SITE_CODE_LOAD need the calendar
valid; METER_PURGE, METER_RESTORE and TARIFF_LOAD_NOW need the office hold held (R12, R27, R59, R67, R74, R93). -/
def Request.reachesStore (kind : Byte) (s : State) : Bool :=
  (if kind = kindSiteCodeLoad then !s.commissioned
    else [kindTariffStage, kindClockSet, kindLinkSet].contains kind || s.commissioned) &&
  (!([kindQuote, kindConfirm, kindReprint, kindMeterEnrol, kindSiteCodeLoad].contains kind) || s.calendar.valid) &&
  (!([kindMeterPurge, kindMeterRestore, kindTariffLoadNow].contains kind) || s.arbiter.hold == .held)

/-- A request was refused: its reply is the refusal, and nothing else changed but a refused quarter's area (R26). -/
def refusedWith (p : PortId) (kind tag : Byte) (code : RefusalCode) (id detail : Nat) (s t : State) : Prop :=
  replied p tag (.refused code kind id detail) s t ∧
    if Request.isQuarter kind then keepsAllBut [.replies p, .assembly] s t ∧ t.assembly = none
    else keepsAllBut [.replies p] s t

/-! ### Laws that every step keeps -/

/-- While arisings are taken, the levels and their latches are at rest (R170). -/
def LevelLaw (s : State) : Prop := s.takesArisings = true → s.levelsAtRest

/-- The Commit Buffer never holds more than four units (R121). -/
def BufferLaw (s : State) : Prop := s.buffer.length ≤ bufferSize

/-- Every line stands at one place of the recency order (R96). -/
def RecencyLaw (s : State) : Prop := s.working.recency.Perm allLines

/-- The directory's entries name distinct record slots, each from 0 to 8,191 (R9). -/
def DirectorySlots (d : List DirEntry) : Prop := (d.map (·.slot)).Nodup ∧ ∀ e ∈ d, e.slot < recordSlots

/-- The record slot that a poster's unit names (R10). -/
def Job.recordSlot : Job → Option Nat
  | .enrol n _ => some n
  | .edit n _ _ => some n
  | .accountState n _ _ => some n
  | .purge n _ => some n
  | .restore n _ => some n
  | _ => none

/-- The record slot that a fetch reads. -/
def Fetch.recordSlot : Fetch → Option Nat
  | .record _ _ n => some n
  | _ => none

/-- The fetch in service and the queued ones (R107). -/
def RecordStore.fetches (v : RecordStore) : List Fetch :=
  (match v.service with
   | .reading f => [f]
   | _ => []) ++ v.queue

/-- Every record slot that some part of the state names: the directory, a waiting METER_ENROL, the store, the posters'
units on the post wait list, the buffer's units and the fetches. -/
def State.namedSlots (s : State) : List Nat :=
  s.takenSlots ++ s.store.slots.map (·.1) ++ s.waiters.filterMap (·.job.recordSlot) ++
    s.buffer.filterMap (fun u => u.part.map (·.slot)) ++ s.store.fetches.filterMap Fetch.recordSlot

/-- No two directory entries and no waiting METER_ENROL name one record slot, and every slot named anywhere is one of the
part's 8,192 (R9, R10). -/
def SlotLaw (s : State) : Prop := s.takenSlots.Nodup ∧ ∀ n ∈ s.namedSlots, n < recordSlots

/-- The directory is sorted by increasing meter number, with no meter twice (R9), and the record slots of the store are
held in rising order. -/
def DirectoryLaw (s : State) : Prop :=
  s.directory.Pairwise (fun a b => a.meter < b.meter) ∧ s.store.slots.Pairwise (fun a b => a.1 < b.1)

/-- A valid calendar holds a date-time in range, on a day not before the business day; one that is not valid holds none
(R144, R146). -/
def CalendarLaw (s : State) : Prop :=
  match s.calendar.dateTime with
  | none => s.calendar.valid = false
  | some d => s.calendar.valid = true ∧ inRange d = true ∧ s.site.businessDay ≤ d.day

/-- A pending set's effective day is later than the business day (R25). -/
def SiteState.stagedLater (v : SiteState) : Prop := ∀ p, v.pendingSet = some p → v.businessDay < p.effectiveDay

/-- The law of R25 in working state, in the image of every unit in the buffer and in both places of the image area. -/
def PendingSetLaw (s : State) : Prop :=
  s.site.stagedLater ∧ (∀ u ∈ s.buffer, u.image.stagedLater) ∧ (∀ v, s.store.image.first = some v → v.stagedLater) ∧
    ∀ v, s.store.image.second = some v → v.stagedLater

/-- A quote record holds its tender as its reserved budget exactly when it is priced, and consumes no more (R54, R161). -/
def QuoteRecord.sound (q : QuoteRecord) : Prop :=
  match q.priced with
  | none => q.reservedBudget = none
  | some p => q.reservedBudget = some q.tender ∧ p.consumed ≤ q.tender

/-- A slot's quote is sound; an IDLE slot holds none, and a QUOTING or FETCHING one is not priced yet (Table 4-1). -/
def VendSlot.sound (v : VendSlot) : Prop :=
  match v.quote with
  | none => True
  | some q => q.sound ∧ v.state ≠ .idle ∧ (v.state = .quoting ∨ v.state = .fetching → q.priced = none)

/-- The budget a slot's quote has reserved. -/
def VendSlot.reservedBudget (v : VendSlot) : Nat := (v.quote.bind (·.reservedBudget)).getD 0

/-- R is the sum of the tenders reserved by the quotes, and never exceeds B (R161); the law holds while the part
serves, from start-up's setting of R to the entry to HOLD (R181). -/
def BudgetLaw (s : State) : Prop :=
  s.takesArisings = true →
    s.reserved = (s.slot 0).reservedBudget + (s.slot 1).reservedBudget + (s.slot 2).reservedBudget +
      (s.slot 3).reservedBudget ∧
    s.reserved ≤ s.site.budget ∧ ∀ t, (s.slot t).sound

/-- A defined tariff entry within the ranges of Table 2-1 (R22, R23). -/
abbrev Tariff.valid (tf : Tariff) : Prop :=
  tf.prices.length = tf.bounds.length + 1 ∧ tf.prices.length ≤ 4 ∧ tf.serviceCharge ≤ 99999 ∧ tf.lifeline ≤ 5000 ∧
    boundsValid 0 tf.bounds = true ∧ ∀ p ∈ tf.prices, 1 ≤ p ∧ p ≤ 999999

/-- The money of a quote's block lines (R46). -/
def lineMoney (ls : List BlockLine) : Nat := (ls.map (·.money)).sum

/-- The tenths of a quote's block lines (R46). -/
def lineTakes (ls : List BlockLine) : Nat := (ls.map (·.take)).sum

/-- The lines of the blocks before a block (R46). -/
def linesBefore (i : Nat) (ls : List BlockLine) : List BlockLine := ls.filter fun l => decide (l.block < i)

/-- The tenths taken at a block, 0 where it has no line (R46). -/
def takeAt (i : Nat) (ls : List BlockLine) : Nat := lineTakes (ls.filter fun l => decide (l.block = i))

/-- The lines, change and new residue are those of the walk of R46 to R48 over the blocks of a tariff, from month-to-date
`m` with the cap `cap`, the money for energy `v` and the residue `q`. It starts at the first block whose bound exceeds
`m`, or at the last; the take at each block is the smallest of its room, the affordable count and what the cap leaves;
it moves on where the take was the room and the cap is not reached. At the cap the change is the whole cents left, but
not more than `v`; by affordability it is 0. -/
def walked (tf : Tariff) (m cap v q : Nat) (ls : List BlockLine) (change residue : Nat) : Prop :=
  let bound := fun i => tf.bounds.getD (i - 1) 0
  let price := fun i => tf.prices.getD (i - 1) 0
  let left := v * 1000 + q - lineMoney ls
  ∃ start stop, 1 ≤ start ∧ start ≤ stop ∧ stop ≤ tf.prices.length ∧
    (∀ i, 1 ≤ i → i < start → bound i ≤ m) ∧ (start < tf.prices.length → m < bound start) ∧
    ls.Pairwise (fun a b => a.block < b.block) ∧ (∀ l ∈ ls, start ≤ l.block ∧ l.block ≤ stop) ∧
    (let room := fun i => if i = start then bound i - m else bound i - bound (i - 1)
     let least := fun i => min ((v * 1000 + q - lineMoney (linesBefore i ls)) / price i) (cap - lineTakes (linesBefore i ls))
     (∀ i, start ≤ i → i ≤ stop → takeAt i ls = if i < tf.prices.length then min (room i) (least i) else least i) ∧
     (∀ i, start ≤ i → i < stop → takeAt i ls = room i ∧ lineTakes (linesBefore (i + 1) ls) ≠ cap) ∧
     (lineTakes ls ≠ cap → (stop < tf.prices.length → takeAt stop ls ≠ room stop) ∧ left < price stop)) ∧
    (if lineTakes ls = cap then change = min (left / 1000) v ∧ residue = left - change * 1000
     else change = 0 ∧ residue = left)

end Sys2Proof.Machine
end

