-- ==== Sys2Proof/Certificates/Slice0/Obligations.lean ====
section
/-! DEFINITION. The statements for the provers: what each command does, and the laws that every step keeps. -/

open Sys2Proof Sys2Proof.Machine

/-! ### The machine -/

/-- A step takes the command at the front of the queue; on an empty queue the part idles (log 1, the model's choice). -/
def Obligations.StepRunsFront : Prop :=
  (∀ (c : Instr) (rest : List Instr) (s : State), s.pending = c :: rest → step s = exec c { s with pending := rest }) ∧
    ∀ s : State, s.pending = [] → step s = .next s

/-- What reset leaves: a part that has had no supply (R179, R118) with the values of R191, and every law below holds
of it. The volatile values that start-up writes again are the model's (log 5). -/
def Obligations.ResetStanding : Prop :=
  State.reset.supply.state = .down ∧ State.reset.supply.levelOk = false ∧
    State.reset.site.siteCode = none ∧ State.reset.site.budget = 0 ∧ State.reset.site.lastVoucher = 0 ∧
    State.reset.site.floor = 100000 ∧ State.reset.site.quoteHoldTime = 90 ∧ State.reset.site.generation = 0 ∧
    State.reset.site.pendingSet = none ∧ (∀ i : Fin 16, State.reset.site.active.get i = none) ∧
    (∀ k : Till, State.reset.site.links.get k = ⟨false, .r19200⟩) ∧
    (∀ c : Condition, conditionBit State.reset.site.mask c = true) ∧
    State.reset.site.businessDay = 0 ∧ State.reset.site.outageNumber = 0 ∧ State.reset.site.releasePoint = 0 ∧
    State.reset.site.unlogged = 0 ∧ State.reset.journal.nextSeq = 1 ∧
    State.reset.store.slots = [] ∧ State.reset.store.journal = [] ∧ State.reset.store.summaries = [] ∧
    State.reset.store.image.image = none ∧ State.reset.store.holdCell = none ∧ State.reset.directory = [] ∧
    State.reset.cell.mark = false ∧ State.reset.calendar = ⟨none, false⟩ ∧ State.reset.pending = [] ∧
    BufferLaw State.reset ∧ RecencyLaw State.reset ∧ DirectoryLaw State.reset ∧ SlotLaw State.reset ∧
    CalendarLaw State.reset ∧ PendingSetLaw State.reset ∧ BudgetLaw State.reset ∧ LevelLaw State.reset ∧
    State.reset.noticesOnce ∧ State.reset.holdAtRest

/-- Every command answers a next state, in every state, and leaves the queue alone: no form of any command stops. It says
nothing of what a command does. The model's choices: that nothing stops the machine and an event that is not due changes
nothing (log 2), and that one command is one step (log 1). -/
def Obligations.EveryCommandAnswers : Prop :=
  ∀ (c : Instr) (s : State), ∃ t, exec c s = .next t ∧ t.pending = s.pending

/-- What every command in RUN ends with. A PENDING office hold beside an empty Commit Buffer has been granted (R81), and
an ACTIVE link with a frame ready has one in transmission (R201). The Record Store goes on with its operation, and makes
a write or an attempt that failed once again (R108, R111, R112, R115). Idle before the command or by it, it has taken up
the first that applies of R109: a waiting STORE_RETRY; the oldest unit of a full buffer while NORMAL, before any fetch;
the oldest fetch; the oldest unit while NORMAL; while FAULTED it begins no unit write. The fetches keep the order of
their arrival, and a command adds one at most, at the end (R108). The model's choice: all this falls in the step that
makes it due (log 6). -/
def Obligations.StepEndsSettled : Prop :=
  ∀ (c : Instr) (s t : State), exec c s = .next t → t.running = true →
    t.holdAtRest ∧
    (∀ p, (t.port p).link = .active → (t.port p).order ≠ [] → (t.port p).transmitting ≠ none) ∧
    (s.completes c → t.store.work =
      RecordStore.choice t.store.faulted t.buffer.length s.store.retryWaiting s.store.queue) ∧
    (¬s.completes c → ∃ (retry : Bool) (more : List Fetch),
      (s.store.retryWaiting = true → retry = true) ∧
      (retry = true → s.store.retryWaiting = true ∨ ∃ tag body, c = .storeRetry tag body) ∧
      more.length ≤ 1 ∧ (more ≠ [] → c = .engineGrant ∨ (Request.of c).isSome = true) ∧
      t.store.work =
        if s.store.service = .idle then
          RecordStore.choice t.store.faulted t.buffer.length retry (s.store.queue ++ more)
        else ((s.tryAgain c).getD s.store.service, retry, s.store.queue ++ more))

/-- The level conditions follow their levels (R170), told of every change of sales-free, B, R and the floor (R138,
R171), of the store's fault state and of the valid flag: while arisings are taken, every step leaves the levels at rest,
a level that is present latched (R169). By any command but CONDITION_CLEAR no latch is cleared; a level that goes from
absent to present is latched, and its notice is queued while its enable is on (R173); the latch of one that is absent
before and after stands, and no notice of it is queued, but for a level that passed within the step (`passingLevel`);
with the enable off no notice is queued. An event condition is latched by its event alone (R172): a till link's FAULT, a
shift at a rollover, the lapse of the hold, the completion of start-up. At most one notice of a condition is pending
(R173). The model's choices: the levels present at once arise in one order (log 45), and the order of the rollover's
effects (log 23). -/
def Obligations.LevelsReported : Prop :=
  (∀ s t : State, LevelLaw s → step s = .next t → LevelLaw t) ∧
  (∀ s t : State, s.noticesOnce → step s = .next t → t.noticesOnce) ∧
  ∀ (c : Instr) (s t : State), LevelLaw s → s.takesArisings = true → t.takesArisings = true →
    (∀ tag body, c ≠ .conditionClear tag body) → exec c s = .next t →
    (∀ d : Condition, s.latched d = true → t.latched d = true) ∧
    (∀ d : Condition, d.isLevel = true →
      (s.levelOf d = false → t.levelOf d = true → t.latched d = true ∧
        (conditionBit s.site.mask d = true → conditionBit t.site.mask d = true → t.noticeQueued d)) ∧
      (s.levelOf d = false → t.levelOf d = false → passingLevel d s t ∨
        t.latched d = s.latched d ∧ (t.noticePending d = true → s.noticePending d = true)) ∧
      (conditionBit s.site.mask d = false → conditionBit t.site.mask d = false → t.noticePending d = true →
        s.noticePending d = true)) ∧
    (∀ d : Condition, d.isLevel = false → s.latched d = false → t.latched d = true →
      (d = .lineFault ∧ ∃ k, c = .linkEntersFault (.till k)) ∨
      (d = .tariffShifted ∧ s.site.businessDay < t.site.businessDay ∧ s.site.pendingSet ≠ none) ∨
      (d = .holdLapsed ∧ c = .officeHoldLapse) ∨ (d = .powerUp ∧ c = .startUpComplete))

/-! ### Laws that every step keeps -/

/-- No step posts a fifth unit (R121). -/
def Obligations.StepKeepsBufferLaw : Prop := ∀ s t : State, BufferLaw s → step s = .next t → BufferLaw t

/-- Every line keeps exactly one place in the recency order (R96). -/
def Obligations.StepKeepsRecencyLaw : Prop := ∀ s t : State, RecencyLaw s → step s = .next t → RecencyLaw t

/-- The directory stays sorted by increasing meter number with no meter twice, and the record slots in their order. With
it the law of the record slots is kept: no two entries name one slot, nor does a METER_ENROL unit that waits (R10), and
every slot that the directory, the store, a unit or a fetch names is from 0 to 8,191. So the directory's entries stay at
distinct slots and it holds at most 8,192 of them (R9). -/
def Obligations.StepKeepsDirectoryLaw : Prop :=
  (∀ s t : State, DirectoryLaw s → step s = .next t → DirectoryLaw t) ∧
    ∀ s t : State, DirectoryLaw s → SlotLaw s → step s = .next t →
      SlotLaw t ∧ DirectorySlots t.directory ∧ t.directory.length ≤ 8192

/-- While the valid flag is yes the date-time is in range and the business day is never later than its day (R146); with
the flag no the Calendar holds no date-time (R144). -/
def Obligations.StepKeepsCalendarLaw : Prop := ∀ s t : State, CalendarLaw s → step s = .next t → CalendarLaw t

/-- Whenever a pending set exists its effective day is later than the business day (R25), in working state, in every
unit of the buffer and in the stored images. -/
def Obligations.StepKeepsPendingSetLaw : Prop := ∀ s t : State, PendingSetLaw s → step s = .next t → PendingSetLaw t

/-- R is the sum of the reserved tenders and never exceeds B (R161): the office never sells more than the budget. -/
def Obligations.StepKeepsBudgetLaw : Prop := ∀ s t : State, BudgetLaw s → step s = .next t → BudgetLaw t

/-! ### Frames, bodies, tokens -/

/-- A character on its line is a start bit at the spacing level, the eight data bits, least significant first, and a stop
bit at the marking level (R193; that a data bit of 1 is the marking level is log 50). From a line at rest, the levels of
a frame are read as its characters, and from HUNT the characters of a frame with a tag and a body of at most 200 bytes
end it as that good frame: the receiver reads back every frame that the sender forms (R194, R195). -/
def Obligations.ReceiverReadsFrame : Prop :=
  (∀ b : Byte, (charLevels b).length = 10 ∧ (charLevels b)[0]? = some .spacing ∧ (charLevels b)[9]? = some .marking ∧
    ∀ i, i < 8 → (charLevels b)[i + 1]? = some (if b.getLsbD i = true then .marking else .spacing)) ∧
  ∀ f : Frame, f.tag ≠ 0 → f.body.length ≤ maxBody →
    (∀ n, readLine .rest (List.replicate n .marking ++ frameLevels f) = (wireBytes f).map fun b => ⟨b, true⟩) ∧
    receive .hunt ((wireBytes f).map fun b => ⟨b, true⟩) = (.hunt, some (.good f))

/-- Every request body read by its parser gives back what its sender wrote, at every value of the ranges of the rules; a
recovery rate above 50 is clamped to 50 (R14, R16, R18, R205). The model's choices: the layouts (log 14 to 16), a list
of conditions (log 35) and the size of a summary index (log 48). -/
def Obligations.RequestBodiesReadBack : Prop :=
  (∀ meter tender, meterInRange meter = true → tender ≤ maxTender →
    parseQuote (quoteBody meter tender) = some (meter, tender)) ∧
  (∀ meter id, meterInRange meter = true → 1 ≤ id → id ≤ 65535 → parseConfirm (confirmBody meter id) = some (meter, id)) ∧
  (∀ id, id ≤ 65535 → parseCancel (cancelBody id) = some id) ∧
  (∀ meter index, meterInRange meter = true → index ≤ 2 → parseReprint (reprintBody meter index) = some (meter, index)) ∧
  (∀ meter, meterInRange meter = true → parseMeter (meterBody meter) = some meter) ∧
  (∀ meter tariff eligible rate arrears, meterInRange meter = true → tariff ≤ 15 → rate ≤ 255 → arrears ≤ maxArrears →
    parseEnrol (enrolBody meter tariff eligible rate arrears) = some (meter, tariff, eligible, min rate 50, arrears)) ∧
  (∀ e : EditRequest, meterInRange e.meter = true → (∀ v, e.tariffIndex = some v → v ≤ 15) →
    (∀ v, e.recoveryRate = some v → v ≤ 254) → (∀ v, e.arrears = some v → v ≤ maxArrears) →
    (e.tariffIndex.isSome || e.recoveryRate.isSome || e.arrears.isSome || e.lifelineEligible.isSome) = true →
    parseEdit (editBody e) = some { e with recoveryRate := e.recoveryRate.map fun v => min v 50 }) ∧
  (∀ r : Record, meterInRange r.meter = true → r.tariffIndex ≤ 15 → r.recoveryRate ≤ 255 → r.arrears ≤ maxArrears →
    r.monthTag ≤ maxMonthTag → r.monthUnits ≤ maxMonthUnits → r.residue ≤ maxResidue → r.lastToken ≤ 999 →
    r.enrolDay ≤ lastDay → r.recent = [] → r.lastSeq = 0 →
    parseRestore (restoreBody r) = some { r with recoveryRate := min r.recoveryRate 50 }) ∧
  (∀ serial amount, 1 ≤ serial → serial ≤ max32 → 1 ≤ amount → amount ≤ maxBudget →
    parseVoucher (voucherBody serial amount) = some (serial, amount)) ∧
  (∀ v, v ≤ maxBudget → parseFloor (floorBody v) = some v) ∧
  (∀ start count, 1 ≤ start → start ≤ max32 → 1 ≤ count → count ≤ 4 →
    parseJournalRead (journalReadBody start count) = some (start, count)) ∧
  (∀ upto, upto ≤ max32 → parseRelease (releaseBody upto) = some upto) ∧
  (∀ d : DateTime, inRange d = true → parseClock (dateTimeBytes d) = some d) ∧
  (∀ i, i ≤ 30 → parseSummary (summaryBody i) = some i) ∧
  (∀ k : Till, parseTillClose (tillCloseBody k) = some k) ∧
  (∀ (k : Till) (v : LinkSettings), parseLinkSet (linkSetBody k v) = some (k, v)) ∧
  (∀ v, v ≤ 65535 → parseQuoteTime (quoteTimeBody v) = some (max 15 (min v 600))) ∧
  (∀ cs : List Condition, cs.length ≤ 199 → parseConditions (conditionsBody cs) = some cs) ∧
  (∀ ds : Digits, ds.length = 32 → (∀ d ∈ ds, d ≤ 9) → parseSiteCode (siteCodeBody ds) = some ds) ∧
  (∀ (sel : SetSelector) (q : Nat), q ≤ 3 → parseTariffRead (tariffReadBody sel q) = some (sel, q)) ∧
  (∀ (q day : Nat) (es : List TariffEntry), q ≤ 3 → day ≤ lastDay → es.length = 4 →
    (∀ tf, some tf ∈ es → tf.valid) → ∃ raw, parseStage (stageBody q es day) = some (q, raw, day) ∧
      raw.all RawEntry.valid = true ∧ raw.map RawEntry.entry = es) ∧
  (∀ (q : Nat) (es : List TariffEntry), q ≤ 3 → es.length = 4 → (∀ tf, some tf ∈ es → tf.valid) →
    ∃ raw, parseLoad (loadBody q es) = some (q, raw) ∧ raw.all RawEntry.valid = true ∧ raw.map RawEntry.entry = es)

/-- A token is built from the plain digits of Table 5-1 (R84): class, sequence, units, day count mod 10,000 and the last
two digits of the meter number, and the check (TokenCheck). Each is masked and rotated: the digit at position
(j + r) mod 18 is Pj + mj mod 10, with r = N mod 18 and mj from two digits of the site code, at offsets N mod 32 and
N / 32 mod 32, and one of the eleven digits of N (R86, R87). The token has 18 decimal digits, and the meter's reverse
steps give back the plain digits of every token built for it (R87). -/
def Obligations.TokenReadsBack : Prop :=
  ∀ (code : Digits) (cls : TokenClass) (sequence units day meter : Nat),
    let plain := plainDigits cls sequence units day meter
    let token := tokenDigits code cls sequence units day meter
    let mask := fun (j : Nat) => (code.getD ((j + meter % 32) % 32) 0 + code.getD ((7 * j + meter / 32 % 32) % 32) 0 +
      meter / 10 ^ (10 - j % 11) % 10) % 10
    plain.take 16 = [match cls with
        | .credit => 1
        | .lifeline => 2
        | .creditLifeline => 3
        | .receipt => 4,
      sequence / 100 % 10, sequence / 10 % 10, sequence % 10, units / 100000 % 10, units / 10000 % 10, units / 1000 % 10,
      units / 100 % 10, units / 10 % 10, units % 10, day / 1000 % 10, day / 100 % 10, day / 10 % 10, day % 10,
      meter / 10 % 10, meter % 10] ∧
    plain.length = 18 ∧ token.length = 18 ∧ (∀ d ∈ token, d ≤ 9) ∧
    (∀ j, j < 18 → token[(j + meter % 18) % 18]? = some ((plain.getD j 0 + mask j) % 10)) ∧
    readToken code meter token = plain

/-- The check K of the plain digits (R85): the weighted sum mod 97 over P0 to P15, written as P16 and P17; it lies from
0 to 96, its sum is at most 1,224, and it changes with a single changed digit and with the exchange of two unequal
digits. -/
def Obligations.TokenCheck : Prop :=
  (∀ ds : Digits, ds.length = 16 →
    tokenCheck ds = ((List.range 16).map fun i => (i + 1) * ds.getD i 0).sum % 97 ∧ tokenCheck ds ≤ 96) ∧
  (∀ (cls : TokenClass) (sequence units day meter : Nat),
    (plainDigits cls sequence units day meter).drop 16 =
      [tokenCheck ((plainDigits cls sequence units day meter).take 16) / 10,
       tokenCheck ((plainDigits cls sequence units day meter).take 16) % 10]) ∧
  (∀ ds : Digits, ds.length = 16 → (∀ d ∈ ds, d ≤ 9) → ((List.range 16).map fun i => (i + 1) * ds.getD i 0).sum ≤ 1224) ∧
  (∀ (ds : Digits) (i d : Nat), ds.length = 16 → (∀ x ∈ ds, x ≤ 9) → i < 16 → d ≤ 9 → d ≠ ds.getD i 0 →
    tokenCheck (ds.set i d) ≠ tokenCheck ds) ∧
  ∀ (ds : Digits) (i j : Nat), ds.length = 16 → (∀ x ∈ ds, x ≤ 9) → i < 16 → j < 16 → ds.getD i 0 ≠ ds.getD j 0 →
    tokenCheck ((ds.set i (ds.getD j 0)).set j (ds.getD i 0)) ≠ tokenCheck ds

/-- The check of a frame (R195): the sender adds the length, kind, tag and body bytes and sends 65,535 less the sum,
high byte first; the sum is at most 51,765; the receiver accepts two check bytes exactly when they equal it; and so
the part forms the check on every frame it sends. -/
def Obligations.FrameCheck : Prop :=
  ∀ (kind tag : Byte) (body : List Byte), body.length ≤ maxBody →
    (body.length + kind.toNat + tag.toNat + (body.map BitVec.toNat).sum ≤ 51765) ∧
    wireBytes ⟨kind, tag, body⟩ = leadByte :: BitVec.ofNat 8 body.length :: kind :: tag :: body ++
      beBytes 2 (65535 - (body.length + kind.toNat + tag.toNat + (body.map BitVec.toNat).sum)) ∧
    ∀ hi lo : Byte, tag ≠ 0 →
      (judgeFrame (leadByte :: BitVec.ofNat 8 body.length :: kind :: tag :: body ++ [hi, lo]) =
        if hi.toNat * 256 + lo.toNat = 65535 - (body.length + kind.toNat + tag.toNat + (body.map BitVec.toNat).sum) then
          .good ⟨kind, tag, body⟩ else .discarded)

/-! ### Vend arithmetic -/

/-- Stage 4 (R44): the recovery taken is the smaller of the arrears and the floor of V0 × p / 100, from 0 to 499,999,
and what it leaves of the money after service is the money for energy. -/
def Obligations.Recovery : Prop :=
  ∀ (r : Record) (tf : Tariff) (generation month tender : Nat) (p : Priced), r.recoveryRate ≤ 50 → tender ≤ maxTender →
    pricePaid r tf generation month tender = .ok p →
    p.recovery = min r.arrears ((tender - p.service) * r.recoveryRate / 100) ∧
    p.recovery ≤ 499999 ∧ p.recovery ≤ r.arrears ∧ p.energyMoney = (tender - p.service) - p.recovery ∧
    (r.arrears = 0 ∨ r.recoveryRate = 0 → p.recovery = 0 ∧ p.energyMoney = tender - p.service) ∧
    (r.arrears < (tender - p.service) * r.recoveryRate / 100 →
      p.recovery = r.arrears ∧ p.energyMoney = (tender - p.service) - r.arrears) ∧
    p.service + p.recovery + p.energyMoney = tender

/-- The block walk of a paid quote (R46 to R49): from the first block whose bound exceeds the working month-to-date, each
take is the smallest of the room, the affordable count and what the cap C leaves; by the cap the change is the whole
cents left but not more than V, by affordability 0, and the new residue is what is left (`walked`). It conserves money:
V × 1,000 + Q is the money of the block lines, the new residue and the change; the new residue lies from 0 to 999,999,
purchased from 0 to C, so purchased + G is at most 999,999; every product of a line is exact, and the working money is
at most 1,000,998,999. -/
def Obligations.WalkConserves : Prop :=
  ∀ (r : Record) (tf : Tariff) (generation month tender : Nat) (p : Priced), tf.valid → r.residue ≤ maxResidue →
    tender ≤ maxTender → pricePaid r tf generation month tender = .ok p →
    walked tf (if r.monthTag = month then r.monthUnits else 0) (999999 - p.lifeline) p.energyMoney r.residue p.lines
      p.change p.newResidue ∧
    p.energyMoney * 1000 + r.residue = lineMoney p.lines + p.newResidue + p.change * 1000 ∧
    p.newResidue ≤ 999999 ∧ p.purchased = lineTakes p.lines ∧ p.purchased ≤ 999999 - p.lifeline ∧
    p.purchased + p.lifeline ≤ 999999 ∧ p.energyMoney * 1000 + r.residue ≤ 1000998999 ∧ p.lines.length ≤ 4 ∧
    ∀ l ∈ p.lines, 1 ≤ l.block ∧ l.block ≤ 4 ∧ 0 < l.take ∧ l.money = l.take * tf.prices.getD (l.block - 1) 0

/-- The figures of a quote around the walk (R40 to R43, R45, R50, R53): what a tender of 0 is given or refused, when a
paid quote is refused BELOW_CHARGES, and the totals, class and new record values of a paid quote. -/
def Obligations.PricedValues : Prop :=
  ∀ (r : Record) (tf : Tariff) (generation month tender : Nat),
    let roll : Nat × Bool × Bool :=
      if r.monthTag = month then (r.monthUnits, r.servicePaid, r.lifelineGiven) else (0, false, false)
    let grant := if r.lifelineEligible = true ∧ roll.2.2 = false ∧ 0 < tf.lifeline then tf.lifeline else 0
    let due := if roll.2.1 = true then 0 else tf.serviceCharge
    (grant = 0 → priceQuote r tf generation month 0 = .error .nothingToIssue) ∧
    (grant ≠ 0 → priceQuote r tf generation month 0 = .ok
      { tariffIndex := r.tariffIndex, generation, service := 0, recovery := 0, energyMoney := 0, lines := [],
        purchased := 0, lifeline := tf.lifeline, total := tf.lifeline, change := 0, consumed := 0, cls := .lifeline,
        newMonthTag := month, newMonthUnits := roll.1, newServicePaid := roll.2.1, newLifelineGiven := true,
        newArrears := r.arrears, newResidue := r.residue }) ∧
    (0 < tender → tender < due → priceQuote r tf generation month tender = .error (.belowCharges tf.serviceCharge)) ∧
    (0 < tender → due ≤ tender → ∃ p, priceQuote r tf generation month tender = .ok p ∧
      p.tariffIndex = r.tariffIndex ∧ p.generation = generation ∧ p.service = due ∧ p.lifeline = grant ∧
      p.total = p.purchased + grant ∧ p.consumed = tender - p.change ∧
      p.cls = (if p.purchased = 0 then (if grant = 0 then TokenClass.receipt else .lifeline)
        else if grant = 0 then .credit else .creditLifeline) ∧
      p.newMonthTag = month ∧ p.newMonthUnits = min 9999999 (roll.1 + p.purchased) ∧
      p.newServicePaid = (decide (0 < due) || roll.2.1) ∧ p.newLifelineGiven = (decide (0 < grant) || roll.2.2) ∧
      p.newArrears = r.arrears - p.recovery)

/-! ### The ports -/

/-- While a request is outstanding, every other request but a CANCEL is refused LINK_BUSY under its own tag, as an
immediate reply, and nothing else changes (R199, R200); where two immediate replies wait already it is discarded. The
model's choices: the id a CONFIRM names (log 22), that a frame of its kind names on the office link too (log 55), and the
third immediate reply (log 37). -/
def Obligations.BusyPortRefuses : Prop :=
  ∀ (c : Instr) (s : State) (p : PortId) (kind tag : Byte) (body : List Byte) (o : Outstanding),
    Request.of c = some (p, kind, tag, body) → (∀ k, c ≠ .cancel k tag body) → s.receives p = true →
    (s.port p).settingsWaiting = false → (s.port p).outstanding = some o → tag ≠ 0 → body.length ≤ maxBody →
    s.holdAtRest → ∃ t, exec c s = .next t ∧
      (if (s.port p).roomForImmediate then
        t.replies p = s.replies p ++
          [replyFrame tag (.refused .linkBusy kind (if kind = kindConfirm then confirmNames body else 0) 0)] ∧
        keepsAllBut [.replies p] s t
      else keepsAllBut [] s t)

/-- In every supply state but RUN the ports receive nothing (R193): no request and no event of a line's receive side
changes anything. Nor does ENGINE_GRANT, QUOTE_HOLD_EXPIRY or OFFICE_HOLD_LAPSE there: the model's choice, that an
event of a unit out of service changes nothing (log 2). -/
def Obligations.ClosedPartTakesNothing : Prop :=
  ∀ (c : Instr) (s : State), s.running = false →
    ((Request.of c).isSome = true ∨ (∃ p cs, c = .frameDiscarded p cs) ∨ (∃ p cs n, c = .frameTimeLimit p cs n) ∨
      (∃ p, c = .linkEntersFault p) ∨ (∃ p, c = .linkFaultEnd p) ∨ (∃ k, c = .linkSettingsTaken k) ∨
      c = .engineGrant ∨ (∃ k, c = .quoteHoldExpiry k) ∨ c = .officeHoldLapse) →
    exec c s = .next s

/-- A BLANK part refuses every request that Table 5-7 does not list as served NOT_COMMISSIONED, after its field check
(R92), and nothing else changes, but that a refused quarter of TARIFF_LOAD_NOW empties the assembly area (R26). The
refusal of a CONFIRM or a CANCEL carries the quote id it names (Table 11-11). -/
def Obligations.BlankPartRefuses : Prop :=
  ∀ (c : Instr) (s : State) (p : PortId) (kind tag : Byte) (body : List Byte),
    Request.of c = some (p, kind, tag, body) → (∀ q k g b, c ≠ .unknownKind q k g b) → s.takes p tag body →
    s.commissioned = false → Request.servedBlank.contains kind = false → Request.fieldsOk kind body = true →
    s.holdAtRest → ∃ t, exec c s = .next t ∧
      refusedWith p kind tag .notCommissioned (Request.namedId kind body) 0 s t

/-- While STORE_FAULT is latched, every request whose refusal order has a STORE_FAULT step is refused SUSPENDED there,
whether or not it would then post (R114), once the steps before it pass. Only METER_PURGE, METER_RESTORE and
TARIFF_LOAD_NOW test the office hold before it, only QUOTE, CONFIRM, REPRINT, METER_ENROL and SITE_CODE_LOAD the
calendar; SITE_CODE_LOAD is one of a BLANK part, and TARIFF_STAGE, CLOCK_SET and LINK_SET are taken by either part.
Nothing else changes, but that a refused quarter of TARIFF_STAGE or TARIFF_LOAD_NOW empties the assembly area (R26). -/
def Obligations.StoreFaultSuspends : Prop :=
  ∀ (c : Instr) (s : State) (p : PortId) (kind tag : Byte) (body : List Byte),
    Request.of c = some (p, kind, tag, body) → (∀ q k g b, c ≠ .unknownKind q k g b) → s.takes p tag body →
    s.storeFaultLatched = true → Request.suspended.contains kind = true → Request.fieldsOk kind body = true →
    Request.reachesStore kind s = true → s.holdAtRest →
    ∃ t, exec c s = .next t ∧ refusedWith p kind tag .suspended (Request.namedId kind body) 0 s t

/-- A request whose body fails its field check is refused FIELD_RANGE at its first step (R205). Of the rest of the state a
refused quarter of TARIFF_STAGE or TARIFF_LOAD_NOW empties the assembly area (R26); besides that nothing changes. The
model's choice: the refusal of a CONFIRM or a CANCEL carries the quote id its body names, and quote id 0 where the body
holds none (log 22). -/
def Obligations.BadBodyRefused : Prop :=
  ∀ (c : Instr) (s : State) (p : PortId) (kind tag : Byte) (body : List Byte),
    Request.of c = some (p, kind, tag, body) → (∀ q k g b, c ≠ .unknownKind q k g b) → s.takes p tag body →
    Request.fieldsOk kind body = false → s.holdAtRest → ∃ t, exec c s = .next t ∧
      refusedWith p kind tag .fieldRange (Request.namedId kind body) 0 s t

/-! ### Till requests -/

/-- A QUOTE at its slot (R57, R58, R59). With the calendar not valid it is refused CLOCK_UNSET (R145), and by a slot
that is not IDLE or has a reprint in progress SLOT_BUSY, with nothing changed. One that passes steps 1 to 5 of Table 3-2
is taken: the slot enters QUOTING with a quote id that no slot holds, the counter moves past it, and the slot asks for a
grant; the request is outstanding, nothing is answered yet. -/
def Obligations.QuoteTaken : Prop :=
  ∀ (s : State) (k : Till) (tag : Byte) (body : List Byte) (meter tender : Nat), s.takes (.till k) tag body →
    parseQuote body = some (meter, tender) → s.commissioned = true → s.holdAtRest →
    let refused := fun (code : RefusalCode) => ∃ t, exec (.quote k tag body) s = .next t ∧
      refusedWith (.till k) kindQuote tag code 0 0 s t
    (s.calendar.valid = false → refused .clockUnset) ∧
    (s.calendar.valid = true → s.storeFaultLatched = false →
      ((s.slot k).state ≠ .idle ∨ (s.slot k).reprint ≠ none → refused .slotBusy) ∧
      ((s.slot k).state = .idle → (s.slot k).reprint = none →
        ∃ t id, exec (.quote k tag body) s = .next t ∧ id ∉ s.heldIds ∧
          (s.nextQuoteId ∉ s.heldIds → id = s.nextQuoteId) ∧ t.nextQuoteId = (if id = 65535 then 1 else id + 1) ∧
          t.slot k = { s.slot k with
            state := .quoting, quote := some ⟨id, meter, tender, none, none, false, none, none, none, some tag⟩ } ∧
          t.arbiter.pending.get k = true ∧ (∀ j, j ≠ k → t.arbiter.pending.get j = s.arbiter.pending.get j) ∧
          t.arbiter.pointer = s.arbiter.pointer ∧ (t.port (.till k)).outstanding = some ⟨tag, kindQuote⟩ ∧
          keepsAllBut [.slot k, .quoteIds, .grants, .outstanding (.till k)] s t))

/-- A CONFIRM that names the slot's quote (R67, R68). With the calendar not valid any CONFIRM is refused CLOCK_UNSET (R145).
One of the OPEN quote, naming its meter, is taken: the timer stops, the slot enters CONFIRMING and asks for a grant; one
naming another meter is refused QUOTE_UNKNOWN and the quote stays OPEN. Of a quote in CONFIRMING or POSTING it is refused
COMMIT_UNDERWAY, of one in QUOTING or FETCHING QUOTE_UNKNOWN, with nothing changed. -/
def Obligations.ConfirmTaken : Prop :=
  ∀ (s : State) (k : Till) (tag : Byte) (body : List Byte) (meter id : Nat), s.takes (.till k) tag body →
    parseConfirm body = some (meter, id) → s.commissioned = true → s.holdAtRest →
    let refused := fun (code : RefusalCode) => ∃ t, exec (.confirm k tag body) s = .next t ∧
      refusedWith (.till k) kindConfirm tag code id 0 s t
    (s.calendar.valid = false → refused .clockUnset) ∧
    ∀ q : QuoteRecord, s.calendar.valid = true → s.storeFaultLatched = false → (s.slot k).quote = some q → q.id = id →
      ((s.slot k).state = .opened → q.meter = meter → ∃ t, exec (.confirm k tag body) s = .next t ∧
        t.slot k = { s.slot k with state := .confirming, timer := none, quote := some { q with replyTag := some tag } } ∧
        t.arbiter.pending.get k = true ∧ (∀ j, j ≠ k → t.arbiter.pending.get j = s.arbiter.pending.get j) ∧
        t.arbiter.pointer = s.arbiter.pointer ∧ (t.port (.till k)).outstanding = some ⟨tag, kindConfirm⟩ ∧
        keepsAllBut [.slot k, .grants, .outstanding (.till k)] s t) ∧
      ((s.slot k).state = .opened → q.meter ≠ meter → refused .quoteUnknown) ∧
      ((s.slot k).state = .confirming ∨ (s.slot k).state = .posting → refused .commitUnderway) ∧
      ((s.slot k).state = .quoting ∨ (s.slot k).state = .fetching → refused .quoteUnknown)

/-- A CANCEL with no other request outstanding (R72), and the expiry of the hold timer (R63). An OPEN quote closes
CANCELLED at a CANCEL that names it or carries 0, and EXPIRED when its hold timer has reached 0, by R65: its
reservations are given back, the slot's pin is released where no reprint in progress holds it, the slot is IDLE, and the
last-closed record holds the id and the outcome; a reprint goes on (R73). A quote in QUOTING or FETCHING, whose QUOTE a
link made OFF has ended, takes the abandon cause unless one is set, and CANCEL_OK carries the outcome that will stand;
one in CONFIRMING or POSTING goes on, and the CANCEL is refused COMMIT_UNDERWAY. A CANCEL that names no quote of the
slot is refused QUOTE_EXPIRED with the outcome when it names the last-closed id, and QUOTE_UNKNOWN otherwise, with
nothing changed. The model's choices: the expiry is its own event, due when the count is 0 (log 8), and COMMIT_UNDERWAY
carries the id held, for a CANCEL of 0 too (log 22). -/
def Obligations.OpenQuoteCloses : Prop :=
  (∀ (s : State) (k : Till) (q : QuoteRecord), (s.slot k).quote = some q → s.holdAtRest →
    let closes := fun (outcome : CloseOutcome) (t : State) =>
      t.slot k = (s.slot k).closedWith q.id outcome ∧ givesBack k q s t ∧
      t.journal = ⟨s.journal.nextSeq, s.journal.reservations - q.reservation⟩ ∧ onlyLevels s t
    (∀ (tag : Byte) (body : List Byte) (id : Nat), s.takes (.till k) tag body → parseCancel body = some id →
      (id = 0 ∨ id = q.id) → s.commissioned = true →
      ((s.slot k).state = .opened → ∃ t, exec (.cancel k tag body) s = .next t ∧
        closes .cancelled t ∧ replied (.till k) tag (.cancelOk q.id .cancelled) s t ∧
        keepsAllBut [.slot k, .reserved, .journal, .lines, .conditions, .replies (.till k)] s t) ∧
      ((s.slot k).state = .quoting ∨ (s.slot k).state = .fetching → ∃ t, exec (.cancel k tag body) s = .next t ∧
        t.slot k = { s.slot k with abandon := some ((s.slot k).abandon.getD .cancelled) } ∧
        replied (.till k) tag (.cancelOk q.id ((s.slot k).abandon.getD .cancelled).outcome) s t ∧
        keepsAllBut [.slot k, .replies (.till k)] s t) ∧
      ((s.slot k).state = .confirming ∨ (s.slot k).state = .posting → ∃ t, exec (.cancel k tag body) s = .next t ∧
        refusedWith (.till k) kindCancel tag .commitUnderway q.id 0 s t)) ∧
    (s.running = true → (s.slot k).state = .opened → (s.slot k).timer = some 0 →
      ∃ t, exec (.quoteHoldExpiry k) s = .next t ∧ closes .expired t ∧
        keepsAllBut [.slot k, .reserved, .journal, .lines, .conditions] s t)) ∧
  ∀ (s : State) (k : Till) (tag : Byte) (body : List Byte) (id : Nat), s.takes (.till k) tag body →
    parseCancel body = some id → s.commissioned = true → s.holdAtRest →
    (∀ q, (s.slot k).quote = some q → id ≠ 0 ∧ id ≠ q.id) →
    (∀ o, (s.slot k).lastClosed = some (id, o) → ∃ t, exec (.cancel k tag body) s = .next t ∧
      refusedWith (.till k) kindCancel tag .quoteExpired id (outcomeNumber o) s t) ∧
    ((∀ o, (s.slot k).lastClosed ≠ some (id, o)) → ∃ t, exec (.cancel k tag body) s = .next t ∧
      refusedWith (.till k) kindCancel tag .quoteUnknown id 0 s t)

/-- A CANCEL while another request of its till is outstanding is handed to the slot at once and answered by an immediate
reply (R200), and the other request stays outstanding. A quote in QUOTING or FETCHING takes the abandon cause unless one
is set, and CANCEL_OK carries the outcome that will stand; one in CONFIRMING or POSTING is refused COMMIT_UNDERWAY and
goes on; an OPEN one, beside a reprint, closes CANCELLED, and the reprint goes on (R66, R72, R73). A CANCEL that names
no quote of the slot is refused QUOTE_EXPIRED with the outcome when it names the last-closed id, and QUOTE_UNKNOWN
otherwise. The model's choice: COMMIT_UNDERWAY carries the id held, for a CANCEL of 0 too (log 22). -/
def Obligations.CancelWhileOutstanding : Prop :=
  ∀ (s : State) (k : Till) (tag : Byte) (body : List Byte) (id : Nat) (o : Outstanding),
    s.receives (.till k) = true → (s.port (.till k)).settingsWaiting = false → (s.port (.till k)).outstanding = some o →
    (s.port (.till k)).roomForImmediate = true → tag ≠ 0 → body.length ≤ maxBody → parseCancel body = some id →
    s.commissioned = true → s.holdAtRest →
    let answered := fun (reply : Reply) (t : State) => t.replies (.till k) = s.replies (.till k) ++ [replyFrame tag reply]
    (∀ q : QuoteRecord, (s.slot k).quote = some q → (id = 0 ∨ id = q.id) →
      ((s.slot k).state = .quoting ∨ (s.slot k).state = .fetching → ∃ t, exec (.cancel k tag body) s = .next t ∧
        t.slot k = { s.slot k with abandon := some ((s.slot k).abandon.getD .cancelled) } ∧
        answered (.cancelOk q.id ((s.slot k).abandon.getD .cancelled).outcome) t ∧
        keepsAllBut [.slot k, .replies (.till k)] s t) ∧
      ((s.slot k).state = .confirming ∨ (s.slot k).state = .posting → ∃ t, exec (.cancel k tag body) s = .next t ∧
        answered (.refused .commitUnderway kindCancel q.id 0) t ∧ keepsAllBut [.replies (.till k)] s t) ∧
      ((s.slot k).state = .opened → ∃ t, exec (.cancel k tag body) s = .next t ∧
        t.slot k = (s.slot k).closedWith q.id .cancelled ∧ givesBack k q s t ∧
        t.journal = ⟨s.journal.nextSeq, s.journal.reservations - q.reservation⟩ ∧ onlyLevels s t ∧
        answered (.cancelOk q.id .cancelled) t ∧
        keepsAllBut [.slot k, .reserved, .journal, .lines, .conditions, .replies (.till k)] s t)) ∧
    ((∀ q, (s.slot k).quote = some q → id ≠ 0 ∧ id ≠ q.id) →
      (∀ c, (s.slot k).lastClosed = some (id, c) → ∃ t, exec (.cancel k tag body) s = .next t ∧
        answered (.refused .quoteExpired kindCancel id (outcomeNumber c)) t ∧ keepsAllBut [.replies (.till k)] s t) ∧
      ((∀ c, (s.slot k).lastClosed ≠ some (id, c)) → ∃ t, exec (.cancel k tag body) s = .next t ∧
        answered (.refused .quoteUnknown kindCancel id 0) t ∧ keepsAllBut [.replies (.till k)] s t))

/-- With the calendar not valid a REPRINT is refused CLOCK_UNSET (R145). One that passes its steps 1 to 5 begins a
reprint in progress and asks for a grant (R73, R74), in IDLE or in OPEN on the meter of the open quote; in every other
case it is refused SLOT_BUSY. So does a CONFIRM whose id is no quote of the slot, as a repeat search: its id was closed
COMMITTED or is unknown to the slot; one closed with another outcome is refused QUOTE_EXPIRED carrying it (R67, R71).
The model's choice: for a damaged entry too, a CONFIRM of a COMMITTED id begins its search or is refused SLOT_BUSY, and
the grant refuses it (log 46). -/
def Obligations.ReprintBegun : Prop :=
  ∀ (s : State) (k : Till) (tag : Byte) (body : List Byte) (meter : Nat), s.takes (.till k) tag body →
    s.commissioned = true → s.holdAtRest →
    (∀ index, s.calendar.valid = false → parseReprint body = some (meter, index) →
      ∃ t, exec (.reprint k tag body) s = .next t ∧ refusedWith (.till k) kindReprint tag .clockUnset 0 0 s t) ∧
    (s.calendar.valid = true → s.storeFaultLatched = false →
    let mayBegin := (s.slot k).reprint = none ∧ ((s.slot k).state = .idle ∨
      ((s.slot k).state = .opened ∧ ∃ q, (s.slot k).quote = some q ∧ q.meter = meter))
    let begins := fun (c : Instr) (kind : Byte) (req : ReprintRequest) => ∃ t, exec c s = .next t ∧
      t.slot k = { s.slot k with reprint := some ⟨meter, req, .lookup, some tag⟩ } ∧
      t.arbiter.pending.get k = true ∧ (∀ j, j ≠ k → t.arbiter.pending.get j = s.arbiter.pending.get j) ∧
      t.arbiter.pointer = s.arbiter.pointer ∧ (t.port (.till k)).outstanding = some ⟨tag, kind⟩ ∧
      keepsAllBut [.slot k, .grants, .outstanding (.till k)] s t
    (∀ index, parseReprint body = some (meter, index) →
      (mayBegin → begins (.reprint k tag body) kindReprint (.reprint index)) ∧
      (¬mayBegin → ∃ t, exec (.reprint k tag body) s = .next t ∧
        replied (.till k) tag (.refused .slotBusy kindReprint 0 0) s t ∧ keepsAllBut [.replies (.till k)] s t)) ∧
    ∀ id, parseConfirm body = some (meter, id) → (∀ q, (s.slot k).quote = some q → q.id ≠ id) →
      (∀ o, (s.slot k).lastClosed = some (id, o) → o ≠ .committed → ∃ t, exec (.confirm k tag body) s = .next t ∧
        replied (.till k) tag (.refused .quoteExpired kindConfirm id (outcomeNumber o)) s t ∧
        keepsAllBut [.replies (.till k)] s t) ∧
      ∀ found, ((s.slot k).lastClosed = some (id, .committed) ∧ found = true ∨
          (∀ o, (s.slot k).lastClosed ≠ some (id, o)) ∧ found = false) →
        (mayBegin → begins (.confirm k tag body) kindConfirm (.repeatConfirm id found)) ∧
        (¬mayBegin → ∃ t, exec (.confirm k tag body) s = .next t ∧
          replied (.till k) tag (.refused .slotBusy kindConfirm id 0) s t ∧ keepsAllBut [.replies (.till k)] s t))

/-- TILL_STATUS is answered at once with the fields of R75 and changes nothing. -/
def Obligations.TillStatusAnswered : Prop :=
  ∀ (s : State) (k : Till) (tag : Byte), s.takes (.till k) tag [] → s.holdAtRest →
    ∃ t, exec (.tillStatus k tag []) s = .next t ∧
      replied (.till k) tag (.tillStatusData
        { state := (s.slot k).state
          reprinting := (s.slot k).reprint.isSome
          quote := (s.slot k).quote.map fun q => (q.id, q.meter, q.tender)
          secondsLeft := if (s.slot k).state = .opened then (s.slot k).timer else none
          lastClosed := (s.slot k).lastClosed
          quoteHoldTime := s.site.quoteHoldTime
          totals := s.site.tillTotals.get k
          valid := s.calendar.valid
          businessDay := s.site.businessDay
          commissioned := s.commissioned }) s t ∧
      keepsAllBut [.replies (.till k)] s t

/-! ### The engine -/

/-- A grant goes to the first slot with a pending request in the order after the pointer, which then names it (R79). A
QUOTING quote with an abandon cause uses the grant for nothing: it closes with the cause, and its QUOTE is answered
QUOTE_EXPIRED carrying it (R66). A quote's first grant looks its meter up (R60, R98): an absent number is refused
METER_UNKNOWN, a damaged entry METER_DAMAGED, a line pinned by another owner METER_BUSY, all without a pin; on a miss
the victim line is FILLING for the meter, pinned to the slot, a fetch of the entry's slot is queued behind the others or
begun by the idle store, and the slot is FETCHING. On a hit, and at the continuation after the fetch, when the slot
holds its pin (R61), the computation refuses a BLOCKED or RETIRED account METER_BLOCKED or METER_RETIRED, an undefined
tariff entry TARIFF_UNSET, what stages 1 to 8 refuse, and sales-free at 16 or less JOURNAL_FULL, and the pin is released
(R7, R35, R39, R62, R135). The reply of a quote whose link was made OFF, or is in FAULT, is discarded (R77). -/
def Obligations.GrantLooksUp : Prop :=
  ∀ (s : State) (k : Till) (q : QuoteRecord), s.running = true → s.arbiter.hold = .none →
    (grantOrder s.arbiter.pointer).find? (fun j => s.arbiter.pending.get j) = some k → (s.slot k).state = .quoting →
    (s.slot k).quote = some q → (s.slot k).reprint = none →
    let granted := fun (t : State) => t.arbiter.pointer = k ∧ t.arbiter.pending.get k = false ∧
      ∀ j, j ≠ k → t.arbiter.pending.get j = s.arbiter.pending.get j
    let unpriced := q.reservedBudget = none ∧ q.journalReservation = false
    let refused := fun (code : RefusalCode) => unpriced → findPinned (.slot k) s = none →
      ∃ t, exec .engineGrant s = .next t ∧ tillReplied k q.replyTag (.refused code kindQuote q.id 0) s t ∧
        t.slot k = { s.slot k with state := .idle, quote := none, timer := none, lastClosed := some (q.id, .refused) } ∧
        granted t ∧ onlyLevels s t ∧
        keepsAllBut [.slot k, .grants, .conditions, .outstanding (.till k), .replies (.till k)] s t
    (∀ c, (s.slot k).abandon = some c → unpriced → ∃ t, exec .engineGrant s = .next t ∧
      tillReplied k q.replyTag (.refused .quoteExpired kindQuote q.id (outcomeNumber c.outcome)) s t ∧
      t.slot k = ⟨.idle, none, none, none, none, some (q.id, c.outcome), none⟩ ∧
      (∀ j, t.line j = if findPinned (.slot k) s = some j then { s.line j with pin := none } else s.line j) ∧
      t.working.recency = s.working.recency ∧ granted t ∧ onlyLevels s t ∧
      keepsAllBut [.slot k, .lines, .grants, .conditions, .outstanding (.till k), .replies (.till k)] s t) ∧
    ((s.slot k).abandon = none → (s.slot k).pin = none →
      (dirFind q.meter s.directory = none → refused .meterUnknown) ∧
      (∀ e : DirEntry, dirFind q.meter s.directory = some e → e.damaged = true → refused .meterDamaged) ∧
      ∀ e : DirEntry, dirFind q.meter s.directory = some e → e.damaged = false →
        (∀ l o, findLine q.meter s = some l → (s.line l).pin = some o → o ≠ .slot k → refused .meterBusy) ∧
        (∀ l : LineNo, findLine q.meter s = none → victim s = l → ∃ t, exec .engineGrant s = .next t ∧
          t.slot k = { s.slot k with state := .fetching, pin := some q.meter } ∧
          lineBecomes l ⟨.filling, some q.meter, some (.slot k), 0, none⟩ s t ∧ granted t ∧
          (s.store.service ≠ .idle → t.store.service = s.store.service ∧
            t.store.queue = s.store.queue ++ [.record l q.meter e.slot]) ∧
          (s.store.service = .idle → s.buffer = [] → s.store.queue = [] → s.store.retryWaiting = false →
            t.store.service = .reading (.record l q.meter e.slot) ∧ t.store.queue = []) ∧
          keepsAllBut [.slot k, .lines, .grants] s t)) ∧
    ∀ (l : LineNo) (r : Record), (s.slot k).abandon = none →
      (s.slot k).pin = none ∧ (∃ e, dirFind q.meter s.directory = some e ∧ e.damaged = false) ∧
          s.hits (.slot k) q.meter l r ∨
        (s.slot k).pin = some q.meter ∧ s.pins (.slot k) q.meter l r →
      let refusedHere := fun (code : RefusalCode) (detail : Nat) => unpriced →
        ∃ t, exec .engineGrant s = .next t ∧ tillReplied k q.replyTag (.refused code kindQuote q.id detail) s t ∧
          t.slot k = { s.slot k with
            state := .idle, quote := none, timer := none, pin := none, lastClosed := some (q.id, .refused) } ∧
          lineIs l { s.line l with pin := none }
            (if (s.slot k).pin = none then s.working.recency.erase l ++ [l] else s.working.recency) s t ∧
          granted t ∧ onlyLevels s t ∧
          keepsAllBut [.slot k, .lines, .grants, .conditions, .outstanding (.till k), .replies (.till k)] s t
      (r.account = .blocked → refusedHere .meterBlocked 0) ∧ (r.account = .retired → refusedHere .meterRetired 0) ∧
      (r.account = .active → s.site.active[r.tariffIndex]?.getD none = none → refusedHere .tariffUnset 0) ∧
      ∀ (tf : Tariff) (d : DateTime), r.account = .active → s.now = some d →
        s.site.active[r.tariffIndex]?.getD none = some tf →
        let priced := priceQuote r tf s.site.generation (monthTagOf d.day) q.tender
        (priced = .error .nothingToIssue → refusedHere .nothingToIssue 0) ∧
        (∀ c, priced = .error (.belowCharges c) → refusedHere .belowCharges c) ∧
        ∀ p, priced = .ok p → q.tender ≤ s.site.budget - s.reserved → s.salesFree ≤ 16 → refusedHere .journalFull 0

/-- The computing grant of a quote (R38, R39, R54, R60, R61, R62), at its first grant, when the lookup hits, or at the
continuation after its fetch, when it holds its pin: with the account ACTIVE, the tariff entry defined, the computation
passed, T not above B − R and sales-free above 16, R grows by T and the open reservations by one, the slot is OPEN with
the complete quote record and its hold timer at the quote hold time, and QUOTE_OK is sent; the meter record is
unchanged. A hit pins the line to the slot and makes it most recent; the continuation leaves the lines as they are. The
reply of a quote whose link was made OFF, or is in FAULT, is discarded (R77). The model's choice: an expiry past the
range is a free value (log 13). -/
def Obligations.GrantOpensQuote : Prop :=
  ∀ (s : State) (k : Till) (q : QuoteRecord) (l : LineNo) (r : Record) (tf : Tariff)
    (p : Priced) (d : DateTime), s.running = true → s.arbiter.hold = .none →
    (grantOrder s.arbiter.pointer).find? (fun j => s.arbiter.pending.get j) = some k → (s.slot k).state = .quoting →
    (s.slot k).quote = some q → (s.slot k).abandon = none → (s.slot k).reprint = none →
    r.account = .active →
    s.now = some d → s.site.active[r.tariffIndex]?.getD none = some tf →
    priceQuote r tf s.site.generation (monthTagOf d.day) q.tender = .ok p → q.tender ≤ s.site.budget - s.reserved →
    s.roomForOffice = true →
    let opens := fun (more : List Part) (t : State) =>
      t.slot k = { s.slot k with
        state := .opened, timer := some s.site.quoteHoldTime, pin := some q.meter
        quote := some { q with
          priced := some p, reservedBudget := some q.tender, journalReservation := true, openedAt := some d
          expiresAt := some (reportedTime d s.site.quoteHoldTime), replyTag := none } } ∧
      t.reserved = s.reserved + q.tender ∧ t.journal = ⟨s.journal.nextSeq, s.journal.reservations + 1⟩ ∧
      t.arbiter.pointer = k ∧ t.arbiter.pending.get k = false ∧
      (∀ j, j ≠ k → t.arbiter.pending.get j = s.arbiter.pending.get j) ∧
      tillReplied k q.replyTag (.quoteOk q.id q.meter q.tender p (some (reportedTime d s.site.quoteHoldTime))
        s.site.quoteHoldTime) s t ∧ onlyLevels s t ∧
      keepsAllBut ([.slot k, .reserved, .journal, .grants, .conditions, .outstanding (.till k),
        .replies (.till k)] ++ more) s t
    (∀ e : DirEntry, (s.slot k).pin = none → dirFind q.meter s.directory = some e → e.damaged = false →
      s.hits (.slot k) q.meter l r → ∃ t, exec .engineGrant s = .next t ∧ opens [.lines] t ∧
        lineBecomes l { s.line l with pin := some (.slot k) } s t) ∧
    ((s.slot k).pin = some q.meter → findLine q.meter s = some l → (s.line l).state = .valid →
      (s.line l).pin = some (.slot k) → (s.line l).record = some r → ∃ t, exec .engineGrant s = .next t ∧ opens [] t)

/-- A computing grant that the budget test refuses (R162), at the first grant of a quote, when the lookup hits, or at the
continuation after its fetch, when the slot holds its pin (R61, R62): T above B − R answers BUDGET_SHORT carrying B − R,
the quote closes REFUSED, the pin is released, and nothing is reserved. -/
def Obligations.GrantBudgetShort : Prop :=
  ∀ (s : State) (k : Till) (q : QuoteRecord) (l : LineNo) (r : Record) (tf : Tariff) (p : Priced) (d : DateTime),
    s.running = true → s.arbiter.hold = .none →
    (grantOrder s.arbiter.pointer).find? (fun j => s.arbiter.pending.get j) = some k → (s.slot k).state = .quoting →
    (s.slot k).quote = some q → (s.slot k).abandon = none → (s.slot k).reprint = none →
    q.reservedBudget = none → q.journalReservation = false →
    (s.slot k).pin = none ∧ (∃ e, dirFind q.meter s.directory = some e ∧ e.damaged = false) ∧
        s.hits (.slot k) q.meter l r ∨
      (s.slot k).pin = some q.meter ∧ s.pins (.slot k) q.meter l r →
    r.account = .active → s.now = some d → s.site.active[r.tariffIndex]?.getD none = some tf →
    priceQuote r tf s.site.generation (monthTagOf d.day) q.tender = .ok p → s.site.budget - s.reserved < q.tender →
    ∃ t, exec .engineGrant s = .next t ∧
      tillReplied k q.replyTag (.refused .budgetShort kindQuote q.id (s.site.budget - s.reserved)) s t ∧
      t.slot k = { s.slot k with
        state := .idle, quote := none, timer := none, pin := none, lastClosed := some (q.id, .refused) } ∧
      lineIs l { s.line l with pin := none }
        (if (s.slot k).pin = none then s.working.recency.erase l ++ [l] else s.working.recency) s t ∧
      t.arbiter.pointer = k ∧ t.arbiter.pending.get k = false ∧
      (∀ j, j ≠ k → t.arbiter.pending.get j = s.arbiter.pending.get j) ∧ onlyLevels s t ∧
      keepsAllBut [.slot k, .lines, .grants, .conditions, .outstanding (.till k), .replies (.till k)] s t

/-- The SALE of a confirmed quote (R69, R70, R55, R164, R153, R103, R122, R123). The confirm grant builds the token and
the image from the quote record and the pinned line. The unit posts in the grant when the buffer has room; where it is
full or others wait it joins the post wait list, the quote keeps its token and the slot is POSTING, and it posts with no
test when a verified write gives the head of the list room. At the posting B falls by the value consumed and R by the
tender; the totals add the sale; the line takes the image; the quote closes COMMITTED; TOKEN marked NEW is sent, or
discarded where the till's link was made OFF meanwhile or is in FAULT (R77). -/
def Obligations.GrantPostsSale : Prop :=
  ∀ (s : State) (k : Till) (q : QuoteRecord) (e : DirEntry) (l : LineNo) (r : Record) (p : Priced),
    s.running = true → (s.slot k).quote = some q → (s.slot k).reprint = none → q.priced = some p →
    q.reservedBudget = some q.tender →
    dirFind q.meter s.directory = some e → findLine q.meter s = some l → findPinned (.slot k) s = some l →
    (s.line l).record = some r → r.meter = q.meter →
    let n := s.journal.nextSeq
    let image := fun (token : Option BuiltToken) (day : Nat) =>
      let sold : Record := { r with
        arrears := p.newArrears, monthTag := p.newMonthTag, monthUnits := p.newMonthUnits
        servicePaid := p.newServicePaid, lifelineGiven := p.newLifelineGiven, residue := p.newResidue, lastSeq := n }
      match token with
      | none => sold
      | some b => { sold with
          lastToken := b.sequence
          recent := (⟨b.digits, b.sequence, p.cls, p.total, day, q.id, n⟩ :: r.recent).take 3 }
    let add := fun c : Counts => (⟨satAdd c.tokens (if p.cls = .receipt then 0 else 1),
      satAdd c.receipts (if p.cls = .receipt then 1 else 0), satAdd c.cents p.consumed, satAdd c.units p.purchased,
      satAdd c.lifeline p.lifeline⟩ : Counts)
    let sells := fun (buffer : List CommitUnit) (line : LineNo → Line) (b : BuiltSale) (t : State) =>
      let u := postedUnit s .sale (some (.image e.slot (image b.token b.issueDay))) s.now (.till k)
        (.sale ⟨q.meter, q.id, q.tender, p.service, p.recovery, p.change, p.purchased, p.lifeline, p.cls, p.tariffIndex,
          p.generation, b.token⟩)
        { s.site with
          budget := s.site.budget - p.consumed, dayTotals := add s.site.dayTotals
          tillTotals := s.site.tillTotals.set k.val (add (s.site.tillTotals.get k)) k.isLt }
      t.buffer = buffer ++ [u] ∧ t.site = u.image ∧ t.journal = ⟨n + 1, s.journal.reservations - 1⟩ ∧
      t.reserved = s.reserved - q.tender ∧
      t.slot k = ⟨.idle, none, none, none, none, some (q.id, .committed), none⟩ ∧
      t.line l = { line l with
        pin := none, dirty := (line l).dirty + 1, record := some (image b.token b.issueDay) } ∧
      (∀ j, j ≠ l → t.line j = line j) ∧ t.working.recency = s.working.recency.erase l ++ [l] ∧
      tillReplied k q.replyTag (.token ⟨.fresh, q.id, q.meter, p.cls, b.token, p.total, some p.purchased, some p.lifeline,
        some p.change, b.issueDay, none, n⟩) s t ∧ onlyLevels s t
    (∀ d : DateTime, s.arbiter.hold = .none →
      (grantOrder s.arbiter.pointer).find? (fun j => s.arbiter.pending.get j) = some k → (s.slot k).state = .confirming →
      s.now = some d →
      let b : BuiltSale := ⟨if p.cls = .receipt then none else
        some ⟨tokenDigits (s.site.siteCode.getD []) p.cls ((r.lastToken + 1) % 1000) p.total d.day q.meter,
          (r.lastToken + 1) % 1000⟩, d.day⟩
      let granted := fun (t : State) => t.arbiter.pointer = k ∧ t.arbiter.pending.get k = false ∧
        ∀ j, j ≠ k → t.arbiter.pending.get j = s.arbiter.pending.get j
      (s.postsAtOnce = true → ∃ t, exec .engineGrant s = .next t ∧ sells s.buffer s.line b t ∧ granted t ∧
        keepsAllBut [.site, .buffer, .journal, .reserved, .slot k, .lines, .grants, .conditions, .outstanding (.till k),
          .replies (.till k)] s t) ∧
      (s.postsAtOnce = false → ∃ t, exec .engineGrant s = .next t ∧ t.waiters = s.waiters ++ [⟨.sale k, true⟩] ∧
        t.slot k = { s.slot k with state := .posting, quote := some { q with built := some b } } ∧ granted t ∧
        keepsAllBut [.waiters, .slot k, .grants] s t)) ∧
    ∀ (b : BuiltSale) (u : CommitUnit) (rest : List CommitUnit) (ws : List Waiter), (s.slot k).state = .posting →
      q.built = some b → s.buffer = u :: rest → rest.length < 4 → s.waiters = ⟨.sale k, true⟩ :: ws →
      s.store.service = .writing ∨ s.store.service = .rewriting →
      ∃ t, exec (.unitWriteComplete .verified) s = .next t ∧ sells rest (lineAfterStore u s) b t ∧ t.waiters = ws ∧
        stored u s t ∧
        keepsAllBut [.areas, .waiters, .site, .buffer, .journal, .reserved, .slot k, .lines, .conditions,
          .outstanding (.till k), .replies (.till k)] s t

/-- The grant of a reprint, for a REPRINT (R74) or for the repeat search of a CONFIRM (R71), of an IDLE slot or of one
whose OPEN quote is on the meter (R73). The first grant looks the meter up: it refuses METER_UNKNOWN, METER_DAMAGED and
METER_BUSY without a pin; a damaged entry refuses a search whose id was found COMMITTED with QUOTE_EXPIRED. On a miss
the victim line is FILLING for the meter, pinned to the slot, a fetch of the entry's slot is queued behind the others or
begun by the idle store, and the reprint waits for it. On a hit, where the slot's OPEN quote shares its pin, and at the
next grant when the fetch has filled the line, the steps on the record are made: a RETIRED record is refused
METER_RETIRED and an index without an entry TOKEN_ABSENT; the search takes the newest entry with its quote id, and
without one it is refused QUOTE_EXPIRED carrying COMMITTED, or QUOTE_UNKNOWN. An entry found posts a JOURNAL-ONLY unit
with a REPRINT entry when sales-free is above 16, and TOKEN marked REPRINT or REPEAT carries the stored entry; where the
buffer is full the unit joins the post wait list, or is withdrawn SUSPENDED while STORE_FAULT is latched (R122, R124).
The pin is held for a waiting unit and for the OPEN quote, and released otherwise; no record, budget or totals change.
The reply of a reprint whose link was made OFF, or is in FAULT, is discarded (R77). The model's choice: a damaged entry
refuses at the grant (log 46). -/
def Obligations.GrantPostsReprint : Prop :=
  ∀ (s : State) (k : Till) (meter : Nat) (req : ReprintRequest) (stage : ReprintStage) (tag : Option Byte),
    s.running = true → s.arbiter.hold = .none →
    (grantOrder s.arbiter.pointer).find? (fun j => s.arbiter.pending.get j) = some k →
    ((s.slot k).state = .idle ∧ (s.slot k).quote = none ∨
      (s.slot k).state = .opened ∧ ∃ q, (s.slot k).quote = some q ∧ q.meter = meter) →
    (s.slot k).reprint = some ⟨meter, req, stage, tag⟩ →
    let granted := fun (t : State) => t.arbiter.pointer = k ∧ t.arbiter.pending.get k = false ∧
      ∀ j, j ≠ k → t.arbiter.pending.get j = s.arbiter.pending.get j
    let refused := fun (code : RefusalCode) (detail : Nat) => ∃ t, exec .engineGrant s = .next t ∧
      tillReplied k tag (.refused code req.kind req.quoteId detail) s t ∧
      t.slot k = { s.slot k with reprint := none } ∧ granted t ∧
      keepsAllBut [.slot k, .grants, .outstanding (.till k), .replies (.till k)] s t
    (stage = .lookup →
      (dirFind meter s.directory = none → refused .meterUnknown 0) ∧
      (∀ e : DirEntry, dirFind meter s.directory = some e → e.damaged = true →
        (∀ id, req = .repeatConfirm id true → refused .quoteExpired 1) ∧
        ((∀ id, req ≠ .repeatConfirm id true) → refused .meterDamaged 0)) ∧
      ∀ (e : DirEntry) (l : LineNo), dirFind meter s.directory = some e → e.damaged = false →
        (∀ o, findLine meter s = some l → (s.line l).pin = some o → o ≠ .slot k → refused .meterBusy 0) ∧
        (findLine meter s = none → victim s = l → ∃ t, exec .engineGrant s = .next t ∧
          t.slot k = { s.slot k with reprint := some ⟨meter, req, .fetching, tag⟩, pin := some meter } ∧
          lineBecomes l ⟨.filling, some meter, some (.slot k), 0, none⟩ s t ∧ granted t ∧
          (s.store.service ≠ .idle → t.store.service = s.store.service ∧
            t.store.queue = s.store.queue ++ [.record l meter e.slot]) ∧
          (s.store.service = .idle → s.buffer = [] → s.store.queue = [] → s.store.retryWaiting = false →
            t.store.service = .reading (.record l meter e.slot) ∧ t.store.queue = []) ∧
          keepsAllBut [.slot k, .lines, .grants] s t)) ∧
    ∀ (l : LineNo) (r : Record),
      (stage = .present ∧ (s.slot k).pin = some meter ∧ s.pins (.slot k) meter l r ∨
        stage = .lookup ∧ (∃ e, dirFind meter s.directory = some e ∧ e.damaged = false) ∧
          if (s.slot k).quote.isSome = true then s.pins (.slot k) meter l r else s.hits (.slot k) meter l r) →
      let kept := fun (t : State) => lineIs l
          { s.line l with pin := if (s.slot k).quote.isSome = true then some (.slot k) else none }
          (if stage = .lookup then s.working.recency.erase l ++ [l] else s.working.recency) s t ∧
        t.slot k = { s.slot k with
          reprint := none, pin := if (s.slot k).quote.isSome = true then some meter else none }
      let refusedHere := fun (code : RefusalCode) (detail : Nat) => ∃ t, exec .engineGrant s = .next t ∧
        tillReplied k tag (.refused code req.kind req.quoteId detail) s t ∧ kept t ∧ granted t ∧ onlyLevels s t ∧
        keepsAllBut [.slot k, .lines, .grants, .conditions, .outstanding (.till k), .replies (.till k)] s t
      let issues := fun (index : Nat) (b : RecentToken) (rep : Bool) =>
        (s.ready → ∃ t, exec .engineGrant s = .next t ∧
          posts (postedUnit s .journalOnly none s.now (.till k) (.reprint meter index b.sequence rep b.quoteId) s.site)
            s.journal.reservations s t ∧ kept t ∧ granted t ∧
          tillReplied k tag (.token ⟨if rep then .again else .reprint, b.quoteId, meter, b.cls,
            some ⟨b.digits, b.sequence⟩, b.units, none, none, none, b.issueDay, if rep then none else some index,
            b.journalSeq⟩) s t ∧ onlyLevels s t ∧
          keepsAllBut [.site, .buffer, .journal, .slot k, .lines, .grants, .conditions, .outstanding (.till k),
            .replies (.till k)] s t) ∧
        (s.postsAtOnce = false → s.roomForOffice = true → s.store.faulted = false → s.storeFaultLatched = false →
          ∃ t, exec .engineGrant s = .next t ∧ t.waiters = s.waiters ++ [⟨.reprint k meter index b rep, true⟩] ∧
            t.journal = ⟨s.journal.nextSeq, s.journal.reservations + 1⟩ ∧
            t.slot k = { s.slot k with reprint := some ⟨meter, req, .posting, tag⟩, pin := some meter } ∧
            lineIs l { s.line l with pin := some (.slot k) }
              (if stage = .lookup then s.working.recency.erase l ++ [l] else s.working.recency) s t ∧ granted t ∧
            onlyLevels s t ∧ keepsAllBut [.waiters, .journal, .slot k, .lines, .grants, .conditions] s t) ∧
        (s.postsAtOnce = false → s.roomForOffice = true → s.storeFaultLatched = true → refusedHere .suspended 0) ∧
        (s.roomForOffice = false → refusedHere .journalFull 0)
      (r.account = .retired → refusedHere .meterRetired 0) ∧
      (r.account ≠ .retired →
        (∀ index, req = .reprint index → (∀ b, r.recent[index]? = some b → issues index b false) ∧
          (r.recent[index]? = none → refusedHere .tokenAbsent 0)) ∧
        ∀ id found, req = .repeatConfirm id found →
          (∀ i b, r.recent[i]? = some b → b.quoteId = id →
            (∀ j x, j < i → r.recent[j]? = some x → x.quoteId ≠ id) → issues i b true) ∧
          ((∀ x ∈ r.recent, x.quoteId ≠ id) → if found = true then refusedHere .quoteExpired 1
            else refusedHere .quoteUnknown 0))

/-! ### Office record requests -/

/-- METER_ENROL creates a record (R14, R10, R100): the lowest free record slot, a line taken VALID without a fetch, the
given fields with the rate clamped, the entry inserted, an EDIT unit posted and ENROL_OK sent; METER_EXISTS is tested
before DIRECTORY_FULL, and a calendar that is not valid is refused CLOCK_UNSET (R145). The model's choices: the order of
the body's fields (log 14), and that of the entry's list (log 57). -/
def Obligations.EnrolPosts : Prop :=
  ∀ (s : State) (tag : Byte) (body : List Byte) (meter tariff rate arrears : Nat) (eligible : Bool) (d : DateTime),
    s.takes .office tag body → parseEnrol body = some (meter, tariff, eligible, rate, arrears) → s.commissioned = true →
    s.holdAtRest →
    (s.calendar.valid = false → ∃ t, exec (.meterEnrol tag body) s = .next t ∧
      refusedWith .office kindMeterEnrol tag .clockUnset 0 0 s t) ∧
    (s.storeFaultLatched = false → s.now = some d →
    (∀ l, dirFind meter s.directory = none → s.directory.length < recordSlots → findLine meter s = none →
      findPinned .office s = none → victim s = l → s.ready → RecencyLaw s →
      let r : Record := ⟨meter, .active, tariff, eligible, rate, arrears, monthTagOf d.day, 0, false, false, 0, 0, [],
        s.journal.nextSeq, d.day⟩
      let slot := lowestFree (s.directory.map (·.slot))
      ∃ t, exec (.meterEnrol tag body) s = .next t ∧
        officePosts .edit (some (.image slot r)) (.meterEnrol meter
          [.tariffIndex tariff, .lifelineEligible eligible, .recoveryRate rate, .arrears arrears]) s.site s t ∧
        t.directory = dirInsert ⟨meter, slot, false⟩ s.directory ∧
        lineBecomes l ⟨.valid, some meter, none, 1, some r⟩ s t ∧
        replied .office tag (.enrolOk meter slot rate s.journal.nextSeq) s t ∧ onlyLevels s t ∧
        keepsAllBut [.site, .buffer, .journal, .directory, .lines, .conditions, .replies .office] s t) ∧
    (∀ e, dirFind meter s.directory = some e → ∃ t, exec (.meterEnrol tag body) s = .next t ∧
      refusedWith .office kindMeterEnrol tag .meterExists 0 0 s t) ∧
    (dirFind meter s.directory = none → recordSlots ≤ s.directory.length → ∃ t, exec (.meterEnrol tag body) s = .next t ∧
      refusedWith .office kindMeterEnrol tag .directoryFull 0 0 s t))

/-- METER_EDIT, METER_BLOCK, METER_UNBLOCK and METER_RETIRE (R6, R12, R18, R19). On a meter whose line is VALID and
unpinned a changed field or state is posted in an EDIT unit with its METER_EDIT or METER_STATE entry, the line takes the
image, and the reply carries the values and the sequence; an edit that changes nothing posts nothing. A meter the
directory does not hold is refused METER_UNKNOWN, a damaged entry METER_DAMAGED and a meter another owner pins
METER_BUSY, with nothing changed. A meter without a line misses: the victim line is FILLING for it and pinned to the
office, its fetch is queued, and the request stays outstanding (R98, R99); FetchCompletes says how it goes on. The
model's choices: the order of the bodies' fields (log 14), and of the fields that a METER_EDIT entry lists (log 57). -/
def Obligations.RecordChangePosts : Prop :=
  ∀ (s : State) (tag : Byte) (body : List Byte) (meter : Nat), s.takes .office tag body → s.editable →
    (let refused := fun (code : RefusalCode) =>
       (∀ g : EditRequest, parseEdit body = some g → g.meter = meter → ∃ t, exec (.meterEdit tag body) s = .next t ∧
         refusedWith .office kindMeterEdit tag code 0 0 s t) ∧
       (parseMeter body = some meter →
         (∃ t, exec (.meterBlock tag body) s = .next t ∧ refusedWith .office kindMeterBlock tag code 0 0 s t) ∧
         (∃ t, exec (.meterUnblock tag body) s = .next t ∧ refusedWith .office kindMeterUnblock tag code 0 0 s t) ∧
         ∃ t, exec (.meterRetire tag body) s = .next t ∧ refusedWith .office kindMeterRetire tag code 0 0 s t)
     s.holdAtRest → (dirFind meter s.directory = none → refused .meterUnknown) ∧
       (∀ e : DirEntry, dirFind meter s.directory = some e → e.damaged = true → refused .meterDamaged) ∧
       ∀ (e : DirEntry) (l : LineNo) (o : Owner), dirFind meter s.directory = some e → e.damaged = false →
         findLine meter s = some l → (s.line l).pin = some o → o ≠ .office → refused .meterBusy) ∧
    (∀ (e : DirEntry) (l : LineNo), s.holdAtRest → dirFind meter s.directory = some e → e.damaged = false →
      findLine meter s = none → victim s = l →
      (∀ g : EditRequest, parseEdit body = some g → g.meter = meter → ∃ t, exec (.meterEdit tag body) s = .next t ∧
        missesFor (.edit g) e.slot tag kindMeterEdit l s t) ∧
      (parseMeter body = some meter →
        (∃ t, exec (.meterBlock tag body) s = .next t ∧ missesFor (.block meter) e.slot tag kindMeterBlock l s t) ∧
        (∃ t, exec (.meterUnblock tag body) s = .next t ∧ missesFor (.unblock meter) e.slot tag kindMeterUnblock l s t) ∧
        ∃ t, exec (.meterRetire tag body) s = .next t ∧ missesFor (.retire meter) e.slot tag kindMeterRetire l s t)) ∧
    ∀ (e : DirEntry) (l : LineNo) (r : Record), dirFind meter s.directory = some e → e.damaged = false →
    s.hits .office meter l r → RecencyLaw s →
    let changed := fun (r' : Record) (b : EntryBody) (reply : Reply) (t : State) =>
      officePosts .edit (some (.image e.slot r')) b s.site s t ∧
      lineBecomes l { s.line l with dirty := (s.line l).dirty + 1, record := some r' } s t ∧
      replied .office tag reply s t ∧ onlyLevels s t ∧
      keepsAllBut [.site, .buffer, .journal, .lines, .conditions, .replies .office] s t
    let n := s.journal.nextSeq
    let state := fun (a : AccountState) (t : State) => changed { r with account := a, lastSeq := n }
      (.meterState meter r.account (.account a)) (.stateOk meter a n) t
    (∀ g : EditRequest, parseEdit body = some g → g.meter = meter → r.account ≠ .retired →
      let r' : Record := { r with
        tariffIndex := g.tariffIndex.getD r.tariffIndex, recoveryRate := g.recoveryRate.getD r.recoveryRate
        arrears := g.arrears.getD r.arrears, lifelineEligible := g.lifelineEligible.getD r.lifelineEligible }
      (r' ≠ r → s.ready → ∃ t, exec (.meterEdit tag body) s = .next t ∧
        changed { r' with lastSeq := n } (.meterEdit meter (editItems r g))
          (.editOk r'.tariffIndex r'.recoveryRate r'.arrears r'.lifelineEligible (some n)) t) ∧
      (r' = r → s.holdAtRest → ∃ t, exec (.meterEdit tag body) s = .next t ∧
        replied .office tag (.editOk r.tariffIndex r.recoveryRate r.arrears r.lifelineEligible none) s t ∧
        lineBecomes l (s.line l) s t ∧ keepsAllBut [.lines, .replies .office] s t)) ∧
    (parseMeter body = some meter → s.ready →
      (r.account = .active → ∃ t, exec (.meterBlock tag body) s = .next t ∧ state .blocked t) ∧
      (r.account = .blocked → ∃ t, exec (.meterUnblock tag body) s = .next t ∧ state .active t) ∧
      (r.account ≠ .retired → ∃ t, exec (.meterRetire tag body) s = .next t ∧ state .retired t)) ∧
    (parseMeter body = some meter → r.account = .retired → s.holdAtRest → ∃ t, exec (.meterBlock tag body) s = .next t ∧
      replied .office tag (.refused .stateConflict kindMeterBlock 0 0) s t ∧ lineBecomes l (s.line l) s t ∧
      keepsAllBut [.lines, .replies .office] s t)

/-- METER_PURGE removes a RETIRED record within the office hold (R15): the entry is removed, the line becomes FREE and
least recent, the unit frees the record slot, and PURGE_OK is sent; above the release point it is refused PURGE_REFUSED,
and outside the hold NOT_HELD. A meter without a line misses, and the request waits for its fetch (R12, R98, R99). -/
def Obligations.PurgePosts : Prop :=
  ∀ (s : State) (tag : Byte) (body : List Byte) (meter : Nat), s.takes .office tag body →
    parseMeter body = some meter → s.editable → s.holdAtRest →
    (∀ (e : DirEntry) (l : LineNo) (r : Record), s.arbiter.hold = .held → dirFind meter s.directory = some e →
      e.damaged = false → s.hits .office meter l r → r.account = .retired → RecencyLaw s →
      (r.lastSeq ≤ s.site.releasePoint → s.ready → ∃ t, exec (.meterPurge tag body) s = .next t ∧
        officePosts .edit (some (.erase e.slot meter)) (.meterState meter .retired .purged) s.site s t ∧
        t.directory = dirErase meter s.directory ∧ t.line l = Line.freed ∧ (∀ j, j ≠ l → t.line j = s.line j) ∧
        t.working.recency = l :: s.working.recency.erase l ∧
        replied .office tag (.purgeOk meter s.journal.nextSeq) s t ∧ onlyLevels s t ∧
        keepsAllBut [.site, .buffer, .journal, .directory, .lines, .conditions, .replies .office] s t) ∧
      (s.site.releasePoint < r.lastSeq → ∃ t, exec (.meterPurge tag body) s = .next t ∧
        replied .office tag (.refused .purgeRefused kindMeterPurge 0 0) s t ∧ lineBecomes l (s.line l) s t ∧
        keepsAllBut [.lines, .replies .office] s t)) ∧
    (∀ (e : DirEntry) (l : LineNo), s.arbiter.hold = .held → dirFind meter s.directory = some e → e.damaged = false →
      findLine meter s = none → victim s = l → ∃ t, exec (.meterPurge tag body) s = .next t ∧
        missesFor (.purge meter) e.slot tag kindMeterPurge l s t) ∧
    (s.arbiter.hold ≠ .held → ∃ t, exec (.meterPurge tag body) s = .next t ∧
      refusedWith .office kindMeterPurge tag .notHeld 0 0 s t)

/-- METER_RESTORE rewrites the record of a damaged entry within the office hold (R16): the damaged mark is cleared, the
line holds the given record with no recent tokens, and RESTORE_OK is sent; an entry that is not damaged is refused
STATE_CONFLICT. The model's choices: the order of the body's fields (log 14), and that of the entry's list (log 57). -/
def Obligations.RestorePosts : Prop :=
  ∀ (s : State) (tag : Byte) (body : List Byte) (r : Record) (e : DirEntry), s.takes .office tag body →
    parseRestore body = some r → s.editable → s.arbiter.hold = .held → dirFind r.meter s.directory = some e →
    (∀ l, e.damaged = true → findLine r.meter s = none → findPinned .office s = none → victim s = l → s.ready →
      RecencyLaw s →
      let r' : Record := { r with lastSeq := s.journal.nextSeq }
      ∃ t, exec (.meterRestore tag body) s = .next t ∧
        officePosts .edit (some (.image e.slot r')) (.meterEdit r.meter
          [(none, .account r.account), (none, .tariffIndex r.tariffIndex), (none, .lifelineEligible r.lifelineEligible),
           (none, .recoveryRate r.recoveryRate), (none, .arrears r.arrears), (none, .monthTag r.monthTag),
           (none, .monthUnits r.monthUnits), (none, .servicePaid r.servicePaid), (none, .lifelineGiven r.lifelineGiven),
           (none, .residue r.residue), (none, .lastToken r.lastToken), (none, .enrolDay r.enrolDay)]) s.site s t ∧
        r'.recent = [] ∧
        t.directory = s.directory.map (fun x => if x.meter = r.meter then { x with damaged := false } else x) ∧
        lineBecomes l ⟨.valid, some r.meter, none, 1, some r'⟩ s t ∧
        replied .office tag (.restoreOk r.meter r.recoveryRate s.journal.nextSeq) s t ∧ onlyLevels s t ∧
        keepsAllBut [.site, .buffer, .journal, .directory, .lines, .conditions, .replies .office] s t) ∧
    (e.damaged = false → ∃ t, exec (.meterRestore tag body) s = .next t ∧
      refusedWith .office kindMeterRestore tag .stateConflict 0 0 s t)

/-- The reads that are answered at once change nothing: METER_READ of a VALID line, whoever pins it (R17), CLOCK_READ
(R151), TOTALS_SNAPSHOT (R157), TARIFF_READ (R32) and STATUS_READ (R178). METER_READ of a meter without a line takes one
pinned to the office and waits for its fetch (R17, R98, R99); of a FILLING line it is refused METER_BUSY, of a damaged
entry METER_DAMAGED and of an absent number METER_UNKNOWN. The model's choice: what TARIFF_DATA carries of a pending set
(log 21). -/
def Obligations.ReadsAnswered : Prop :=
  ∀ (s : State) (tag : Byte) (body : List Byte), s.takes .office tag body → s.holdAtRest →
    let read := fun (c : Instr) (reply : Reply) => ∃ t, exec c s = .next t ∧ replied .office tag reply s t ∧
      keepsAllBut [.replies .office] s t
    (∀ (meter : Nat) (e : DirEntry) (l : LineNo) (r : Record), parseMeter body = some meter → s.commissioned = true →
      dirFind meter s.directory = some e → e.damaged = false → findLine meter s = some l → (s.line l).record = some r →
      read (.meterRead tag body) (.meterData r (s.now.map fun d => decide (r.monthTag = monthTagOf d.day)))) ∧
    (∀ meter : Nat, parseMeter body = some meter → s.commissioned = true →
      (dirFind meter s.directory = none → read (.meterRead tag body) (.refused .meterUnknown kindMeterRead 0 0)) ∧
      ∀ e : DirEntry, dirFind meter s.directory = some e →
        (e.damaged = true → read (.meterRead tag body) (.refused .meterDamaged kindMeterRead 0 0)) ∧
        ∀ l : LineNo, e.damaged = false →
          (findLine meter s = some l → (s.line l).record = none →
            read (.meterRead tag body) (.refused .meterBusy kindMeterRead 0 0)) ∧
          (findLine meter s = none → victim s = l → ∃ t, exec (.meterRead tag body) s = .next t ∧
            missesFor (.read meter) e.slot tag kindMeterRead l s t)) ∧
    (body = [] → read (.clockRead tag body) (.clockData s.calendar.valid s.now s.site.businessDay)) ∧
    (body = [] → s.commissioned = true → read (.totalsSnapshot tag body)
      (.totalsData s.site.businessDay s.site.dayTotals s.site.tillTotals s.buffer.length)) ∧
    (∀ q, parseTariffRead body = some (.active, q) → read (.tariffRead tag body)
      (.tariffData .active q s.site.generation none
        ((List.range 4).map fun i => s.site.active[4 * q + i]?.getD none))) ∧
    (∀ q, parseTariffRead body = some (.pending, q) →
      (s.site.pendingSet = none → read (.tariffRead tag body) (.tariffData .pending q s.site.generation none [])) ∧
      ∀ v, s.site.pendingSet = some v → read (.tariffRead tag body)
        (.tariffData .pending q s.site.generation (some v.effectiveDay)
          ((List.range 4).map fun i => v.entries[4 * q + i]?.getD none))) ∧
    (body = [] → read (.statusRead tag body) (.statusData
      { latches := s.conditions.latches, tillSet := s.conditions.tillSet, mask := s.site.mask, supply := .run
        commissioned := s.commissioned, valid := s.calendar.valid, businessDay := s.site.businessDay
        directoryCount := s.directory.length, held := s.held, salesFree := s.salesFree, unlogged := s.site.unlogged
        newestDurable := s.newestDurable, releasePoint := s.site.releasePoint, units := s.buffer.length
        waiters := s.waiters.length, faulted := s.store.faulted, budget := s.site.budget, reserved := s.reserved
        floor := s.site.floor, lastVoucher := s.site.lastVoucher, hold := s.arbiter.hold
        links := #v[s.linkStatus 0, s.linkStatus 1, s.linkStatus 2, s.linkStatus 3]
        slots := #v[s.slotStatus 0, s.slotStatus 1, s.slotStatus 2, s.slotStatus 3] }))


/-! ### Tariff, budget and settings requests -/

/-- TARIFF_STAGE and TARIFF_LOAD_NOW of a quarter below 3 that passes its checks join the assembly area and are answered
with the quarters held (R26, R27); a lowest-numbered invalid entry refuses the frame TARIFF_INVALID with its index
(R23), and every refusal of a quarter empties the area. The model's choices: the layout of an entry (log 15) and what
the reply of a quarter below 3 carries (log 20). -/
def Obligations.QuartersTaken : Prop :=
  ∀ (s : State) (tag : Byte) (body : List Byte) (q : Nat) (raw : List RawEntry), s.takes .office tag body → s.holdAtRest →
    s.storeFaultLatched = false →
    let invalidAt := fun (i : Nat) => i < raw.length ∧ (raw.take i).all RawEntry.valid = true ∧
      (raw.drop i).head?.any RawEntry.valid = false
    (∀ day, parseStage body = some (q, raw, day) →
      (s.quarterFits (.stage day) q → raw.all RawEntry.valid = true → s.site.businessDay < day → q < 3 →
        ∃ t, exec (.tariffStage tag body) s = .next t ∧ replied .office tag (.stageOk (q + 1) none none) s t ∧
          t.assembly = some ⟨.stage day, s.collected q ++ raw.map RawEntry.entry⟩ ∧
          keepsAllBut [.assembly, .replies .office] s t) ∧
      (¬s.quarterFits (.stage day) q → ∃ t, exec (.tariffStage tag body) s = .next t ∧
        refusedWith .office kindTariffStage tag .stateConflict 0 0 s t) ∧
      (∀ i, s.quarterFits (.stage day) q → invalidAt i → ∃ t, exec (.tariffStage tag body) s = .next t ∧
        refusedWith .office kindTariffStage tag .tariffInvalid 0 (4 * q + i) s t) ∧
      (s.quarterFits (.stage day) q → raw.all RawEntry.valid = true → day ≤ s.site.businessDay →
        ∃ t, exec (.tariffStage tag body) s = .next t ∧
          refusedWith .office kindTariffStage tag .fieldRange 0 0 s t)) ∧
    (parseLoad body = some (q, raw) → s.commissioned = true →
      (s.arbiter.hold = .held → s.quarterFits .load q → raw.all RawEntry.valid = true → q < 3 →
        ∃ t, exec (.tariffLoadNow tag body) s = .next t ∧ replied .office tag (.loadOk (q + 1) none none) s t ∧
          t.assembly = some ⟨.load, s.collected q ++ raw.map RawEntry.entry⟩ ∧
          keepsAllBut [.assembly, .replies .office] s t) ∧
      (∀ i, s.arbiter.hold = .held → s.quarterFits .load q → invalidAt i → ∃ t, exec (.tariffLoadNow tag body) s = .next t ∧
        refusedWith .office kindTariffLoadNow tag .tariffInvalid 0 (4 * q + i) s t) ∧
      (s.arbiter.hold ≠ .held → ∃ t, exec (.tariffLoadNow tag body) s = .next t ∧
        refusedWith .office kindTariffLoadNow tag .notHeld 0 0 s t))

/-- The completing quarter 3 and TARIFF_UNSTAGE (R28, R30, R31): a staged set becomes the pending set with its effective
day, a loaded one the active set with the generation raised, an unstaged one is gone; each posts its JOURNAL-ONLY unit
(a BLANK part's STAGE unit carries no entry), and the area is EMPTY. A unit that waited for room is tested again when a
verified write offers it (R29, R123): a STAGE whose day the business day has reached is refused FIELD_RANGE and an
UNSTAGE that finds no pending set STATE_CONFLICT, its reservation is released, and the room is offered to the next
waiter: with none behind it the room stays, and the DAY_CLOSE, TARIFF_SHIFT or POWER_UP of the part that stands behind
it posts. The model's choice: the layout of an entry (log 15). -/
def Obligations.SetCompletes : Prop :=
  (∀ (s : State) (tag : Byte) (body : List Byte), s.takes .office tag body → s.storeFaultLatched = false →
    let n := s.journal.nextSeq
    (∀ (raw : List RawEntry) (day : Nat), parseStage body = some (3, raw, day) → s.quarterFits (.stage day) 3 →
      raw.all RawEntry.valid = true → s.site.businessDay < day →
      let v : SiteState := { s.site with
        pendingSet := some ⟨setOf (s.collected 3 ++ raw.map RawEntry.entry), day⟩ }
      (s.commissioned = true → s.ready → ∃ t, exec (.tariffStage tag body) s = .next t ∧ t.assembly = none ∧
        settingPosts tag (.tariffStaged s.site.generation (some day)) v (.stageOk 4 (some day) (some n)) [.assembly] s t) ∧
      (s.commissioned = false → s.postsAtOnce = true → ∃ t, exec (.tariffStage tag body) s = .next t ∧ t.assembly = none ∧
        t.buffer = s.buffer ++ [⟨.journalOnly, none, none, none, v⟩] ∧ t.site = v ∧
        replied .office tag (.stageOk 4 (some day) none) s t ∧
        keepsAllBut [.site, .buffer, .assembly, .replies .office] s t)) ∧
    (body = [] → s.commissioned = true →
      (s.site.pendingSet ≠ none → s.ready → ∃ t, exec (.tariffUnstage tag body) s = .next t ∧
        settingPosts tag (.tariffStaged s.site.generation none) { s.site with pendingSet := none } (.unstageOk n) [] s t) ∧
      (s.site.pendingSet = none → s.holdAtRest → ∃ t, exec (.tariffUnstage tag body) s = .next t ∧
        refusedWith .office kindTariffUnstage tag .stateConflict 0 0 s t)) ∧
    ∀ (raw : List RawEntry), parseLoad body = some (3, raw) → s.quarterFits .load 3 → raw.all RawEntry.valid = true →
      s.commissioned = true → s.arbiter.hold = .held → s.ready →
      let g := if s.site.generation = 4294967295 then 1 else s.site.generation + 1
      ∃ t, exec (.tariffLoadNow tag body) s = .next t ∧ t.assembly = none ∧
        settingPosts tag (.tariffLoaded g s.site.businessDay)
          { s.site with active := setOf (s.collected 3 ++ raw.map RawEntry.entry), generation := g }
          (.loadOk 4 (some g) (some n)) [.assembly] s t) ∧
  ∀ (s : State) (o : Outstanding) (u : CommitUnit) (rest : List CommitUnit), s.receives .office = true →
    s.officePort.outstanding = some o → s.buffer = u :: rest → rest.length < 4 →
    s.store.service = .writing ∨ s.store.service = .rewriting →
    let turnedAway := fun (w : Waiter) (code : RefusalCode) (area : Option Assembly) =>
      (s.waiters = [w] → (s.arbiter.hold = .pending → rest ≠ []) → ∃ t, exec (.unitWriteComplete .verified) s = .next t ∧
        refusedAtRoom o u rest code area w [] none s t) ∧
      ∀ (next : Waiter) (behind : List Waiter) (v : CommitUnit), s.waiters = w :: next :: behind →
        next.systemUnit s = some v → ∃ t, exec (.unitWriteComplete .verified) s = .next t ∧
          refusedAtRoom o u rest code area w behind (some v) s t
    (∀ es day b, day ≤ s.site.businessDay → turnedAway ⟨.tariffStage es day, b⟩ .fieldRange none) ∧
    (s.site.pendingSet = none → turnedAway ⟨.tariffUnstage, true⟩ .stateConflict s.assembly)

/-- BUDGET_VOUCHER (R165, R166, R121 to R124): a serial above the last one and an amount within the cap add the amount
to B and are posted; a serial not above it is refused VOUCHER_OLD with the last serial, an amount above the cap
BUDGET_CAP with what the cap leaves, and one that finds sales-free at 16 or less JOURNAL_FULL (R135). Where the Commit
Buffer is full or others wait, its unit joins the post wait list with a reservation, and the request stays outstanding.
At the head of the list it posts when a verified write gives it room, and the waiters behind it keep their places. When
STORE_FAULT latches, it is withdrawn: its reservation is released and the request refused SUSPENDED, while SALE and
SYSTEM units keep their places. The model's choice: a failed write says whether it altered its slot and leaves the
journal area as it was (log 10). -/
def Obligations.VoucherPosts : Prop :=
  (∀ (s : State) (tag : Byte) (body : List Byte) (serial amount : Nat), s.takes .office tag body →
    parseVoucher body = some (serial, amount) → s.editable →
    let b := s.site.budget + amount
    (s.site.lastVoucher < serial → b ≤ 999999999 → s.postsAtOnce = false → s.roomForOffice = true →
      s.store.faulted = false → s.holdAtRest →
      ∃ t, exec (.budgetVoucher tag body) s = .next t ∧ waits (.voucher serial amount) tag kindBudgetVoucher s t) ∧
    (s.site.lastVoucher < serial → b ≤ 999999999 → s.ready → ∃ t, exec (.budgetVoucher tag body) s = .next t ∧
      settingPosts tag (.budgetVoucher serial amount b) { s.site with budget := b, lastVoucher := serial }
        (.voucherOk serial amount b s.journal.nextSeq) [] s t) ∧
    (serial ≤ s.site.lastVoucher → s.holdAtRest → ∃ t, exec (.budgetVoucher tag body) s = .next t ∧
      refusedWith .office kindBudgetVoucher tag .voucherOld 0 s.site.lastVoucher s t) ∧
    (s.site.lastVoucher < serial → 999999999 < b → s.holdAtRest → ∃ t, exec (.budgetVoucher tag body) s = .next t ∧
      refusedWith .office kindBudgetVoucher tag .budgetCap 0 (999999999 - s.site.budget) s t) ∧
    (s.site.lastVoucher < serial → b ≤ 999999999 → s.salesFree ≤ 16 → s.holdAtRest →
      ∃ t, exec (.budgetVoucher tag body) s = .next t ∧ refusedWith .office kindBudgetVoucher tag .journalFull 0 0 s t)) ∧
  ∀ (s : State) (o : Outstanding) (serial amount : Nat) (u : CommitUnit) (rest : List CommitUnit),
    s.receives .office = true → s.officePort.outstanding = some o → s.buffer = u :: rest →
    (∀ ws, s.waiters = ⟨.voucher serial amount, true⟩ :: ws → rest.length < 4 →
      s.store.service = .writing ∨ s.store.service = .rewriting →
      let b := s.site.budget + amount
      let n := s.journal.nextSeq
      let v := postedUnit s .journalOnly none s.now .office (.budgetVoucher serial amount b)
        { s.site with budget := b, lastVoucher := serial }
      ∃ t, exec (.unitWriteComplete .verified) s = .next t ∧ t.waiters = ws ∧ t.buffer = rest ++ [v] ∧
        t.site = v.image ∧ t.journal = ⟨n + 1, s.journal.reservations - 1⟩ ∧ stored u s t ∧ linesAfterStore u s t ∧
        replied .office o.tag (.voucherOk serial amount b n) s t ∧ onlyLevels s t ∧
        keepsAllBut [.areas, .lines, .buffer, .waiters, .site, .journal, .conditions, .outstanding .office,
          .replies .office] s t) ∧
    ∀ a, s.waiters.filter (fun w => w.job.withdrawable) = [⟨.voucher serial amount, true⟩] →
      s.store.service = .rewriting → s.arbiter.hold ≠ .pending →
      ∃ t, exec (.unitWriteComplete (.failed a)) s = .next t ∧
        t.waiters = s.waiters.filter (fun w => !w.job.withdrawable) ∧ t.buffer = s.buffer ∧ t.store.faulted = true ∧
        t.journal = ⟨s.journal.nextSeq, s.journal.reservations - 1⟩ ∧ leftUnstored u a s t ∧
        replied .office o.tag (.refused .suspended o.kind 0 0) s t ∧ onlyLevels s t ∧
        keepsAllBut [.areas, .waiters, .journal, .conditions, .outstanding .office, .replies .office] s t

/-- BUDGET_FLOOR_SET, QUOTE_TIME_SET and NOTICE_MASK_SET (R168, R64, R176): a changed value is posted with a SETTINGS
entry of its old and new value, one that equals the setting posts nothing and carries no sequence; no notice of a
condition that the mask turns off stays pending. TILL_CLOSE captures the till's five counts, returns them to 0 by its
posted unit and reports them (R158, R159). -/
def Obligations.SettingsAndTillClosePost : Prop :=
  ∀ (s : State) (tag : Byte) (body : List Byte), s.takes .office tag body → s.editable →
    let n := s.journal.nextSeq
    (∀ v, parseFloor body = some v →
      (v ≠ s.site.floor → s.ready → ∃ t, exec (.budgetFloorSet tag body) s = .next t ∧
        settingPosts tag (.settings (.budgetFloor s.site.floor v)) { s.site with floor := v }
          (.floorOk v s.site.budget s.reserved (some n)) [] s t) ∧
      (v = s.site.floor → s.holdAtRest → ∃ t, exec (.budgetFloorSet tag body) s = .next t ∧
        onlyReplies tag (.floorOk v s.site.budget s.reserved none) s t)) ∧
    (∀ v, parseQuoteTime body = some v →
      (v ≠ s.site.quoteHoldTime → s.ready → ∃ t, exec (.quoteTimeSet tag body) s = .next t ∧
        settingPosts tag (.settings (.quoteHoldTime s.site.quoteHoldTime v)) { s.site with quoteHoldTime := v }
          (.quoteTimeOk v (some n)) [] s t) ∧
      (v = s.site.quoteHoldTime → s.holdAtRest → ∃ t, exec (.quoteTimeSet tag body) s = .next t ∧
        onlyReplies tag (.quoteTimeOk v none) s t)) ∧
    (∀ k : Till, parseTillClose body = some k → s.ready → ∃ t, exec (.tillClose tag body) s = .next t ∧
      settingPosts tag (.tillClose k (s.site.tillTotals.get k))
        { s.site with tillTotals := s.site.tillTotals.set k.val ⟨0, 0, 0, 0, 0⟩ k.isLt }
        (.tillCloseOk k (s.site.tillTotals.get k) n) [] s t) ∧
    ∀ (cs : List Condition) (v : ConditionSet), parseConditions body = some cs →
      (∀ c, conditionBit v c = decide (c ∈ cs)) →
      (v ≠ s.site.mask → s.ready → ∃ t, exec (.noticeMaskSet tag body) s = .next t ∧
        settingPosts tag (.settings (.noticeMask s.site.mask v)) { s.site with mask := v } (.maskOk v (some n)) [] s t ∧
        ∀ c, c ∉ cs → t.noticePending c = false) ∧
      (v = s.site.mask → s.holdAtRest → ∃ t, exec (.noticeMaskSet tag body) s = .next t ∧
        onlyReplies tag (.maskOk v none) s t)

/-- LINK_SET (R203, R204): settings that differ are posted with a SETTINGS entry, without one on a BLANK part; a link
that is not ACTIVE takes them at once, an ACTIVE one at once or, when a frame is in reception, at its end (whether one
is, is a free value: log 12); settings that equal those in force post nothing. A link made OFF so empties its port, and
its slot answers by R77 whatever its state (`linkCut`): an OPEN quote closes LINK_OFF, one in QUOTING or FETCHING takes
the abandon cause, one in CONFIRMING or POSTING goes on, and so does a reprint, their replies discarded (R199). -/
def Obligations.LinkSetPosts : Prop :=
  ∀ (s : State) (tag : Byte) (body : List Byte) (k : Till) (v : LinkSettings), s.takes .office tag body →
    parseLinkSet body = some (k, v) → s.storeFaultLatched = false →
    let q := s.port (.till k)
    let site : SiteState := { s.site with links := s.site.links.set k.val v k.isLt }
    let n := s.journal.nextSeq
    let waits := q.link = .active ∧ Config.frameInReception s.freeCount = true
    let cut := ¬waits ∧ v.enabled = false ∧ q.link ≠ .off
    let takes := fun (t : State) =>
      (waits → (t.port (.till k)).standing = (.active, q.rate, .receiving, true)) ∧
      (¬waits → (t.port (.till k)).standing = (linkAfter q.link v, v.rate, .hunt, false)) ∧ (cut → linkCut k s t) ∧
      (¬cut → t.slot k = s.slot k ∧ t.reserved = s.reserved ∧ t.working = s.working ∧
        (t.port (.till k)).outstanding = q.outstanding ∧ t.replies (.till k) = s.replies (.till k))
    let given := fun (n : Nat) => (cut → n = ((s.slot k).openQuote?.map (·.reservation)).getD 0) ∧ (¬cut → n = 0)
    let parts : List Part := [.site, .buffer, .conditions, .link (.till k), .slot k, .outstanding (.till k),
      .replies (.till k), .reserved, .journal, .lines, .replies .office]
    (v ≠ s.site.links.get k → q.settingsWaiting = false → s.postsAtOnce = true →
      (s.commissioned = true → s.roomForOffice = true) →
      ∃ t link g, exec (.linkSet tag body) s = .next t ∧ takes t ∧ given g ∧ (waits → link = LinkState.active) ∧
        (¬waits → link = linkAfter q.link v) ∧ onlyLevels s t ∧ keepsAllBut parts s t ∧
        (s.commissioned = true →
          posts (postedUnit s .journalOnly none s.now .office (.settings (.tillLink k (s.site.links.get k) v)) site)
            (s.journal.reservations - g) s t ∧ replied .office tag (.linkOk k v link (some n)) s t) ∧
        (s.commissioned = false → t.buffer = s.buffer ++ [⟨.journalOnly, none, none, none, site⟩] ∧ t.site = site ∧
          t.journal = ⟨n, s.journal.reservations - g⟩ ∧ replied .office tag (.linkOk k v link none) s t)) ∧
    (v = s.site.links.get k → s.holdAtRest → ∃ t, exec (.linkSet tag body) s = .next t ∧
      onlyReplies tag (.linkOk k v q.link none) s t)

/-- SITE_CODE_LOAD makes a BLANK part COMMISSIONED (R93, R142): its SYSTEM unit carries the COMMISSIONED entry, whose
source is the part, and COMMISSION_OK is sent; a COMMISSIONED part refuses it ALREADY_COMMISSIONED, and one without a
valid calendar CLOCK_UNSET. The model's choice: the site code's layout (log 16). -/
def Obligations.SiteCodePosts : Prop :=
  ∀ (s : State) (tag : Byte) (body : List Byte) (code : Digits), s.takes .office tag body →
    parseSiteCode body = some code →
    (∀ d, s.commissioned = false → s.now = some d → s.storeFaultLatched = false → s.postsAtOnce = true →
      ∃ t, exec (.siteCodeLoad tag body) s = .next t ∧
        posts (postedUnit s .system none (some d) .part .commissioned { s.site with siteCode := some code })
          s.journal.reservations s t ∧
        t.commissioned = true ∧ replied .office tag (.commissionOk s.journal.nextSeq) s t ∧ onlyLevels s t ∧
        keepsAllBut [.site, .buffer, .journal, .conditions, .replies .office] s t) ∧
    (s.commissioned = true → s.holdAtRest → ∃ t, exec (.siteCodeLoad tag body) s = .next t ∧
      refusedWith .office kindSiteCodeLoad tag .alreadyCommissioned 0 0 s t) ∧
    (s.commissioned = false → s.calendar.valid = false → s.holdAtRest → ∃ t, exec (.siteCodeLoad tag body) s = .next t ∧
      refusedWith .office kindSiteCodeLoad tag .clockUnset 0 0 s t)

/-! ### Journal, summaries, clock, totals -/

/-- JOURNAL_READ and SUMMARY_READ queue their area reads (R139, R156), and AREA_READ_COMPLETE answers them: as many of
the held entries asked for, from the first on, as the body has room for (R206), or the summary of the index, if there
is one; JOURNAL_RELEASE raises the release point and never lowers it (R140). The model's choices: the entry's layout in
the unlogged field (log 19), one byte for the count and for the index (log 48), and SUMMARY_ABSENT tested when the area
is read (log 34). -/
def Obligations.JournalAndSummaries : Prop :=
  ∀ (s : State) (tag : Byte) (body : List Byte), s.holdAtRest → s.commissioned = true →
    let queued := fun (c : Instr) (kind : Byte) (f : Fetch) => ∃ t, exec c s = .next t ∧
      (s.store.service ≠ .idle → t.store.queue = s.store.queue ++ [f] ∧ t.store.service = s.store.service) ∧
      (s.store.service = .idle → s.store.queue = [] → s.store.retryWaiting = false → s.buffer.length < 4 →
        t.store.service = .reading f ∧ t.store.queue = []) ∧
      (t.port .office).outstanding = some ⟨tag, kind⟩ ∧ keepsAllBut [.outstanding .office] s t
    (∀ start count, s.takes .office tag body → parseJournalRead body = some (start, count) →
      (s.heldEntries ≠ [] → s.site.releasePoint < start → start ≤ s.newestDurable.getD 0 →
        queued (.journalRead tag body) kindJournalRead (.journal start count)) ∧
      (s.heldEntries = [] ∨ start ≤ s.site.releasePoint ∨ s.newestDurable.getD 0 < start →
        ∃ t, exec (.journalRead tag body) s = .next t ∧ refusedWith .office kindJournalRead tag .fieldRange 0 0 s t)) ∧
    (∀ i, s.takes .office tag body → parseSummary body = some i →
      queued (.summaryRead tag body) kindSummaryRead (.summary i)) ∧
    (∀ (o : Outstanding), s.receives .office = true → s.officePort.outstanding = some o →
      let answered := fun (reply : Reply) (t : State) => replied .office o.tag reply s t ∧
        keepsAllBut [.outstanding .office, .replies .office] s t
      (∀ start count, s.store.service = .reading (.journal start count) → ∃ t es, exec .areaReadComplete s = .next t ∧
        answered (.journalData es) t ∧
        (let asked := (s.heldEntries.filter fun e => decide (start ≤ e.seq)).take count
         es <+: asked ∧ (replyBody (.journalData es)).length ≤ 200 ∧
           ∀ e, es ++ [e] <+: asked → 200 < (replyBody (.journalData (es ++ [e]))).length)) ∧
      (∀ i, s.store.service = .reading (.summary i) →
        (∀ d, s.store.summaries[i]? = some d → ∃ t, exec .areaReadComplete s = .next t ∧ answered (.summaryData i d) t) ∧
        (s.store.summaries[i]? = none → ∃ t, exec .areaReadComplete s = .next t ∧
          answered (.refused .summaryAbsent o.kind 0 0) t))) ∧
    ∀ upto, s.takes .office tag body → parseRelease body = some upto →
      (∀ m, s.newestDurable = some m → upto ≤ m → ∃ t, exec (.journalRelease tag body) s = .next t ∧
        t.site = { s.site with releasePoint := max s.site.releasePoint upto } ∧
        replied .office tag (.journalReleaseOk (max s.site.releasePoint upto)
          (s.store.journal.filter fun e => decide (max s.site.releasePoint upto < e.seq)).length) s t ∧ onlyLevels s t ∧
        keepsAllBut [.site, .conditions, .replies .office] s t) ∧
      (s.newestDurable.getD 0 < upto ∨ s.newestDurable = none → ∃ t, exec (.journalRelease tag body) s = .next t ∧
        refusedWith .office kindJournalRelease tag .fieldRange 0 0 s t)

/-- CLOCK_SET (R148, R149): the Calendar takes the date-time and is valid, the backup cell takes it with its running
mark, the unit (without an entry on a BLANK part) is posted at that date-time, and CLOCK_OK is sent; a later day takes
the rollover in the same grant, on a COMMISSIONED part with its DAY_CLOSE unit behind the CLOCK_SET's (R147, R154), the
OPEN quotes closed ROLLOVER and a pending set whose day is reached in force (R33, R76); a day before the business day
is refused CLOCK_BACKWARD. Where the Commit Buffer is full or others wait, its unit joins the post wait list. At the
room a verified write offers it, the Calendar takes the date-time with the seconds counted since it was taken added, at
most the last one of 2099 (R149), and a later day takes the rollover; a day that the business day has passed meanwhile
is refused CLOCK_BACKWARD there, its reservation released, and the next waiter takes the room (R150). When STORE_FAULT
latches it is withdrawn SUSPENDED (R124). The model's choices: the order of the rollover's effects (log 23), and a
failed write says whether it altered its slot and leaves the journal area as it was (log 10). -/
def Obligations.ClockSetPosts : Prop :=
  (∀ (s : State) (tag : Byte) (body : List Byte) (d : DateTime), s.takes .office tag body →
    parseClock body = some d → s.storeFaultLatched = false →
    let n := s.journal.nextSeq
    (d.day = s.site.businessDay →
      (s.commissioned = true → s.ready → ∃ t, exec (.clockSet tag body) s = .next t ∧
        posts (postedUnit s .journalOnly none (some d) .office (.clockSet s.now d) s.site) s.journal.reservations s t ∧
        t.calendar = ⟨some d, true⟩ ∧ t.cell = ⟨true, some d⟩ ∧
        replied .office tag (.clockOk d d.day false (some n)) s t ∧ onlyLevels s t ∧
        keepsAllBut [.site, .buffer, .journal, .clock, .conditions, .replies .office] s t) ∧
      (s.commissioned = false → s.postsAtOnce = true → ∃ t, exec (.clockSet tag body) s = .next t ∧
        t.buffer = s.buffer ++ [⟨.journalOnly, none, none, none, s.site⟩] ∧
        t.calendar = ⟨some d, true⟩ ∧ t.cell = ⟨true, some d⟩ ∧
        replied .office tag (.clockOk d d.day false none) s t ∧ onlyLevels s t ∧
        keepsAllBut [.buffer, .clock, .conditions, .replies .office] s t)) ∧
    (s.site.businessDay < d.day → s.commissioned = false → s.waiters = [] → s.buffer.length < 3 →
      s.site.pendingSet = none → (∀ k, (s.slot k).state = .idle) → ∃ t, exec (.clockSet tag body) s = .next t ∧
        t.buffer = s.buffer ++ [⟨.journalOnly, none, none, none, s.site⟩,
          ⟨.system, none, none, none, { s.site with businessDay := d.day }⟩] ∧
        t.site = { s.site with businessDay := d.day } ∧ t.calendar = ⟨some d, true⟩ ∧ t.cell = ⟨true, some d⟩ ∧
        replied .office tag (.clockOk d d.day true none) s t ∧ onlyLevels s t ∧
        keepsAllBut [.site, .buffer, .clock, .conditions, .replies .office] s t) ∧
    (s.site.businessDay < d.day → s.commissioned = true → s.ready →
      (∃ t, exec (.clockSet tag body) s = .next t ∧ t.calendar = ⟨some d, true⟩ ∧ t.cell = ⟨true, some d⟩ ∧
        t.site.businessDay = d.day ∧ t.site.dayTotals = ⟨0, 0, 0, 0, 0⟩ ∧
        (∃ more, t.buffer = s.buffer ++ postedUnit s .journalOnly none (some d) .office (.clockSet s.now d) s.site :: more ∧
          ∀ u ∈ more, u.image.businessDay = d.day ∧ u.image.dayTotals = ⟨0, 0, 0, 0, 0⟩) ∧
        (∀ k, (s.slot k).state = .opened → ∀ q, (s.slot k).quote = some q →
          (t.slot k).state = .idle ∧ (t.slot k).quote = none ∧ (t.slot k).lastClosed = some (q.id, .rollover)) ∧
        (∀ k, (s.slot k).state = .quoting ∨ (s.slot k).state = .fetching →
          t.slot k = { s.slot k with abandon := some ((s.slot k).abandon.getD .rollover) }) ∧
        (∀ p, s.site.pendingSet = some p → p.effectiveDay ≤ d.day → t.site.active = p.entries ∧
          t.site.pendingSet = none ∧ t.latched .tariffShifted = true ∧
          t.site.generation = if s.site.generation = 4294967295 then 1 else s.site.generation + 1) ∧
        (∀ p, s.site.pendingSet = some p → d.day < p.effectiveDay → t.site.active = s.site.active ∧
          t.site.pendingSet = some p) ∧
        replied .office tag (.clockOk d d.day true (some n)) s t) ∧
      (s.buffer.length < 3 → (∀ p, s.site.pendingSet = some p → d.day < p.effectiveDay) →
        (∀ k, (s.slot k).state ≠ .opened ∧ (s.slot k).state ≠ .quoting ∧ (s.slot k).state ≠ .fetching) →
        let site : SiteState := { s.site with businessDay := d.day, dayTotals := ⟨0, 0, 0, 0, 0⟩, unlogged := 0 }
        ∃ t, exec (.clockSet tag body) s = .next t ∧
          t.buffer = s.buffer ++ [postedUnit s .journalOnly none (some d) .office (.clockSet s.now d) s.site,
            ⟨.system, none, some ⟨n + 1, some d, .part, none, .dayClose s.site.businessDay s.site.dayTotals⟩,
              some ⟨s.site.businessDay, s.site.dayTotals, some d, some (n + 1)⟩, site⟩] ∧
          t.site = site ∧ t.journal = ⟨n + 2, s.journal.reservations⟩ ∧ t.calendar = ⟨some d, true⟩ ∧
          t.cell = ⟨true, some d⟩ ∧ replied .office tag (.clockOk d d.day true (some n)) s t ∧ onlyLevels s t ∧
          keepsAllBut [.site, .buffer, .journal, .clock, .conditions, .replies .office] s t)) ∧
    (d.day < s.site.businessDay → s.holdAtRest → ∃ t, exec (.clockSet tag body) s = .next t ∧
      refusedWith .office kindClockSet tag .clockBackward 0 0 s t) ∧
    (s.site.businessDay ≤ d.day → s.commissioned = true → s.postsAtOnce = false → s.roomForOffice = true →
      s.store.faulted = false → s.holdAtRest → ∃ t, exec (.clockSet tag body) s = .next t ∧
        waits (.clockSet s.now d 0) tag kindClockSet s t)) ∧
  ∀ (s : State) (o : Outstanding) (u : CommitUnit) (rest : List CommitUnit) (old : Option DateTime) (value : DateTime)
      (elapsed : Nat) (b : Bool) (behind : List Waiter), s.receives .office = true →
    s.officePort.outstanding = some o → s.buffer = u :: rest → s.waiters = ⟨.clockSet old value elapsed, b⟩ :: behind →
    let total := value.day * 86400 + value.second + elapsed
    let d : DateTime := if total ≤ 3155759999 then ⟨total / 86400, total % 86400⟩ else ⟨36524, 86399⟩
    let n := s.journal.nextSeq
    let v := if b = true then postedUnit s .journalOnly none (some d) .office (.clockSet old d) s.site
      else ⟨.journalOnly, none, none, none, s.site⟩
    let takes := fun (t : State) => t.calendar = ⟨some d, true⟩ ∧ t.cell = ⟨true, some d⟩ ∧ stored u s t
    (rest.length < 4 → s.store.service = .writing ∨ s.store.service = .rewriting →
      (d.day = s.site.businessDay → ∃ t, exec (.unitWriteComplete .verified) s = .next t ∧ takes t ∧ t.waiters = behind ∧
        t.buffer = rest ++ [v] ∧ t.site = v.image ∧ linesAfterStore u s t ∧
        t.journal = (if b = true then ⟨n + 1, s.journal.reservations - 1⟩ else s.journal) ∧
        replied .office o.tag (.clockOk d d.day false (if b = true then some n else none)) s t ∧ onlyLevels s t ∧
        keepsAllBut [.areas, .lines, .buffer, .waiters, .site, .journal, .clock, .conditions, .outstanding .office,
          .replies .office] s t) ∧
      (s.site.businessDay < d.day → s.commissioned = true → ∃ t, exec (.unitWriteComplete .verified) s = .next t ∧
        takes t ∧ t.site.businessDay = d.day ∧ t.site.dayTotals = ⟨0, 0, 0, 0, 0⟩ ∧
        (∃ more, t.buffer = rest ++ v :: more ∧
          ∀ x ∈ more, x.image.businessDay = d.day ∧ x.image.dayTotals = ⟨0, 0, 0, 0, 0⟩) ∧
        replied .office o.tag (.clockOk d d.day true (if b = true then some n else none)) s t) ∧
      (d.day < s.site.businessDay →
        (behind = [] → (s.arbiter.hold = .pending → rest ≠ []) → ∃ t, exec (.unitWriteComplete .verified) s = .next t ∧
          refusedAtRoom o u rest .clockBackward s.assembly ⟨.clockSet old value elapsed, b⟩ [] none s t) ∧
        ∀ next later x, behind = next :: later → next.systemUnit s = some x →
          ∃ t, exec (.unitWriteComplete .verified) s = .next t ∧
            refusedAtRoom o u rest .clockBackward s.assembly ⟨.clockSet old value elapsed, b⟩ later (some x) s t)) ∧
    ∀ a, behind.all (fun w => !w.job.withdrawable) = true → s.store.service = .rewriting → s.arbiter.hold ≠ .pending →
      ∃ t, exec (.unitWriteComplete (.failed a)) s = .next t ∧ t.waiters = behind ∧ t.buffer = s.buffer ∧
        t.store.faulted = true ∧ t.journal = ⟨n, s.journal.reservations - (if b = true then 1 else 0)⟩ ∧
        leftUnstored u a s t ∧ replied .office o.tag (.refused .suspended o.kind 0 0) s t ∧ onlyLevels s t ∧
        keepsAllBut [.areas, .waiters, .journal, .conditions, .outstanding .office, .replies .office] s t

/-! ### Office hold, conditions, store retry -/

/-- The office hold (R79, R81, R82). While it is PENDING or HELD, ENGINE_GRANT grants no slot and changes nothing.
HOLD_REQUEST is PENDING while the Commit Buffer holds a unit and is granted at once without one, for 120 seconds; in
HELD it is refused HOLD_ACTIVE. HOLD_RELEASE ends the hold and empties a LOAD collection; without the hold it is refused
NOT_HELD. At the lapse the hold ends, HOLD_LAPSED latches, and hold-only units leave the post wait list. A PENDING hold
is granted when a verified write takes the last unit out of the buffer, and is refused SUSPENDED, the hold NONE again,
when STORE_FAULT latches. The model's choices: a lapse past the range is a free value (log 13), an expiry event comes
when the count is 0 (log 8), and a failed write says whether it altered its slot and leaves the journal area as it was
(log 10). -/
def Obligations.OfficeHold : Prop :=
  ∀ (s : State), s.holdAtRest →
    let ends := fun (t : State) => t.arbiter.hold = .none ∧ t.arbiter.lapse = none
    let keepsStage := fun (t : State) =>
      t.assembly = if s.assembly.any (fun a => a.purpose == .load) then none else s.assembly
    (s.arbiter.hold ≠ .none → ∃ t, exec .engineGrant s = .next t ∧ keepsAllBut [] s t) ∧
    (∀ tag : Byte, s.takes .office tag [] →
      (s.editable → s.arbiter.hold ≠ .held →
        (s.buffer ≠ [] → ∃ t, exec (.holdRequest tag []) s = .next t ∧ t.arbiter.hold = .pending ∧
          t.arbiter.lapse = s.arbiter.lapse ∧ (t.port .office).outstanding = some ⟨tag, kindHoldRequest⟩ ∧
          keepsAllBut [.hold, .outstanding .office] s t) ∧
        (s.buffer = [] → ∃ t, exec (.holdRequest tag []) s = .next t ∧ t.arbiter.hold = .held ∧
          t.arbiter.lapse = some 120 ∧
          replied .office tag (.holdOk (s.now.map fun d => reportedTime d 120)) s t ∧
          keepsAllBut [.hold, .replies .office] s t)) ∧
      (s.editable → s.arbiter.hold = .held → ∃ t, exec (.holdRequest tag []) s = .next t ∧
        refusedWith .office kindHoldRequest tag .holdActive 0 0 s t) ∧
      (s.commissioned = true → s.arbiter.hold = .held → ∃ t, exec (.holdRelease tag []) s = .next t ∧ ends t ∧
        keepsStage t ∧ replied .office tag .releaseOk s t ∧ keepsAllBut [.hold, .assembly, .replies .office] s t) ∧
      (s.commissioned = true → s.arbiter.hold ≠ .held → ∃ t, exec (.holdRelease tag []) s = .next t ∧
        refusedWith .office kindHoldRelease tag .notHeld 0 0 s t)) ∧
    (s.running = true → s.arbiter.hold = .held → s.arbiter.lapse = some 0 → ∃ t, exec .officeHoldLapse s = .next t ∧
      ends t ∧ t.latched .holdLapsed = true ∧ t.waiters = s.waiters.filter (fun w => !w.job.holdOnly) ∧
      ((∀ w ∈ s.waiters, w.job.holdOnly = false) → keepsStage t ∧ t.conditions.tillSet = s.conditions.tillSet ∧
        (∀ c, c ≠ .holdLapsed → t.latched c = s.latched c) ∧ keepsAllBut [.hold, .assembly, .conditions] s t)) ∧
    ∀ (o : Outstanding) (u : CommitUnit) (rest : List CommitUnit), s.receives .office = true →
      s.officePort.outstanding = some o → s.arbiter.hold = .pending → s.buffer = u :: rest →
      (rest = [] → s.waiters = [] → s.store.service = .writing ∨ s.store.service = .rewriting →
        ∃ t, exec (.unitWriteComplete .verified) s = .next t ∧ t.buffer = [] ∧ t.arbiter.hold = .held ∧
          t.arbiter.lapse = some 120 ∧ stored u s t ∧ linesAfterStore u s t ∧
          replied .office o.tag (.holdOk (s.now.map fun d => reportedTime d 120)) s t ∧ onlyLevels s t ∧
          keepsAllBut [.areas, .lines, .buffer, .hold, .conditions, .outstanding .office, .replies .office] s t) ∧
      ∀ a, (∀ w ∈ s.waiters, w.job.withdrawable = false) → s.store.service = .rewriting →
        ∃ t, exec (.unitWriteComplete (.failed a)) s = .next t ∧ ends t ∧ t.store.faulted = true ∧
          leftUnstored u a s t ∧ replied .office o.tag (.refused .suspended o.kind 0 0) s t ∧ onlyLevels s t ∧
          keepsAllBut [.areas, .hold, .conditions, .outstanding .office, .replies .office] s t

/-- CONDITION_CLEAR (R175): a named condition's latch is cleared, and set again at once if its level is still present;
the till set is emptied with LINE_FAULT; a cleared condition's notice is withdrawn; CLEAR_OK carries what stands
after it. -/
def Obligations.ConditionClear : Prop :=
  ∀ (s : State) (tag : Byte) (body : List Byte) (cs : List Condition), s.takes .office tag body →
    parseConditions body = some cs → s.commissioned = true → s.holdAtRest →
    ∃ t, exec (.conditionClear tag body) s = .next t ∧
      (∀ c, t.latched c = if c ∈ cs then s.levelOf c else s.latched c) ∧
      t.conditions.tillSet = (if Condition.lineFault ∈ cs then Vector.replicate 4 false else s.conditions.tillSet) ∧
      (∀ c ∈ cs, s.levelOf c = false → t.noticePending c = false) ∧
      replied .office tag (.clearOk t.conditions.latches t.conditions.tillSet) s t ∧
      keepsAllBut [.conditions, .replies .office] s t

/-- STORE_RETRY (R115): on a FAULTED store it begins its first attempt when the store is idle and waits otherwise; on a
NORMAL one it is refused STATE_CONFLICT. A verified attempt completes the head unit, makes the store NORMAL and answers
cleared yes with the unit's sequence; a first failure is tried once more; a second answers cleared no. The model's
choices: a failed write says whether it altered its slot and leaves the journal area as it was (log 10), and RETRY_OK
with outcome FAULTED carries no sequence (log 47). -/
def Obligations.StoreRetry : Prop :=
  ∀ (s : State), s.holdAtRest → s.commissioned = true →
    (∀ tag : Byte, s.takes .office tag [] →
      (s.store.faulted = true → ∃ t, exec (.storeRetry tag []) s = .next t ∧
        (s.store.service = .idle → t.store.service = .retrying false ∧ t.store.retryWaiting = false) ∧
        (s.store.service ≠ .idle → t.store.service = s.store.service ∧ t.store.retryWaiting = true) ∧
        (t.port .office).outstanding = some ⟨tag, kindStoreRetry⟩ ∧ keepsAllBut [.outstanding .office] s t) ∧
      (s.store.faulted = false → ∃ t, exec (.storeRetry tag []) s = .next t ∧
        refusedWith .office kindStoreRetry tag .stateConflict 0 0 s t)) ∧
    ∀ (u : CommitUnit) (rest : List CommitUnit) (o : Outstanding), s.receives .office = true →
      s.officePort.outstanding = some o → s.buffer = u :: rest → s.waiters = [] → s.arbiter.hold ≠ .pending →
      (∀ b, s.store.service = .retrying b → ∃ t, exec (.retryAttemptComplete .verified) s = .next t ∧
        t.buffer = rest ∧ stored u s t ∧ linesAfterStore u s t ∧ t.store.faulted = false ∧
        replied .office o.tag (.retryOk true (u.entry.map (·.seq))) s t ∧ onlyLevels s t ∧
        keepsAllBut [.areas, .lines, .buffer, .conditions, .outstanding .office, .replies .office] s t) ∧
      (∀ a, s.store.service = .retrying false → ∃ t, exec (.retryAttemptComplete (.failed a)) s = .next t ∧
        t.store.service = .retrying true ∧ leftUnstored u a s t ∧ t.store.faulted = s.store.faulted ∧
        keepsAllBut [.areas] s t) ∧
      (∀ a, s.store.service = .retrying true → ∃ t, exec (.retryAttemptComplete (.failed a)) s = .next t ∧
        leftUnstored u a s t ∧ t.store.faulted = s.store.faulted ∧
        replied .office o.tag (.retryOk false none) s t ∧
        keepsAllBut [.areas, .outstanding .office, .replies .office] s t)

/-! ### Lines and links -/

/-- Frames at a port: a request kind that is none of the link's is refused UNKNOWN_KIND (R199); a discarded or late
frame leaves nothing behind (R196, R197), but that settings which waited for its end are taken (R204); the end of a
transmission begins the next ready frame (R201), whose notice carries the values in force then (R173). The model's
choices: frames that end while settings wait are discarded and the settings taken (log 32), and the quote id 0 of an
UNKNOWN_KIND refusal whatever its kind (log 55). -/
def Obligations.LineFrames : Prop :=
  ∀ (s : State) (p : PortId), s.holdAtRest →
    (∀ (kind tag : Byte) (body : List Byte), isRequestKind p kind = false → s.takes p tag body →
      ∃ t, exec (.unknownKind p kind tag body) s = .next t ∧
      replied p tag (.refused .unknownKind kind 0 0) s t ∧ keepsAllBut [.replies p] s t) ∧
    (s.receives p = true → (s.port p).settingsWaiting = false →
      (∀ cs, (receive .hunt cs).2 = some .discarded → ∃ t, exec (.frameDiscarded p cs) s = .next t ∧
        keepsAllBut [] s t) ∧
      (∀ cs n got, receive .hunt cs = (.receiving got, none) → frameLimit got ≤ n →
        ∃ t, exec (.frameTimeLimit p cs n) s = .next t ∧ keepsAllBut [] s t)) ∧
    (∀ (k : Till) (cs : List RxChar), p = .till k → s.receives p = true → (s.port p).settingsWaiting = true →
      (s.site.links.get k).enabled = true → (receive .hunt cs).2 = some .discarded →
      ∃ t, exec (.frameDiscarded p cs) s = .next t ∧
        (t.port p).standing = (.active, (s.site.links.get k).rate, .hunt, false) ∧ keepsAllBut [.link p] s t) ∧
    ∀ f : TxFrame, (s.port p).transmitting = some f → ∃ t, exec (.frameTransmitted p) s = .next t ∧
      keepsAllBut [.replies p] s t ∧
      ((s.port p).order = [] → (t.port p).transmitting = none ∧ (t.port p).order = []) ∧
      ∀ i rest, s.running = true → (s.port p).link = .active → (s.port p).order = i :: rest →
        (t.port p).order = rest ∧ (t.port p).transmitting = some ⟨frameOf s i, s.linkRate p⟩

/-- Link events (R198, R172, R204): an ACTIVE link enters FAULT, which for a till link latches LINE_FAULT with the till
set and queues its notice while the mask enables it; the end of the fault makes the link ACTIVE; settings that wait are
taken at a frame boundary. A link that becomes OFF empties its port, and its slot answers by R77 whatever its state
(`linkCut`): an OPEN quote closes LINK_OFF, one in QUOTING or FETCHING takes the abandon cause unless one is set, one in
CONFIRMING or POSTING goes on, and so does a reprint, their replies discarded (R199). The model's choice: the event that
says a frame has ended while settings wait (log 32). -/
def Obligations.LinkEvents : Prop :=
  ∀ (s : State), s.holdAtRest → s.running = true →
    (∀ p : PortId, (s.port p).settingsWaiting = false →
      ((s.port p).link = .active → ∃ t, exec (.linkEntersFault p) s = .next t ∧
        (t.port p).standing = (.fault, (s.port p).rate, .hunt, false) ∧
        (p = .office → keepsAllBut [.link .office] s t) ∧
        ∀ k, p = .till k → keepsAllBut [.link p, .conditions] s t ∧ t.latched .lineFault = true ∧
          t.conditions.tillSet = s.conditions.tillSet.set k.val true k.isLt ∧
          (∀ c, c ≠ .lineFault → t.latched c = s.latched c) ∧
          (s.officePort.transmitting ≠ none → t.noticePending .lineFault =
            (conditionBit s.site.mask .lineFault || s.noticePending .lineFault))) ∧
      ((s.port p).link = .fault → ∃ t, exec (.linkFaultEnd p) s = .next t ∧
        (t.port p).standing = (.active, (s.port p).rate, .hunt, false) ∧ keepsAllBut [.link p] s t)) ∧
    ∀ k : Till, (s.port (.till k)).settingsWaiting = true →
      let v := s.site.links.get k
      (v.enabled = true → ∃ t, exec (.linkSettingsTaken k) s = .next t ∧
        (t.port (.till k)).standing = (linkAfter (s.port (.till k)).link v, v.rate, .hunt, false) ∧
        keepsAllBut [.link (.till k)] s t) ∧
      (v.enabled = false → (s.port (.till k)).link = .off → ∃ t, exec (.linkSettingsTaken k) s = .next t ∧
        (t.port (.till k)).standing = (.off, v.rate, .hunt, false) ∧ keepsAllBut [.link (.till k)] s t) ∧
      (v.enabled = false → (s.port (.till k)).link ≠ .off → ∃ t, exec (.linkSettingsTaken k) s = .next t ∧
        (t.port (.till k)).standing = (.off, v.rate, .hunt, false) ∧ linkCut k s t ∧
        t.journal = ⟨s.journal.nextSeq,
          s.journal.reservations - ((s.slot k).openQuote?.map (·.reservation)).getD 0⟩ ∧ onlyLevels s t ∧
        ((s.slot k).openQuote? = none → t.conditions = s.conditions) ∧
        keepsAllBut [.link (.till k), .outstanding (.till k), .replies (.till k), .slot k, .reserved, .journal, .lines,
          .conditions] s t)

/-! ### Calendar -/

/-- CALENDAR_SECOND advances the Calendar and the backup cell by one second, holding 2099-12-31 23:59:59 (R144), and
counts the hold timers, the office hold's lapse and a waiting CLOCK_SET (R63, R82, R149; that the seconds of these are
the Calendar's is log 8); BACKUP_CELL_FAILED loses the cell's mark and date-time, and outside RUN the Calendar's
date-time with it (R145; log 28). -/
def Obligations.CalendarEvents : Prop :=
  (∀ d : DateTime, inRange d = true → nextSecond d =
    if d.second + 1 < 86400 then ⟨d.day, d.second + 1⟩ else if d.day < 36524 then ⟨d.day + 1, 0⟩ else d) ∧
  ∀ s : State, s.holdAtRest →
    (∃ t, exec .calendarSecond s = .next t ∧ t.calendar = ⟨s.calendar.dateTime.map nextSecond, s.calendar.valid⟩ ∧
      t.cell = ⟨s.cell.mark, s.cell.dateTime.map nextSecond⟩ ∧
      (∀ k, t.slot k = { s.slot k with timer := (s.slot k).timer.map (· - 1) }) ∧
      t.arbiter.hold = s.arbiter.hold ∧ t.arbiter.lapse = s.arbiter.lapse.map (· - 1) ∧
      t.waiters = s.waiters.map (fun w => match w.job with
        | .clockSet old value elapsed => ⟨.clockSet old value (elapsed + 1), w.hasEntry⟩
        | _ => w) ∧
      keepsAllBut [.clock, .slot 0, .slot 1, .slot 2, .slot 3, .hold, .waiters] s t) ∧
    (∃ t, exec .backupCellFailed s = .next t ∧ t.cell = ⟨false, none⟩ ∧
      (s.running = true → t.calendar = s.calendar ∧ keepsAllBut [.clock] s t) ∧
      (s.running = false → t.calendar = ⟨none, false⟩ ∧ onlyLevels s t ∧ keepsAllBut [.clock, .conditions] s t))

/-- DAY_ROLLOVER (R147, R154, R76, R33, R122), in RUN, and in START once start-up has made its own comparison: the
business day becomes the Calendar's; the day's totals are captured in a day summary whose SYSTEM unit carries the
DAY_CLOSE entry, or none when no entry fits, and return to 0; every unit the rollover posts holds the new business day
with the totals at 0 (R152, R155); OPEN quotes close ROLLOVER and QUOTING and FETCHING ones take the abandon cause; a
pending set whose day is reached becomes the active set with the generation raised. On a BLANK part the business day
moves and a SYSTEM unit posts with the image alone (R154), and so does the shift of a pending set, whose TARIFF_SHIFTED
latches (R34, R172). Where the Commit Buffer is full or others wait, the unit joins the post wait list, a DAY_CLOSE with
its reservation, and posts when a verified write gives the head of the list room. In any other supply state, and before
the Calendar's day is later, nothing happens. The model's choices: the order of the rollover's effects (log 23), and
that the sender brings the event (log 7). -/
def Obligations.DayRollover : Prop :=
  ∀ (s : State), s.holdAtRest →
    let idle := ∀ k, (s.slot k).state ≠ .opened ∧ (s.slot k).state ≠ .quoting ∧ (s.slot k).state ≠ .fetching
    (∀ d : DateTime, s.takesArisings = true → s.now = some d → s.site.businessDay < d.day →
      let unreached := ∀ p, s.site.pendingSet = some p → d.day < p.effectiveDay
      let raised := if s.site.generation = 4294967295 then 1 else s.site.generation + 1
      (s.commissioned = true →
        (∃ t, exec .dayRollover s = .next t ∧ t.site.businessDay = d.day ∧ t.site.dayTotals = ⟨0, 0, 0, 0, 0⟩ ∧
          (∃ more, t.buffer = s.buffer ++ more ∧
            ∀ u ∈ more, u.image.businessDay = d.day ∧ u.image.dayTotals = ⟨0, 0, 0, 0, 0⟩) ∧
          (∀ k, (s.slot k).state = .opened → ∀ q, (s.slot k).quote = some q →
            t.slot k = (s.slot k).closedWith q.id .rollover) ∧
          (∀ k, (s.slot k).state = .quoting ∨ (s.slot k).state = .fetching →
            t.slot k = { s.slot k with abandon := some ((s.slot k).abandon.getD .rollover) }) ∧
          (∀ p, s.site.pendingSet = some p → p.effectiveDay ≤ d.day → t.site.active = p.entries ∧
            t.site.pendingSet = none ∧ t.latched .tariffShifted = true ∧ t.site.generation = raised) ∧
          (unreached → t.site.active = s.site.active ∧ t.site.pendingSet = s.site.pendingSet)) ∧
        (unreached → idle →
          let v : SiteState := { s.site with businessDay := d.day, dayTotals := ⟨0, 0, 0, 0, 0⟩ }
          let n := s.journal.nextSeq
          (s.postsAtOnce = true → 0 < s.salesFree → ∃ t, exec .dayRollover s = .next t ∧
            posts { postedUnit s .system none (some d) .part (.dayClose s.site.businessDay s.site.dayTotals) v with
              summary := some ⟨s.site.businessDay, s.site.dayTotals, some d, some n⟩ } s.journal.reservations s t ∧
            onlyLevels s t ∧ keepsAllBut [.site, .buffer, .journal, .conditions] s t) ∧
          (s.postsAtOnce = true → s.salesFree = 0 → ∃ t, exec .dayRollover s = .next t ∧
            t.site = { v with unlogged := min 4294967295 (s.site.unlogged + 1) } ∧
            t.buffer = s.buffer ++
              [⟨.system, none, none, some ⟨s.site.businessDay, s.site.dayTotals, some d, none⟩, t.site⟩] ∧
            keepsAllBut [.site, .buffer] s t) ∧
          (s.postsAtOnce = false → 0 < s.salesFree → ∃ t, exec .dayRollover s = .next t ∧
            t.waiters = s.waiters ++ [⟨.dayClose ⟨s.site.businessDay, s.site.dayTotals, some d, none⟩, true⟩] ∧
            t.site = v ∧ t.journal = ⟨n, s.journal.reservations + 1⟩ ∧ onlyLevels s t ∧
            keepsAllBut [.site, .waiters, .journal, .conditions] s t))) ∧
      (s.commissioned = false → idle →
        let v : SiteState := { s.site with businessDay := d.day }
        let w : SiteState := { v with
          active := (s.site.pendingSet.map (·.entries)).getD s.site.active, generation := raised, pendingSet := none }
        (unreached → s.postsAtOnce = true → ∃ t, exec .dayRollover s = .next t ∧ t.site = v ∧
          t.buffer = s.buffer ++ [⟨.system, none, none, none, v⟩] ∧ keepsAllBut [.site, .buffer] s t) ∧
        (unreached → s.postsAtOnce = false → ∃ t, exec .dayRollover s = .next t ∧ t.site = v ∧
          t.waiters = s.waiters ++ [⟨.imageOnly, false⟩] ∧ keepsAllBut [.site, .waiters] s t) ∧
        (∀ p, s.site.pendingSet = some p → p.effectiveDay ≤ d.day → s.waiters = [] → s.buffer.length < 3 →
          ∃ t, exec .dayRollover s = .next t ∧ t.site = w ∧
            t.buffer = s.buffer ++ [⟨.system, none, none, none, w⟩, ⟨.system, none, none, none, w⟩] ∧
            t.latched .tariffShifted = true ∧ (∀ c, c ≠ .tariffShifted → t.latched c = s.latched c) ∧
            t.conditions.tillSet = s.conditions.tillSet ∧ keepsAllBut [.site, .buffer, .conditions] s t))) ∧
    (∀ (w : Waiter) (ws : List Waiter) (u : CommitUnit) (rest : List CommitUnit), s.running = true →
      s.buffer = u :: rest → rest.length < 4 → s.waiters = w :: ws →
      s.store.service = .writing ∨ s.store.service = .rewriting →
      let posted := fun (v : CommitUnit) (journal : JournalCounts) => ∃ t, exec (.unitWriteComplete .verified) s = .next t ∧
        t.waiters = ws ∧ t.buffer = rest ++ [v] ∧ t.site = v.image ∧ t.journal = journal ∧ stored u s t ∧
        linesAfterStore u s t ∧ onlyLevels s t ∧
        keepsAllBut [.areas, .lines, .buffer, .waiters, .site, .journal, .conditions] s t
      (∀ c, w = ⟨.dayClose c, true⟩ →
        posted { postedUnit s .system none s.now .part (.dayClose c.day c.counts) s.site with
          summary := some { c with seq := some s.journal.nextSeq } } ⟨s.journal.nextSeq + 1, s.journal.reservations - 1⟩) ∧
      (w = ⟨.imageOnly, false⟩ → posted ⟨.system, none, none, none, s.site⟩ s.journal)) ∧
    (s.takesArisings = false ∨ s.rolloverDue = false → ∃ t, exec .dayRollover s = .next t ∧ keepsAllBut [] s t)

/-! ### The Record Store -/

/-- RECORD_FETCH_COMPLETE (R12, R101, R107): a slot that holds the meter's record with its check fills the line, which
keeps its pin, and the owner goes on: a FETCHING quote or reprint asks for its next grant, METER_READ is answered and
unpins, and METER_EDIT, METER_BLOCK, METER_UNBLOCK, METER_RETIRE and METER_PURGE go on from step 8 of Table 1-5 (R6,
R15, R18, R19), to a refusal that releases the pin, to their EDIT unit at once, or to a place in the post wait list with
the pin kept (refused SUSPENDED while STORE_FAULT is latched, R13). Any other result frees the line, marks the directory
entry damaged and refuses the owner METER_DAMAGED. A FETCHING quote with an abandon cause closes with it at this
boundary instead, and its QUOTE is answered QUOTE_EXPIRED carrying it: the line is left VALID and unpinned by a good
check, FREE by a bad one (R66). The journal, the summaries, the image area, the hold cell and the fault state stand, and
every other record slot. The reply of a slot whose link was made OFF, or is in FAULT, is discarded (R77). The model's
choices: the order of a METER_EDIT entry's list (log 57); the check is ideal and the damage an operand of the event (log
9); the continuation in its step (log 6). -/
def Obligations.FetchCompletes : Prop :=
  ∀ (s : State) (l : LineNo) (meter slot : Nat) (damaged : Bool), s.running = true → s.holdAtRest →
    s.store.service = .reading (.record l meter slot) → findLine meter s = some l →
    let good := fun (r : Record) => damaged = false ∧ r.meter = meter ∧ slotGet slot s.store.slots = some ⟨r, some r⟩
    let damages := fun (t : State) =>
      t.line l = ⟨.free, none, none, 0, none⟩ ∧ (∀ j, j ≠ l → t.line j = s.line j) ∧
      t.working.recency = l :: s.working.recency.erase l ∧
      t.directory = s.directory.map (fun x => if x.meter = meter then { x with damaged := true } else x) ∧
      fetchLeaves damaged slot s t
    let asks := fun (k : Till) (t : State) => t.arbiter.pending.get k = true ∧
      (∀ j, j ≠ k → t.arbiter.pending.get j = s.arbiter.pending.get j) ∧ t.arbiter.pointer = s.arbiter.pointer
    (∀ (k : Till), s.line l = ⟨.filling, some meter, some (.slot k), 0, none⟩ → findPinned (.slot k) s = some l →
      (∀ j, j ≠ l → (s.line j).pin ≠ some (.slot k)) →
      (∀ q : QuoteRecord, (s.slot k).state = .fetching → (s.slot k).quote = some q →
        (∀ r, (s.slot k).abandon = none → good r → ∃ t, exec (.recordFetchComplete damaged) s = .next t ∧
          lineBecomes l ⟨.valid, some meter, some (.slot k), 0, some r⟩ s t ∧
          t.slot k = { s.slot k with state := .quoting } ∧ asks k t ∧ keepsAllBut [.lines, .slot k, .grants] s t) ∧
        (q.reservedBudget = none → q.journalReservation = false → (s.slot k).reprint = none →
          let closed := fun (o : CloseOutcome) => { s.slot k with
            state := .idle, quote := none, abandon := none, timer := none, pin := none, lastClosed := some (q.id, o) }
          (∀ r c, (s.slot k).abandon = some c → good r → ∃ t, exec (.recordFetchComplete damaged) s = .next t ∧
            lineBecomes l ⟨.valid, some meter, none, 0, some r⟩ s t ∧ t.slot k = closed c.outcome ∧
            tillReplied k q.replyTag (.refused .quoteExpired kindQuote q.id (outcomeNumber c.outcome)) s t ∧
            onlyLevels s t ∧ keepsAllBut [.lines, .slot k, .conditions, .outstanding (.till k), .replies (.till k)] s t) ∧
          ((¬∃ r, good r) → ∃ t, exec (.recordFetchComplete damaged) s = .next t ∧ damages t ∧
            (match (s.slot k).abandon with
              | none => t.slot k = closed .refused ∧
                tillReplied k q.replyTag (.refused .meterDamaged kindQuote q.id 0) s t
              | some c => t.slot k = closed c.outcome ∧
                tillReplied k q.replyTag (.refused .quoteExpired kindQuote q.id (outcomeNumber c.outcome)) s t) ∧
            onlyLevels s t ∧
            keepsAllBut [.areas, .lines, .directory, .slot k, .conditions, .outstanding (.till k), .replies (.till k)]
              s t))) ∧
      ∀ (req : ReprintRequest) (tag : Option Byte), (s.slot k).state = .idle → (s.slot k).quote = none →
        (s.slot k).reprint = some ⟨meter, req, .fetching, tag⟩ →
        (∀ r, good r → ∃ t, exec (.recordFetchComplete damaged) s = .next t ∧
          lineBecomes l ⟨.valid, some meter, some (.slot k), 0, some r⟩ s t ∧
          t.slot k = { s.slot k with reprint := some ⟨meter, req, .present, tag⟩ } ∧ asks k t ∧
          keepsAllBut [.lines, .slot k, .grants] s t) ∧
        ((¬∃ r, good r) → ∃ t, exec (.recordFetchComplete damaged) s = .next t ∧ damages t ∧
          t.slot k = { s.slot k with reprint := none, pin := none } ∧
          tillReplied k tag (.refused .meterDamaged req.kind req.quoteId 0) s t ∧
          keepsAllBut [.areas, .lines, .directory, .slot k, .outstanding (.till k), .replies (.till k)] s t)) ∧
    ∀ (o : Outstanding) (req : RecordRequest), s.line l = ⟨.filling, some meter, some .office, 0, none⟩ →
      findPinned .office s = some l → s.officeRequest = some req → req.meter = meter → s.receives .office = true →
      s.officePort.outstanding = some o →
      ((¬∃ r, good r) → ∃ t, exec (.recordFetchComplete damaged) s = .next t ∧ damages t ∧ t.officeRequest = none ∧
        replied .office o.tag (.refused .meterDamaged o.kind 0 0) s t ∧
        keepsAllBut [.areas, .lines, .directory, .officeRequest, .outstanding .office, .replies .office] s t) ∧
      ∀ r, good r →
        let n := s.journal.nextSeq
        let goesOn := fun (v : Line) (more : List Part) (also : State → Prop) =>
          ∃ t, exec (.recordFetchComplete damaged) s = .next t ∧ lineBecomes l v s t ∧ t.officeRequest = none ∧ also t ∧
            keepsAllBut (more ++ [.lines, .officeRequest]) s t
        let answered := fun (reply : Reply) => goesOn ⟨.valid, some meter, none, 0, some r⟩
          [.outstanding .office, .replies .office] (replied .office o.tag reply s)
        let refused := fun (code : RefusalCode) => answered (.refused code o.kind 0 0)
        let held := fun (j : Job) =>
          (s.roomForOffice = false → refused .journalFull) ∧
          (s.roomForOffice = true → s.postsAtOnce = false → s.storeFaultLatched = false → s.store.faulted = false →
            goesOn ⟨.valid, some meter, some .office, 0, some r⟩ [.waiters, .journal, .conditions] fun t =>
              t.waiters = s.waiters ++ [⟨j, true⟩] ∧ t.journal = ⟨n, s.journal.reservations + 1⟩ ∧ onlyLevels s t) ∧
          (s.roomForOffice = true → s.postsAtOnce = false → s.storeFaultLatched = true →
            goesOn ⟨.valid, some meter, none, 0, some r⟩ [.conditions, .outstanding .office, .replies .office] fun t =>
              replied .office o.tag (.refused .suspended o.kind 0 0) s t ∧ onlyLevels s t)
        let changes := fun (j : Job) (r' : Record) (b : EntryBody) (reply : Reply) => held j ∧
          (s.ready → RecencyLaw s → goesOn ⟨.valid, some meter, none, 1, some { r' with lastSeq := n }⟩
            [.site, .buffer, .journal, .conditions, .outstanding .office, .replies .office] fun t =>
              officePosts .edit (some (.image slot { r' with lastSeq := n })) b s.site s t ∧
              replied .office o.tag reply s t ∧ onlyLevels s t)
        let becomes := fun (a : AccountState) => changes (.accountState slot { r with account := a } r.account)
          { r with account := a } (.meterState meter r.account (.account a)) (.stateOk meter a n)
        (req = .read meter → answered (.meterData r (s.now.map fun d => decide (r.monthTag = monthTagOf d.day)))) ∧
        (∀ g, req = .edit g → (r.account = .retired → refused .stateConflict) ∧ (r.account ≠ .retired →
          let r' : Record := { r with
            tariffIndex := g.tariffIndex.getD r.tariffIndex, recoveryRate := g.recoveryRate.getD r.recoveryRate
            arrears := g.arrears.getD r.arrears, lifelineEligible := g.lifelineEligible.getD r.lifelineEligible }
          let editOk := Reply.editOk r'.tariffIndex r'.recoveryRate r'.arrears r'.lifelineEligible
          (r' = r → answered (editOk none)) ∧
          (r' ≠ r → changes (.edit slot r' (editItems r g)) r' (.meterEdit meter (editItems r g)) (editOk (some n))))) ∧
        (req = .block meter → (r.account = .active → becomes .blocked) ∧ (r.account ≠ .active → refused .stateConflict)) ∧
        (req = .unblock meter → (r.account = .blocked → becomes .active) ∧
          (r.account ≠ .blocked → refused .stateConflict)) ∧
        (req = .retire meter → (r.account ≠ .retired → becomes .retired) ∧
          (r.account = .retired → refused .stateConflict)) ∧
        (req = .purge meter → (s.arbiter.hold ≠ .held → refused .notHeld) ∧ (s.arbiter.hold = .held →
          (r.account ≠ .retired → refused .stateConflict) ∧ (r.account = .retired →
            (s.site.releasePoint < r.lastSeq → refused .purgeRefused) ∧ (r.lastSeq ≤ s.site.releasePoint →
              held (.purge slot meter) ∧ (s.ready → RecencyLaw s →
                ∃ t, exec (.recordFetchComplete damaged) s = .next t ∧
                  officePosts .edit (some (.erase slot meter)) (.meterState meter .retired .purged) s.site s t ∧
                  t.directory = dirErase meter s.directory ∧ t.line l = Line.freed ∧
                  (∀ j, j ≠ l → t.line j = s.line j) ∧ t.working.recency = l :: s.working.recency.erase l ∧
                  t.officeRequest = none ∧ replied .office o.tag (.purgeOk meter n) s t ∧ onlyLevels s t ∧
                  keepsAllBut [.site, .buffer, .journal, .directory, .lines, .conditions, .officeRequest,
                    .outstanding .office, .replies .office] s t)))))

/-- UNIT_WRITE_COMPLETE (R110, R111, R112, R124, R126): a verified head unit leaves the buffer and stands in the areas, and
its meter's dirty count falls; a first failure is rewritten once; the second makes the store FAULTED, with the unit
still at the head of the buffer, and STORE_FAULT latches, while waiting SALE and SYSTEM units keep their places. What a
write gives to those who wait is stated with them (GrantPostsSale, VoucherPosts, SetCompletes, DayRollover, OfficeHold).
The model's choice: a failed write says whether it altered its slot (log 10). -/
def Obligations.UnitWrites : Prop :=
  ∀ (s : State) (u : CommitUnit) (rest : List CommitUnit), s.running = true → s.buffer = u :: rest →
    (s.waiters = [] → s.arbiter.hold ≠ .pending → s.store.service = .writing ∨ s.store.service = .rewriting →
      ∃ t, exec (.unitWriteComplete .verified) s = .next t ∧
        t.buffer = rest ∧ stored u s t ∧ linesAfterStore u s t ∧ t.store.faulted = s.store.faulted ∧
        onlyLevels s t ∧ keepsAllBut [.areas, .lines, .buffer, .conditions] s t) ∧
    (∀ a, s.store.service = .writing → ∃ t, exec (.unitWriteComplete (.failed a)) s = .next t ∧
      t.store.service = .rewriting ∧ leftUnstored u a s t ∧ t.store.faulted = s.store.faulted ∧
      keepsAllBut [.areas] s t) ∧
    ∀ a, (∀ w ∈ s.waiters, w.job.withdrawable = false) → s.arbiter.hold ≠ .pending → s.store.service = .rewriting →
      ∃ t, exec (.unitWriteComplete (.failed a)) s = .next t ∧
        leftUnstored u a s t ∧ t.store.faulted = true ∧ onlyLevels s t ∧
        (conditionBit s.conditions.levels .storeFault = false → t.storeFaultLatched = true) ∧
        keepsAllBut [.areas, .conditions] s t

/-- The drain of a HOLD (R116, R182, R183, R185). A store operation in progress at the entry completes first: a fetch's
result is discarded, a unit write has its rewrite and completes or leaves the store FAULTED with no condition arising,
and an attempt at a STORE_RETRY goes on without a reply; then the drain begins, with one attempt at the head unit of a
FAULTED store. A verified unit leaves the buffer and the next is written, or with none left the hold record takes the
kept image's outage number plus one and the hold cell write begins; a failure is rewritten once, and a second, or the
one attempt at a faulted head unit, drops every unit into the hold record. The hold cell takes the hold record, and the
HOLD ends: to DOWN with the supply LOW, to RESET_WAIT under RESET, or else to START with the hold's cause (R187). The
model's choices: what a failed write alters (log 10, log 11), outage number 0 for a part with no image (log 26), the
drain's stage and the start's marks (log 40), that a verified write in HOLD lowers the dirty count of its line (log 51),
and that units dropped in the drain leave the fault state as it was (log 58). -/
def Obligations.DrainAndHoldCell : Prop :=
  ∀ (s : State) (h : HoldRecord), s.supply.state = .hold → s.supply.holdRecord = some h →
    let raise := fun (v : Nat) => if v = 4294967295 then 1 else v + 1
    (s.supply.drain = .settling →
      let begins := fun (buffer : List CommitUnit) (t : State) =>
        (buffer ≠ [] → t.supply = { s.supply with drain := if t.store.faulted = true then .lastTry else .draining } ∧
          t.store.service = .writing) ∧
        (buffer = [] → t.supply = { s.supply with
            drain := .cellWrite
            holdRecord := some { h with
              outageNumber := some (raise ((t.store.image.image.map (·.outageNumber)).getD 0)) } } ∧
          t.store.service = .idle)
      (∀ line meter slot damaged, s.store.service = .reading (.record line meter slot) →
        ∃ t, exec (.recordFetchComplete damaged) s = .next t ∧ begins s.buffer t ∧ fetchLeaves damaged slot s t ∧
          keepsAllBut [.supply, .areas] s t) ∧
      (∀ f, s.store.service = .reading f → f.isArea = true → ∃ t, exec .areaReadComplete s = .next t ∧
        begins s.buffer t ∧ keepsAllBut [.supply] s t) ∧
      ∀ (u : CommitUnit) (rest : List CommitUnit), s.buffer = u :: rest →
        (s.store.service = .writing ∨ s.store.service = .rewriting → ∃ t, exec (.unitWriteComplete .verified) s = .next t ∧
          begins rest t ∧ t.buffer = rest ∧ stored u s t ∧ linesAfterStore u s t ∧
          t.store.faulted = s.store.faulted ∧ keepsAllBut [.supply, .areas, .lines, .buffer] s t) ∧
        (∀ a, s.store.service = .writing → ∃ t, exec (.unitWriteComplete (.failed a)) s = .next t ∧
          t.store.service = .rewriting ∧ leftUnstored u a s t ∧ t.store.faulted = s.store.faulted ∧
          keepsAllBut [.areas] s t) ∧
        (∀ a, s.store.service = .rewriting → ∃ t, exec (.unitWriteComplete (.failed a)) s = .next t ∧
          begins s.buffer t ∧ leftUnstored u a s t ∧ t.store.faulted = true ∧ keepsAllBut [.supply, .areas] s t) ∧
        (∀ b, s.store.service = .retrying b → ∃ t, exec (.retryAttemptComplete .verified) s = .next t ∧
          begins rest t ∧ t.buffer = rest ∧ stored u s t ∧ linesAfterStore u s t ∧ t.store.faulted = false ∧
          keepsAllBut [.supply, .areas, .lines, .buffer] s t) ∧
        (∀ a, s.store.service = .retrying false → ∃ t, exec (.retryAttemptComplete (.failed a)) s = .next t ∧
          t.store.service = .retrying true ∧ leftUnstored u a s t ∧ t.store.faulted = s.store.faulted ∧
          keepsAllBut [.areas] s t) ∧
        ∀ a, s.store.service = .retrying true → ∃ t, exec (.retryAttemptComplete (.failed a)) s = .next t ∧
          begins s.buffer t ∧ leftUnstored u a s t ∧ t.store.faulted = s.store.faulted ∧
          keepsAllBut [.supply, .areas] s t) ∧
    (∀ (u : CommitUnit) (rest : List CommitUnit), s.buffer = u :: rest → s.store.service = .writing ∨
        s.store.service = .rewriting → s.supply.drain = .draining ∨ s.supply.drain = .lastTry →
      (∃ t, exec (.drainWriteComplete .verified) s = .next t ∧ t.buffer = rest ∧ stored u s t ∧ linesAfterStore u s t ∧
        t.store.faulted = (s.store.faulted && decide (s.supply.drain = .draining)) ∧
        (rest ≠ [] → t.supply = { s.supply with drain := .draining } ∧ t.store.service = .writing) ∧
        (rest = [] → t.supply = { s.supply with
            drain := .cellWrite, holdRecord := some { h with outageNumber := some (raise u.image.outageNumber) } } ∧
          t.store.service = .idle) ∧
        keepsAllBut [.supply, .areas, .lines, .buffer] s t) ∧
      (∀ a, s.supply.drain = .draining → s.store.service = .writing →
        ∃ t, exec (.drainWriteComplete (.failed a)) s = .next t ∧ t.store.service = .rewriting ∧ leftUnstored u a s t ∧
          t.store.faulted = s.store.faulted ∧ keepsAllBut [.areas] s t) ∧
      (∀ a, s.supply.drain = .lastTry ∨ s.store.service = .rewriting →
        ∃ t, exec (.drainWriteComplete (.failed a)) s = .next t ∧ t.buffer = [] ∧ leftUnstored u a s t ∧
          t.store.service = .idle ∧ t.store.faulted = s.store.faulted ∧
          (let seqs := s.buffer.filterMap fun x => x.entry.map (·.seq)
           t.supply = { s.supply with
            drain := .cellWrite
            holdRecord := some { h with
              dropped := s.buffer.length, firstDropped := seqs.min?, lastDropped := seqs.max?
              outageNumber := some (raise ((s.store.image.image.map (·.outageNumber)).getD 0)) } }) ∧
          keepsAllBut [.supply, .areas, .buffer] s t)) ∧
    ∀ r : CellReadBack, s.supply.drain = .cellWrite → ∃ t, exec (.holdCellWriteComplete r) s = .next t ∧
      (r = .verified → t.store.holdCell = some ⟨h.outageNumber.getD 0, h.cause, h.start, h.dropped, h.firstDropped,
        h.lastDropped, h.unloggedRaise, true⟩) ∧
      (∀ a, r = .failed a → ∀ c, t.store.holdCell = some c → c.checkGood = true → s.store.holdCell = some c) ∧
      t.store.areas = (s.store.slots, s.store.journal, s.store.summaries, s.store.image, t.store.holdCell,
        s.store.faulted) ∧
      t.supply = (let ended : Supply := { s.supply with holdRecord := none, drain := .none }
        if s.supply.levelOk = false then { ended with state := .down }
        else if s.supply.resetAsserted = true then { ended with state := .resetWait }
        else { ended with state := .start, started := false, startCause := h.cause }) ∧
      keepsAllBut [.supply, .areas] s t

/-! ### Supply and start-up -/

/-- The supply and RESET events (Table 10-2, R179, R180, R181, R186, R190): each writes its own level or line; in RUN a
low supply or RESET enters HOLD, with the hold record begun and all unposted work abandoned; the replies not yet begun
and the pending notices are dropped, and a frame in transmission goes on (R177, R180); DOWN, RESET_WAIT and START move
by the table, START discarding what it had posted and the notices it had queued. The model's choices: the drain's stage
and the start's marks (log 40), outage number 0 for a part with no image (log 26), a frame in transmission that stays
(log 30), and lines and pins that stand at the entry to HOLD (log 54). -/
def Obligations.SupplyEvents : Prop :=
  ∀ (s : State), s.holdAtRest →
    let holds := fun (c : Instr) (cause : OutageCause) (supply : Supply) => ∃ t, exec c s = .next t ∧
      (let raised := (s.waiters.filter fun w => w.hasEntry && match w.job with
        | .dayClose _ => true
        | .tariffShift _ _ => true
        | .powerUp _ => true
        | _ => false).length
       let h : HoldRecord := ⟨none, cause, s.now, 0, none, none, raised⟩
       let kept := (s.store.image.image.map (·.outageNumber)).getD 0
       (s.store.service ≠ .idle → t.supply = { supply with state := .hold, holdRecord := some h, drain := .settling } ∧
         t.store.service = s.store.service) ∧
       (s.store.service = .idle → s.buffer = [] →
         t.supply = { supply with
           state := .hold, drain := .cellWrite
           holdRecord := some { h with outageNumber := some (if kept = 4294967295 then 1 else kept + 1) } }) ∧
       (s.store.service = .idle → s.buffer ≠ [] →
         t.supply = { supply with
           state := .hold, drain := if s.store.faulted then .lastTry else .draining, holdRecord := some h } ∧
         t.store.service = .writing) ∧
       t.site = { s.site with unlogged := min 4294967295 (s.site.unlogged + raised) } ∧
       t.waiters = [] ∧ t.officeRequest = none ∧ t.assembly = none ∧ t.arbiter.hold = .none ∧ t.arbiter.lapse = none ∧
       t.store.queue = [] ∧ t.store.retryWaiting = false ∧ (∀ k, t.arbiter.pending.get k = false) ∧
       t.arbiter.pointer = s.arbiter.pointer ∧ (∀ k, t.slot k = (s.slot k).dropped) ∧
       (∀ c, t.noticePending c = false) ∧
       (∀ p, (t.port p).outstanding = none ∧ (t.port p).order = [] ∧ (t.port p).transmitting = (s.port p).transmitting ∧
         t.replies p = (s.port p).sending ∧
         (t.port p).standing = ((s.port p).link, (s.port p).rate, .hunt, false)) ∧
       keepsAllBut ([.supply, .site, .waiters, .officeRequest, .assembly, .hold, .grants, .slot 0, .slot 1, .slot 2,
         .slot 3, .outstanding .office, .replies .office, .link .office] ++
         [0, 1, 2, 3].flatMap fun k => [.outstanding (.till k), .replies (.till k), .link (.till k)]) s t)
    let only := fun (c : Instr) (supply : Supply) => ∃ t, exec c s = .next t ∧ t.supply = supply ∧
      keepsAllBut [.supply] s t
    let leaves := fun (c : Instr) (supply : Supply) => ∃ t, exec c s = .next t ∧ t.supply = supply ∧ t.buffer = [] ∧
      t.waiters = [] ∧ (∀ c, t.noticePending c = false) ∧
      keepsAllBut [.supply, .buffer, .waiters, .link .office, .outstanding .office, .replies .office] s t
    (let v : Supply := { s.supply with levelOk := false }
     (s.supply.state = .run → holds .supplyLow .supply v) ∧
     (s.supply.state = .resetWait → only .supplyLow { v with state := .down }) ∧
     (s.supply.state = .start → leaves .supplyLow { v with state := .down, started := false }) ∧
     (s.supply.state = .hold ∨ s.supply.state = .down → only .supplyLow v)) ∧
    (let v : Supply := { s.supply with levelOk := true }
     (s.supply.state = .down → s.supply.resetAsserted = false →
       only .supplyOk { v with state := .start, started := false, startCause := .supply }) ∧
     (s.supply.state = .down → s.supply.resetAsserted = true → only .supplyOk { v with state := .resetWait }) ∧
     (s.supply.state ≠ .down → only .supplyOk v)) ∧
    (let v : Supply := { s.supply with resetAsserted := true }
     (s.supply.state = .run → holds .resetAsserted .resetLine v) ∧
     (s.supply.state = .start → leaves .resetAsserted { v with state := .resetWait, started := false }) ∧
     (s.supply.state ≠ .run → s.supply.state ≠ .start → only .resetAsserted v)) ∧
    (let v : Supply := { s.supply with resetAsserted := false }
     (s.supply.state = .resetWait →
       only .resetReleased { v with state := .start, started := false, startCause := .resetLine }) ∧
     (s.supply.state ≠ .resetWait → only .resetReleased v))

/-- Start-up (R187 to R191, R145, R11): volatile state is as at the start of each block, the directory is rebuilt from
the occupied record slots in meter-number order, every latch but those of the levels present is clear, and the notices
pending are those of the latches whose enable is on. The Calendar keeps the backup cell's date-time when its test
passes. With no image, or a BLANK one, the part is BLANK with the values of R191 or of the image, its count of unlogged
entries not raised; a day after the business day posts its image alone. With a COMMISSIONED image the outage number is
raised and POWER_UP posts, with what the hold cell reports when it describes the outage, at the next sequence after the
durable and the dropped ones; with no room it is dropped and counted. A later day then takes the rollover: the shift of
a pending set that is reached and the DAY_CLOSE unit post behind it. START_UP_COMPLETE enters RUN, and POWER_UP latches.
The model's choices: the volatile values (log 5), the order of the rollover's units (log 23), sequence 1 of a BLANK part
(log 27) and the cell of a failed test (log 29). -/
def Obligations.StartUp : Prop :=
  ∀ (s : State), s.supply.state = .start →
    let fresh := fun (now : Option DateTime) (shifted : Bool) (t : State) =>
      t.supply = { s.supply with started := true } ∧ (∀ k, t.slot k = VendSlot.empty) ∧
      t.nextQuoteId = 1 ∧ t.arbiter = ⟨Vector.replicate 4 false, 3, .none, none⟩ ∧
      (∀ l, t.line l = ⟨.free, none, none, 0, none⟩) ∧ t.working.recency = allLines ∧ t.waiters = [] ∧ t.reserved = 0 ∧
      t.assembly = none ∧ t.officeRequest = none ∧ t.conditions.tillSet = Vector.replicate 4 false ∧
      t.store.service = .idle ∧ t.store.queue = [] ∧
      t.store.areas = (s.store.slots, s.store.journal, s.store.summaries, s.store.image, s.store.holdCell, false) ∧
      (t.port .office).link = .active ∧
      (∀ k, (t.port (.till k)).link = if (t.site.links.get k).enabled then .active else .off) ∧
      t.calendar = ⟨now, now.isSome⟩ ∧ t.cell = ⟨s.cell.mark, now⟩ ∧
      (∀ c, t.latched c = if c = .tariffShifted then shifted else t.levelOf c) ∧
      (∀ c, t.noticePending c = (t.latched c && conditionBit t.site.mask c)) ∧ (∀ p, t.replies p = (s.port p).sending) ∧
      (s.store.slots.Pairwise (fun a b => a.2.record.meter ≠ b.2.record.meter) →
        t.directory.Pairwise (fun a b => a.meter < b.meter) ∧
        ∀ e, e ∈ t.directory ↔ ∃ x ∈ s.store.slots, e = ⟨x.2.record.meter, x.1, false⟩)
    let reads := fun (day : Nat) (now : Option DateTime) =>
      (∀ d, now = some d → s.cell = ⟨true, some d⟩ ∧ inRange d = true ∧ day ≤ d.day) ∧
      (now = none → s.cell.mark = false ∨ ∀ d, s.cell.dateTime = some d → inRange d = false ∨ d.day < day)
    let raised := fun (n : Nat) => if n = 4294967295 then 1 else n + 1
    (s.supply.started = false →
      (∀ (base : SiteState) (now : Option DateTime), reads base.businessDay now →
        (s.store.image.image = none ∧ base = SiteState.blank) ∨ (∃ v, s.store.image.image = some v ∧ v.siteCode = none ∧
          v.unlogged = 0 ∧ base = { v with outageNumber := raised v.outageNumber }) →
        ((∀ d, now = some d → base.businessDay = d.day) → ∃ t, exec .startUp s = .next t ∧ fresh now false t ∧
          t.site = base ∧ t.journal = ⟨1, 0⟩ ∧ t.buffer = []) ∧
        (∀ d, now = some d → base.businessDay < d.day → base.pendingSet = none →
          ∃ t, exec .startUp s = .next t ∧ fresh now false t ∧ t.site = { base with businessDay := d.day } ∧
            t.journal = ⟨1, 0⟩ ∧ t.buffer = [⟨.system, none, none, none, t.site⟩])) ∧
      ∀ (v : SiteState) (code : Digits) (now : Option DateTime), s.store.image.image = some v → v.siteCode = some code →
        reads v.businessDay now →
        let number := raised v.outageNumber
        let held := (s.store.journal.filter fun e => decide (v.releasePoint < e.seq)).length
        let boots := fun (unlogged next : Nat) (f : PowerUpFields) =>
          let w : SiteState := { v with outageNumber := number, unlogged := 0 }
          let u : CommitUnit := ⟨.system, none, some ⟨next, now, .part, if unlogged = 0 then none else some unlogged,
            .powerUp f⟩, none, w⟩
          (held < 8192 → next < 4294967295 → (∀ d, now = some d → v.businessDay = d.day) →
            ∃ t, exec .startUp s = .next t ∧ fresh now false t ∧ t.site = w ∧ t.journal = ⟨next + 1, 0⟩ ∧ t.buffer = [u]) ∧
          (∀ d, now = some d → v.businessDay < d.day → v.pendingSet = none →
            held + 1 < 8192 → next + 1 < 4294967295 →
            ∃ t, exec .startUp s = .next t ∧ fresh now false t ∧
              t.site = { w with businessDay := d.day, dayTotals := ⟨0, 0, 0, 0, 0⟩ } ∧ t.journal = ⟨next + 2, 0⟩ ∧
              t.buffer = [u, ⟨.system, none, some ⟨next + 1, now, .part, none, .dayClose v.businessDay v.dayTotals⟩,
                some ⟨v.businessDay, v.dayTotals, now, some (next + 1)⟩, t.site⟩]) ∧
          (∀ d p, now = some d → v.businessDay < d.day → v.pendingSet = some p → p.effectiveDay ≤ d.day →
            held + 2 < 8192 → next + 2 < 4294967295 →
            let x : SiteState := { w with businessDay := d.day, dayTotals := ⟨0, 0, 0, 0, 0⟩, active := p.entries,
                                          generation := raised v.generation, pendingSet := none }
            ∃ t, exec .startUp s = .next t ∧ fresh now true t ∧ t.site = x ∧ t.journal = ⟨next + 3, 0⟩ ∧
              t.buffer = [u, ⟨.system, none, some ⟨next + 1, now, .part, none, .tariffShift x.generation p.effectiveDay⟩,
                  none, x⟩,
                ⟨.system, none, some ⟨next + 2, now, .part, none, .dayClose v.businessDay v.dayTotals⟩,
                  some ⟨v.businessDay, v.dayTotals, now, some (next + 2)⟩, x⟩]) ∧
          (8192 ≤ held ∨ 4294967295 ≤ next → (∀ d, now = some d → v.businessDay = d.day) →
            ∃ t, exec .startUp s = .next t ∧ fresh now false t ∧
              t.site = { w with unlogged := min 4294967295 (unlogged + 1) } ∧ t.journal = ⟨next, 0⟩ ∧ t.buffer = [])
        (∀ c, s.store.holdCell = some c → c.checkGood = true → c.outageNumber = number →
          boots (min 4294967295 (v.unlogged + c.unloggedRaise))
            (max (s.newestDurable.getD 0) (c.lastDropped.getD 0) + 1)
            ⟨number, c.start, now, c.cause, some c.dropped, c.firstDropped⟩) ∧
        (s.store.holdCell = none ∨ (∃ c, s.store.holdCell = some c ∧ (c.checkGood = false ∨ c.outageNumber ≠ number)) →
          v.unlogged ≤ 4294967295 → boots v.unlogged (s.newestDurable.getD 0 + 1)
            ⟨number, none, now, s.supply.startCause, none, none⟩)) ∧
    (s.supply.started = true → s.holdAtRest → ∃ t, exec .startUpComplete s = .next t ∧
      t.supply = { s.supply with state := .run, started := false } ∧ t.latched .powerUp = true ∧
      (∀ c, c ≠ .powerUp → t.latched c = s.latched c) ∧ t.conditions.tillSet = s.conditions.tillSet ∧
      (conditionBit s.site.mask .powerUp = true → s.officePort.link = .active → s.officePort.transmitting = none →
        s.officePort.order = [] → (t.port .office).transmitting = some ⟨frameOf s (.notice .powerUp), .r19200⟩) ∧
      keepsAllBut [.supply, .conditions] s t)
end

