-- ==== Sys2Proof/Laws/State.lean ====
section
/-! SUPPORT. The small lemmas of the accessors: one per field per update, and what a read gives after a write. -/

namespace Sys2Proof.Machine

@[simp] theorem State.setSlot_pending (s : State) (t : Till) (v : VendSlot) :
    (s.setSlot t v).pending = s.pending := rfl
@[simp] theorem State.setSlot_supply (s : State) (t : Till) (v : VendSlot) :
    (s.setSlot t v).supply = s.supply := rfl
@[simp] theorem State.setSlot_site (s : State) (t : Till) (v : VendSlot) :
    (s.setSlot t v).site = s.site := rfl
@[simp] theorem State.setSlot_calendar (s : State) (t : Till) (v : VendSlot) :
    (s.setSlot t v).calendar = s.calendar := rfl
@[simp] theorem State.setSlot_cell (s : State) (t : Till) (v : VendSlot) :
    (s.setSlot t v).cell = s.cell := rfl
@[simp] theorem State.setSlot_store (s : State) (t : Till) (v : VendSlot) :
    (s.setSlot t v).store = s.store := rfl
@[simp] theorem State.setSlot_directory (s : State) (t : Till) (v : VendSlot) :
    (s.setSlot t v).directory = s.directory := rfl
@[simp] theorem State.setSlot_working (s : State) (t : Till) (v : VendSlot) :
    (s.setSlot t v).working = s.working := rfl
@[simp] theorem State.setSlot_buffer (s : State) (t : Till) (v : VendSlot) :
    (s.setSlot t v).buffer = s.buffer := rfl
@[simp] theorem State.setSlot_waiters (s : State) (t : Till) (v : VendSlot) :
    (s.setSlot t v).waiters = s.waiters := rfl
@[simp] theorem State.setSlot_journal (s : State) (t : Till) (v : VendSlot) :
    (s.setSlot t v).journal = s.journal := rfl
@[simp] theorem State.setSlot_reserved (s : State) (t : Till) (v : VendSlot) :
    (s.setSlot t v).reserved = s.reserved := rfl
@[simp] theorem State.setSlot_nextQuoteId (s : State) (t : Till) (v : VendSlot) :
    (s.setSlot t v).nextQuoteId = s.nextQuoteId := rfl
@[simp] theorem State.setSlot_arbiter (s : State) (t : Till) (v : VendSlot) :
    (s.setSlot t v).arbiter = s.arbiter := rfl
@[simp] theorem State.setSlot_assembly (s : State) (t : Till) (v : VendSlot) :
    (s.setSlot t v).assembly = s.assembly := rfl
@[simp] theorem State.setSlot_conditions (s : State) (t : Till) (v : VendSlot) :
    (s.setSlot t v).conditions = s.conditions := rfl
@[simp] theorem State.setSlot_officeRequest (s : State) (t : Till) (v : VendSlot) :
    (s.setSlot t v).officeRequest = s.officeRequest := rfl
@[simp] theorem State.setSlot_officePort (s : State) (t : Till) (v : VendSlot) :
    (s.setSlot t v).officePort = s.officePort := rfl
@[simp] theorem State.setSlot_tillPorts (s : State) (t : Till) (v : VendSlot) :
    (s.setSlot t v).tillPorts = s.tillPorts := rfl
@[simp] theorem State.setSlot_freeCount (s : State) (t : Till) (v : VendSlot) :
    (s.setSlot t v).freeCount = s.freeCount := rfl

@[simp] theorem State.modSlot_pending (s : State) (t : Till) (f : VendSlot → VendSlot) :
    (s.modSlot t f).pending = s.pending := rfl
@[simp] theorem State.modSlot_supply (s : State) (t : Till) (f : VendSlot → VendSlot) :
    (s.modSlot t f).supply = s.supply := rfl
@[simp] theorem State.modSlot_site (s : State) (t : Till) (f : VendSlot → VendSlot) :
    (s.modSlot t f).site = s.site := rfl
@[simp] theorem State.modSlot_calendar (s : State) (t : Till) (f : VendSlot → VendSlot) :
    (s.modSlot t f).calendar = s.calendar := rfl
@[simp] theorem State.modSlot_cell (s : State) (t : Till) (f : VendSlot → VendSlot) :
    (s.modSlot t f).cell = s.cell := rfl
@[simp] theorem State.modSlot_store (s : State) (t : Till) (f : VendSlot → VendSlot) :
    (s.modSlot t f).store = s.store := rfl
@[simp] theorem State.modSlot_directory (s : State) (t : Till) (f : VendSlot → VendSlot) :
    (s.modSlot t f).directory = s.directory := rfl
@[simp] theorem State.modSlot_working (s : State) (t : Till) (f : VendSlot → VendSlot) :
    (s.modSlot t f).working = s.working := rfl
@[simp] theorem State.modSlot_buffer (s : State) (t : Till) (f : VendSlot → VendSlot) :
    (s.modSlot t f).buffer = s.buffer := rfl
@[simp] theorem State.modSlot_waiters (s : State) (t : Till) (f : VendSlot → VendSlot) :
    (s.modSlot t f).waiters = s.waiters := rfl
@[simp] theorem State.modSlot_journal (s : State) (t : Till) (f : VendSlot → VendSlot) :
    (s.modSlot t f).journal = s.journal := rfl
@[simp] theorem State.modSlot_reserved (s : State) (t : Till) (f : VendSlot → VendSlot) :
    (s.modSlot t f).reserved = s.reserved := rfl
@[simp] theorem State.modSlot_nextQuoteId (s : State) (t : Till) (f : VendSlot → VendSlot) :
    (s.modSlot t f).nextQuoteId = s.nextQuoteId := rfl
@[simp] theorem State.modSlot_arbiter (s : State) (t : Till) (f : VendSlot → VendSlot) :
    (s.modSlot t f).arbiter = s.arbiter := rfl
@[simp] theorem State.modSlot_assembly (s : State) (t : Till) (f : VendSlot → VendSlot) :
    (s.modSlot t f).assembly = s.assembly := rfl
@[simp] theorem State.modSlot_conditions (s : State) (t : Till) (f : VendSlot → VendSlot) :
    (s.modSlot t f).conditions = s.conditions := rfl
@[simp] theorem State.modSlot_officeRequest (s : State) (t : Till) (f : VendSlot → VendSlot) :
    (s.modSlot t f).officeRequest = s.officeRequest := rfl
@[simp] theorem State.modSlot_officePort (s : State) (t : Till) (f : VendSlot → VendSlot) :
    (s.modSlot t f).officePort = s.officePort := rfl
@[simp] theorem State.modSlot_tillPorts (s : State) (t : Till) (f : VendSlot → VendSlot) :
    (s.modSlot t f).tillPorts = s.tillPorts := rfl
@[simp] theorem State.modSlot_freeCount (s : State) (t : Till) (f : VendSlot → VendSlot) :
    (s.modSlot t f).freeCount = s.freeCount := rfl

@[simp] theorem State.setLine_pending (s : State) (l : LineNo) (v : Line) :
    (s.setLine l v).pending = s.pending := rfl
@[simp] theorem State.setLine_supply (s : State) (l : LineNo) (v : Line) :
    (s.setLine l v).supply = s.supply := rfl
@[simp] theorem State.setLine_site (s : State) (l : LineNo) (v : Line) :
    (s.setLine l v).site = s.site := rfl
@[simp] theorem State.setLine_calendar (s : State) (l : LineNo) (v : Line) :
    (s.setLine l v).calendar = s.calendar := rfl
@[simp] theorem State.setLine_cell (s : State) (l : LineNo) (v : Line) :
    (s.setLine l v).cell = s.cell := rfl
@[simp] theorem State.setLine_store (s : State) (l : LineNo) (v : Line) :
    (s.setLine l v).store = s.store := rfl
@[simp] theorem State.setLine_directory (s : State) (l : LineNo) (v : Line) :
    (s.setLine l v).directory = s.directory := rfl
@[simp] theorem State.setLine_buffer (s : State) (l : LineNo) (v : Line) :
    (s.setLine l v).buffer = s.buffer := rfl
@[simp] theorem State.setLine_waiters (s : State) (l : LineNo) (v : Line) :
    (s.setLine l v).waiters = s.waiters := rfl
@[simp] theorem State.setLine_journal (s : State) (l : LineNo) (v : Line) :
    (s.setLine l v).journal = s.journal := rfl
@[simp] theorem State.setLine_reserved (s : State) (l : LineNo) (v : Line) :
    (s.setLine l v).reserved = s.reserved := rfl
@[simp] theorem State.setLine_slots (s : State) (l : LineNo) (v : Line) :
    (s.setLine l v).slots = s.slots := rfl
@[simp] theorem State.setLine_nextQuoteId (s : State) (l : LineNo) (v : Line) :
    (s.setLine l v).nextQuoteId = s.nextQuoteId := rfl
@[simp] theorem State.setLine_arbiter (s : State) (l : LineNo) (v : Line) :
    (s.setLine l v).arbiter = s.arbiter := rfl
@[simp] theorem State.setLine_assembly (s : State) (l : LineNo) (v : Line) :
    (s.setLine l v).assembly = s.assembly := rfl
@[simp] theorem State.setLine_conditions (s : State) (l : LineNo) (v : Line) :
    (s.setLine l v).conditions = s.conditions := rfl
@[simp] theorem State.setLine_officeRequest (s : State) (l : LineNo) (v : Line) :
    (s.setLine l v).officeRequest = s.officeRequest := rfl
@[simp] theorem State.setLine_officePort (s : State) (l : LineNo) (v : Line) :
    (s.setLine l v).officePort = s.officePort := rfl
@[simp] theorem State.setLine_tillPorts (s : State) (l : LineNo) (v : Line) :
    (s.setLine l v).tillPorts = s.tillPorts := rfl
@[simp] theorem State.setLine_freeCount (s : State) (l : LineNo) (v : Line) :
    (s.setLine l v).freeCount = s.freeCount := rfl

@[simp] theorem State.modLine_pending (s : State) (l : LineNo) (f : Line → Line) :
    (s.modLine l f).pending = s.pending := rfl
@[simp] theorem State.modLine_supply (s : State) (l : LineNo) (f : Line → Line) :
    (s.modLine l f).supply = s.supply := rfl
@[simp] theorem State.modLine_site (s : State) (l : LineNo) (f : Line → Line) :
    (s.modLine l f).site = s.site := rfl
@[simp] theorem State.modLine_calendar (s : State) (l : LineNo) (f : Line → Line) :
    (s.modLine l f).calendar = s.calendar := rfl
@[simp] theorem State.modLine_cell (s : State) (l : LineNo) (f : Line → Line) :
    (s.modLine l f).cell = s.cell := rfl
@[simp] theorem State.modLine_store (s : State) (l : LineNo) (f : Line → Line) :
    (s.modLine l f).store = s.store := rfl
@[simp] theorem State.modLine_directory (s : State) (l : LineNo) (f : Line → Line) :
    (s.modLine l f).directory = s.directory := rfl
@[simp] theorem State.modLine_buffer (s : State) (l : LineNo) (f : Line → Line) :
    (s.modLine l f).buffer = s.buffer := rfl
@[simp] theorem State.modLine_waiters (s : State) (l : LineNo) (f : Line → Line) :
    (s.modLine l f).waiters = s.waiters := rfl
@[simp] theorem State.modLine_journal (s : State) (l : LineNo) (f : Line → Line) :
    (s.modLine l f).journal = s.journal := rfl
@[simp] theorem State.modLine_reserved (s : State) (l : LineNo) (f : Line → Line) :
    (s.modLine l f).reserved = s.reserved := rfl
@[simp] theorem State.modLine_slots (s : State) (l : LineNo) (f : Line → Line) :
    (s.modLine l f).slots = s.slots := rfl
@[simp] theorem State.modLine_nextQuoteId (s : State) (l : LineNo) (f : Line → Line) :
    (s.modLine l f).nextQuoteId = s.nextQuoteId := rfl
@[simp] theorem State.modLine_arbiter (s : State) (l : LineNo) (f : Line → Line) :
    (s.modLine l f).arbiter = s.arbiter := rfl
@[simp] theorem State.modLine_assembly (s : State) (l : LineNo) (f : Line → Line) :
    (s.modLine l f).assembly = s.assembly := rfl
@[simp] theorem State.modLine_conditions (s : State) (l : LineNo) (f : Line → Line) :
    (s.modLine l f).conditions = s.conditions := rfl
@[simp] theorem State.modLine_officeRequest (s : State) (l : LineNo) (f : Line → Line) :
    (s.modLine l f).officeRequest = s.officeRequest := rfl
@[simp] theorem State.modLine_officePort (s : State) (l : LineNo) (f : Line → Line) :
    (s.modLine l f).officePort = s.officePort := rfl
@[simp] theorem State.modLine_tillPorts (s : State) (l : LineNo) (f : Line → Line) :
    (s.modLine l f).tillPorts = s.tillPorts := rfl
@[simp] theorem State.modLine_freeCount (s : State) (l : LineNo) (f : Line → Line) :
    (s.modLine l f).freeCount = s.freeCount := rfl

@[simp] theorem State.setPort_pending (s : State) (p : PortId) (v : LinkPort) :
    (s.setPort p v).pending = s.pending := by cases p <;> rfl
@[simp] theorem State.setPort_supply (s : State) (p : PortId) (v : LinkPort) :
    (s.setPort p v).supply = s.supply := by cases p <;> rfl
@[simp] theorem State.setPort_site (s : State) (p : PortId) (v : LinkPort) :
    (s.setPort p v).site = s.site := by cases p <;> rfl
@[simp] theorem State.setPort_calendar (s : State) (p : PortId) (v : LinkPort) :
    (s.setPort p v).calendar = s.calendar := by cases p <;> rfl
@[simp] theorem State.setPort_cell (s : State) (p : PortId) (v : LinkPort) :
    (s.setPort p v).cell = s.cell := by cases p <;> rfl
@[simp] theorem State.setPort_store (s : State) (p : PortId) (v : LinkPort) :
    (s.setPort p v).store = s.store := by cases p <;> rfl
@[simp] theorem State.setPort_directory (s : State) (p : PortId) (v : LinkPort) :
    (s.setPort p v).directory = s.directory := by cases p <;> rfl
@[simp] theorem State.setPort_working (s : State) (p : PortId) (v : LinkPort) :
    (s.setPort p v).working = s.working := by cases p <;> rfl
@[simp] theorem State.setPort_buffer (s : State) (p : PortId) (v : LinkPort) :
    (s.setPort p v).buffer = s.buffer := by cases p <;> rfl
@[simp] theorem State.setPort_waiters (s : State) (p : PortId) (v : LinkPort) :
    (s.setPort p v).waiters = s.waiters := by cases p <;> rfl
@[simp] theorem State.setPort_journal (s : State) (p : PortId) (v : LinkPort) :
    (s.setPort p v).journal = s.journal := by cases p <;> rfl
@[simp] theorem State.setPort_reserved (s : State) (p : PortId) (v : LinkPort) :
    (s.setPort p v).reserved = s.reserved := by cases p <;> rfl
@[simp] theorem State.setPort_slots (s : State) (p : PortId) (v : LinkPort) :
    (s.setPort p v).slots = s.slots := by cases p <;> rfl
@[simp] theorem State.setPort_nextQuoteId (s : State) (p : PortId) (v : LinkPort) :
    (s.setPort p v).nextQuoteId = s.nextQuoteId := by cases p <;> rfl
@[simp] theorem State.setPort_arbiter (s : State) (p : PortId) (v : LinkPort) :
    (s.setPort p v).arbiter = s.arbiter := by cases p <;> rfl
@[simp] theorem State.setPort_assembly (s : State) (p : PortId) (v : LinkPort) :
    (s.setPort p v).assembly = s.assembly := by cases p <;> rfl
@[simp] theorem State.setPort_conditions (s : State) (p : PortId) (v : LinkPort) :
    (s.setPort p v).conditions = s.conditions := by cases p <;> rfl
@[simp] theorem State.setPort_officeRequest (s : State) (p : PortId) (v : LinkPort) :
    (s.setPort p v).officeRequest = s.officeRequest := by cases p <;> rfl
@[simp] theorem State.setPort_freeCount (s : State) (p : PortId) (v : LinkPort) :
    (s.setPort p v).freeCount = s.freeCount := by cases p <;> rfl

@[simp] theorem State.modPort_pending (s : State) (p : PortId) (f : LinkPort → LinkPort) :
    (s.modPort p f).pending = s.pending := by cases p <;> rfl
@[simp] theorem State.modPort_supply (s : State) (p : PortId) (f : LinkPort → LinkPort) :
    (s.modPort p f).supply = s.supply := by cases p <;> rfl
@[simp] theorem State.modPort_site (s : State) (p : PortId) (f : LinkPort → LinkPort) :
    (s.modPort p f).site = s.site := by cases p <;> rfl
@[simp] theorem State.modPort_calendar (s : State) (p : PortId) (f : LinkPort → LinkPort) :
    (s.modPort p f).calendar = s.calendar := by cases p <;> rfl
@[simp] theorem State.modPort_cell (s : State) (p : PortId) (f : LinkPort → LinkPort) :
    (s.modPort p f).cell = s.cell := by cases p <;> rfl
@[simp] theorem State.modPort_store (s : State) (p : PortId) (f : LinkPort → LinkPort) :
    (s.modPort p f).store = s.store := by cases p <;> rfl
@[simp] theorem State.modPort_directory (s : State) (p : PortId) (f : LinkPort → LinkPort) :
    (s.modPort p f).directory = s.directory := by cases p <;> rfl
@[simp] theorem State.modPort_working (s : State) (p : PortId) (f : LinkPort → LinkPort) :
    (s.modPort p f).working = s.working := by cases p <;> rfl
@[simp] theorem State.modPort_buffer (s : State) (p : PortId) (f : LinkPort → LinkPort) :
    (s.modPort p f).buffer = s.buffer := by cases p <;> rfl
@[simp] theorem State.modPort_waiters (s : State) (p : PortId) (f : LinkPort → LinkPort) :
    (s.modPort p f).waiters = s.waiters := by cases p <;> rfl
@[simp] theorem State.modPort_journal (s : State) (p : PortId) (f : LinkPort → LinkPort) :
    (s.modPort p f).journal = s.journal := by cases p <;> rfl
@[simp] theorem State.modPort_reserved (s : State) (p : PortId) (f : LinkPort → LinkPort) :
    (s.modPort p f).reserved = s.reserved := by cases p <;> rfl
@[simp] theorem State.modPort_slots (s : State) (p : PortId) (f : LinkPort → LinkPort) :
    (s.modPort p f).slots = s.slots := by cases p <;> rfl
@[simp] theorem State.modPort_nextQuoteId (s : State) (p : PortId) (f : LinkPort → LinkPort) :
    (s.modPort p f).nextQuoteId = s.nextQuoteId := by cases p <;> rfl
@[simp] theorem State.modPort_arbiter (s : State) (p : PortId) (f : LinkPort → LinkPort) :
    (s.modPort p f).arbiter = s.arbiter := by cases p <;> rfl
@[simp] theorem State.modPort_assembly (s : State) (p : PortId) (f : LinkPort → LinkPort) :
    (s.modPort p f).assembly = s.assembly := by cases p <;> rfl
@[simp] theorem State.modPort_conditions (s : State) (p : PortId) (f : LinkPort → LinkPort) :
    (s.modPort p f).conditions = s.conditions := by cases p <;> rfl
@[simp] theorem State.modPort_officeRequest (s : State) (p : PortId) (f : LinkPort → LinkPort) :
    (s.modPort p f).officeRequest = s.officeRequest := by cases p <;> rfl
@[simp] theorem State.modPort_freeCount (s : State) (p : PortId) (f : LinkPort → LinkPort) :
    (s.modPort p f).freeCount = s.freeCount := by cases p <;> rfl

@[simp] theorem State.setLatch_pending (s : State) (c : Condition) (b : Bool) :
    (s.setLatch c b).pending = s.pending := rfl
@[simp] theorem State.setLatch_supply (s : State) (c : Condition) (b : Bool) :
    (s.setLatch c b).supply = s.supply := rfl
@[simp] theorem State.setLatch_site (s : State) (c : Condition) (b : Bool) :
    (s.setLatch c b).site = s.site := rfl
@[simp] theorem State.setLatch_calendar (s : State) (c : Condition) (b : Bool) :
    (s.setLatch c b).calendar = s.calendar := rfl
@[simp] theorem State.setLatch_cell (s : State) (c : Condition) (b : Bool) :
    (s.setLatch c b).cell = s.cell := rfl
@[simp] theorem State.setLatch_store (s : State) (c : Condition) (b : Bool) :
    (s.setLatch c b).store = s.store := rfl
@[simp] theorem State.setLatch_directory (s : State) (c : Condition) (b : Bool) :
    (s.setLatch c b).directory = s.directory := rfl
@[simp] theorem State.setLatch_working (s : State) (c : Condition) (b : Bool) :
    (s.setLatch c b).working = s.working := rfl
@[simp] theorem State.setLatch_buffer (s : State) (c : Condition) (b : Bool) :
    (s.setLatch c b).buffer = s.buffer := rfl
@[simp] theorem State.setLatch_waiters (s : State) (c : Condition) (b : Bool) :
    (s.setLatch c b).waiters = s.waiters := rfl
@[simp] theorem State.setLatch_journal (s : State) (c : Condition) (b : Bool) :
    (s.setLatch c b).journal = s.journal := rfl
@[simp] theorem State.setLatch_reserved (s : State) (c : Condition) (b : Bool) :
    (s.setLatch c b).reserved = s.reserved := rfl
@[simp] theorem State.setLatch_slots (s : State) (c : Condition) (b : Bool) :
    (s.setLatch c b).slots = s.slots := rfl
@[simp] theorem State.setLatch_nextQuoteId (s : State) (c : Condition) (b : Bool) :
    (s.setLatch c b).nextQuoteId = s.nextQuoteId := rfl
@[simp] theorem State.setLatch_arbiter (s : State) (c : Condition) (b : Bool) :
    (s.setLatch c b).arbiter = s.arbiter := rfl
@[simp] theorem State.setLatch_assembly (s : State) (c : Condition) (b : Bool) :
    (s.setLatch c b).assembly = s.assembly := rfl
@[simp] theorem State.setLatch_officeRequest (s : State) (c : Condition) (b : Bool) :
    (s.setLatch c b).officeRequest = s.officeRequest := rfl
@[simp] theorem State.setLatch_officePort (s : State) (c : Condition) (b : Bool) :
    (s.setLatch c b).officePort = s.officePort := rfl
@[simp] theorem State.setLatch_tillPorts (s : State) (c : Condition) (b : Bool) :
    (s.setLatch c b).tillPorts = s.tillPorts := rfl
@[simp] theorem State.setLatch_freeCount (s : State) (c : Condition) (b : Bool) :
    (s.setLatch c b).freeCount = s.freeCount := rfl

@[simp] theorem State.setPort_office_tillPorts (s : State) (v : LinkPort) :
    (s.setPort .office v).tillPorts = s.tillPorts := rfl
@[simp] theorem State.setPort_office_officePort (s : State) (v : LinkPort) :
    (s.setPort .office v).officePort = v := rfl
@[simp] theorem State.setPort_till_officePort (s : State) (t : Till) (v : LinkPort) :
    (s.setPort (.till t) v).officePort = s.officePort := rfl
@[simp] theorem State.modPort_office_tillPorts (s : State) (f : LinkPort → LinkPort) :
    (s.modPort .office f).tillPorts = s.tillPorts := rfl
@[simp] theorem State.modPort_office_officePort (s : State) (f : LinkPort → LinkPort) :
    (s.modPort .office f).officePort = f s.officePort := rfl
@[simp] theorem State.modPort_till_officePort (s : State) (t : Till) (f : LinkPort → LinkPort) :
    (s.modPort (.till t) f).officePort = s.officePort := rfl
@[simp] theorem State.port_office (s : State) : s.port .office = s.officePort := rfl

/-- A four-place read after a write. -/
theorem get_set_four {α : Type} (v : Vector α 4) (i j : Fin 4) (x : α) :
    (v.set i.val x i.isLt).get j = if i = j then x else v.get j := by
  simp only [Vector.get_eq_getElem, Vector.getElem_set, Fin.ext_iff]

@[simp] theorem State.slot_setSlot_same (s : State) (t : Till) (v : VendSlot) : (s.setSlot t v).slot t = v := by
  simp [State.slot, State.setSlot, get_set_four]
theorem State.slot_setSlot (s : State) (t k : Till) (v : VendSlot) :
    (s.setSlot t v).slot k = if t = k then v else s.slot k := by
  simp [State.slot, State.setSlot, get_set_four]
@[simp] theorem State.slot_modSlot_same (s : State) (t : Till) (f : VendSlot → VendSlot) :
    (s.modSlot t f).slot t = f (s.slot t) := by simp [State.modSlot]
theorem State.slot_modSlot (s : State) (t k : Till) (f : VendSlot → VendSlot) :
    (s.modSlot t f).slot k = if t = k then f (s.slot t) else s.slot k := by
  simp [State.modSlot, State.slot_setSlot]
@[simp] theorem State.port_setPort_same (s : State) (p : PortId) (v : LinkPort) : (s.setPort p v).port p = v := by
  cases p <;> simp [State.port, State.setPort, get_set_four]
theorem State.port_setPort (s : State) (p k : PortId) (v : LinkPort) :
    (s.setPort p v).port k = if p = k then v else s.port k := by
  cases p <;> cases k <;> simp [State.port, State.setPort, get_set_four]
@[simp] theorem State.port_modPort_same (s : State) (p : PortId) (f : LinkPort → LinkPort) :
    (s.modPort p f).port p = f (s.port p) := by simp [State.modPort]
theorem State.port_modPort (s : State) (p k : PortId) (f : LinkPort → LinkPort) :
    (s.modPort p f).port k = if p = k then f (s.port p) else s.port k := by
  simp [State.modPort, State.port_setPort]

/-- A slot read depends on the slots alone. -/
theorem State.slot_congr {s t : State} (h : s.slots = t.slots) (k : Till) : s.slot k = t.slot k := by
  simp [State.slot, h]
/-- A till port read depends on the till ports alone. -/
theorem State.port_till_congr {s t : State} (h : s.tillPorts = t.tillPorts) (k : Till) :
    s.port (.till k) = t.port (.till k) := by
  simp [State.port, h]

end Sys2Proof.Machine
end

