-- ==== Sys2Proof/Laws/FramesOps.lean ====
section
/-! SUPPORT. What the conditions and the shared operations leave unchanged: one lemma for each operation. -/

namespace Sys2Proof.Machine

/-- What each step of a fold keeps, the fold keeps. -/
theorem foldl_keeps {α β : Type} (f : State → β) (g : State → α → State) (h : ∀ s a, f (g s a) = f s) (l : List α)
    (s : State) : f (l.foldl g s) = f s := by
  induction l generalizing s with
  | nil => rfl
  | cons a l ih => exact (ih _).trans (h s a)

@[simp] theorem queueNotice_frame (c : Condition) (s : State) :
    (queueNotice c s).pending = s.pending ∧
      (queueNotice c s).supply = s.supply ∧
      (queueNotice c s).site = s.site ∧
      (queueNotice c s).calendar = s.calendar ∧
      (queueNotice c s).cell = s.cell ∧
      (queueNotice c s).store = s.store ∧
      (queueNotice c s).directory = s.directory ∧
      (queueNotice c s).working = s.working ∧
      (queueNotice c s).buffer = s.buffer ∧
      (queueNotice c s).waiters = s.waiters ∧
      (queueNotice c s).journal = s.journal ∧
      (queueNotice c s).reserved = s.reserved ∧
      (queueNotice c s).slots = s.slots ∧
      (queueNotice c s).nextQuoteId = s.nextQuoteId ∧
      (queueNotice c s).arbiter = s.arbiter ∧
      (queueNotice c s).assembly = s.assembly ∧
      (queueNotice c s).conditions = s.conditions ∧
      (queueNotice c s).officeRequest = s.officeRequest ∧
      (queueNotice c s).tillPorts = s.tillPorts ∧
      (queueNotice c s).freeCount = s.freeCount := by
  unfold queueNotice
  try dsimp only
  repeat' split
  all_goals simp

@[simp] theorem arise_frame (c : Condition) (s : State) :
    (arise c s).pending = s.pending ∧
      (arise c s).supply = s.supply ∧
      (arise c s).site = s.site ∧
      (arise c s).calendar = s.calendar ∧
      (arise c s).cell = s.cell ∧
      (arise c s).store = s.store ∧
      (arise c s).directory = s.directory ∧
      (arise c s).working = s.working ∧
      (arise c s).buffer = s.buffer ∧
      (arise c s).waiters = s.waiters ∧
      (arise c s).journal = s.journal ∧
      (arise c s).reserved = s.reserved ∧
      (arise c s).slots = s.slots ∧
      (arise c s).nextQuoteId = s.nextQuoteId ∧
      (arise c s).arbiter = s.arbiter ∧
      (arise c s).assembly = s.assembly ∧
      (arise c s).officeRequest = s.officeRequest ∧
      (arise c s).tillPorts = s.tillPorts ∧
      (arise c s).freeCount = s.freeCount := by
  unfold arise
  try dsimp only
  repeat' split
  all_goals simp

@[simp] theorem reportLevel_frame (c : Condition) (s : State) :
    (reportLevel c s).pending = s.pending ∧
      (reportLevel c s).supply = s.supply ∧
      (reportLevel c s).site = s.site ∧
      (reportLevel c s).calendar = s.calendar ∧
      (reportLevel c s).cell = s.cell ∧
      (reportLevel c s).store = s.store ∧
      (reportLevel c s).directory = s.directory ∧
      (reportLevel c s).working = s.working ∧
      (reportLevel c s).buffer = s.buffer ∧
      (reportLevel c s).waiters = s.waiters ∧
      (reportLevel c s).journal = s.journal ∧
      (reportLevel c s).reserved = s.reserved ∧
      (reportLevel c s).slots = s.slots ∧
      (reportLevel c s).nextQuoteId = s.nextQuoteId ∧
      (reportLevel c s).arbiter = s.arbiter ∧
      (reportLevel c s).assembly = s.assembly ∧
      (reportLevel c s).officeRequest = s.officeRequest ∧
      (reportLevel c s).tillPorts = s.tillPorts ∧
      (reportLevel c s).freeCount = s.freeCount := by
  unfold reportLevel
  try dsimp only
  repeat' split
  all_goals simp

@[simp] theorem reportLevels_frame (s : State) :
    (reportLevels s).pending = s.pending ∧
      (reportLevels s).supply = s.supply ∧
      (reportLevels s).site = s.site ∧
      (reportLevels s).calendar = s.calendar ∧
      (reportLevels s).cell = s.cell ∧
      (reportLevels s).store = s.store ∧
      (reportLevels s).directory = s.directory ∧
      (reportLevels s).working = s.working ∧
      (reportLevels s).buffer = s.buffer ∧
      (reportLevels s).waiters = s.waiters ∧
      (reportLevels s).journal = s.journal ∧
      (reportLevels s).reserved = s.reserved ∧
      (reportLevels s).slots = s.slots ∧
      (reportLevels s).nextQuoteId = s.nextQuoteId ∧
      (reportLevels s).arbiter = s.arbiter ∧
      (reportLevels s).assembly = s.assembly ∧
      (reportLevels s).officeRequest = s.officeRequest ∧
      (reportLevels s).tillPorts = s.tillPorts ∧
      (reportLevels s).freeCount = s.freeCount := by
  unfold reportLevels
  try dsimp only
  repeat' split
  all_goals simp

@[simp] theorem withdrawNotice_frame (c : Condition) (s : State) :
    (withdrawNotice c s).pending = s.pending ∧
      (withdrawNotice c s).supply = s.supply ∧
      (withdrawNotice c s).site = s.site ∧
      (withdrawNotice c s).calendar = s.calendar ∧
      (withdrawNotice c s).cell = s.cell ∧
      (withdrawNotice c s).store = s.store ∧
      (withdrawNotice c s).directory = s.directory ∧
      (withdrawNotice c s).working = s.working ∧
      (withdrawNotice c s).buffer = s.buffer ∧
      (withdrawNotice c s).waiters = s.waiters ∧
      (withdrawNotice c s).journal = s.journal ∧
      (withdrawNotice c s).reserved = s.reserved ∧
      (withdrawNotice c s).slots = s.slots ∧
      (withdrawNotice c s).nextQuoteId = s.nextQuoteId ∧
      (withdrawNotice c s).arbiter = s.arbiter ∧
      (withdrawNotice c s).assembly = s.assembly ∧
      (withdrawNotice c s).conditions = s.conditions ∧
      (withdrawNotice c s).officeRequest = s.officeRequest ∧
      (withdrawNotice c s).tillPorts = s.tillPorts ∧
      (withdrawNotice c s).freeCount = s.freeCount := by
  unfold withdrawNotice
  try dsimp only
  all_goals simp

@[simp] theorem clearCondition_frame (s : State) (c : Condition) :
    (clearCondition s c).pending = s.pending ∧
      (clearCondition s c).supply = s.supply ∧
      (clearCondition s c).site = s.site ∧
      (clearCondition s c).calendar = s.calendar ∧
      (clearCondition s c).cell = s.cell ∧
      (clearCondition s c).store = s.store ∧
      (clearCondition s c).directory = s.directory ∧
      (clearCondition s c).working = s.working ∧
      (clearCondition s c).buffer = s.buffer ∧
      (clearCondition s c).waiters = s.waiters ∧
      (clearCondition s c).journal = s.journal ∧
      (clearCondition s c).reserved = s.reserved ∧
      (clearCondition s c).slots = s.slots ∧
      (clearCondition s c).nextQuoteId = s.nextQuoteId ∧
      (clearCondition s c).arbiter = s.arbiter ∧
      (clearCondition s c).assembly = s.assembly ∧
      (clearCondition s c).officeRequest = s.officeRequest ∧
      (clearCondition s c).tillPorts = s.tillPorts ∧
      (clearCondition s c).freeCount = s.freeCount := by
  unfold clearCondition
  try dsimp only
  repeat' split
  all_goals simp

@[simp] theorem ariseLineFault_frame (t : Till) (s : State) :
    (ariseLineFault t s).pending = s.pending ∧
      (ariseLineFault t s).supply = s.supply ∧
      (ariseLineFault t s).site = s.site ∧
      (ariseLineFault t s).calendar = s.calendar ∧
      (ariseLineFault t s).cell = s.cell ∧
      (ariseLineFault t s).store = s.store ∧
      (ariseLineFault t s).directory = s.directory ∧
      (ariseLineFault t s).working = s.working ∧
      (ariseLineFault t s).buffer = s.buffer ∧
      (ariseLineFault t s).waiters = s.waiters ∧
      (ariseLineFault t s).journal = s.journal ∧
      (ariseLineFault t s).reserved = s.reserved ∧
      (ariseLineFault t s).slots = s.slots ∧
      (ariseLineFault t s).nextQuoteId = s.nextQuoteId ∧
      (ariseLineFault t s).arbiter = s.arbiter ∧
      (ariseLineFault t s).assembly = s.assembly ∧
      (ariseLineFault t s).officeRequest = s.officeRequest ∧
      (ariseLineFault t s).tillPorts = s.tillPorts ∧
      (ariseLineFault t s).freeCount = s.freeCount := by
  unfold ariseLineFault
  try dsimp only
  all_goals simp

@[simp] theorem withdrawDisabled_frame (mask : ConditionSet) (s : State) :
    (withdrawDisabled mask s).pending = s.pending ∧
      (withdrawDisabled mask s).supply = s.supply ∧
      (withdrawDisabled mask s).site = s.site ∧
      (withdrawDisabled mask s).calendar = s.calendar ∧
      (withdrawDisabled mask s).cell = s.cell ∧
      (withdrawDisabled mask s).store = s.store ∧
      (withdrawDisabled mask s).directory = s.directory ∧
      (withdrawDisabled mask s).working = s.working ∧
      (withdrawDisabled mask s).buffer = s.buffer ∧
      (withdrawDisabled mask s).waiters = s.waiters ∧
      (withdrawDisabled mask s).journal = s.journal ∧
      (withdrawDisabled mask s).reserved = s.reserved ∧
      (withdrawDisabled mask s).slots = s.slots ∧
      (withdrawDisabled mask s).nextQuoteId = s.nextQuoteId ∧
      (withdrawDisabled mask s).arbiter = s.arbiter ∧
      (withdrawDisabled mask s).assembly = s.assembly ∧
      (withdrawDisabled mask s).conditions = s.conditions ∧
      (withdrawDisabled mask s).officeRequest = s.officeRequest ∧
      (withdrawDisabled mask s).tillPorts = s.tillPorts ∧
      (withdrawDisabled mask s).freeCount = s.freeCount := by
  unfold withdrawDisabled
  try dsimp only
  all_goals simp

@[simp] theorem pushReply_frame (p : PortId) (tag : Byte) (r : Reply) (immediate : Bool) (s : State) :
    (pushReply p tag r immediate s).pending = s.pending ∧
      (pushReply p tag r immediate s).supply = s.supply ∧
      (pushReply p tag r immediate s).site = s.site ∧
      (pushReply p tag r immediate s).calendar = s.calendar ∧
      (pushReply p tag r immediate s).cell = s.cell ∧
      (pushReply p tag r immediate s).store = s.store ∧
      (pushReply p tag r immediate s).directory = s.directory ∧
      (pushReply p tag r immediate s).working = s.working ∧
      (pushReply p tag r immediate s).buffer = s.buffer ∧
      (pushReply p tag r immediate s).waiters = s.waiters ∧
      (pushReply p tag r immediate s).journal = s.journal ∧
      (pushReply p tag r immediate s).reserved = s.reserved ∧
      (pushReply p tag r immediate s).slots = s.slots ∧
      (pushReply p tag r immediate s).nextQuoteId = s.nextQuoteId ∧
      (pushReply p tag r immediate s).arbiter = s.arbiter ∧
      (pushReply p tag r immediate s).assembly = s.assembly ∧
      (pushReply p tag r immediate s).conditions = s.conditions ∧
      (pushReply p tag r immediate s).officeRequest = s.officeRequest ∧
      (pushReply p tag r immediate s).freeCount = s.freeCount := by
  unfold pushReply
  try dsimp only
  repeat' split
  all_goals simp

@[simp] theorem endOutstanding_frame (p : PortId) (s : State) :
    (endOutstanding p s).pending = s.pending ∧
      (endOutstanding p s).supply = s.supply ∧
      (endOutstanding p s).site = s.site ∧
      (endOutstanding p s).calendar = s.calendar ∧
      (endOutstanding p s).cell = s.cell ∧
      (endOutstanding p s).store = s.store ∧
      (endOutstanding p s).directory = s.directory ∧
      (endOutstanding p s).working = s.working ∧
      (endOutstanding p s).buffer = s.buffer ∧
      (endOutstanding p s).waiters = s.waiters ∧
      (endOutstanding p s).journal = s.journal ∧
      (endOutstanding p s).reserved = s.reserved ∧
      (endOutstanding p s).slots = s.slots ∧
      (endOutstanding p s).nextQuoteId = s.nextQuoteId ∧
      (endOutstanding p s).arbiter = s.arbiter ∧
      (endOutstanding p s).assembly = s.assembly ∧
      (endOutstanding p s).conditions = s.conditions ∧
      (endOutstanding p s).officeRequest = s.officeRequest ∧
      (endOutstanding p s).freeCount = s.freeCount := by
  unfold endOutstanding
  try dsimp only
  all_goals simp

@[simp] theorem answer_frame (p : PortId) (tag : Byte) (r : Reply) (s : State) :
    (answer p tag r s).pending = s.pending ∧
      (answer p tag r s).supply = s.supply ∧
      (answer p tag r s).site = s.site ∧
      (answer p tag r s).calendar = s.calendar ∧
      (answer p tag r s).cell = s.cell ∧
      (answer p tag r s).store = s.store ∧
      (answer p tag r s).directory = s.directory ∧
      (answer p tag r s).working = s.working ∧
      (answer p tag r s).buffer = s.buffer ∧
      (answer p tag r s).waiters = s.waiters ∧
      (answer p tag r s).journal = s.journal ∧
      (answer p tag r s).reserved = s.reserved ∧
      (answer p tag r s).slots = s.slots ∧
      (answer p tag r s).nextQuoteId = s.nextQuoteId ∧
      (answer p tag r s).arbiter = s.arbiter ∧
      (answer p tag r s).assembly = s.assembly ∧
      (answer p tag r s).conditions = s.conditions ∧
      (answer p tag r s).officeRequest = s.officeRequest ∧
      (answer p tag r s).freeCount = s.freeCount := by
  unfold answer
  try dsimp only
  all_goals simp

/-- A reply at a till port leaves the office port. -/
@[simp] theorem endOutstanding_till (t : Till) (s : State) :
    (endOutstanding (.till t) s).officePort = s.officePort := rfl
@[simp] theorem pushReply_till (t : Till) (tag : Byte) (r : Reply) (i : Bool) (s : State) :
    (pushReply (.till t) tag r i s).officePort = s.officePort := by unfold pushReply; split <;> simp
@[simp] theorem answer_till (t : Till) (tag : Byte) (r : Reply) (s : State) :
    (answer (.till t) tag r s).officePort = s.officePort := by simp [answer]
/-- A reply at the office port leaves the till ports. -/
@[simp] theorem endOutstanding_office (s : State) : (endOutstanding .office s).tillPorts = s.tillPorts := rfl
@[simp] theorem pushReply_office (tag : Byte) (r : Reply) (i : Bool) (s : State) :
    (pushReply .office tag r i s).tillPorts = s.tillPorts := by unfold pushReply; split <;> simp
@[simp] theorem answer_office (tag : Byte) (r : Reply) (s : State) :
    (answer .office tag r s).tillPorts = s.tillPorts := by simp [answer]

@[simp] theorem tillReply_frame (t : Till) (tag : Option Byte) (r : Reply) (s : State) :
    (tillReply t tag r s).pending = s.pending ∧
      (tillReply t tag r s).supply = s.supply ∧
      (tillReply t tag r s).site = s.site ∧
      (tillReply t tag r s).calendar = s.calendar ∧
      (tillReply t tag r s).cell = s.cell ∧
      (tillReply t tag r s).store = s.store ∧
      (tillReply t tag r s).directory = s.directory ∧
      (tillReply t tag r s).working = s.working ∧
      (tillReply t tag r s).buffer = s.buffer ∧
      (tillReply t tag r s).waiters = s.waiters ∧
      (tillReply t tag r s).journal = s.journal ∧
      (tillReply t tag r s).reserved = s.reserved ∧
      (tillReply t tag r s).slots = s.slots ∧
      (tillReply t tag r s).nextQuoteId = s.nextQuoteId ∧
      (tillReply t tag r s).arbiter = s.arbiter ∧
      (tillReply t tag r s).assembly = s.assembly ∧
      (tillReply t tag r s).conditions = s.conditions ∧
      (tillReply t tag r s).officeRequest = s.officeRequest ∧
      (tillReply t tag r s).officePort = s.officePort ∧
      (tillReply t tag r s).freeCount = s.freeCount := by
  unfold tillReply
  try dsimp only
  repeat' split
  all_goals simp

@[simp] theorem officeReply_frame (r : Reply) (s : State) :
    (officeReply r s).pending = s.pending ∧
      (officeReply r s).supply = s.supply ∧
      (officeReply r s).site = s.site ∧
      (officeReply r s).calendar = s.calendar ∧
      (officeReply r s).cell = s.cell ∧
      (officeReply r s).store = s.store ∧
      (officeReply r s).directory = s.directory ∧
      (officeReply r s).working = s.working ∧
      (officeReply r s).buffer = s.buffer ∧
      (officeReply r s).waiters = s.waiters ∧
      (officeReply r s).journal = s.journal ∧
      (officeReply r s).reserved = s.reserved ∧
      (officeReply r s).slots = s.slots ∧
      (officeReply r s).nextQuoteId = s.nextQuoteId ∧
      (officeReply r s).arbiter = s.arbiter ∧
      (officeReply r s).assembly = s.assembly ∧
      (officeReply r s).conditions = s.conditions ∧
      (officeReply r s).officeRequest = s.officeRequest ∧
      (officeReply r s).tillPorts = s.tillPorts ∧
      (officeReply r s).freeCount = s.freeCount := by
  unfold officeReply
  try dsimp only
  repeat' split
  all_goals simp

@[simp] theorem officeRefuseWith_frame (code : RefusalCode) (detail : Nat) (s : State) :
    (officeRefuseWith code detail s).pending = s.pending ∧
      (officeRefuseWith code detail s).supply = s.supply ∧
      (officeRefuseWith code detail s).site = s.site ∧
      (officeRefuseWith code detail s).calendar = s.calendar ∧
      (officeRefuseWith code detail s).cell = s.cell ∧
      (officeRefuseWith code detail s).store = s.store ∧
      (officeRefuseWith code detail s).directory = s.directory ∧
      (officeRefuseWith code detail s).working = s.working ∧
      (officeRefuseWith code detail s).buffer = s.buffer ∧
      (officeRefuseWith code detail s).waiters = s.waiters ∧
      (officeRefuseWith code detail s).journal = s.journal ∧
      (officeRefuseWith code detail s).reserved = s.reserved ∧
      (officeRefuseWith code detail s).slots = s.slots ∧
      (officeRefuseWith code detail s).nextQuoteId = s.nextQuoteId ∧
      (officeRefuseWith code detail s).arbiter = s.arbiter ∧
      (officeRefuseWith code detail s).assembly = s.assembly ∧
      (officeRefuseWith code detail s).conditions = s.conditions ∧
      (officeRefuseWith code detail s).officeRequest = s.officeRequest ∧
      (officeRefuseWith code detail s).tillPorts = s.tillPorts ∧
      (officeRefuseWith code detail s).freeCount = s.freeCount := by
  unfold officeRefuseWith
  try dsimp only
  repeat' split
  all_goals simp

@[simp] theorem officeRefuse_frame (code : RefusalCode) (s : State) :
    (officeRefuse code s).pending = s.pending ∧
      (officeRefuse code s).supply = s.supply ∧
      (officeRefuse code s).site = s.site ∧
      (officeRefuse code s).calendar = s.calendar ∧
      (officeRefuse code s).cell = s.cell ∧
      (officeRefuse code s).store = s.store ∧
      (officeRefuse code s).directory = s.directory ∧
      (officeRefuse code s).working = s.working ∧
      (officeRefuse code s).buffer = s.buffer ∧
      (officeRefuse code s).waiters = s.waiters ∧
      (officeRefuse code s).journal = s.journal ∧
      (officeRefuse code s).reserved = s.reserved ∧
      (officeRefuse code s).slots = s.slots ∧
      (officeRefuse code s).nextQuoteId = s.nextQuoteId ∧
      (officeRefuse code s).arbiter = s.arbiter ∧
      (officeRefuse code s).assembly = s.assembly ∧
      (officeRefuse code s).conditions = s.conditions ∧
      (officeRefuse code s).officeRequest = s.officeRequest ∧
      (officeRefuse code s).tillPorts = s.tillPorts ∧
      (officeRefuse code s).freeCount = s.freeCount := by
  unfold officeRefuse
  try dsimp only
  all_goals simp

@[simp] theorem touchLine_frame (l : LineNo) (s : State) :
    (touchLine l s).pending = s.pending ∧
      (touchLine l s).supply = s.supply ∧
      (touchLine l s).site = s.site ∧
      (touchLine l s).calendar = s.calendar ∧
      (touchLine l s).cell = s.cell ∧
      (touchLine l s).store = s.store ∧
      (touchLine l s).directory = s.directory ∧
      (touchLine l s).buffer = s.buffer ∧
      (touchLine l s).waiters = s.waiters ∧
      (touchLine l s).journal = s.journal ∧
      (touchLine l s).reserved = s.reserved ∧
      (touchLine l s).slots = s.slots ∧
      (touchLine l s).nextQuoteId = s.nextQuoteId ∧
      (touchLine l s).arbiter = s.arbiter ∧
      (touchLine l s).assembly = s.assembly ∧
      (touchLine l s).conditions = s.conditions ∧
      (touchLine l s).officeRequest = s.officeRequest ∧
      (touchLine l s).officePort = s.officePort ∧
      (touchLine l s).tillPorts = s.tillPorts ∧
      (touchLine l s).freeCount = s.freeCount := by
  unfold touchLine
  try dsimp only
  all_goals simp

@[simp] theorem freeLine_frame (l : LineNo) (s : State) :
    (freeLine l s).pending = s.pending ∧
      (freeLine l s).supply = s.supply ∧
      (freeLine l s).site = s.site ∧
      (freeLine l s).calendar = s.calendar ∧
      (freeLine l s).cell = s.cell ∧
      (freeLine l s).store = s.store ∧
      (freeLine l s).directory = s.directory ∧
      (freeLine l s).buffer = s.buffer ∧
      (freeLine l s).waiters = s.waiters ∧
      (freeLine l s).journal = s.journal ∧
      (freeLine l s).reserved = s.reserved ∧
      (freeLine l s).slots = s.slots ∧
      (freeLine l s).nextQuoteId = s.nextQuoteId ∧
      (freeLine l s).arbiter = s.arbiter ∧
      (freeLine l s).assembly = s.assembly ∧
      (freeLine l s).conditions = s.conditions ∧
      (freeLine l s).officeRequest = s.officeRequest ∧
      (freeLine l s).officePort = s.officePort ∧
      (freeLine l s).tillPorts = s.tillPorts ∧
      (freeLine l s).freeCount = s.freeCount := by
  unfold freeLine
  try dsimp only
  all_goals simp

@[simp] theorem notePin_frame (o : Owner) (meter : Option Nat) (s : State) :
    (notePin o meter s).pending = s.pending ∧
      (notePin o meter s).supply = s.supply ∧
      (notePin o meter s).site = s.site ∧
      (notePin o meter s).calendar = s.calendar ∧
      (notePin o meter s).cell = s.cell ∧
      (notePin o meter s).store = s.store ∧
      (notePin o meter s).directory = s.directory ∧
      (notePin o meter s).working = s.working ∧
      (notePin o meter s).buffer = s.buffer ∧
      (notePin o meter s).waiters = s.waiters ∧
      (notePin o meter s).journal = s.journal ∧
      (notePin o meter s).reserved = s.reserved ∧
      (notePin o meter s).nextQuoteId = s.nextQuoteId ∧
      (notePin o meter s).arbiter = s.arbiter ∧
      (notePin o meter s).assembly = s.assembly ∧
      (notePin o meter s).conditions = s.conditions ∧
      (notePin o meter s).officeRequest = s.officeRequest ∧
      (notePin o meter s).officePort = s.officePort ∧
      (notePin o meter s).tillPorts = s.tillPorts ∧
      (notePin o meter s).freeCount = s.freeCount := by
  unfold notePin
  try dsimp only
  repeat' split
  all_goals simp

@[simp] theorem releasePin_frame (o : Owner) (s : State) :
    (releasePin o s).pending = s.pending ∧
      (releasePin o s).supply = s.supply ∧
      (releasePin o s).site = s.site ∧
      (releasePin o s).calendar = s.calendar ∧
      (releasePin o s).cell = s.cell ∧
      (releasePin o s).store = s.store ∧
      (releasePin o s).directory = s.directory ∧
      (releasePin o s).buffer = s.buffer ∧
      (releasePin o s).waiters = s.waiters ∧
      (releasePin o s).journal = s.journal ∧
      (releasePin o s).reserved = s.reserved ∧
      (releasePin o s).nextQuoteId = s.nextQuoteId ∧
      (releasePin o s).arbiter = s.arbiter ∧
      (releasePin o s).assembly = s.assembly ∧
      (releasePin o s).conditions = s.conditions ∧
      (releasePin o s).officeRequest = s.officeRequest ∧
      (releasePin o s).officePort = s.officePort ∧
      (releasePin o s).tillPorts = s.tillPorts ∧
      (releasePin o s).freeCount = s.freeCount := by
  unfold releasePin
  try dsimp only
  repeat' split
  all_goals simp

@[simp] theorem pinLine_frame (o : Owner) (l : LineNo) (meter : Nat) (s : State) :
    (pinLine o l meter s).pending = s.pending ∧
      (pinLine o l meter s).supply = s.supply ∧
      (pinLine o l meter s).site = s.site ∧
      (pinLine o l meter s).calendar = s.calendar ∧
      (pinLine o l meter s).cell = s.cell ∧
      (pinLine o l meter s).store = s.store ∧
      (pinLine o l meter s).directory = s.directory ∧
      (pinLine o l meter s).buffer = s.buffer ∧
      (pinLine o l meter s).waiters = s.waiters ∧
      (pinLine o l meter s).journal = s.journal ∧
      (pinLine o l meter s).reserved = s.reserved ∧
      (pinLine o l meter s).nextQuoteId = s.nextQuoteId ∧
      (pinLine o l meter s).arbiter = s.arbiter ∧
      (pinLine o l meter s).assembly = s.assembly ∧
      (pinLine o l meter s).conditions = s.conditions ∧
      (pinLine o l meter s).officeRequest = s.officeRequest ∧
      (pinLine o l meter s).officePort = s.officePort ∧
      (pinLine o l meter s).tillPorts = s.tillPorts ∧
      (pinLine o l meter s).freeCount = s.freeCount := by
  unfold pinLine
  try dsimp only
  all_goals simp

@[simp] theorem startFetch_frame (o : Owner) (meter slot : Nat) (s : State) :
    (startFetch o meter slot s).pending = s.pending ∧
      (startFetch o meter slot s).supply = s.supply ∧
      (startFetch o meter slot s).site = s.site ∧
      (startFetch o meter slot s).calendar = s.calendar ∧
      (startFetch o meter slot s).cell = s.cell ∧
      (startFetch o meter slot s).directory = s.directory ∧
      (startFetch o meter slot s).buffer = s.buffer ∧
      (startFetch o meter slot s).waiters = s.waiters ∧
      (startFetch o meter slot s).journal = s.journal ∧
      (startFetch o meter slot s).reserved = s.reserved ∧
      (startFetch o meter slot s).nextQuoteId = s.nextQuoteId ∧
      (startFetch o meter slot s).arbiter = s.arbiter ∧
      (startFetch o meter slot s).assembly = s.assembly ∧
      (startFetch o meter slot s).conditions = s.conditions ∧
      (startFetch o meter slot s).officeRequest = s.officeRequest ∧
      (startFetch o meter slot s).officePort = s.officePort ∧
      (startFetch o meter slot s).tillPorts = s.tillPorts ∧
      (startFetch o meter slot s).freeCount = s.freeCount := by
  unfold startFetch
  try dsimp only
  all_goals simp

@[simp] theorem takeLineValid_frame (meter : Nat) (r : Record) (s : State) :
    (takeLineValid meter r s).pending = s.pending ∧
      (takeLineValid meter r s).supply = s.supply ∧
      (takeLineValid meter r s).site = s.site ∧
      (takeLineValid meter r s).calendar = s.calendar ∧
      (takeLineValid meter r s).cell = s.cell ∧
      (takeLineValid meter r s).store = s.store ∧
      (takeLineValid meter r s).directory = s.directory ∧
      (takeLineValid meter r s).buffer = s.buffer ∧
      (takeLineValid meter r s).waiters = s.waiters ∧
      (takeLineValid meter r s).journal = s.journal ∧
      (takeLineValid meter r s).reserved = s.reserved ∧
      (takeLineValid meter r s).slots = s.slots ∧
      (takeLineValid meter r s).nextQuoteId = s.nextQuoteId ∧
      (takeLineValid meter r s).arbiter = s.arbiter ∧
      (takeLineValid meter r s).assembly = s.assembly ∧
      (takeLineValid meter r s).conditions = s.conditions ∧
      (takeLineValid meter r s).officeRequest = s.officeRequest ∧
      (takeLineValid meter r s).officePort = s.officePort ∧
      (takeLineValid meter r s).tillPorts = s.tillPorts ∧
      (takeLineValid meter r s).freeCount = s.freeCount := by
  unfold takeLineValid
  try dsimp only
  all_goals simp

@[simp] theorem freeOfficeLine_frame (s : State) :
    (freeOfficeLine s).pending = s.pending ∧
      (freeOfficeLine s).supply = s.supply ∧
      (freeOfficeLine s).site = s.site ∧
      (freeOfficeLine s).calendar = s.calendar ∧
      (freeOfficeLine s).cell = s.cell ∧
      (freeOfficeLine s).store = s.store ∧
      (freeOfficeLine s).directory = s.directory ∧
      (freeOfficeLine s).buffer = s.buffer ∧
      (freeOfficeLine s).waiters = s.waiters ∧
      (freeOfficeLine s).journal = s.journal ∧
      (freeOfficeLine s).reserved = s.reserved ∧
      (freeOfficeLine s).slots = s.slots ∧
      (freeOfficeLine s).nextQuoteId = s.nextQuoteId ∧
      (freeOfficeLine s).arbiter = s.arbiter ∧
      (freeOfficeLine s).assembly = s.assembly ∧
      (freeOfficeLine s).conditions = s.conditions ∧
      (freeOfficeLine s).officeRequest = s.officeRequest ∧
      (freeOfficeLine s).officePort = s.officePort ∧
      (freeOfficeLine s).tillPorts = s.tillPorts ∧
      (freeOfficeLine s).freeCount = s.freeCount := by
  unfold freeOfficeLine
  try dsimp only
  repeat' split
  all_goals simp

@[simp] theorem lineTakesImage_frame (meter : Nat) (r : Record) (s : State) :
    (lineTakesImage meter r s).pending = s.pending ∧
      (lineTakesImage meter r s).supply = s.supply ∧
      (lineTakesImage meter r s).site = s.site ∧
      (lineTakesImage meter r s).calendar = s.calendar ∧
      (lineTakesImage meter r s).cell = s.cell ∧
      (lineTakesImage meter r s).store = s.store ∧
      (lineTakesImage meter r s).directory = s.directory ∧
      (lineTakesImage meter r s).buffer = s.buffer ∧
      (lineTakesImage meter r s).waiters = s.waiters ∧
      (lineTakesImage meter r s).journal = s.journal ∧
      (lineTakesImage meter r s).reserved = s.reserved ∧
      (lineTakesImage meter r s).slots = s.slots ∧
      (lineTakesImage meter r s).nextQuoteId = s.nextQuoteId ∧
      (lineTakesImage meter r s).arbiter = s.arbiter ∧
      (lineTakesImage meter r s).assembly = s.assembly ∧
      (lineTakesImage meter r s).conditions = s.conditions ∧
      (lineTakesImage meter r s).officeRequest = s.officeRequest ∧
      (lineTakesImage meter r s).officePort = s.officePort ∧
      (lineTakesImage meter r s).tillPorts = s.tillPorts ∧
      (lineTakesImage meter r s).freeCount = s.freeCount := by
  unfold lineTakesImage
  try dsimp only
  repeat' split
  all_goals simp

@[simp] theorem takeReservation_frame (s : State) :
    (takeReservation s).pending = s.pending ∧
      (takeReservation s).supply = s.supply ∧
      (takeReservation s).site = s.site ∧
      (takeReservation s).calendar = s.calendar ∧
      (takeReservation s).cell = s.cell ∧
      (takeReservation s).store = s.store ∧
      (takeReservation s).directory = s.directory ∧
      (takeReservation s).working = s.working ∧
      (takeReservation s).buffer = s.buffer ∧
      (takeReservation s).waiters = s.waiters ∧
      (takeReservation s).reserved = s.reserved ∧
      (takeReservation s).slots = s.slots ∧
      (takeReservation s).nextQuoteId = s.nextQuoteId ∧
      (takeReservation s).arbiter = s.arbiter ∧
      (takeReservation s).assembly = s.assembly ∧
      (takeReservation s).officeRequest = s.officeRequest ∧
      (takeReservation s).tillPorts = s.tillPorts ∧
      (takeReservation s).freeCount = s.freeCount := by
  unfold takeReservation
  try dsimp only
  all_goals simp

@[simp] theorem giveReservation_frame (s : State) :
    (giveReservation s).pending = s.pending ∧
      (giveReservation s).supply = s.supply ∧
      (giveReservation s).site = s.site ∧
      (giveReservation s).calendar = s.calendar ∧
      (giveReservation s).cell = s.cell ∧
      (giveReservation s).store = s.store ∧
      (giveReservation s).directory = s.directory ∧
      (giveReservation s).working = s.working ∧
      (giveReservation s).buffer = s.buffer ∧
      (giveReservation s).waiters = s.waiters ∧
      (giveReservation s).reserved = s.reserved ∧
      (giveReservation s).slots = s.slots ∧
      (giveReservation s).nextQuoteId = s.nextQuoteId ∧
      (giveReservation s).arbiter = s.arbiter ∧
      (giveReservation s).assembly = s.assembly ∧
      (giveReservation s).officeRequest = s.officeRequest ∧
      (giveReservation s).tillPorts = s.tillPorts ∧
      (giveReservation s).freeCount = s.freeCount := by
  unfold giveReservation
  try dsimp only
  all_goals simp

@[simp] theorem giveBack_frame (q : QuoteRecord) (s : State) :
    (giveBack q s).pending = s.pending ∧
      (giveBack q s).supply = s.supply ∧
      (giveBack q s).site = s.site ∧
      (giveBack q s).calendar = s.calendar ∧
      (giveBack q s).cell = s.cell ∧
      (giveBack q s).store = s.store ∧
      (giveBack q s).directory = s.directory ∧
      (giveBack q s).working = s.working ∧
      (giveBack q s).buffer = s.buffer ∧
      (giveBack q s).waiters = s.waiters ∧
      (giveBack q s).slots = s.slots ∧
      (giveBack q s).nextQuoteId = s.nextQuoteId ∧
      (giveBack q s).arbiter = s.arbiter ∧
      (giveBack q s).assembly = s.assembly ∧
      (giveBack q s).officeRequest = s.officeRequest ∧
      (giveBack q s).tillPorts = s.tillPorts ∧
      (giveBack q s).freeCount = s.freeCount := by
  unfold giveBack
  try dsimp only
  repeat' split
  all_goals simp

@[simp] theorem closeQuote_frame (t : Till) (outcome : CloseOutcome) (s : State) :
    (closeQuote t outcome s).pending = s.pending ∧
      (closeQuote t outcome s).supply = s.supply ∧
      (closeQuote t outcome s).site = s.site ∧
      (closeQuote t outcome s).calendar = s.calendar ∧
      (closeQuote t outcome s).cell = s.cell ∧
      (closeQuote t outcome s).store = s.store ∧
      (closeQuote t outcome s).directory = s.directory ∧
      (closeQuote t outcome s).buffer = s.buffer ∧
      (closeQuote t outcome s).waiters = s.waiters ∧
      (closeQuote t outcome s).nextQuoteId = s.nextQuoteId ∧
      (closeQuote t outcome s).arbiter = s.arbiter ∧
      (closeQuote t outcome s).assembly = s.assembly ∧
      (closeQuote t outcome s).officeRequest = s.officeRequest ∧
      (closeQuote t outcome s).tillPorts = s.tillPorts ∧
      (closeQuote t outcome s).freeCount = s.freeCount := by
  unfold closeQuote
  try dsimp only
  repeat' split
  all_goals simp

@[simp] theorem abandonQuote_frame (t : Till) (q : QuoteRecord) (c : AbandonCause) (s : State) :
    (abandonQuote t q c s).pending = s.pending ∧
      (abandonQuote t q c s).supply = s.supply ∧
      (abandonQuote t q c s).site = s.site ∧
      (abandonQuote t q c s).calendar = s.calendar ∧
      (abandonQuote t q c s).cell = s.cell ∧
      (abandonQuote t q c s).store = s.store ∧
      (abandonQuote t q c s).directory = s.directory ∧
      (abandonQuote t q c s).buffer = s.buffer ∧
      (abandonQuote t q c s).waiters = s.waiters ∧
      (abandonQuote t q c s).nextQuoteId = s.nextQuoteId ∧
      (abandonQuote t q c s).arbiter = s.arbiter ∧
      (abandonQuote t q c s).assembly = s.assembly ∧
      (abandonQuote t q c s).officeRequest = s.officeRequest ∧
      (abandonQuote t q c s).freeCount = s.freeCount := by
  unfold abandonQuote
  try dsimp only
  all_goals simp

@[simp] theorem refuseQuote_frame (t : Till) (q : QuoteRecord) (code : RefusalCode) (detail : Nat) (s : State) :
    (refuseQuote t q code detail s).pending = s.pending ∧
      (refuseQuote t q code detail s).supply = s.supply ∧
      (refuseQuote t q code detail s).site = s.site ∧
      (refuseQuote t q code detail s).calendar = s.calendar ∧
      (refuseQuote t q code detail s).cell = s.cell ∧
      (refuseQuote t q code detail s).store = s.store ∧
      (refuseQuote t q code detail s).directory = s.directory ∧
      (refuseQuote t q code detail s).buffer = s.buffer ∧
      (refuseQuote t q code detail s).waiters = s.waiters ∧
      (refuseQuote t q code detail s).nextQuoteId = s.nextQuoteId ∧
      (refuseQuote t q code detail s).arbiter = s.arbiter ∧
      (refuseQuote t q code detail s).assembly = s.assembly ∧
      (refuseQuote t q code detail s).officeRequest = s.officeRequest ∧
      (refuseQuote t q code detail s).freeCount = s.freeCount := by
  unfold refuseQuote
  try dsimp only
  repeat' split
  all_goals simp

@[simp] theorem endReprint_frame (t : Till) (s : State) :
    (endReprint t s).pending = s.pending ∧
      (endReprint t s).supply = s.supply ∧
      (endReprint t s).site = s.site ∧
      (endReprint t s).calendar = s.calendar ∧
      (endReprint t s).cell = s.cell ∧
      (endReprint t s).store = s.store ∧
      (endReprint t s).directory = s.directory ∧
      (endReprint t s).buffer = s.buffer ∧
      (endReprint t s).waiters = s.waiters ∧
      (endReprint t s).journal = s.journal ∧
      (endReprint t s).reserved = s.reserved ∧
      (endReprint t s).nextQuoteId = s.nextQuoteId ∧
      (endReprint t s).arbiter = s.arbiter ∧
      (endReprint t s).assembly = s.assembly ∧
      (endReprint t s).conditions = s.conditions ∧
      (endReprint t s).officeRequest = s.officeRequest ∧
      (endReprint t s).officePort = s.officePort ∧
      (endReprint t s).tillPorts = s.tillPorts ∧
      (endReprint t s).freeCount = s.freeCount := by
  unfold endReprint
  try dsimp only
  repeat' split
  all_goals simp

@[simp] theorem refuseReprint_frame (t : Till) (w : ReprintWork) (code : RefusalCode) (detail : Nat) (s : State) :
    (refuseReprint t w code detail s).pending = s.pending ∧
      (refuseReprint t w code detail s).supply = s.supply ∧
      (refuseReprint t w code detail s).site = s.site ∧
      (refuseReprint t w code detail s).calendar = s.calendar ∧
      (refuseReprint t w code detail s).cell = s.cell ∧
      (refuseReprint t w code detail s).store = s.store ∧
      (refuseReprint t w code detail s).directory = s.directory ∧
      (refuseReprint t w code detail s).buffer = s.buffer ∧
      (refuseReprint t w code detail s).waiters = s.waiters ∧
      (refuseReprint t w code detail s).journal = s.journal ∧
      (refuseReprint t w code detail s).reserved = s.reserved ∧
      (refuseReprint t w code detail s).nextQuoteId = s.nextQuoteId ∧
      (refuseReprint t w code detail s).arbiter = s.arbiter ∧
      (refuseReprint t w code detail s).assembly = s.assembly ∧
      (refuseReprint t w code detail s).conditions = s.conditions ∧
      (refuseReprint t w code detail s).officeRequest = s.officeRequest ∧
      (refuseReprint t w code detail s).officePort = s.officePort ∧
      (refuseReprint t w code detail s).freeCount = s.freeCount := by
  unfold refuseReprint
  try dsimp only
  all_goals simp

@[simp] theorem addUnit_frame (kind : UnitKind) (part : Option RecordPart) (entry : Option (Source × EntryBody)) (summary : Option DaySummary) (s : State) :
    (addUnit kind part entry summary s).pending = s.pending ∧
      (addUnit kind part entry summary s).supply = s.supply ∧
      (addUnit kind part entry summary s).calendar = s.calendar ∧
      (addUnit kind part entry summary s).cell = s.cell ∧
      (addUnit kind part entry summary s).store = s.store ∧
      (addUnit kind part entry summary s).directory = s.directory ∧
      (addUnit kind part entry summary s).working = s.working ∧
      (addUnit kind part entry summary s).waiters = s.waiters ∧
      (addUnit kind part entry summary s).reserved = s.reserved ∧
      (addUnit kind part entry summary s).slots = s.slots ∧
      (addUnit kind part entry summary s).nextQuoteId = s.nextQuoteId ∧
      (addUnit kind part entry summary s).arbiter = s.arbiter ∧
      (addUnit kind part entry summary s).assembly = s.assembly ∧
      (addUnit kind part entry summary s).officeRequest = s.officeRequest ∧
      (addUnit kind part entry summary s).tillPorts = s.tillPorts ∧
      (addUnit kind part entry summary s).freeCount = s.freeCount := by
  unfold addUnit
  try dsimp only
  repeat' split
  all_goals simp

@[simp] theorem lowerDirty_frame (u : CommitUnit) (s : State) :
    (lowerDirty u s).pending = s.pending ∧
      (lowerDirty u s).supply = s.supply ∧
      (lowerDirty u s).site = s.site ∧
      (lowerDirty u s).calendar = s.calendar ∧
      (lowerDirty u s).cell = s.cell ∧
      (lowerDirty u s).store = s.store ∧
      (lowerDirty u s).directory = s.directory ∧
      (lowerDirty u s).buffer = s.buffer ∧
      (lowerDirty u s).waiters = s.waiters ∧
      (lowerDirty u s).journal = s.journal ∧
      (lowerDirty u s).reserved = s.reserved ∧
      (lowerDirty u s).slots = s.slots ∧
      (lowerDirty u s).nextQuoteId = s.nextQuoteId ∧
      (lowerDirty u s).arbiter = s.arbiter ∧
      (lowerDirty u s).assembly = s.assembly ∧
      (lowerDirty u s).conditions = s.conditions ∧
      (lowerDirty u s).officeRequest = s.officeRequest ∧
      (lowerDirty u s).officePort = s.officePort ∧
      (lowerDirty u s).tillPorts = s.tillPorts ∧
      (lowerDirty u s).freeCount = s.freeCount := by
  unfold lowerDirty
  try dsimp only
  repeat' split
  all_goals simp

@[simp] theorem completeUnit_frame (u : CommitUnit) (s : State) :
    (completeUnit u s).pending = s.pending ∧
      (completeUnit u s).supply = s.supply ∧
      (completeUnit u s).site = s.site ∧
      (completeUnit u s).calendar = s.calendar ∧
      (completeUnit u s).cell = s.cell ∧
      (completeUnit u s).directory = s.directory ∧
      (completeUnit u s).waiters = s.waiters ∧
      (completeUnit u s).journal = s.journal ∧
      (completeUnit u s).reserved = s.reserved ∧
      (completeUnit u s).slots = s.slots ∧
      (completeUnit u s).nextQuoteId = s.nextQuoteId ∧
      (completeUnit u s).arbiter = s.arbiter ∧
      (completeUnit u s).assembly = s.assembly ∧
      (completeUnit u s).officeRequest = s.officeRequest ∧
      (completeUnit u s).tillPorts = s.tillPorts ∧
      (completeUnit u s).freeCount = s.freeCount := by
  unfold completeUnit
  try dsimp only
  all_goals simp

@[simp] theorem failUnit_frame (u : CommitUnit) (altered : Bool) (s : State) :
    (failUnit u altered s).pending = s.pending ∧
      (failUnit u altered s).supply = s.supply ∧
      (failUnit u altered s).site = s.site ∧
      (failUnit u altered s).calendar = s.calendar ∧
      (failUnit u altered s).cell = s.cell ∧
      (failUnit u altered s).directory = s.directory ∧
      (failUnit u altered s).working = s.working ∧
      (failUnit u altered s).buffer = s.buffer ∧
      (failUnit u altered s).waiters = s.waiters ∧
      (failUnit u altered s).journal = s.journal ∧
      (failUnit u altered s).reserved = s.reserved ∧
      (failUnit u altered s).slots = s.slots ∧
      (failUnit u altered s).nextQuoteId = s.nextQuoteId ∧
      (failUnit u altered s).arbiter = s.arbiter ∧
      (failUnit u altered s).assembly = s.assembly ∧
      (failUnit u altered s).conditions = s.conditions ∧
      (failUnit u altered s).officeRequest = s.officeRequest ∧
      (failUnit u altered s).officePort = s.officePort ∧
      (failUnit u altered s).tillPorts = s.tillPorts ∧
      (failUnit u altered s).freeCount = s.freeCount := by
  unfold failUnit
  try dsimp only
  all_goals simp

@[simp] theorem setService_frame (v : Service) (s : State) :
    (setService v s).pending = s.pending ∧
      (setService v s).supply = s.supply ∧
      (setService v s).site = s.site ∧
      (setService v s).calendar = s.calendar ∧
      (setService v s).cell = s.cell ∧
      (setService v s).directory = s.directory ∧
      (setService v s).working = s.working ∧
      (setService v s).buffer = s.buffer ∧
      (setService v s).waiters = s.waiters ∧
      (setService v s).journal = s.journal ∧
      (setService v s).reserved = s.reserved ∧
      (setService v s).slots = s.slots ∧
      (setService v s).nextQuoteId = s.nextQuoteId ∧
      (setService v s).arbiter = s.arbiter ∧
      (setService v s).assembly = s.assembly ∧
      (setService v s).conditions = s.conditions ∧
      (setService v s).officeRequest = s.officeRequest ∧
      (setService v s).officePort = s.officePort ∧
      (setService v s).tillPorts = s.tillPorts ∧
      (setService v s).freeCount = s.freeCount := by
  unfold setService
  try dsimp only
  all_goals simp

@[simp] theorem grantHold_frame (s : State) :
    (grantHold s).pending = s.pending ∧
      (grantHold s).supply = s.supply ∧
      (grantHold s).site = s.site ∧
      (grantHold s).calendar = s.calendar ∧
      (grantHold s).cell = s.cell ∧
      (grantHold s).store = s.store ∧
      (grantHold s).directory = s.directory ∧
      (grantHold s).working = s.working ∧
      (grantHold s).buffer = s.buffer ∧
      (grantHold s).waiters = s.waiters ∧
      (grantHold s).journal = s.journal ∧
      (grantHold s).reserved = s.reserved ∧
      (grantHold s).slots = s.slots ∧
      (grantHold s).nextQuoteId = s.nextQuoteId ∧
      (grantHold s).assembly = s.assembly ∧
      (grantHold s).conditions = s.conditions ∧
      (grantHold s).officeRequest = s.officeRequest ∧
      (grantHold s).tillPorts = s.tillPorts ∧
      (grantHold s).freeCount = s.freeCount := by
  unfold grantHold
  try dsimp only
  repeat' split
  all_goals simp

@[simp] theorem chooseOperation_frame (s : State) :
    (chooseOperation s).pending = s.pending ∧
      (chooseOperation s).supply = s.supply ∧
      (chooseOperation s).site = s.site ∧
      (chooseOperation s).calendar = s.calendar ∧
      (chooseOperation s).cell = s.cell ∧
      (chooseOperation s).directory = s.directory ∧
      (chooseOperation s).working = s.working ∧
      (chooseOperation s).buffer = s.buffer ∧
      (chooseOperation s).waiters = s.waiters ∧
      (chooseOperation s).journal = s.journal ∧
      (chooseOperation s).reserved = s.reserved ∧
      (chooseOperation s).slots = s.slots ∧
      (chooseOperation s).nextQuoteId = s.nextQuoteId ∧
      (chooseOperation s).arbiter = s.arbiter ∧
      (chooseOperation s).assembly = s.assembly ∧
      (chooseOperation s).conditions = s.conditions ∧
      (chooseOperation s).officeRequest = s.officeRequest ∧
      (chooseOperation s).officePort = s.officePort ∧
      (chooseOperation s).tillPorts = s.tillPorts ∧
      (chooseOperation s).freeCount = s.freeCount := by
  unfold chooseOperation
  try dsimp only
  repeat' split
  all_goals simp

@[simp] theorem pumpPort_frame (p : PortId) (s : State) :
    (pumpPort p s).pending = s.pending ∧
      (pumpPort p s).supply = s.supply ∧
      (pumpPort p s).site = s.site ∧
      (pumpPort p s).calendar = s.calendar ∧
      (pumpPort p s).cell = s.cell ∧
      (pumpPort p s).store = s.store ∧
      (pumpPort p s).directory = s.directory ∧
      (pumpPort p s).working = s.working ∧
      (pumpPort p s).buffer = s.buffer ∧
      (pumpPort p s).waiters = s.waiters ∧
      (pumpPort p s).journal = s.journal ∧
      (pumpPort p s).reserved = s.reserved ∧
      (pumpPort p s).slots = s.slots ∧
      (pumpPort p s).nextQuoteId = s.nextQuoteId ∧
      (pumpPort p s).arbiter = s.arbiter ∧
      (pumpPort p s).assembly = s.assembly ∧
      (pumpPort p s).conditions = s.conditions ∧
      (pumpPort p s).officeRequest = s.officeRequest ∧
      (pumpPort p s).freeCount = s.freeCount := by
  unfold pumpPort
  try dsimp only
  repeat' split
  all_goals simp

@[simp] theorem pumpAll_frame (s : State) :
    (pumpAll s).pending = s.pending ∧
      (pumpAll s).supply = s.supply ∧
      (pumpAll s).site = s.site ∧
      (pumpAll s).calendar = s.calendar ∧
      (pumpAll s).cell = s.cell ∧
      (pumpAll s).store = s.store ∧
      (pumpAll s).directory = s.directory ∧
      (pumpAll s).working = s.working ∧
      (pumpAll s).buffer = s.buffer ∧
      (pumpAll s).waiters = s.waiters ∧
      (pumpAll s).journal = s.journal ∧
      (pumpAll s).reserved = s.reserved ∧
      (pumpAll s).slots = s.slots ∧
      (pumpAll s).nextQuoteId = s.nextQuoteId ∧
      (pumpAll s).arbiter = s.arbiter ∧
      (pumpAll s).assembly = s.assembly ∧
      (pumpAll s).conditions = s.conditions ∧
      (pumpAll s).officeRequest = s.officeRequest ∧
      (pumpAll s).freeCount = s.freeCount := by
  unfold pumpAll
  try dsimp only
  all_goals simp

@[simp] theorem settle_frame (s : State) :
    (settle s).pending = s.pending ∧
      (settle s).supply = s.supply ∧
      (settle s).site = s.site ∧
      (settle s).calendar = s.calendar ∧
      (settle s).cell = s.cell ∧
      (settle s).directory = s.directory ∧
      (settle s).working = s.working ∧
      (settle s).buffer = s.buffer ∧
      (settle s).waiters = s.waiters ∧
      (settle s).journal = s.journal ∧
      (settle s).reserved = s.reserved ∧
      (settle s).slots = s.slots ∧
      (settle s).nextQuoteId = s.nextQuoteId ∧
      (settle s).assembly = s.assembly ∧
      (settle s).conditions = s.conditions ∧
      (settle s).officeRequest = s.officeRequest ∧
      (settle s).freeCount = s.freeCount := by
  unfold settle
  try dsimp only
  all_goals simp

end Sys2Proof.Machine
end

