-- ==== Sys2Proof/Laws/FramesPosting.lean ====
section
/-! SUPPORT. What posting, the post wait list, the rollover and link settings leave unchanged: one lemma for each operation. -/

namespace Sys2Proof.Machine

@[simp] theorem runSystemJob_frame (w : Waiter) (s : State) :
    (runSystemJob w s).pending = s.pending ∧
      (runSystemJob w s).supply = s.supply ∧
      (runSystemJob w s).calendar = s.calendar ∧
      (runSystemJob w s).cell = s.cell ∧
      (runSystemJob w s).store = s.store ∧
      (runSystemJob w s).directory = s.directory ∧
      (runSystemJob w s).working = s.working ∧
      (runSystemJob w s).waiters = s.waiters ∧
      (runSystemJob w s).reserved = s.reserved ∧
      (runSystemJob w s).slots = s.slots ∧
      (runSystemJob w s).nextQuoteId = s.nextQuoteId ∧
      (runSystemJob w s).arbiter = s.arbiter ∧
      (runSystemJob w s).assembly = s.assembly ∧
      (runSystemJob w s).officeRequest = s.officeRequest ∧
      (runSystemJob w s).tillPorts = s.tillPorts ∧
      (runSystemJob w s).freeCount = s.freeCount := by
  unfold runSystemJob
  try dsimp only
  repeat' split
  all_goals simp

@[simp] theorem postSystem_frame (w : Waiter) (s : State) :
    (postSystem w s).pending = s.pending ∧
      (postSystem w s).supply = s.supply ∧
      (postSystem w s).calendar = s.calendar ∧
      (postSystem w s).cell = s.cell ∧
      (postSystem w s).store = s.store ∧
      (postSystem w s).directory = s.directory ∧
      (postSystem w s).working = s.working ∧
      (postSystem w s).reserved = s.reserved ∧
      (postSystem w s).slots = s.slots ∧
      (postSystem w s).nextQuoteId = s.nextQuoteId ∧
      (postSystem w s).arbiter = s.arbiter ∧
      (postSystem w s).assembly = s.assembly ∧
      (postSystem w s).officeRequest = s.officeRequest ∧
      (postSystem w s).tillPorts = s.tillPorts ∧
      (postSystem w s).freeCount = s.freeCount := by
  unfold postSystem
  try dsimp only
  repeat' split
  all_goals simp

@[simp] theorem raiseUnlogged_frame (n : Nat) (s : State) :
    (raiseUnlogged n s).pending = s.pending ∧
      (raiseUnlogged n s).supply = s.supply ∧
      (raiseUnlogged n s).calendar = s.calendar ∧
      (raiseUnlogged n s).cell = s.cell ∧
      (raiseUnlogged n s).store = s.store ∧
      (raiseUnlogged n s).directory = s.directory ∧
      (raiseUnlogged n s).working = s.working ∧
      (raiseUnlogged n s).buffer = s.buffer ∧
      (raiseUnlogged n s).waiters = s.waiters ∧
      (raiseUnlogged n s).journal = s.journal ∧
      (raiseUnlogged n s).reserved = s.reserved ∧
      (raiseUnlogged n s).slots = s.slots ∧
      (raiseUnlogged n s).nextQuoteId = s.nextQuoteId ∧
      (raiseUnlogged n s).arbiter = s.arbiter ∧
      (raiseUnlogged n s).assembly = s.assembly ∧
      (raiseUnlogged n s).conditions = s.conditions ∧
      (raiseUnlogged n s).officeRequest = s.officeRequest ∧
      (raiseUnlogged n s).officePort = s.officePort ∧
      (raiseUnlogged n s).tillPorts = s.tillPorts ∧
      (raiseUnlogged n s).freeCount = s.freeCount := by
  unfold raiseUnlogged
  try dsimp only
  all_goals simp

@[simp] theorem postSystemEntry_frame (job : Job) (unitWithoutEntry : Bool) (s : State) :
    (postSystemEntry job unitWithoutEntry s).pending = s.pending ∧
      (postSystemEntry job unitWithoutEntry s).supply = s.supply ∧
      (postSystemEntry job unitWithoutEntry s).calendar = s.calendar ∧
      (postSystemEntry job unitWithoutEntry s).cell = s.cell ∧
      (postSystemEntry job unitWithoutEntry s).store = s.store ∧
      (postSystemEntry job unitWithoutEntry s).directory = s.directory ∧
      (postSystemEntry job unitWithoutEntry s).working = s.working ∧
      (postSystemEntry job unitWithoutEntry s).reserved = s.reserved ∧
      (postSystemEntry job unitWithoutEntry s).slots = s.slots ∧
      (postSystemEntry job unitWithoutEntry s).nextQuoteId = s.nextQuoteId ∧
      (postSystemEntry job unitWithoutEntry s).arbiter = s.arbiter ∧
      (postSystemEntry job unitWithoutEntry s).assembly = s.assembly ∧
      (postSystemEntry job unitWithoutEntry s).officeRequest = s.officeRequest ∧
      (postSystemEntry job unitWithoutEntry s).tillPorts = s.tillPorts ∧
      (postSystemEntry job unitWithoutEntry s).freeCount = s.freeCount := by
  unfold postSystemEntry
  try dsimp only
  repeat' split
  all_goals simp

@[simp] theorem slotRollover_frame (t : Till) (s : State) :
    (slotRollover t s).pending = s.pending ∧
      (slotRollover t s).supply = s.supply ∧
      (slotRollover t s).site = s.site ∧
      (slotRollover t s).calendar = s.calendar ∧
      (slotRollover t s).cell = s.cell ∧
      (slotRollover t s).store = s.store ∧
      (slotRollover t s).directory = s.directory ∧
      (slotRollover t s).buffer = s.buffer ∧
      (slotRollover t s).waiters = s.waiters ∧
      (slotRollover t s).nextQuoteId = s.nextQuoteId ∧
      (slotRollover t s).arbiter = s.arbiter ∧
      (slotRollover t s).assembly = s.assembly ∧
      (slotRollover t s).officeRequest = s.officeRequest ∧
      (slotRollover t s).tillPorts = s.tillPorts ∧
      (slotRollover t s).freeCount = s.freeCount := by
  unfold slotRollover
  try dsimp only
  repeat' split
  all_goals simp

@[simp] theorem tariffRollover_frame (s : State) :
    (tariffRollover s).pending = s.pending ∧
      (tariffRollover s).supply = s.supply ∧
      (tariffRollover s).calendar = s.calendar ∧
      (tariffRollover s).cell = s.cell ∧
      (tariffRollover s).store = s.store ∧
      (tariffRollover s).directory = s.directory ∧
      (tariffRollover s).working = s.working ∧
      (tariffRollover s).reserved = s.reserved ∧
      (tariffRollover s).slots = s.slots ∧
      (tariffRollover s).nextQuoteId = s.nextQuoteId ∧
      (tariffRollover s).arbiter = s.arbiter ∧
      (tariffRollover s).assembly = s.assembly ∧
      (tariffRollover s).officeRequest = s.officeRequest ∧
      (tariffRollover s).tillPorts = s.tillPorts ∧
      (tariffRollover s).freeCount = s.freeCount := by
  unfold tariffRollover
  try dsimp only
  repeat' split
  all_goals simp

/-- The start of a day changes the site state alone (R147, R154). -/
@[simp] theorem beginDay_frame (day : Nat) (s : State) :
    (beginDay day s).pending = s.pending ∧
      (beginDay day s).supply = s.supply ∧
      (beginDay day s).calendar = s.calendar ∧
      (beginDay day s).cell = s.cell ∧
      (beginDay day s).store = s.store ∧
      (beginDay day s).directory = s.directory ∧
      (beginDay day s).working = s.working ∧
      (beginDay day s).buffer = s.buffer ∧
      (beginDay day s).waiters = s.waiters ∧
      (beginDay day s).journal = s.journal ∧
      (beginDay day s).reserved = s.reserved ∧
      (beginDay day s).slots = s.slots ∧
      (beginDay day s).nextQuoteId = s.nextQuoteId ∧
      (beginDay day s).arbiter = s.arbiter ∧
      (beginDay day s).assembly = s.assembly ∧
      (beginDay day s).conditions = s.conditions ∧
      (beginDay day s).officeRequest = s.officeRequest ∧
      (beginDay day s).officePort = s.officePort ∧
      (beginDay day s).tillPorts = s.tillPorts ∧
      (beginDay day s).freeCount = s.freeCount := by simp [beginDay]

@[simp] theorem beginDay_site (day : Nat) (s : State) : (beginDay day s).site = { s.site with
    businessDay := day, dayTotals := if s.commissioned then Counts.zero else s.site.dayTotals } := rfl

@[simp] theorem closeDay_frame (d : DaySummary) (s : State) :
    (closeDay d s).pending = s.pending ∧
      (closeDay d s).supply = s.supply ∧
      (closeDay d s).calendar = s.calendar ∧
      (closeDay d s).cell = s.cell ∧
      (closeDay d s).store = s.store ∧
      (closeDay d s).directory = s.directory ∧
      (closeDay d s).working = s.working ∧
      (closeDay d s).reserved = s.reserved ∧
      (closeDay d s).slots = s.slots ∧
      (closeDay d s).nextQuoteId = s.nextQuoteId ∧
      (closeDay d s).arbiter = s.arbiter ∧
      (closeDay d s).assembly = s.assembly ∧
      (closeDay d s).officeRequest = s.officeRequest ∧
      (closeDay d s).tillPorts = s.tillPorts ∧
      (closeDay d s).freeCount = s.freeCount := by
  unfold closeDay
  try dsimp only
  repeat' split
  all_goals simp

@[simp] theorem rollover_frame (s : State) :
    (rollover s).pending = s.pending ∧
      (rollover s).supply = s.supply ∧
      (rollover s).calendar = s.calendar ∧
      (rollover s).cell = s.cell ∧
      (rollover s).store = s.store ∧
      (rollover s).directory = s.directory ∧
      (rollover s).nextQuoteId = s.nextQuoteId ∧
      (rollover s).arbiter = s.arbiter ∧
      (rollover s).assembly = s.assembly ∧
      (rollover s).officeRequest = s.officeRequest ∧
      (rollover s).tillPorts = s.tillPorts ∧
      (rollover s).freeCount = s.freeCount := by
  unfold rollover
  try dsimp only
  repeat' split
  all_goals simp

@[simp] theorem dropReplyTags_frame (t : Till) (s : State) :
    (dropReplyTags t s).pending = s.pending ∧
      (dropReplyTags t s).supply = s.supply ∧
      (dropReplyTags t s).site = s.site ∧
      (dropReplyTags t s).calendar = s.calendar ∧
      (dropReplyTags t s).cell = s.cell ∧
      (dropReplyTags t s).store = s.store ∧
      (dropReplyTags t s).directory = s.directory ∧
      (dropReplyTags t s).working = s.working ∧
      (dropReplyTags t s).buffer = s.buffer ∧
      (dropReplyTags t s).waiters = s.waiters ∧
      (dropReplyTags t s).journal = s.journal ∧
      (dropReplyTags t s).reserved = s.reserved ∧
      (dropReplyTags t s).nextQuoteId = s.nextQuoteId ∧
      (dropReplyTags t s).arbiter = s.arbiter ∧
      (dropReplyTags t s).assembly = s.assembly ∧
      (dropReplyTags t s).conditions = s.conditions ∧
      (dropReplyTags t s).officeRequest = s.officeRequest ∧
      (dropReplyTags t s).officePort = s.officePort ∧
      (dropReplyTags t s).tillPorts = s.tillPorts ∧
      (dropReplyTags t s).freeCount = s.freeCount := by
  unfold dropReplyTags
  try dsimp only
  all_goals simp

@[simp] theorem slotLinkOff_frame (t : Till) (s : State) :
    (slotLinkOff t s).pending = s.pending ∧
      (slotLinkOff t s).supply = s.supply ∧
      (slotLinkOff t s).site = s.site ∧
      (slotLinkOff t s).calendar = s.calendar ∧
      (slotLinkOff t s).cell = s.cell ∧
      (slotLinkOff t s).store = s.store ∧
      (slotLinkOff t s).directory = s.directory ∧
      (slotLinkOff t s).buffer = s.buffer ∧
      (slotLinkOff t s).waiters = s.waiters ∧
      (slotLinkOff t s).nextQuoteId = s.nextQuoteId ∧
      (slotLinkOff t s).arbiter = s.arbiter ∧
      (slotLinkOff t s).assembly = s.assembly ∧
      (slotLinkOff t s).officeRequest = s.officeRequest ∧
      (slotLinkOff t s).tillPorts = s.tillPorts ∧
      (slotLinkOff t s).freeCount = s.freeCount := by
  unfold slotLinkOff
  try dsimp only
  repeat' split
  all_goals simp

@[simp] theorem takeSettings_frame (t : Till) (s : State) :
    (takeSettings t s).pending = s.pending ∧
      (takeSettings t s).supply = s.supply ∧
      (takeSettings t s).site = s.site ∧
      (takeSettings t s).calendar = s.calendar ∧
      (takeSettings t s).cell = s.cell ∧
      (takeSettings t s).store = s.store ∧
      (takeSettings t s).directory = s.directory ∧
      (takeSettings t s).buffer = s.buffer ∧
      (takeSettings t s).waiters = s.waiters ∧
      (takeSettings t s).nextQuoteId = s.nextQuoteId ∧
      (takeSettings t s).arbiter = s.arbiter ∧
      (takeSettings t s).assembly = s.assembly ∧
      (takeSettings t s).officeRequest = s.officeRequest ∧
      (takeSettings t s).freeCount = s.freeCount := by
  unfold takeSettings
  try dsimp only
  repeat' split
  all_goals simp

@[simp] theorem offerSettings_frame (t : Till) (s : State) :
    (offerSettings t s).pending = s.pending ∧
      (offerSettings t s).supply = s.supply ∧
      (offerSettings t s).site = s.site ∧
      (offerSettings t s).calendar = s.calendar ∧
      (offerSettings t s).cell = s.cell ∧
      (offerSettings t s).store = s.store ∧
      (offerSettings t s).directory = s.directory ∧
      (offerSettings t s).buffer = s.buffer ∧
      (offerSettings t s).waiters = s.waiters ∧
      (offerSettings t s).nextQuoteId = s.nextQuoteId ∧
      (offerSettings t s).arbiter = s.arbiter ∧
      (offerSettings t s).assembly = s.assembly ∧
      (offerSettings t s).officeRequest = s.officeRequest := by
  unfold offerSettings
  try dsimp only
  repeat' split
  all_goals simp

@[simp] theorem takeSale_frame (t : Till) (tender : Nat) (p : Priced) (s : State) :
    (takeSale t tender p s).pending = s.pending ∧
      (takeSale t tender p s).supply = s.supply ∧
      (takeSale t tender p s).calendar = s.calendar ∧
      (takeSale t tender p s).cell = s.cell ∧
      (takeSale t tender p s).store = s.store ∧
      (takeSale t tender p s).directory = s.directory ∧
      (takeSale t tender p s).working = s.working ∧
      (takeSale t tender p s).buffer = s.buffer ∧
      (takeSale t tender p s).waiters = s.waiters ∧
      (takeSale t tender p s).journal = s.journal ∧
      (takeSale t tender p s).slots = s.slots ∧
      (takeSale t tender p s).nextQuoteId = s.nextQuoteId ∧
      (takeSale t tender p s).arbiter = s.arbiter ∧
      (takeSale t tender p s).assembly = s.assembly ∧
      (takeSale t tender p s).conditions = s.conditions ∧
      (takeSale t tender p s).officeRequest = s.officeRequest ∧
      (takeSale t tender p s).officePort = s.officePort ∧
      (takeSale t tender p s).tillPorts = s.tillPorts ∧
      (takeSale t tender p s).freeCount = s.freeCount := by
  unfold takeSale
  try dsimp only
  all_goals simp

@[simp] theorem postSale_frame (t : Till) (s : State) :
    (postSale t s).pending = s.pending ∧
      (postSale t s).supply = s.supply ∧
      (postSale t s).calendar = s.calendar ∧
      (postSale t s).cell = s.cell ∧
      (postSale t s).store = s.store ∧
      (postSale t s).directory = s.directory ∧
      (postSale t s).waiters = s.waiters ∧
      (postSale t s).nextQuoteId = s.nextQuoteId ∧
      (postSale t s).arbiter = s.arbiter ∧
      (postSale t s).assembly = s.assembly ∧
      (postSale t s).officeRequest = s.officeRequest ∧
      (postSale t s).freeCount = s.freeCount := by
  unfold postSale
  try dsimp only
  repeat' split
  all_goals simp

@[simp] theorem postReprint_frame (t : Till) (meter index : Nat) (k : RecentToken) (rep : Bool) (s : State) :
    (postReprint t meter index k rep s).pending = s.pending ∧
      (postReprint t meter index k rep s).supply = s.supply ∧
      (postReprint t meter index k rep s).calendar = s.calendar ∧
      (postReprint t meter index k rep s).cell = s.cell ∧
      (postReprint t meter index k rep s).store = s.store ∧
      (postReprint t meter index k rep s).directory = s.directory ∧
      (postReprint t meter index k rep s).waiters = s.waiters ∧
      (postReprint t meter index k rep s).reserved = s.reserved ∧
      (postReprint t meter index k rep s).nextQuoteId = s.nextQuoteId ∧
      (postReprint t meter index k rep s).arbiter = s.arbiter ∧
      (postReprint t meter index k rep s).assembly = s.assembly ∧
      (postReprint t meter index k rep s).officeRequest = s.officeRequest ∧
      (postReprint t meter index k rep s).freeCount = s.freeCount := by
  unfold postReprint
  try dsimp only
  repeat' split
  all_goals simp

@[simp] theorem postImage_frame (slot : Nat) (r : Record) (body : EntryBody) (s : State) :
    (postImage slot r body s).pending = s.pending ∧
      (postImage slot r body s).supply = s.supply ∧
      (postImage slot r body s).calendar = s.calendar ∧
      (postImage slot r body s).cell = s.cell ∧
      (postImage slot r body s).store = s.store ∧
      (postImage slot r body s).directory = s.directory ∧
      (postImage slot r body s).waiters = s.waiters ∧
      (postImage slot r body s).reserved = s.reserved ∧
      (postImage slot r body s).nextQuoteId = s.nextQuoteId ∧
      (postImage slot r body s).arbiter = s.arbiter ∧
      (postImage slot r body s).assembly = s.assembly ∧
      (postImage slot r body s).officeRequest = s.officeRequest ∧
      (postImage slot r body s).tillPorts = s.tillPorts ∧
      (postImage slot r body s).freeCount = s.freeCount := by
  unfold postImage
  try dsimp only
  all_goals simp

@[simp] theorem postEnrol_frame (slot : Nat) (r0 : Record) (s : State) :
    (postEnrol slot r0 s).pending = s.pending ∧
      (postEnrol slot r0 s).supply = s.supply ∧
      (postEnrol slot r0 s).calendar = s.calendar ∧
      (postEnrol slot r0 s).cell = s.cell ∧
      (postEnrol slot r0 s).store = s.store ∧
      (postEnrol slot r0 s).waiters = s.waiters ∧
      (postEnrol slot r0 s).reserved = s.reserved ∧
      (postEnrol slot r0 s).nextQuoteId = s.nextQuoteId ∧
      (postEnrol slot r0 s).arbiter = s.arbiter ∧
      (postEnrol slot r0 s).assembly = s.assembly ∧
      (postEnrol slot r0 s).officeRequest = s.officeRequest ∧
      (postEnrol slot r0 s).tillPorts = s.tillPorts ∧
      (postEnrol slot r0 s).freeCount = s.freeCount := by
  unfold postEnrol
  try dsimp only
  all_goals simp

@[simp] theorem postEdit_frame (slot : Nat) (r0 : Record) (items : List (Option RecordValue × RecordValue)) (s : State) :
    (postEdit slot r0 items s).pending = s.pending ∧
      (postEdit slot r0 items s).supply = s.supply ∧
      (postEdit slot r0 items s).calendar = s.calendar ∧
      (postEdit slot r0 items s).cell = s.cell ∧
      (postEdit slot r0 items s).store = s.store ∧
      (postEdit slot r0 items s).directory = s.directory ∧
      (postEdit slot r0 items s).waiters = s.waiters ∧
      (postEdit slot r0 items s).reserved = s.reserved ∧
      (postEdit slot r0 items s).nextQuoteId = s.nextQuoteId ∧
      (postEdit slot r0 items s).arbiter = s.arbiter ∧
      (postEdit slot r0 items s).assembly = s.assembly ∧
      (postEdit slot r0 items s).officeRequest = s.officeRequest ∧
      (postEdit slot r0 items s).tillPorts = s.tillPorts ∧
      (postEdit slot r0 items s).freeCount = s.freeCount := by
  unfold postEdit
  try dsimp only
  all_goals simp

@[simp] theorem postAccountState_frame (slot : Nat) (r0 : Record) (old : AccountState) (s : State) :
    (postAccountState slot r0 old s).pending = s.pending ∧
      (postAccountState slot r0 old s).supply = s.supply ∧
      (postAccountState slot r0 old s).calendar = s.calendar ∧
      (postAccountState slot r0 old s).cell = s.cell ∧
      (postAccountState slot r0 old s).store = s.store ∧
      (postAccountState slot r0 old s).directory = s.directory ∧
      (postAccountState slot r0 old s).waiters = s.waiters ∧
      (postAccountState slot r0 old s).reserved = s.reserved ∧
      (postAccountState slot r0 old s).nextQuoteId = s.nextQuoteId ∧
      (postAccountState slot r0 old s).arbiter = s.arbiter ∧
      (postAccountState slot r0 old s).assembly = s.assembly ∧
      (postAccountState slot r0 old s).officeRequest = s.officeRequest ∧
      (postAccountState slot r0 old s).tillPorts = s.tillPorts ∧
      (postAccountState slot r0 old s).freeCount = s.freeCount := by
  unfold postAccountState
  try dsimp only
  all_goals simp

@[simp] theorem postPurge_frame (slot meter : Nat) (s : State) :
    (postPurge slot meter s).pending = s.pending ∧
      (postPurge slot meter s).supply = s.supply ∧
      (postPurge slot meter s).calendar = s.calendar ∧
      (postPurge slot meter s).cell = s.cell ∧
      (postPurge slot meter s).store = s.store ∧
      (postPurge slot meter s).waiters = s.waiters ∧
      (postPurge slot meter s).reserved = s.reserved ∧
      (postPurge slot meter s).slots = s.slots ∧
      (postPurge slot meter s).nextQuoteId = s.nextQuoteId ∧
      (postPurge slot meter s).arbiter = s.arbiter ∧
      (postPurge slot meter s).assembly = s.assembly ∧
      (postPurge slot meter s).officeRequest = s.officeRequest ∧
      (postPurge slot meter s).tillPorts = s.tillPorts ∧
      (postPurge slot meter s).freeCount = s.freeCount := by
  unfold postPurge
  try dsimp only
  all_goals simp

@[simp] theorem postRestore_frame (slot : Nat) (r0 : Record) (s : State) :
    (postRestore slot r0 s).pending = s.pending ∧
      (postRestore slot r0 s).supply = s.supply ∧
      (postRestore slot r0 s).calendar = s.calendar ∧
      (postRestore slot r0 s).cell = s.cell ∧
      (postRestore slot r0 s).store = s.store ∧
      (postRestore slot r0 s).waiters = s.waiters ∧
      (postRestore slot r0 s).reserved = s.reserved ∧
      (postRestore slot r0 s).nextQuoteId = s.nextQuoteId ∧
      (postRestore slot r0 s).arbiter = s.arbiter ∧
      (postRestore slot r0 s).assembly = s.assembly ∧
      (postRestore slot r0 s).officeRequest = s.officeRequest ∧
      (postRestore slot r0 s).tillPorts = s.tillPorts ∧
      (postRestore slot r0 s).freeCount = s.freeCount := by
  unfold postRestore
  try dsimp only
  all_goals simp

@[simp] theorem postSetting_frame (hasEntry : Bool) (body : EntryBody) (s : State) :
    (postSetting hasEntry body s).pending = s.pending ∧
      (postSetting hasEntry body s).supply = s.supply ∧
      (postSetting hasEntry body s).calendar = s.calendar ∧
      (postSetting hasEntry body s).cell = s.cell ∧
      (postSetting hasEntry body s).store = s.store ∧
      (postSetting hasEntry body s).directory = s.directory ∧
      (postSetting hasEntry body s).working = s.working ∧
      (postSetting hasEntry body s).waiters = s.waiters ∧
      (postSetting hasEntry body s).reserved = s.reserved ∧
      (postSetting hasEntry body s).slots = s.slots ∧
      (postSetting hasEntry body s).nextQuoteId = s.nextQuoteId ∧
      (postSetting hasEntry body s).arbiter = s.arbiter ∧
      (postSetting hasEntry body s).assembly = s.assembly ∧
      (postSetting hasEntry body s).officeRequest = s.officeRequest ∧
      (postSetting hasEntry body s).tillPorts = s.tillPorts ∧
      (postSetting hasEntry body s).freeCount = s.freeCount := by
  unfold postSetting
  try dsimp only
  all_goals simp

@[simp] theorem postTariffStage_frame (hasEntry : Bool) (entries : TariffSet) (day : Nat) (s : State) :
    (postTariffStage hasEntry entries day s).pending = s.pending ∧
      (postTariffStage hasEntry entries day s).supply = s.supply ∧
      (postTariffStage hasEntry entries day s).calendar = s.calendar ∧
      (postTariffStage hasEntry entries day s).cell = s.cell ∧
      (postTariffStage hasEntry entries day s).store = s.store ∧
      (postTariffStage hasEntry entries day s).directory = s.directory ∧
      (postTariffStage hasEntry entries day s).working = s.working ∧
      (postTariffStage hasEntry entries day s).waiters = s.waiters ∧
      (postTariffStage hasEntry entries day s).reserved = s.reserved ∧
      (postTariffStage hasEntry entries day s).slots = s.slots ∧
      (postTariffStage hasEntry entries day s).nextQuoteId = s.nextQuoteId ∧
      (postTariffStage hasEntry entries day s).arbiter = s.arbiter ∧
      (postTariffStage hasEntry entries day s).officeRequest = s.officeRequest ∧
      (postTariffStage hasEntry entries day s).tillPorts = s.tillPorts ∧
      (postTariffStage hasEntry entries day s).freeCount = s.freeCount := by
  unfold postTariffStage
  try dsimp only
  all_goals simp

@[simp] theorem postTariffUnstage_frame (s : State) :
    (postTariffUnstage s).pending = s.pending ∧
      (postTariffUnstage s).supply = s.supply ∧
      (postTariffUnstage s).calendar = s.calendar ∧
      (postTariffUnstage s).cell = s.cell ∧
      (postTariffUnstage s).store = s.store ∧
      (postTariffUnstage s).directory = s.directory ∧
      (postTariffUnstage s).working = s.working ∧
      (postTariffUnstage s).waiters = s.waiters ∧
      (postTariffUnstage s).reserved = s.reserved ∧
      (postTariffUnstage s).slots = s.slots ∧
      (postTariffUnstage s).nextQuoteId = s.nextQuoteId ∧
      (postTariffUnstage s).arbiter = s.arbiter ∧
      (postTariffUnstage s).assembly = s.assembly ∧
      (postTariffUnstage s).officeRequest = s.officeRequest ∧
      (postTariffUnstage s).tillPorts = s.tillPorts ∧
      (postTariffUnstage s).freeCount = s.freeCount := by
  unfold postTariffUnstage
  try dsimp only
  all_goals simp

@[simp] theorem postTariffLoad_frame (entries : TariffSet) (s : State) :
    (postTariffLoad entries s).pending = s.pending ∧
      (postTariffLoad entries s).supply = s.supply ∧
      (postTariffLoad entries s).calendar = s.calendar ∧
      (postTariffLoad entries s).cell = s.cell ∧
      (postTariffLoad entries s).store = s.store ∧
      (postTariffLoad entries s).directory = s.directory ∧
      (postTariffLoad entries s).working = s.working ∧
      (postTariffLoad entries s).waiters = s.waiters ∧
      (postTariffLoad entries s).reserved = s.reserved ∧
      (postTariffLoad entries s).slots = s.slots ∧
      (postTariffLoad entries s).nextQuoteId = s.nextQuoteId ∧
      (postTariffLoad entries s).arbiter = s.arbiter ∧
      (postTariffLoad entries s).officeRequest = s.officeRequest ∧
      (postTariffLoad entries s).tillPorts = s.tillPorts ∧
      (postTariffLoad entries s).freeCount = s.freeCount := by
  unfold postTariffLoad
  try dsimp only
  all_goals simp

@[simp] theorem postVoucher_frame (serial amount : Nat) (s : State) :
    (postVoucher serial amount s).pending = s.pending ∧
      (postVoucher serial amount s).supply = s.supply ∧
      (postVoucher serial amount s).calendar = s.calendar ∧
      (postVoucher serial amount s).cell = s.cell ∧
      (postVoucher serial amount s).store = s.store ∧
      (postVoucher serial amount s).directory = s.directory ∧
      (postVoucher serial amount s).working = s.working ∧
      (postVoucher serial amount s).waiters = s.waiters ∧
      (postVoucher serial amount s).reserved = s.reserved ∧
      (postVoucher serial amount s).slots = s.slots ∧
      (postVoucher serial amount s).nextQuoteId = s.nextQuoteId ∧
      (postVoucher serial amount s).arbiter = s.arbiter ∧
      (postVoucher serial amount s).assembly = s.assembly ∧
      (postVoucher serial amount s).officeRequest = s.officeRequest ∧
      (postVoucher serial amount s).tillPorts = s.tillPorts ∧
      (postVoucher serial amount s).freeCount = s.freeCount := by
  unfold postVoucher
  try dsimp only
  all_goals simp

@[simp] theorem postFloor_frame (v : Nat) (s : State) :
    (postFloor v s).pending = s.pending ∧
      (postFloor v s).supply = s.supply ∧
      (postFloor v s).calendar = s.calendar ∧
      (postFloor v s).cell = s.cell ∧
      (postFloor v s).store = s.store ∧
      (postFloor v s).directory = s.directory ∧
      (postFloor v s).working = s.working ∧
      (postFloor v s).waiters = s.waiters ∧
      (postFloor v s).reserved = s.reserved ∧
      (postFloor v s).slots = s.slots ∧
      (postFloor v s).nextQuoteId = s.nextQuoteId ∧
      (postFloor v s).arbiter = s.arbiter ∧
      (postFloor v s).assembly = s.assembly ∧
      (postFloor v s).officeRequest = s.officeRequest ∧
      (postFloor v s).tillPorts = s.tillPorts ∧
      (postFloor v s).freeCount = s.freeCount := by
  unfold postFloor
  try dsimp only
  all_goals simp

@[simp] theorem postQuoteTime_frame (v : Nat) (s : State) :
    (postQuoteTime v s).pending = s.pending ∧
      (postQuoteTime v s).supply = s.supply ∧
      (postQuoteTime v s).calendar = s.calendar ∧
      (postQuoteTime v s).cell = s.cell ∧
      (postQuoteTime v s).store = s.store ∧
      (postQuoteTime v s).directory = s.directory ∧
      (postQuoteTime v s).working = s.working ∧
      (postQuoteTime v s).waiters = s.waiters ∧
      (postQuoteTime v s).reserved = s.reserved ∧
      (postQuoteTime v s).slots = s.slots ∧
      (postQuoteTime v s).nextQuoteId = s.nextQuoteId ∧
      (postQuoteTime v s).arbiter = s.arbiter ∧
      (postQuoteTime v s).assembly = s.assembly ∧
      (postQuoteTime v s).officeRequest = s.officeRequest ∧
      (postQuoteTime v s).tillPorts = s.tillPorts ∧
      (postQuoteTime v s).freeCount = s.freeCount := by
  unfold postQuoteTime
  try dsimp only
  all_goals simp

@[simp] theorem postMask_frame (v : ConditionSet) (s : State) :
    (postMask v s).pending = s.pending ∧
      (postMask v s).supply = s.supply ∧
      (postMask v s).calendar = s.calendar ∧
      (postMask v s).cell = s.cell ∧
      (postMask v s).store = s.store ∧
      (postMask v s).directory = s.directory ∧
      (postMask v s).working = s.working ∧
      (postMask v s).waiters = s.waiters ∧
      (postMask v s).reserved = s.reserved ∧
      (postMask v s).slots = s.slots ∧
      (postMask v s).nextQuoteId = s.nextQuoteId ∧
      (postMask v s).arbiter = s.arbiter ∧
      (postMask v s).assembly = s.assembly ∧
      (postMask v s).officeRequest = s.officeRequest ∧
      (postMask v s).tillPorts = s.tillPorts ∧
      (postMask v s).freeCount = s.freeCount := by
  unfold postMask
  try dsimp only
  all_goals simp

@[simp] theorem postLinkSet_frame (hasEntry : Bool) (t : Till) (v : LinkSettings) (s : State) :
    (postLinkSet hasEntry t v s).pending = s.pending ∧
      (postLinkSet hasEntry t v s).supply = s.supply ∧
      (postLinkSet hasEntry t v s).calendar = s.calendar ∧
      (postLinkSet hasEntry t v s).cell = s.cell ∧
      (postLinkSet hasEntry t v s).store = s.store ∧
      (postLinkSet hasEntry t v s).directory = s.directory ∧
      (postLinkSet hasEntry t v s).waiters = s.waiters ∧
      (postLinkSet hasEntry t v s).nextQuoteId = s.nextQuoteId ∧
      (postLinkSet hasEntry t v s).arbiter = s.arbiter ∧
      (postLinkSet hasEntry t v s).assembly = s.assembly ∧
      (postLinkSet hasEntry t v s).officeRequest = s.officeRequest := by
  unfold postLinkSet
  try dsimp only
  all_goals simp

@[simp] theorem postClockSet_frame (hasEntry : Bool) (old : Option DateTime) (value : DateTime) (elapsed : Nat) (s : State) :
    (postClockSet hasEntry old value elapsed s).pending = s.pending ∧
      (postClockSet hasEntry old value elapsed s).supply = s.supply ∧
      (postClockSet hasEntry old value elapsed s).store = s.store ∧
      (postClockSet hasEntry old value elapsed s).directory = s.directory ∧
      (postClockSet hasEntry old value elapsed s).nextQuoteId = s.nextQuoteId ∧
      (postClockSet hasEntry old value elapsed s).arbiter = s.arbiter ∧
      (postClockSet hasEntry old value elapsed s).assembly = s.assembly ∧
      (postClockSet hasEntry old value elapsed s).officeRequest = s.officeRequest ∧
      (postClockSet hasEntry old value elapsed s).tillPorts = s.tillPorts ∧
      (postClockSet hasEntry old value elapsed s).freeCount = s.freeCount := by
  unfold postClockSet
  try dsimp only
  repeat' split
  all_goals simp

@[simp] theorem postTillClose_frame (t : Till) (captured : Counts) (s : State) :
    (postTillClose t captured s).pending = s.pending ∧
      (postTillClose t captured s).supply = s.supply ∧
      (postTillClose t captured s).calendar = s.calendar ∧
      (postTillClose t captured s).cell = s.cell ∧
      (postTillClose t captured s).store = s.store ∧
      (postTillClose t captured s).directory = s.directory ∧
      (postTillClose t captured s).working = s.working ∧
      (postTillClose t captured s).waiters = s.waiters ∧
      (postTillClose t captured s).reserved = s.reserved ∧
      (postTillClose t captured s).slots = s.slots ∧
      (postTillClose t captured s).nextQuoteId = s.nextQuoteId ∧
      (postTillClose t captured s).arbiter = s.arbiter ∧
      (postTillClose t captured s).assembly = s.assembly ∧
      (postTillClose t captured s).officeRequest = s.officeRequest ∧
      (postTillClose t captured s).tillPorts = s.tillPorts ∧
      (postTillClose t captured s).freeCount = s.freeCount := by
  unfold postTillClose
  try dsimp only
  all_goals simp

@[simp] theorem postSiteCode_frame (code : Digits) (s : State) :
    (postSiteCode code s).pending = s.pending ∧
      (postSiteCode code s).supply = s.supply ∧
      (postSiteCode code s).calendar = s.calendar ∧
      (postSiteCode code s).cell = s.cell ∧
      (postSiteCode code s).store = s.store ∧
      (postSiteCode code s).directory = s.directory ∧
      (postSiteCode code s).working = s.working ∧
      (postSiteCode code s).waiters = s.waiters ∧
      (postSiteCode code s).reserved = s.reserved ∧
      (postSiteCode code s).slots = s.slots ∧
      (postSiteCode code s).nextQuoteId = s.nextQuoteId ∧
      (postSiteCode code s).arbiter = s.arbiter ∧
      (postSiteCode code s).assembly = s.assembly ∧
      (postSiteCode code s).officeRequest = s.officeRequest ∧
      (postSiteCode code s).tillPorts = s.tillPorts ∧
      (postSiteCode code s).freeCount = s.freeCount := by
  unfold postSiteCode
  try dsimp only
  all_goals simp

@[simp] theorem runJob_frame (w : Waiter) (s : State) :
    (runJob w s).pending = s.pending ∧
      (runJob w s).supply = s.supply ∧
      (runJob w s).store = s.store ∧
      (runJob w s).nextQuoteId = s.nextQuoteId ∧
      (runJob w s).arbiter = s.arbiter ∧
      (runJob w s).officeRequest = s.officeRequest := by
  unfold runJob
  try dsimp only
  repeat' split
  all_goals simp

@[simp] theorem dropWaiterReservation_frame (w : Waiter) (s : State) :
    (dropWaiterReservation w s).pending = s.pending ∧
      (dropWaiterReservation w s).supply = s.supply ∧
      (dropWaiterReservation w s).site = s.site ∧
      (dropWaiterReservation w s).calendar = s.calendar ∧
      (dropWaiterReservation w s).cell = s.cell ∧
      (dropWaiterReservation w s).store = s.store ∧
      (dropWaiterReservation w s).directory = s.directory ∧
      (dropWaiterReservation w s).working = s.working ∧
      (dropWaiterReservation w s).buffer = s.buffer ∧
      (dropWaiterReservation w s).waiters = s.waiters ∧
      (dropWaiterReservation w s).reserved = s.reserved ∧
      (dropWaiterReservation w s).slots = s.slots ∧
      (dropWaiterReservation w s).nextQuoteId = s.nextQuoteId ∧
      (dropWaiterReservation w s).arbiter = s.arbiter ∧
      (dropWaiterReservation w s).assembly = s.assembly ∧
      (dropWaiterReservation w s).officeRequest = s.officeRequest ∧
      (dropWaiterReservation w s).tillPorts = s.tillPorts ∧
      (dropWaiterReservation w s).freeCount = s.freeCount := by
  unfold dropWaiterReservation
  try dsimp only
  repeat' split
  all_goals simp

@[simp] theorem refuseJob_frame (w : Waiter) (code : RefusalCode) (s : State) :
    (refuseJob w code s).pending = s.pending ∧
      (refuseJob w code s).supply = s.supply ∧
      (refuseJob w code s).site = s.site ∧
      (refuseJob w code s).calendar = s.calendar ∧
      (refuseJob w code s).cell = s.cell ∧
      (refuseJob w code s).store = s.store ∧
      (refuseJob w code s).directory = s.directory ∧
      (refuseJob w code s).buffer = s.buffer ∧
      (refuseJob w code s).waiters = s.waiters ∧
      (refuseJob w code s).reserved = s.reserved ∧
      (refuseJob w code s).nextQuoteId = s.nextQuoteId ∧
      (refuseJob w code s).arbiter = s.arbiter ∧
      (refuseJob w code s).officeRequest = s.officeRequest ∧
      (refuseJob w code s).freeCount = s.freeCount := by
  unfold refuseJob
  try dsimp only
  repeat' split
  all_goals simp

@[simp] theorem markWaiting_frame (j : Job) (s : State) :
    (markWaiting j s).pending = s.pending ∧
      (markWaiting j s).supply = s.supply ∧
      (markWaiting j s).site = s.site ∧
      (markWaiting j s).calendar = s.calendar ∧
      (markWaiting j s).cell = s.cell ∧
      (markWaiting j s).store = s.store ∧
      (markWaiting j s).directory = s.directory ∧
      (markWaiting j s).working = s.working ∧
      (markWaiting j s).buffer = s.buffer ∧
      (markWaiting j s).waiters = s.waiters ∧
      (markWaiting j s).journal = s.journal ∧
      (markWaiting j s).reserved = s.reserved ∧
      (markWaiting j s).nextQuoteId = s.nextQuoteId ∧
      (markWaiting j s).arbiter = s.arbiter ∧
      (markWaiting j s).assembly = s.assembly ∧
      (markWaiting j s).conditions = s.conditions ∧
      (markWaiting j s).officeRequest = s.officeRequest ∧
      (markWaiting j s).officePort = s.officePort ∧
      (markWaiting j s).tillPorts = s.tillPorts ∧
      (markWaiting j s).freeCount = s.freeCount := by
  unfold markWaiting
  try dsimp only
  repeat' split
  all_goals simp

@[simp] theorem postOrWait_frame (w : Waiter) (s : State) :
    (postOrWait w s).pending = s.pending ∧
      (postOrWait w s).supply = s.supply ∧
      (postOrWait w s).store = s.store ∧
      (postOrWait w s).nextQuoteId = s.nextQuoteId ∧
      (postOrWait w s).arbiter = s.arbiter ∧
      (postOrWait w s).officeRequest = s.officeRequest := by
  unfold postOrWait
  try dsimp only
  repeat' split
  all_goals simp

@[simp] theorem reserveAndPost_frame (j : Job) (s : State) :
    (reserveAndPost j s).pending = s.pending ∧
      (reserveAndPost j s).supply = s.supply ∧
      (reserveAndPost j s).store = s.store ∧
      (reserveAndPost j s).nextQuoteId = s.nextQuoteId ∧
      (reserveAndPost j s).arbiter = s.arbiter ∧
      (reserveAndPost j s).officeRequest = s.officeRequest := by
  unfold reserveAndPost
  try dsimp only
  all_goals simp

@[simp] theorem offerRoomTo_frame (n : Nat) (s : State) :
    (offerRoomTo n s).pending = s.pending ∧
      (offerRoomTo n s).supply = s.supply ∧
      (offerRoomTo n s).store = s.store ∧
      (offerRoomTo n s).nextQuoteId = s.nextQuoteId ∧
      (offerRoomTo n s).arbiter = s.arbiter ∧
      (offerRoomTo n s).officeRequest = s.officeRequest := by
  induction n generalizing s with
  | zero => simp [offerRoomTo]
  | succ n ih =>
    unfold offerRoomTo
    dsimp only
    repeat' split
    all_goals simp [ih]

@[simp] theorem offerRoom_frame (s : State) :
    (offerRoom s).pending = s.pending ∧
      (offerRoom s).supply = s.supply ∧
      (offerRoom s).store = s.store ∧
      (offerRoom s).nextQuoteId = s.nextQuoteId ∧
      (offerRoom s).arbiter = s.arbiter ∧
      (offerRoom s).officeRequest = s.officeRequest := by
  unfold offerRoom
  try dsimp only
  all_goals simp

@[simp] theorem withdrawWaiters_frame (test : Job → Bool) (code : RefusalCode) (s : State) :
    (withdrawWaiters test code s).pending = s.pending ∧
      (withdrawWaiters test code s).supply = s.supply ∧
      (withdrawWaiters test code s).site = s.site ∧
      (withdrawWaiters test code s).calendar = s.calendar ∧
      (withdrawWaiters test code s).cell = s.cell ∧
      (withdrawWaiters test code s).store = s.store ∧
      (withdrawWaiters test code s).directory = s.directory ∧
      (withdrawWaiters test code s).buffer = s.buffer ∧
      (withdrawWaiters test code s).reserved = s.reserved ∧
      (withdrawWaiters test code s).nextQuoteId = s.nextQuoteId ∧
      (withdrawWaiters test code s).arbiter = s.arbiter ∧
      (withdrawWaiters test code s).officeRequest = s.officeRequest ∧
      (withdrawWaiters test code s).freeCount = s.freeCount := by
  unfold withdrawWaiters
  refine ⟨(foldl_keeps State.pending _ (by simp) _ _).trans rfl,
    (foldl_keeps State.supply _ (by simp) _ _).trans rfl,
    (foldl_keeps State.site _ (by simp) _ _).trans rfl,
    (foldl_keeps State.calendar _ (by simp) _ _).trans rfl,
    (foldl_keeps State.cell _ (by simp) _ _).trans rfl,
    (foldl_keeps State.store _ (by simp) _ _).trans rfl,
    (foldl_keeps State.directory _ (by simp) _ _).trans rfl,
    (foldl_keeps State.buffer _ (by simp) _ _).trans rfl,
    (foldl_keeps State.reserved _ (by simp) _ _).trans rfl,
    (foldl_keeps State.nextQuoteId _ (by simp) _ _).trans rfl,
    (foldl_keeps State.arbiter _ (by simp) _ _).trans rfl,
    (foldl_keeps State.officeRequest _ (by simp) _ _).trans rfl,
    (foldl_keeps State.freeCount _ (by simp) _ _).trans rfl⟩

end Sys2Proof.Machine
end

