-- ==== Sys2Proof/Laws/FramesSlots.lean ====
section
/-! SUPPORT. What the ports, the slots and the engine stages leave unchanged: one lemma for each operation. -/

namespace Sys2Proof.Machine

@[simp] theorem endFrame_frame (p : PortId) (s : State) :
    (endFrame p s).pending = s.pending ∧
      (endFrame p s).supply = s.supply ∧
      (endFrame p s).site = s.site ∧
      (endFrame p s).calendar = s.calendar ∧
      (endFrame p s).cell = s.cell ∧
      (endFrame p s).store = s.store ∧
      (endFrame p s).directory = s.directory ∧
      (endFrame p s).buffer = s.buffer ∧
      (endFrame p s).waiters = s.waiters ∧
      (endFrame p s).nextQuoteId = s.nextQuoteId ∧
      (endFrame p s).arbiter = s.arbiter ∧
      (endFrame p s).assembly = s.assembly ∧
      (endFrame p s).officeRequest = s.officeRequest ∧
      (endFrame p s).freeCount = s.freeCount := by
  unfold endFrame
  try dsimp only
  repeat' split
  all_goals simp

@[simp] theorem refuseBusy_frame (p : PortId) (kind tag : Byte) (body : List Byte) (s : State) :
    (refuseBusy p kind tag body s).pending = s.pending ∧
      (refuseBusy p kind tag body s).supply = s.supply ∧
      (refuseBusy p kind tag body s).site = s.site ∧
      (refuseBusy p kind tag body s).calendar = s.calendar ∧
      (refuseBusy p kind tag body s).cell = s.cell ∧
      (refuseBusy p kind tag body s).store = s.store ∧
      (refuseBusy p kind tag body s).directory = s.directory ∧
      (refuseBusy p kind tag body s).working = s.working ∧
      (refuseBusy p kind tag body s).buffer = s.buffer ∧
      (refuseBusy p kind tag body s).waiters = s.waiters ∧
      (refuseBusy p kind tag body s).journal = s.journal ∧
      (refuseBusy p kind tag body s).reserved = s.reserved ∧
      (refuseBusy p kind tag body s).slots = s.slots ∧
      (refuseBusy p kind tag body s).nextQuoteId = s.nextQuoteId ∧
      (refuseBusy p kind tag body s).arbiter = s.arbiter ∧
      (refuseBusy p kind tag body s).assembly = s.assembly ∧
      (refuseBusy p kind tag body s).conditions = s.conditions ∧
      (refuseBusy p kind tag body s).officeRequest = s.officeRequest ∧
      (refuseBusy p kind tag body s).freeCount = s.freeCount := by
  unfold refuseBusy
  try dsimp only
  all_goals simp

@[simp] theorem setFault_frame (p : PortId) (s : State) :
    (setFault p s).pending = s.pending ∧
      (setFault p s).supply = s.supply ∧
      (setFault p s).site = s.site ∧
      (setFault p s).calendar = s.calendar ∧
      (setFault p s).cell = s.cell ∧
      (setFault p s).store = s.store ∧
      (setFault p s).directory = s.directory ∧
      (setFault p s).working = s.working ∧
      (setFault p s).buffer = s.buffer ∧
      (setFault p s).waiters = s.waiters ∧
      (setFault p s).journal = s.journal ∧
      (setFault p s).reserved = s.reserved ∧
      (setFault p s).slots = s.slots ∧
      (setFault p s).nextQuoteId = s.nextQuoteId ∧
      (setFault p s).arbiter = s.arbiter ∧
      (setFault p s).assembly = s.assembly ∧
      (setFault p s).conditions = s.conditions ∧
      (setFault p s).officeRequest = s.officeRequest ∧
      (setFault p s).freeCount = s.freeCount := by
  unfold setFault
  try dsimp only
  all_goals simp

@[simp] theorem enterFault_frame (p : PortId) (s : State) :
    (enterFault p s).pending = s.pending ∧
      (enterFault p s).supply = s.supply ∧
      (enterFault p s).site = s.site ∧
      (enterFault p s).calendar = s.calendar ∧
      (enterFault p s).cell = s.cell ∧
      (enterFault p s).store = s.store ∧
      (enterFault p s).directory = s.directory ∧
      (enterFault p s).buffer = s.buffer ∧
      (enterFault p s).waiters = s.waiters ∧
      (enterFault p s).nextQuoteId = s.nextQuoteId ∧
      (enterFault p s).arbiter = s.arbiter ∧
      (enterFault p s).assembly = s.assembly ∧
      (enterFault p s).officeRequest = s.officeRequest ∧
      (enterFault p s).freeCount = s.freeCount := by
  unfold enterFault
  try dsimp only
  repeat' split
  all_goals simp

@[simp] theorem tillRefuse_frame (t : Till) (tag : Byte) (code : RefusalCode) (kind : Byte) (id detail : Nat) (s : State) :
    (tillRefuse t tag code kind id detail s).pending = s.pending ∧
      (tillRefuse t tag code kind id detail s).supply = s.supply ∧
      (tillRefuse t tag code kind id detail s).site = s.site ∧
      (tillRefuse t tag code kind id detail s).calendar = s.calendar ∧
      (tillRefuse t tag code kind id detail s).cell = s.cell ∧
      (tillRefuse t tag code kind id detail s).store = s.store ∧
      (tillRefuse t tag code kind id detail s).directory = s.directory ∧
      (tillRefuse t tag code kind id detail s).working = s.working ∧
      (tillRefuse t tag code kind id detail s).buffer = s.buffer ∧
      (tillRefuse t tag code kind id detail s).waiters = s.waiters ∧
      (tillRefuse t tag code kind id detail s).journal = s.journal ∧
      (tillRefuse t tag code kind id detail s).reserved = s.reserved ∧
      (tillRefuse t tag code kind id detail s).slots = s.slots ∧
      (tillRefuse t tag code kind id detail s).nextQuoteId = s.nextQuoteId ∧
      (tillRefuse t tag code kind id detail s).arbiter = s.arbiter ∧
      (tillRefuse t tag code kind id detail s).assembly = s.assembly ∧
      (tillRefuse t tag code kind id detail s).conditions = s.conditions ∧
      (tillRefuse t tag code kind id detail s).officeRequest = s.officeRequest ∧
      (tillRefuse t tag code kind id detail s).officePort = s.officePort ∧
      (tillRefuse t tag code kind id detail s).freeCount = s.freeCount := by
  unfold tillRefuse
  try dsimp only
  all_goals simp

@[simp] theorem askGrant_frame (t : Till) (s : State) :
    (askGrant t s).pending = s.pending ∧
      (askGrant t s).supply = s.supply ∧
      (askGrant t s).site = s.site ∧
      (askGrant t s).calendar = s.calendar ∧
      (askGrant t s).cell = s.cell ∧
      (askGrant t s).store = s.store ∧
      (askGrant t s).directory = s.directory ∧
      (askGrant t s).working = s.working ∧
      (askGrant t s).buffer = s.buffer ∧
      (askGrant t s).waiters = s.waiters ∧
      (askGrant t s).journal = s.journal ∧
      (askGrant t s).reserved = s.reserved ∧
      (askGrant t s).slots = s.slots ∧
      (askGrant t s).nextQuoteId = s.nextQuoteId ∧
      (askGrant t s).assembly = s.assembly ∧
      (askGrant t s).conditions = s.conditions ∧
      (askGrant t s).officeRequest = s.officeRequest ∧
      (askGrant t s).officePort = s.officePort ∧
      (askGrant t s).tillPorts = s.tillPorts ∧
      (askGrant t s).freeCount = s.freeCount := by
  unfold askGrant
  try dsimp only
  all_goals simp

@[simp] theorem takeQuote_frame (t : Till) (tag : Byte) (meter tender : Nat) (s : State) :
    (takeQuote t tag meter tender s).pending = s.pending ∧
      (takeQuote t tag meter tender s).supply = s.supply ∧
      (takeQuote t tag meter tender s).site = s.site ∧
      (takeQuote t tag meter tender s).calendar = s.calendar ∧
      (takeQuote t tag meter tender s).cell = s.cell ∧
      (takeQuote t tag meter tender s).store = s.store ∧
      (takeQuote t tag meter tender s).directory = s.directory ∧
      (takeQuote t tag meter tender s).working = s.working ∧
      (takeQuote t tag meter tender s).buffer = s.buffer ∧
      (takeQuote t tag meter tender s).waiters = s.waiters ∧
      (takeQuote t tag meter tender s).journal = s.journal ∧
      (takeQuote t tag meter tender s).reserved = s.reserved ∧
      (takeQuote t tag meter tender s).assembly = s.assembly ∧
      (takeQuote t tag meter tender s).conditions = s.conditions ∧
      (takeQuote t tag meter tender s).officeRequest = s.officeRequest ∧
      (takeQuote t tag meter tender s).officePort = s.officePort ∧
      (takeQuote t tag meter tender s).tillPorts = s.tillPorts ∧
      (takeQuote t tag meter tender s).freeCount = s.freeCount := by
  unfold takeQuote
  try dsimp only
  all_goals simp

@[simp] theorem serveQuote_frame (t : Till) (tag : Byte) (body : List Byte) (s : State) :
    (serveQuote t tag body s).pending = s.pending ∧
      (serveQuote t tag body s).supply = s.supply ∧
      (serveQuote t tag body s).site = s.site ∧
      (serveQuote t tag body s).calendar = s.calendar ∧
      (serveQuote t tag body s).cell = s.cell ∧
      (serveQuote t tag body s).store = s.store ∧
      (serveQuote t tag body s).directory = s.directory ∧
      (serveQuote t tag body s).working = s.working ∧
      (serveQuote t tag body s).buffer = s.buffer ∧
      (serveQuote t tag body s).waiters = s.waiters ∧
      (serveQuote t tag body s).journal = s.journal ∧
      (serveQuote t tag body s).reserved = s.reserved ∧
      (serveQuote t tag body s).assembly = s.assembly ∧
      (serveQuote t tag body s).conditions = s.conditions ∧
      (serveQuote t tag body s).officeRequest = s.officeRequest ∧
      (serveQuote t tag body s).officePort = s.officePort ∧
      (serveQuote t tag body s).freeCount = s.freeCount := by
  unfold serveQuote
  try dsimp only
  repeat' split
  all_goals simp

@[simp] theorem beginReprint_frame (t : Till) (tag : Byte) (meter : Nat) (r : ReprintRequest) (s : State) :
    (beginReprint t tag meter r s).pending = s.pending ∧
      (beginReprint t tag meter r s).supply = s.supply ∧
      (beginReprint t tag meter r s).site = s.site ∧
      (beginReprint t tag meter r s).calendar = s.calendar ∧
      (beginReprint t tag meter r s).cell = s.cell ∧
      (beginReprint t tag meter r s).store = s.store ∧
      (beginReprint t tag meter r s).directory = s.directory ∧
      (beginReprint t tag meter r s).working = s.working ∧
      (beginReprint t tag meter r s).buffer = s.buffer ∧
      (beginReprint t tag meter r s).waiters = s.waiters ∧
      (beginReprint t tag meter r s).journal = s.journal ∧
      (beginReprint t tag meter r s).reserved = s.reserved ∧
      (beginReprint t tag meter r s).nextQuoteId = s.nextQuoteId ∧
      (beginReprint t tag meter r s).assembly = s.assembly ∧
      (beginReprint t tag meter r s).conditions = s.conditions ∧
      (beginReprint t tag meter r s).officeRequest = s.officeRequest ∧
      (beginReprint t tag meter r s).officePort = s.officePort ∧
      (beginReprint t tag meter r s).freeCount = s.freeCount := by
  unfold beginReprint
  try dsimp only
  repeat' split
  all_goals simp

@[simp] theorem serveReprint_frame (t : Till) (tag : Byte) (body : List Byte) (s : State) :
    (serveReprint t tag body s).pending = s.pending ∧
      (serveReprint t tag body s).supply = s.supply ∧
      (serveReprint t tag body s).site = s.site ∧
      (serveReprint t tag body s).calendar = s.calendar ∧
      (serveReprint t tag body s).cell = s.cell ∧
      (serveReprint t tag body s).store = s.store ∧
      (serveReprint t tag body s).directory = s.directory ∧
      (serveReprint t tag body s).working = s.working ∧
      (serveReprint t tag body s).buffer = s.buffer ∧
      (serveReprint t tag body s).waiters = s.waiters ∧
      (serveReprint t tag body s).journal = s.journal ∧
      (serveReprint t tag body s).reserved = s.reserved ∧
      (serveReprint t tag body s).nextQuoteId = s.nextQuoteId ∧
      (serveReprint t tag body s).assembly = s.assembly ∧
      (serveReprint t tag body s).conditions = s.conditions ∧
      (serveReprint t tag body s).officeRequest = s.officeRequest ∧
      (serveReprint t tag body s).officePort = s.officePort ∧
      (serveReprint t tag body s).freeCount = s.freeCount := by
  unfold serveReprint
  try dsimp only
  repeat' split
  all_goals simp

@[simp] theorem takeConfirm_frame (t : Till) (tag : Byte) (s : State) :
    (takeConfirm t tag s).pending = s.pending ∧
      (takeConfirm t tag s).supply = s.supply ∧
      (takeConfirm t tag s).site = s.site ∧
      (takeConfirm t tag s).calendar = s.calendar ∧
      (takeConfirm t tag s).cell = s.cell ∧
      (takeConfirm t tag s).store = s.store ∧
      (takeConfirm t tag s).directory = s.directory ∧
      (takeConfirm t tag s).working = s.working ∧
      (takeConfirm t tag s).buffer = s.buffer ∧
      (takeConfirm t tag s).waiters = s.waiters ∧
      (takeConfirm t tag s).journal = s.journal ∧
      (takeConfirm t tag s).reserved = s.reserved ∧
      (takeConfirm t tag s).nextQuoteId = s.nextQuoteId ∧
      (takeConfirm t tag s).assembly = s.assembly ∧
      (takeConfirm t tag s).conditions = s.conditions ∧
      (takeConfirm t tag s).officeRequest = s.officeRequest ∧
      (takeConfirm t tag s).officePort = s.officePort ∧
      (takeConfirm t tag s).tillPorts = s.tillPorts ∧
      (takeConfirm t tag s).freeCount = s.freeCount := by
  unfold takeConfirm
  try dsimp only
  all_goals simp

@[simp] theorem confirmClosed_frame (t : Till) (tag : Byte) (meter id : Nat) (s : State) :
    (confirmClosed t tag meter id s).pending = s.pending ∧
      (confirmClosed t tag meter id s).supply = s.supply ∧
      (confirmClosed t tag meter id s).site = s.site ∧
      (confirmClosed t tag meter id s).calendar = s.calendar ∧
      (confirmClosed t tag meter id s).cell = s.cell ∧
      (confirmClosed t tag meter id s).store = s.store ∧
      (confirmClosed t tag meter id s).directory = s.directory ∧
      (confirmClosed t tag meter id s).working = s.working ∧
      (confirmClosed t tag meter id s).buffer = s.buffer ∧
      (confirmClosed t tag meter id s).waiters = s.waiters ∧
      (confirmClosed t tag meter id s).journal = s.journal ∧
      (confirmClosed t tag meter id s).reserved = s.reserved ∧
      (confirmClosed t tag meter id s).nextQuoteId = s.nextQuoteId ∧
      (confirmClosed t tag meter id s).assembly = s.assembly ∧
      (confirmClosed t tag meter id s).conditions = s.conditions ∧
      (confirmClosed t tag meter id s).officeRequest = s.officeRequest ∧
      (confirmClosed t tag meter id s).officePort = s.officePort ∧
      (confirmClosed t tag meter id s).freeCount = s.freeCount := by
  unfold confirmClosed
  try dsimp only
  repeat' split
  all_goals simp

@[simp] theorem resolveConfirm_frame (t : Till) (tag : Byte) (meter id : Nat) (s : State) :
    (resolveConfirm t tag meter id s).pending = s.pending ∧
      (resolveConfirm t tag meter id s).supply = s.supply ∧
      (resolveConfirm t tag meter id s).site = s.site ∧
      (resolveConfirm t tag meter id s).calendar = s.calendar ∧
      (resolveConfirm t tag meter id s).cell = s.cell ∧
      (resolveConfirm t tag meter id s).store = s.store ∧
      (resolveConfirm t tag meter id s).directory = s.directory ∧
      (resolveConfirm t tag meter id s).working = s.working ∧
      (resolveConfirm t tag meter id s).buffer = s.buffer ∧
      (resolveConfirm t tag meter id s).waiters = s.waiters ∧
      (resolveConfirm t tag meter id s).journal = s.journal ∧
      (resolveConfirm t tag meter id s).reserved = s.reserved ∧
      (resolveConfirm t tag meter id s).nextQuoteId = s.nextQuoteId ∧
      (resolveConfirm t tag meter id s).assembly = s.assembly ∧
      (resolveConfirm t tag meter id s).conditions = s.conditions ∧
      (resolveConfirm t tag meter id s).officeRequest = s.officeRequest ∧
      (resolveConfirm t tag meter id s).officePort = s.officePort ∧
      (resolveConfirm t tag meter id s).freeCount = s.freeCount := by
  unfold resolveConfirm
  try dsimp only
  repeat' split
  all_goals simp

@[simp] theorem serveConfirm_frame (t : Till) (tag : Byte) (body : List Byte) (s : State) :
    (serveConfirm t tag body s).pending = s.pending ∧
      (serveConfirm t tag body s).supply = s.supply ∧
      (serveConfirm t tag body s).site = s.site ∧
      (serveConfirm t tag body s).calendar = s.calendar ∧
      (serveConfirm t tag body s).cell = s.cell ∧
      (serveConfirm t tag body s).store = s.store ∧
      (serveConfirm t tag body s).directory = s.directory ∧
      (serveConfirm t tag body s).working = s.working ∧
      (serveConfirm t tag body s).buffer = s.buffer ∧
      (serveConfirm t tag body s).waiters = s.waiters ∧
      (serveConfirm t tag body s).journal = s.journal ∧
      (serveConfirm t tag body s).reserved = s.reserved ∧
      (serveConfirm t tag body s).nextQuoteId = s.nextQuoteId ∧
      (serveConfirm t tag body s).assembly = s.assembly ∧
      (serveConfirm t tag body s).conditions = s.conditions ∧
      (serveConfirm t tag body s).officeRequest = s.officeRequest ∧
      (serveConfirm t tag body s).officePort = s.officePort ∧
      (serveConfirm t tag body s).freeCount = s.freeCount := by
  unfold serveConfirm
  try dsimp only
  repeat' split
  all_goals simp

@[simp] theorem setAbandon_frame (t : Till) (c : AbandonCause) (s : State) :
    (setAbandon t c s).pending = s.pending ∧
      (setAbandon t c s).supply = s.supply ∧
      (setAbandon t c s).site = s.site ∧
      (setAbandon t c s).calendar = s.calendar ∧
      (setAbandon t c s).cell = s.cell ∧
      (setAbandon t c s).store = s.store ∧
      (setAbandon t c s).directory = s.directory ∧
      (setAbandon t c s).working = s.working ∧
      (setAbandon t c s).buffer = s.buffer ∧
      (setAbandon t c s).waiters = s.waiters ∧
      (setAbandon t c s).journal = s.journal ∧
      (setAbandon t c s).reserved = s.reserved ∧
      (setAbandon t c s).nextQuoteId = s.nextQuoteId ∧
      (setAbandon t c s).arbiter = s.arbiter ∧
      (setAbandon t c s).assembly = s.assembly ∧
      (setAbandon t c s).conditions = s.conditions ∧
      (setAbandon t c s).officeRequest = s.officeRequest ∧
      (setAbandon t c s).officePort = s.officePort ∧
      (setAbandon t c s).tillPorts = s.tillPorts ∧
      (setAbandon t c s).freeCount = s.freeCount := by
  unfold setAbandon
  try dsimp only
  all_goals simp

@[simp] theorem cancelSlot_frame (t : Till) (id : Nat) (s : State) :
    (cancelSlot t id s).2.pending = s.pending ∧
      (cancelSlot t id s).2.supply = s.supply ∧
      (cancelSlot t id s).2.site = s.site ∧
      (cancelSlot t id s).2.calendar = s.calendar ∧
      (cancelSlot t id s).2.cell = s.cell ∧
      (cancelSlot t id s).2.store = s.store ∧
      (cancelSlot t id s).2.directory = s.directory ∧
      (cancelSlot t id s).2.buffer = s.buffer ∧
      (cancelSlot t id s).2.waiters = s.waiters ∧
      (cancelSlot t id s).2.nextQuoteId = s.nextQuoteId ∧
      (cancelSlot t id s).2.arbiter = s.arbiter ∧
      (cancelSlot t id s).2.assembly = s.assembly ∧
      (cancelSlot t id s).2.officeRequest = s.officeRequest ∧
      (cancelSlot t id s).2.tillPorts = s.tillPorts ∧
      (cancelSlot t id s).2.freeCount = s.freeCount := by
  unfold cancelSlot
  try dsimp only
  repeat' split
  all_goals simp

@[simp] theorem cancelOutcome_frame (t : Till) (body : List Byte) (s : State) :
    (cancelOutcome t body s).2.pending = s.pending ∧
      (cancelOutcome t body s).2.supply = s.supply ∧
      (cancelOutcome t body s).2.site = s.site ∧
      (cancelOutcome t body s).2.calendar = s.calendar ∧
      (cancelOutcome t body s).2.cell = s.cell ∧
      (cancelOutcome t body s).2.store = s.store ∧
      (cancelOutcome t body s).2.directory = s.directory ∧
      (cancelOutcome t body s).2.buffer = s.buffer ∧
      (cancelOutcome t body s).2.waiters = s.waiters ∧
      (cancelOutcome t body s).2.nextQuoteId = s.nextQuoteId ∧
      (cancelOutcome t body s).2.arbiter = s.arbiter ∧
      (cancelOutcome t body s).2.assembly = s.assembly ∧
      (cancelOutcome t body s).2.officeRequest = s.officeRequest ∧
      (cancelOutcome t body s).2.tillPorts = s.tillPorts ∧
      (cancelOutcome t body s).2.freeCount = s.freeCount := by
  unfold cancelOutcome
  try dsimp only
  repeat' split
  all_goals simp

@[simp] theorem serveCancel_frame (t : Till) (tag : Byte) (body : List Byte) (s : State) :
    (serveCancel t tag body s).pending = s.pending ∧
      (serveCancel t tag body s).supply = s.supply ∧
      (serveCancel t tag body s).site = s.site ∧
      (serveCancel t tag body s).calendar = s.calendar ∧
      (serveCancel t tag body s).cell = s.cell ∧
      (serveCancel t tag body s).store = s.store ∧
      (serveCancel t tag body s).directory = s.directory ∧
      (serveCancel t tag body s).buffer = s.buffer ∧
      (serveCancel t tag body s).waiters = s.waiters ∧
      (serveCancel t tag body s).nextQuoteId = s.nextQuoteId ∧
      (serveCancel t tag body s).arbiter = s.arbiter ∧
      (serveCancel t tag body s).assembly = s.assembly ∧
      (serveCancel t tag body s).officeRequest = s.officeRequest ∧
      (serveCancel t tag body s).freeCount = s.freeCount := by
  unfold serveCancel
  try dsimp only
  all_goals simp

@[simp] theorem cancelAtOnce_frame (t : Till) (tag : Byte) (body : List Byte) (s : State) :
    (cancelAtOnce t tag body s).pending = s.pending ∧
      (cancelAtOnce t tag body s).supply = s.supply ∧
      (cancelAtOnce t tag body s).site = s.site ∧
      (cancelAtOnce t tag body s).calendar = s.calendar ∧
      (cancelAtOnce t tag body s).cell = s.cell ∧
      (cancelAtOnce t tag body s).store = s.store ∧
      (cancelAtOnce t tag body s).directory = s.directory ∧
      (cancelAtOnce t tag body s).buffer = s.buffer ∧
      (cancelAtOnce t tag body s).waiters = s.waiters ∧
      (cancelAtOnce t tag body s).nextQuoteId = s.nextQuoteId ∧
      (cancelAtOnce t tag body s).arbiter = s.arbiter ∧
      (cancelAtOnce t tag body s).assembly = s.assembly ∧
      (cancelAtOnce t tag body s).officeRequest = s.officeRequest ∧
      (cancelAtOnce t tag body s).freeCount = s.freeCount := by
  unfold cancelAtOnce
  try dsimp only
  all_goals simp

@[simp] theorem serveTillStatus_frame (t : Till) (tag : Byte) (body : List Byte) (s : State) :
    (serveTillStatus t tag body s).pending = s.pending ∧
      (serveTillStatus t tag body s).supply = s.supply ∧
      (serveTillStatus t tag body s).site = s.site ∧
      (serveTillStatus t tag body s).calendar = s.calendar ∧
      (serveTillStatus t tag body s).cell = s.cell ∧
      (serveTillStatus t tag body s).store = s.store ∧
      (serveTillStatus t tag body s).directory = s.directory ∧
      (serveTillStatus t tag body s).working = s.working ∧
      (serveTillStatus t tag body s).buffer = s.buffer ∧
      (serveTillStatus t tag body s).waiters = s.waiters ∧
      (serveTillStatus t tag body s).journal = s.journal ∧
      (serveTillStatus t tag body s).reserved = s.reserved ∧
      (serveTillStatus t tag body s).slots = s.slots ∧
      (serveTillStatus t tag body s).nextQuoteId = s.nextQuoteId ∧
      (serveTillStatus t tag body s).arbiter = s.arbiter ∧
      (serveTillStatus t tag body s).assembly = s.assembly ∧
      (serveTillStatus t tag body s).conditions = s.conditions ∧
      (serveTillStatus t tag body s).officeRequest = s.officeRequest ∧
      (serveTillStatus t tag body s).officePort = s.officePort ∧
      (serveTillStatus t tag body s).freeCount = s.freeCount := by
  unfold serveTillStatus
  try dsimp only
  repeat' split
  all_goals simp

@[simp] theorem reserveQuote_frame (tender : Nat) (s : State) :
    (reserveQuote tender s).pending = s.pending ∧
      (reserveQuote tender s).supply = s.supply ∧
      (reserveQuote tender s).site = s.site ∧
      (reserveQuote tender s).calendar = s.calendar ∧
      (reserveQuote tender s).cell = s.cell ∧
      (reserveQuote tender s).store = s.store ∧
      (reserveQuote tender s).directory = s.directory ∧
      (reserveQuote tender s).working = s.working ∧
      (reserveQuote tender s).buffer = s.buffer ∧
      (reserveQuote tender s).waiters = s.waiters ∧
      (reserveQuote tender s).slots = s.slots ∧
      (reserveQuote tender s).nextQuoteId = s.nextQuoteId ∧
      (reserveQuote tender s).arbiter = s.arbiter ∧
      (reserveQuote tender s).assembly = s.assembly ∧
      (reserveQuote tender s).officeRequest = s.officeRequest ∧
      (reserveQuote tender s).tillPorts = s.tillPorts ∧
      (reserveQuote tender s).freeCount = s.freeCount := by
  unfold reserveQuote
  try dsimp only
  all_goals simp

@[simp] theorem openQuote_frame (t : Till) (q : QuoteRecord) (p : Priced) (s : State) :
    (openQuote t q p s).pending = s.pending ∧
      (openQuote t q p s).supply = s.supply ∧
      (openQuote t q p s).site = s.site ∧
      (openQuote t q p s).calendar = s.calendar ∧
      (openQuote t q p s).cell = s.cell ∧
      (openQuote t q p s).store = s.store ∧
      (openQuote t q p s).directory = s.directory ∧
      (openQuote t q p s).working = s.working ∧
      (openQuote t q p s).buffer = s.buffer ∧
      (openQuote t q p s).waiters = s.waiters ∧
      (openQuote t q p s).nextQuoteId = s.nextQuoteId ∧
      (openQuote t q p s).arbiter = s.arbiter ∧
      (openQuote t q p s).assembly = s.assembly ∧
      (openQuote t q p s).officeRequest = s.officeRequest ∧
      (openQuote t q p s).freeCount = s.freeCount := by
  unfold openQuote
  try dsimp only
  all_goals simp

@[simp] theorem computeQuote_frame (t : Till) (q : QuoteRecord) (r : Record) (s : State) :
    (computeQuote t q r s).pending = s.pending ∧
      (computeQuote t q r s).supply = s.supply ∧
      (computeQuote t q r s).site = s.site ∧
      (computeQuote t q r s).calendar = s.calendar ∧
      (computeQuote t q r s).cell = s.cell ∧
      (computeQuote t q r s).store = s.store ∧
      (computeQuote t q r s).directory = s.directory ∧
      (computeQuote t q r s).buffer = s.buffer ∧
      (computeQuote t q r s).waiters = s.waiters ∧
      (computeQuote t q r s).nextQuoteId = s.nextQuoteId ∧
      (computeQuote t q r s).arbiter = s.arbiter ∧
      (computeQuote t q r s).assembly = s.assembly ∧
      (computeQuote t q r s).officeRequest = s.officeRequest ∧
      (computeQuote t q r s).freeCount = s.freeCount := by
  unfold computeQuote
  try dsimp only
  repeat' split
  all_goals simp

@[simp] theorem computeFromLine_frame (t : Till) (q : QuoteRecord) (s : State) :
    (computeFromLine t q s).pending = s.pending ∧
      (computeFromLine t q s).supply = s.supply ∧
      (computeFromLine t q s).site = s.site ∧
      (computeFromLine t q s).calendar = s.calendar ∧
      (computeFromLine t q s).cell = s.cell ∧
      (computeFromLine t q s).store = s.store ∧
      (computeFromLine t q s).directory = s.directory ∧
      (computeFromLine t q s).buffer = s.buffer ∧
      (computeFromLine t q s).waiters = s.waiters ∧
      (computeFromLine t q s).nextQuoteId = s.nextQuoteId ∧
      (computeFromLine t q s).arbiter = s.arbiter ∧
      (computeFromLine t q s).assembly = s.assembly ∧
      (computeFromLine t q s).officeRequest = s.officeRequest ∧
      (computeFromLine t q s).freeCount = s.freeCount := by
  unfold computeFromLine
  try dsimp only
  repeat' split
  all_goals simp

@[simp] theorem lookupQuote_frame (t : Till) (q : QuoteRecord) (s : State) :
    (lookupQuote t q s).pending = s.pending ∧
      (lookupQuote t q s).supply = s.supply ∧
      (lookupQuote t q s).site = s.site ∧
      (lookupQuote t q s).calendar = s.calendar ∧
      (lookupQuote t q s).cell = s.cell ∧
      (lookupQuote t q s).directory = s.directory ∧
      (lookupQuote t q s).buffer = s.buffer ∧
      (lookupQuote t q s).waiters = s.waiters ∧
      (lookupQuote t q s).nextQuoteId = s.nextQuoteId ∧
      (lookupQuote t q s).arbiter = s.arbiter ∧
      (lookupQuote t q s).assembly = s.assembly ∧
      (lookupQuote t q s).officeRequest = s.officeRequest ∧
      (lookupQuote t q s).freeCount = s.freeCount := by
  unfold lookupQuote
  try dsimp only
  repeat' split
  all_goals simp

@[simp] theorem quoteStage_frame (t : Till) (s : State) :
    (quoteStage t s).pending = s.pending ∧
      (quoteStage t s).supply = s.supply ∧
      (quoteStage t s).site = s.site ∧
      (quoteStage t s).calendar = s.calendar ∧
      (quoteStage t s).cell = s.cell ∧
      (quoteStage t s).directory = s.directory ∧
      (quoteStage t s).buffer = s.buffer ∧
      (quoteStage t s).waiters = s.waiters ∧
      (quoteStage t s).nextQuoteId = s.nextQuoteId ∧
      (quoteStage t s).arbiter = s.arbiter ∧
      (quoteStage t s).assembly = s.assembly ∧
      (quoteStage t s).officeRequest = s.officeRequest ∧
      (quoteStage t s).freeCount = s.freeCount := by
  unfold quoteStage
  try dsimp only
  repeat' split
  all_goals simp

@[simp] theorem confirmStage_frame (t : Till) (s : State) :
    (confirmStage t s).pending = s.pending ∧
      (confirmStage t s).supply = s.supply ∧
      (confirmStage t s).store = s.store ∧
      (confirmStage t s).nextQuoteId = s.nextQuoteId ∧
      (confirmStage t s).arbiter = s.arbiter ∧
      (confirmStage t s).officeRequest = s.officeRequest := by
  unfold confirmStage
  try dsimp only
  repeat' split
  all_goals simp

@[simp] theorem setReprintStage_frame (t : Till) (st : ReprintStage) (s : State) :
    (setReprintStage t st s).pending = s.pending ∧
      (setReprintStage t st s).supply = s.supply ∧
      (setReprintStage t st s).site = s.site ∧
      (setReprintStage t st s).calendar = s.calendar ∧
      (setReprintStage t st s).cell = s.cell ∧
      (setReprintStage t st s).store = s.store ∧
      (setReprintStage t st s).directory = s.directory ∧
      (setReprintStage t st s).working = s.working ∧
      (setReprintStage t st s).buffer = s.buffer ∧
      (setReprintStage t st s).waiters = s.waiters ∧
      (setReprintStage t st s).journal = s.journal ∧
      (setReprintStage t st s).reserved = s.reserved ∧
      (setReprintStage t st s).nextQuoteId = s.nextQuoteId ∧
      (setReprintStage t st s).arbiter = s.arbiter ∧
      (setReprintStage t st s).assembly = s.assembly ∧
      (setReprintStage t st s).conditions = s.conditions ∧
      (setReprintStage t st s).officeRequest = s.officeRequest ∧
      (setReprintStage t st s).officePort = s.officePort ∧
      (setReprintStage t st s).tillPorts = s.tillPorts ∧
      (setReprintStage t st s).freeCount = s.freeCount := by
  unfold setReprintStage
  try dsimp only
  all_goals simp

@[simp] theorem issueReprint_frame (t : Till) (w : ReprintWork) (index : Nat) (k : RecentToken) (rep : Bool) (s : State) :
    (issueReprint t w index k rep s).pending = s.pending ∧
      (issueReprint t w index k rep s).supply = s.supply ∧
      (issueReprint t w index k rep s).store = s.store ∧
      (issueReprint t w index k rep s).nextQuoteId = s.nextQuoteId ∧
      (issueReprint t w index k rep s).arbiter = s.arbiter ∧
      (issueReprint t w index k rep s).officeRequest = s.officeRequest := by
  unfold issueReprint
  try dsimp only
  repeat' split
  all_goals simp

@[simp] theorem presentReprint_frame (t : Till) (w : ReprintWork) (r : Record) (s : State) :
    (presentReprint t w r s).pending = s.pending ∧
      (presentReprint t w r s).supply = s.supply ∧
      (presentReprint t w r s).store = s.store ∧
      (presentReprint t w r s).nextQuoteId = s.nextQuoteId ∧
      (presentReprint t w r s).arbiter = s.arbiter ∧
      (presentReprint t w r s).officeRequest = s.officeRequest := by
  unfold presentReprint
  try dsimp only
  repeat' split
  all_goals simp

@[simp] theorem presentFromLine_frame (t : Till) (w : ReprintWork) (s : State) :
    (presentFromLine t w s).pending = s.pending ∧
      (presentFromLine t w s).supply = s.supply ∧
      (presentFromLine t w s).store = s.store ∧
      (presentFromLine t w s).nextQuoteId = s.nextQuoteId ∧
      (presentFromLine t w s).arbiter = s.arbiter ∧
      (presentFromLine t w s).officeRequest = s.officeRequest := by
  unfold presentFromLine
  try dsimp only
  repeat' split
  all_goals simp

@[simp] theorem refuseDamagedReprint_frame (t : Till) (w : ReprintWork) (s : State) :
    (refuseDamagedReprint t w s).pending = s.pending ∧
      (refuseDamagedReprint t w s).supply = s.supply ∧
      (refuseDamagedReprint t w s).site = s.site ∧
      (refuseDamagedReprint t w s).calendar = s.calendar ∧
      (refuseDamagedReprint t w s).cell = s.cell ∧
      (refuseDamagedReprint t w s).store = s.store ∧
      (refuseDamagedReprint t w s).directory = s.directory ∧
      (refuseDamagedReprint t w s).buffer = s.buffer ∧
      (refuseDamagedReprint t w s).waiters = s.waiters ∧
      (refuseDamagedReprint t w s).journal = s.journal ∧
      (refuseDamagedReprint t w s).reserved = s.reserved ∧
      (refuseDamagedReprint t w s).nextQuoteId = s.nextQuoteId ∧
      (refuseDamagedReprint t w s).arbiter = s.arbiter ∧
      (refuseDamagedReprint t w s).assembly = s.assembly ∧
      (refuseDamagedReprint t w s).conditions = s.conditions ∧
      (refuseDamagedReprint t w s).officeRequest = s.officeRequest ∧
      (refuseDamagedReprint t w s).officePort = s.officePort ∧
      (refuseDamagedReprint t w s).freeCount = s.freeCount := by
  unfold refuseDamagedReprint
  try dsimp only
  repeat' split
  all_goals simp

@[simp] theorem lookupReprint_frame (t : Till) (w : ReprintWork) (s : State) :
    (lookupReprint t w s).pending = s.pending ∧
      (lookupReprint t w s).supply = s.supply ∧
      (lookupReprint t w s).nextQuoteId = s.nextQuoteId ∧
      (lookupReprint t w s).arbiter = s.arbiter ∧
      (lookupReprint t w s).officeRequest = s.officeRequest := by
  unfold lookupReprint
  try dsimp only
  repeat' split
  all_goals simp

@[simp] theorem reprintStage_frame (t : Till) (s : State) :
    (reprintStage t s).pending = s.pending ∧
      (reprintStage t s).supply = s.supply ∧
      (reprintStage t s).nextQuoteId = s.nextQuoteId ∧
      (reprintStage t s).arbiter = s.arbiter ∧
      (reprintStage t s).officeRequest = s.officeRequest := by
  unfold reprintStage
  try dsimp only
  repeat' split
  all_goals simp

@[simp] theorem slotStage_frame (t : Till) (s : State) :
    (slotStage t s).pending = s.pending ∧
      (slotStage t s).supply = s.supply ∧
      (slotStage t s).nextQuoteId = s.nextQuoteId ∧
      (slotStage t s).arbiter = s.arbiter ∧
      (slotStage t s).officeRequest = s.officeRequest := by
  unfold slotStage
  try dsimp only
  repeat' split
  all_goals simp

@[simp] theorem settlePending_frame (t : Till) (s : State) :
    (settlePending t s).pending = s.pending ∧
      (settlePending t s).supply = s.supply ∧
      (settlePending t s).site = s.site ∧
      (settlePending t s).calendar = s.calendar ∧
      (settlePending t s).cell = s.cell ∧
      (settlePending t s).store = s.store ∧
      (settlePending t s).directory = s.directory ∧
      (settlePending t s).working = s.working ∧
      (settlePending t s).buffer = s.buffer ∧
      (settlePending t s).waiters = s.waiters ∧
      (settlePending t s).journal = s.journal ∧
      (settlePending t s).reserved = s.reserved ∧
      (settlePending t s).slots = s.slots ∧
      (settlePending t s).nextQuoteId = s.nextQuoteId ∧
      (settlePending t s).assembly = s.assembly ∧
      (settlePending t s).conditions = s.conditions ∧
      (settlePending t s).officeRequest = s.officeRequest ∧
      (settlePending t s).officePort = s.officePort ∧
      (settlePending t s).tillPorts = s.tillPorts ∧
      (settlePending t s).freeCount = s.freeCount := by
  unfold settlePending
  try dsimp only
  all_goals simp

end Sys2Proof.Machine
end

