-- ==== Sys2Proof/Laws/FramesOffice.lean ====
section
/-! SUPPORT. What the office requests leave unchanged: one lemma for each operation. -/

namespace Sys2Proof.Machine

@[simp] theorem refuseRecord_frame (code : RefusalCode) (s : State) :
    (refuseRecord code s).pending = s.pending ∧
      (refuseRecord code s).supply = s.supply ∧
      (refuseRecord code s).site = s.site ∧
      (refuseRecord code s).calendar = s.calendar ∧
      (refuseRecord code s).cell = s.cell ∧
      (refuseRecord code s).store = s.store ∧
      (refuseRecord code s).directory = s.directory ∧
      (refuseRecord code s).buffer = s.buffer ∧
      (refuseRecord code s).waiters = s.waiters ∧
      (refuseRecord code s).journal = s.journal ∧
      (refuseRecord code s).reserved = s.reserved ∧
      (refuseRecord code s).nextQuoteId = s.nextQuoteId ∧
      (refuseRecord code s).arbiter = s.arbiter ∧
      (refuseRecord code s).assembly = s.assembly ∧
      (refuseRecord code s).conditions = s.conditions ∧
      (refuseRecord code s).officeRequest = s.officeRequest ∧
      (refuseRecord code s).tillPorts = s.tillPorts ∧
      (refuseRecord code s).freeCount = s.freeCount := by
  unfold refuseRecord
  try dsimp only
  all_goals simp

@[simp] theorem postRecord_frame (j : Job) (s : State) :
    (postRecord j s).pending = s.pending ∧
      (postRecord j s).supply = s.supply ∧
      (postRecord j s).store = s.store ∧
      (postRecord j s).nextQuoteId = s.nextQuoteId ∧
      (postRecord j s).arbiter = s.arbiter ∧
      (postRecord j s).officeRequest = s.officeRequest := by
  unfold postRecord
  try dsimp only
  repeat' split
  all_goals simp

@[simp] theorem continueEdit_frame (e : EditRequest) (slot : Nat) (r : Record) (s : State) :
    (continueEdit e slot r s).pending = s.pending ∧
      (continueEdit e slot r s).supply = s.supply ∧
      (continueEdit e slot r s).store = s.store ∧
      (continueEdit e slot r s).nextQuoteId = s.nextQuoteId ∧
      (continueEdit e slot r s).arbiter = s.arbiter ∧
      (continueEdit e slot r s).officeRequest = s.officeRequest := by
  unfold continueEdit
  try dsimp only
  repeat' split
  all_goals simp

@[simp] theorem continueState_frame (next : AccountState → Option AccountState) (slot : Nat) (r : Record) (s : State) :
    (continueState next slot r s).pending = s.pending ∧
      (continueState next slot r s).supply = s.supply ∧
      (continueState next slot r s).store = s.store ∧
      (continueState next slot r s).nextQuoteId = s.nextQuoteId ∧
      (continueState next slot r s).arbiter = s.arbiter ∧
      (continueState next slot r s).officeRequest = s.officeRequest := by
  unfold continueState
  try dsimp only
  repeat' split
  all_goals simp

@[simp] theorem continuePurge_frame (slot : Nat) (r : Record) (s : State) :
    (continuePurge slot r s).pending = s.pending ∧
      (continuePurge slot r s).supply = s.supply ∧
      (continuePurge slot r s).store = s.store ∧
      (continuePurge slot r s).nextQuoteId = s.nextQuoteId ∧
      (continuePurge slot r s).arbiter = s.arbiter ∧
      (continuePurge slot r s).officeRequest = s.officeRequest := by
  unfold continuePurge
  try dsimp only
  repeat' split
  all_goals simp

@[simp] theorem continueRecord_frame (req : RecordRequest) (slot : Nat) (r : Record) (s : State) :
    (continueRecord req slot r s).pending = s.pending ∧
      (continueRecord req slot r s).supply = s.supply ∧
      (continueRecord req slot r s).store = s.store ∧
      (continueRecord req slot r s).nextQuoteId = s.nextQuoteId ∧
      (continueRecord req slot r s).arbiter = s.arbiter ∧
      (continueRecord req slot r s).officeRequest = s.officeRequest := by
  unfold continueRecord
  try dsimp only
  repeat' split
  all_goals simp

@[simp] theorem continueFromLine_frame (req : RecordRequest) (slot : Nat) (s : State) :
    (continueFromLine req slot s).pending = s.pending ∧
      (continueFromLine req slot s).supply = s.supply ∧
      (continueFromLine req slot s).store = s.store ∧
      (continueFromLine req slot s).nextQuoteId = s.nextQuoteId ∧
      (continueFromLine req slot s).arbiter = s.arbiter ∧
      (continueFromLine req slot s).officeRequest = s.officeRequest := by
  unfold continueFromLine
  try dsimp only
  repeat' split
  all_goals simp

@[simp] theorem lookupRecord_frame (req : RecordRequest) (s : State) :
    (lookupRecord req s).pending = s.pending ∧
      (lookupRecord req s).supply = s.supply ∧
      (lookupRecord req s).nextQuoteId = s.nextQuoteId ∧
      (lookupRecord req s).arbiter = s.arbiter := by
  unfold lookupRecord
  try dsimp only
  repeat' split
  all_goals simp

@[simp] theorem serveChange_frame (needsHold : Bool) (req : RecordRequest) (s : State) :
    (serveChange needsHold req s).pending = s.pending ∧
      (serveChange needsHold req s).supply = s.supply ∧
      (serveChange needsHold req s).nextQuoteId = s.nextQuoteId ∧
      (serveChange needsHold req s).arbiter = s.arbiter := by
  unfold serveChange
  try dsimp only
  repeat' split
  all_goals simp

@[simp] theorem serveEdit_frame (body : List Byte) (s : State) :
    (serveEdit body s).pending = s.pending ∧
      (serveEdit body s).supply = s.supply ∧
      (serveEdit body s).nextQuoteId = s.nextQuoteId ∧
      (serveEdit body s).arbiter = s.arbiter := by
  unfold serveEdit
  try dsimp only
  repeat' split
  all_goals simp

@[simp] theorem serveRead_frame (meter : Nat) (s : State) :
    (serveRead meter s).pending = s.pending ∧
      (serveRead meter s).supply = s.supply ∧
      (serveRead meter s).site = s.site ∧
      (serveRead meter s).calendar = s.calendar ∧
      (serveRead meter s).cell = s.cell ∧
      (serveRead meter s).directory = s.directory ∧
      (serveRead meter s).buffer = s.buffer ∧
      (serveRead meter s).waiters = s.waiters ∧
      (serveRead meter s).journal = s.journal ∧
      (serveRead meter s).reserved = s.reserved ∧
      (serveRead meter s).nextQuoteId = s.nextQuoteId ∧
      (serveRead meter s).arbiter = s.arbiter ∧
      (serveRead meter s).assembly = s.assembly ∧
      (serveRead meter s).conditions = s.conditions ∧
      (serveRead meter s).tillPorts = s.tillPorts ∧
      (serveRead meter s).freeCount = s.freeCount := by
  unfold serveRead
  try dsimp only
  repeat' split
  all_goals simp

@[simp] theorem postTaken_frame (j : Job) (s : State) :
    (postTaken j s).pending = s.pending ∧
      (postTaken j s).supply = s.supply ∧
      (postTaken j s).store = s.store ∧
      (postTaken j s).nextQuoteId = s.nextQuoteId ∧
      (postTaken j s).arbiter = s.arbiter ∧
      (postTaken j s).officeRequest = s.officeRequest := by
  unfold postTaken
  try dsimp only
  repeat' split
  all_goals simp

@[simp] theorem enrolMeter_frame (meter tariff : Nat) (eligible : Bool) (rate arrears : Nat) (s : State) :
    (enrolMeter meter tariff eligible rate arrears s).pending = s.pending ∧
      (enrolMeter meter tariff eligible rate arrears s).supply = s.supply ∧
      (enrolMeter meter tariff eligible rate arrears s).store = s.store ∧
      (enrolMeter meter tariff eligible rate arrears s).nextQuoteId = s.nextQuoteId ∧
      (enrolMeter meter tariff eligible rate arrears s).arbiter = s.arbiter ∧
      (enrolMeter meter tariff eligible rate arrears s).officeRequest = s.officeRequest := by
  unfold enrolMeter
  try dsimp only
  repeat' split
  all_goals simp

@[simp] theorem serveEnrol_frame (body : List Byte) (s : State) :
    (serveEnrol body s).pending = s.pending ∧
      (serveEnrol body s).supply = s.supply ∧
      (serveEnrol body s).store = s.store ∧
      (serveEnrol body s).nextQuoteId = s.nextQuoteId ∧
      (serveEnrol body s).arbiter = s.arbiter ∧
      (serveEnrol body s).officeRequest = s.officeRequest := by
  unfold serveEnrol
  try dsimp only
  repeat' split
  all_goals simp

@[simp] theorem restoreMeter_frame (r : Record) (s : State) :
    (restoreMeter r s).pending = s.pending ∧
      (restoreMeter r s).supply = s.supply ∧
      (restoreMeter r s).store = s.store ∧
      (restoreMeter r s).nextQuoteId = s.nextQuoteId ∧
      (restoreMeter r s).arbiter = s.arbiter ∧
      (restoreMeter r s).officeRequest = s.officeRequest := by
  unfold restoreMeter
  try dsimp only
  repeat' split
  all_goals simp

@[simp] theorem serveRestore_frame (body : List Byte) (s : State) :
    (serveRestore body s).pending = s.pending ∧
      (serveRestore body s).supply = s.supply ∧
      (serveRestore body s).store = s.store ∧
      (serveRestore body s).nextQuoteId = s.nextQuoteId ∧
      (serveRestore body s).arbiter = s.arbiter ∧
      (serveRestore body s).officeRequest = s.officeRequest := by
  unfold serveRestore
  try dsimp only
  repeat' split
  all_goals simp

@[simp] theorem refuseQuarterWith_frame (code : RefusalCode) (detail : Nat) (s : State) :
    (refuseQuarterWith code detail s).pending = s.pending ∧
      (refuseQuarterWith code detail s).supply = s.supply ∧
      (refuseQuarterWith code detail s).site = s.site ∧
      (refuseQuarterWith code detail s).calendar = s.calendar ∧
      (refuseQuarterWith code detail s).cell = s.cell ∧
      (refuseQuarterWith code detail s).store = s.store ∧
      (refuseQuarterWith code detail s).directory = s.directory ∧
      (refuseQuarterWith code detail s).working = s.working ∧
      (refuseQuarterWith code detail s).buffer = s.buffer ∧
      (refuseQuarterWith code detail s).waiters = s.waiters ∧
      (refuseQuarterWith code detail s).journal = s.journal ∧
      (refuseQuarterWith code detail s).reserved = s.reserved ∧
      (refuseQuarterWith code detail s).slots = s.slots ∧
      (refuseQuarterWith code detail s).nextQuoteId = s.nextQuoteId ∧
      (refuseQuarterWith code detail s).arbiter = s.arbiter ∧
      (refuseQuarterWith code detail s).conditions = s.conditions ∧
      (refuseQuarterWith code detail s).officeRequest = s.officeRequest ∧
      (refuseQuarterWith code detail s).tillPorts = s.tillPorts ∧
      (refuseQuarterWith code detail s).freeCount = s.freeCount := by
  unfold refuseQuarterWith
  try dsimp only
  all_goals simp

@[simp] theorem refuseQuarter_frame (code : RefusalCode) (s : State) :
    (refuseQuarter code s).pending = s.pending ∧
      (refuseQuarter code s).supply = s.supply ∧
      (refuseQuarter code s).site = s.site ∧
      (refuseQuarter code s).calendar = s.calendar ∧
      (refuseQuarter code s).cell = s.cell ∧
      (refuseQuarter code s).store = s.store ∧
      (refuseQuarter code s).directory = s.directory ∧
      (refuseQuarter code s).working = s.working ∧
      (refuseQuarter code s).buffer = s.buffer ∧
      (refuseQuarter code s).waiters = s.waiters ∧
      (refuseQuarter code s).journal = s.journal ∧
      (refuseQuarter code s).reserved = s.reserved ∧
      (refuseQuarter code s).slots = s.slots ∧
      (refuseQuarter code s).nextQuoteId = s.nextQuoteId ∧
      (refuseQuarter code s).arbiter = s.arbiter ∧
      (refuseQuarter code s).conditions = s.conditions ∧
      (refuseQuarter code s).officeRequest = s.officeRequest ∧
      (refuseQuarter code s).tillPorts = s.tillPorts ∧
      (refuseQuarter code s).freeCount = s.freeCount := by
  unfold refuseQuarter
  try dsimp only
  all_goals simp

@[simp] theorem completeStage_frame (a : Assembly) (day : Nat) (s : State) :
    (completeStage a day s).pending = s.pending ∧
      (completeStage a day s).supply = s.supply ∧
      (completeStage a day s).store = s.store ∧
      (completeStage a day s).nextQuoteId = s.nextQuoteId ∧
      (completeStage a day s).arbiter = s.arbiter ∧
      (completeStage a day s).officeRequest = s.officeRequest := by
  unfold completeStage
  try dsimp only
  repeat' split
  all_goals simp

@[simp] theorem takeStage_frame (quarter : Nat) (es : List RawEntry) (day : Nat) (s : State) :
    (takeStage quarter es day s).pending = s.pending ∧
      (takeStage quarter es day s).supply = s.supply ∧
      (takeStage quarter es day s).store = s.store ∧
      (takeStage quarter es day s).nextQuoteId = s.nextQuoteId ∧
      (takeStage quarter es day s).arbiter = s.arbiter ∧
      (takeStage quarter es day s).officeRequest = s.officeRequest := by
  unfold takeStage
  try dsimp only
  repeat' split
  all_goals simp

@[simp] theorem serveStage_frame (body : List Byte) (s : State) :
    (serveStage body s).pending = s.pending ∧
      (serveStage body s).supply = s.supply ∧
      (serveStage body s).store = s.store ∧
      (serveStage body s).nextQuoteId = s.nextQuoteId ∧
      (serveStage body s).arbiter = s.arbiter ∧
      (serveStage body s).officeRequest = s.officeRequest := by
  unfold serveStage
  try dsimp only
  repeat' split
  all_goals simp

@[simp] theorem takeLoad_frame (quarter : Nat) (es : List RawEntry) (s : State) :
    (takeLoad quarter es s).pending = s.pending ∧
      (takeLoad quarter es s).supply = s.supply ∧
      (takeLoad quarter es s).store = s.store ∧
      (takeLoad quarter es s).nextQuoteId = s.nextQuoteId ∧
      (takeLoad quarter es s).arbiter = s.arbiter ∧
      (takeLoad quarter es s).officeRequest = s.officeRequest := by
  unfold takeLoad
  try dsimp only
  repeat' split
  all_goals simp

@[simp] theorem serveLoad_frame (body : List Byte) (s : State) :
    (serveLoad body s).pending = s.pending ∧
      (serveLoad body s).supply = s.supply ∧
      (serveLoad body s).store = s.store ∧
      (serveLoad body s).nextQuoteId = s.nextQuoteId ∧
      (serveLoad body s).arbiter = s.arbiter ∧
      (serveLoad body s).officeRequest = s.officeRequest := by
  unfold serveLoad
  try dsimp only
  repeat' split
  all_goals simp

@[simp] theorem serveUnstage_frame (body : List Byte) (s : State) :
    (serveUnstage body s).pending = s.pending ∧
      (serveUnstage body s).supply = s.supply ∧
      (serveUnstage body s).store = s.store ∧
      (serveUnstage body s).nextQuoteId = s.nextQuoteId ∧
      (serveUnstage body s).arbiter = s.arbiter ∧
      (serveUnstage body s).officeRequest = s.officeRequest := by
  unfold serveUnstage
  try dsimp only
  repeat' split
  all_goals simp

@[simp] theorem serveTariffRead_frame (body : List Byte) (s : State) :
    (serveTariffRead body s).pending = s.pending ∧
      (serveTariffRead body s).supply = s.supply ∧
      (serveTariffRead body s).site = s.site ∧
      (serveTariffRead body s).calendar = s.calendar ∧
      (serveTariffRead body s).cell = s.cell ∧
      (serveTariffRead body s).store = s.store ∧
      (serveTariffRead body s).directory = s.directory ∧
      (serveTariffRead body s).working = s.working ∧
      (serveTariffRead body s).buffer = s.buffer ∧
      (serveTariffRead body s).waiters = s.waiters ∧
      (serveTariffRead body s).journal = s.journal ∧
      (serveTariffRead body s).reserved = s.reserved ∧
      (serveTariffRead body s).slots = s.slots ∧
      (serveTariffRead body s).nextQuoteId = s.nextQuoteId ∧
      (serveTariffRead body s).arbiter = s.arbiter ∧
      (serveTariffRead body s).assembly = s.assembly ∧
      (serveTariffRead body s).conditions = s.conditions ∧
      (serveTariffRead body s).officeRequest = s.officeRequest ∧
      (serveTariffRead body s).tillPorts = s.tillPorts ∧
      (serveTariffRead body s).freeCount = s.freeCount := by
  unfold serveTariffRead
  try dsimp only
  repeat' split
  all_goals simp

@[simp] theorem postOffice_frame (j : Job) (s : State) :
    (postOffice j s).pending = s.pending ∧
      (postOffice j s).supply = s.supply ∧
      (postOffice j s).store = s.store ∧
      (postOffice j s).nextQuoteId = s.nextQuoteId ∧
      (postOffice j s).arbiter = s.arbiter ∧
      (postOffice j s).officeRequest = s.officeRequest := by
  unfold postOffice
  try dsimp only
  repeat' split
  all_goals simp

@[simp] theorem serveVoucher_frame (body : List Byte) (s : State) :
    (serveVoucher body s).pending = s.pending ∧
      (serveVoucher body s).supply = s.supply ∧
      (serveVoucher body s).store = s.store ∧
      (serveVoucher body s).nextQuoteId = s.nextQuoteId ∧
      (serveVoucher body s).arbiter = s.arbiter ∧
      (serveVoucher body s).officeRequest = s.officeRequest := by
  unfold serveVoucher
  try dsimp only
  repeat' split
  all_goals simp

@[simp] theorem serveFloor_frame (body : List Byte) (s : State) :
    (serveFloor body s).pending = s.pending ∧
      (serveFloor body s).supply = s.supply ∧
      (serveFloor body s).store = s.store ∧
      (serveFloor body s).nextQuoteId = s.nextQuoteId ∧
      (serveFloor body s).arbiter = s.arbiter ∧
      (serveFloor body s).officeRequest = s.officeRequest := by
  unfold serveFloor
  try dsimp only
  repeat' split
  all_goals simp

@[simp] theorem serveQuoteTime_frame (body : List Byte) (s : State) :
    (serveQuoteTime body s).pending = s.pending ∧
      (serveQuoteTime body s).supply = s.supply ∧
      (serveQuoteTime body s).store = s.store ∧
      (serveQuoteTime body s).nextQuoteId = s.nextQuoteId ∧
      (serveQuoteTime body s).arbiter = s.arbiter ∧
      (serveQuoteTime body s).officeRequest = s.officeRequest := by
  unfold serveQuoteTime
  try dsimp only
  repeat' split
  all_goals simp

@[simp] theorem serveMask_frame (body : List Byte) (s : State) :
    (serveMask body s).pending = s.pending ∧
      (serveMask body s).supply = s.supply ∧
      (serveMask body s).store = s.store ∧
      (serveMask body s).nextQuoteId = s.nextQuoteId ∧
      (serveMask body s).arbiter = s.arbiter ∧
      (serveMask body s).officeRequest = s.officeRequest := by
  unfold serveMask
  try dsimp only
  repeat' split
  all_goals simp

@[simp] theorem changeLink_frame (t : Till) (v : LinkSettings) (s : State) :
    (changeLink t v s).pending = s.pending ∧
      (changeLink t v s).supply = s.supply ∧
      (changeLink t v s).store = s.store ∧
      (changeLink t v s).nextQuoteId = s.nextQuoteId ∧
      (changeLink t v s).arbiter = s.arbiter ∧
      (changeLink t v s).officeRequest = s.officeRequest := by
  unfold changeLink
  try dsimp only
  repeat' split
  all_goals simp

@[simp] theorem serveLinkSet_frame (body : List Byte) (s : State) :
    (serveLinkSet body s).pending = s.pending ∧
      (serveLinkSet body s).supply = s.supply ∧
      (serveLinkSet body s).store = s.store ∧
      (serveLinkSet body s).nextQuoteId = s.nextQuoteId ∧
      (serveLinkSet body s).arbiter = s.arbiter ∧
      (serveLinkSet body s).officeRequest = s.officeRequest := by
  unfold serveLinkSet
  try dsimp only
  repeat' split
  all_goals simp

@[simp] theorem serveSiteCode_frame (body : List Byte) (s : State) :
    (serveSiteCode body s).pending = s.pending ∧
      (serveSiteCode body s).supply = s.supply ∧
      (serveSiteCode body s).store = s.store ∧
      (serveSiteCode body s).nextQuoteId = s.nextQuoteId ∧
      (serveSiteCode body s).arbiter = s.arbiter ∧
      (serveSiteCode body s).officeRequest = s.officeRequest := by
  unfold serveSiteCode
  try dsimp only
  repeat' split
  all_goals simp

@[simp] theorem buildClockSet_frame (d : DateTime) (s : State) :
    (buildClockSet d s).pending = s.pending ∧
      (buildClockSet d s).supply = s.supply ∧
      (buildClockSet d s).store = s.store ∧
      (buildClockSet d s).nextQuoteId = s.nextQuoteId ∧
      (buildClockSet d s).arbiter = s.arbiter ∧
      (buildClockSet d s).officeRequest = s.officeRequest := by
  unfold buildClockSet
  try dsimp only
  repeat' split
  all_goals simp

@[simp] theorem serveClockSet_frame (body : List Byte) (s : State) :
    (serveClockSet body s).pending = s.pending ∧
      (serveClockSet body s).supply = s.supply ∧
      (serveClockSet body s).store = s.store ∧
      (serveClockSet body s).nextQuoteId = s.nextQuoteId ∧
      (serveClockSet body s).arbiter = s.arbiter ∧
      (serveClockSet body s).officeRequest = s.officeRequest := by
  unfold serveClockSet
  try dsimp only
  repeat' split
  all_goals simp

@[simp] theorem serveClockRead_frame (body : List Byte) (s : State) :
    (serveClockRead body s).pending = s.pending ∧
      (serveClockRead body s).supply = s.supply ∧
      (serveClockRead body s).site = s.site ∧
      (serveClockRead body s).calendar = s.calendar ∧
      (serveClockRead body s).cell = s.cell ∧
      (serveClockRead body s).store = s.store ∧
      (serveClockRead body s).directory = s.directory ∧
      (serveClockRead body s).working = s.working ∧
      (serveClockRead body s).buffer = s.buffer ∧
      (serveClockRead body s).waiters = s.waiters ∧
      (serveClockRead body s).journal = s.journal ∧
      (serveClockRead body s).reserved = s.reserved ∧
      (serveClockRead body s).slots = s.slots ∧
      (serveClockRead body s).nextQuoteId = s.nextQuoteId ∧
      (serveClockRead body s).arbiter = s.arbiter ∧
      (serveClockRead body s).assembly = s.assembly ∧
      (serveClockRead body s).conditions = s.conditions ∧
      (serveClockRead body s).officeRequest = s.officeRequest ∧
      (serveClockRead body s).tillPorts = s.tillPorts ∧
      (serveClockRead body s).freeCount = s.freeCount := by
  unfold serveClockRead
  try dsimp only
  repeat' split
  all_goals simp

@[simp] theorem serveSummaryRead_frame (body : List Byte) (s : State) :
    (serveSummaryRead body s).pending = s.pending ∧
      (serveSummaryRead body s).supply = s.supply ∧
      (serveSummaryRead body s).site = s.site ∧
      (serveSummaryRead body s).calendar = s.calendar ∧
      (serveSummaryRead body s).cell = s.cell ∧
      (serveSummaryRead body s).directory = s.directory ∧
      (serveSummaryRead body s).working = s.working ∧
      (serveSummaryRead body s).buffer = s.buffer ∧
      (serveSummaryRead body s).waiters = s.waiters ∧
      (serveSummaryRead body s).journal = s.journal ∧
      (serveSummaryRead body s).reserved = s.reserved ∧
      (serveSummaryRead body s).slots = s.slots ∧
      (serveSummaryRead body s).nextQuoteId = s.nextQuoteId ∧
      (serveSummaryRead body s).arbiter = s.arbiter ∧
      (serveSummaryRead body s).assembly = s.assembly ∧
      (serveSummaryRead body s).conditions = s.conditions ∧
      (serveSummaryRead body s).officeRequest = s.officeRequest ∧
      (serveSummaryRead body s).tillPorts = s.tillPorts ∧
      (serveSummaryRead body s).freeCount = s.freeCount := by
  unfold serveSummaryRead
  try dsimp only
  repeat' split
  all_goals simp

@[simp] theorem serveTotals_frame (body : List Byte) (s : State) :
    (serveTotals body s).pending = s.pending ∧
      (serveTotals body s).supply = s.supply ∧
      (serveTotals body s).site = s.site ∧
      (serveTotals body s).calendar = s.calendar ∧
      (serveTotals body s).cell = s.cell ∧
      (serveTotals body s).store = s.store ∧
      (serveTotals body s).directory = s.directory ∧
      (serveTotals body s).working = s.working ∧
      (serveTotals body s).buffer = s.buffer ∧
      (serveTotals body s).waiters = s.waiters ∧
      (serveTotals body s).journal = s.journal ∧
      (serveTotals body s).reserved = s.reserved ∧
      (serveTotals body s).slots = s.slots ∧
      (serveTotals body s).nextQuoteId = s.nextQuoteId ∧
      (serveTotals body s).arbiter = s.arbiter ∧
      (serveTotals body s).assembly = s.assembly ∧
      (serveTotals body s).conditions = s.conditions ∧
      (serveTotals body s).officeRequest = s.officeRequest ∧
      (serveTotals body s).tillPorts = s.tillPorts ∧
      (serveTotals body s).freeCount = s.freeCount := by
  unfold serveTotals
  try dsimp only
  repeat' split
  all_goals simp

@[simp] theorem serveTillClose_frame (body : List Byte) (s : State) :
    (serveTillClose body s).pending = s.pending ∧
      (serveTillClose body s).supply = s.supply ∧
      (serveTillClose body s).store = s.store ∧
      (serveTillClose body s).nextQuoteId = s.nextQuoteId ∧
      (serveTillClose body s).arbiter = s.arbiter ∧
      (serveTillClose body s).officeRequest = s.officeRequest := by
  unfold serveTillClose
  try dsimp only
  repeat' split
  all_goals simp

@[simp] theorem serveJournalRead_frame (body : List Byte) (s : State) :
    (serveJournalRead body s).pending = s.pending ∧
      (serveJournalRead body s).supply = s.supply ∧
      (serveJournalRead body s).site = s.site ∧
      (serveJournalRead body s).calendar = s.calendar ∧
      (serveJournalRead body s).cell = s.cell ∧
      (serveJournalRead body s).directory = s.directory ∧
      (serveJournalRead body s).working = s.working ∧
      (serveJournalRead body s).buffer = s.buffer ∧
      (serveJournalRead body s).waiters = s.waiters ∧
      (serveJournalRead body s).journal = s.journal ∧
      (serveJournalRead body s).reserved = s.reserved ∧
      (serveJournalRead body s).slots = s.slots ∧
      (serveJournalRead body s).nextQuoteId = s.nextQuoteId ∧
      (serveJournalRead body s).arbiter = s.arbiter ∧
      (serveJournalRead body s).assembly = s.assembly ∧
      (serveJournalRead body s).conditions = s.conditions ∧
      (serveJournalRead body s).officeRequest = s.officeRequest ∧
      (serveJournalRead body s).tillPorts = s.tillPorts ∧
      (serveJournalRead body s).freeCount = s.freeCount := by
  unfold serveJournalRead
  try dsimp only
  repeat' split
  all_goals simp

@[simp] theorem releaseJournal_frame (upto : Nat) (s : State) :
    (releaseJournal upto s).pending = s.pending ∧
      (releaseJournal upto s).supply = s.supply ∧
      (releaseJournal upto s).calendar = s.calendar ∧
      (releaseJournal upto s).cell = s.cell ∧
      (releaseJournal upto s).store = s.store ∧
      (releaseJournal upto s).directory = s.directory ∧
      (releaseJournal upto s).working = s.working ∧
      (releaseJournal upto s).buffer = s.buffer ∧
      (releaseJournal upto s).waiters = s.waiters ∧
      (releaseJournal upto s).journal = s.journal ∧
      (releaseJournal upto s).reserved = s.reserved ∧
      (releaseJournal upto s).slots = s.slots ∧
      (releaseJournal upto s).nextQuoteId = s.nextQuoteId ∧
      (releaseJournal upto s).arbiter = s.arbiter ∧
      (releaseJournal upto s).assembly = s.assembly ∧
      (releaseJournal upto s).officeRequest = s.officeRequest ∧
      (releaseJournal upto s).tillPorts = s.tillPorts ∧
      (releaseJournal upto s).freeCount = s.freeCount := by
  unfold releaseJournal
  try dsimp only
  repeat' split
  all_goals simp

@[simp] theorem serveRelease_frame (body : List Byte) (s : State) :
    (serveRelease body s).pending = s.pending ∧
      (serveRelease body s).supply = s.supply ∧
      (serveRelease body s).calendar = s.calendar ∧
      (serveRelease body s).cell = s.cell ∧
      (serveRelease body s).store = s.store ∧
      (serveRelease body s).directory = s.directory ∧
      (serveRelease body s).working = s.working ∧
      (serveRelease body s).buffer = s.buffer ∧
      (serveRelease body s).waiters = s.waiters ∧
      (serveRelease body s).journal = s.journal ∧
      (serveRelease body s).reserved = s.reserved ∧
      (serveRelease body s).slots = s.slots ∧
      (serveRelease body s).nextQuoteId = s.nextQuoteId ∧
      (serveRelease body s).arbiter = s.arbiter ∧
      (serveRelease body s).assembly = s.assembly ∧
      (serveRelease body s).officeRequest = s.officeRequest ∧
      (serveRelease body s).tillPorts = s.tillPorts ∧
      (serveRelease body s).freeCount = s.freeCount := by
  unfold serveRelease
  try dsimp only
  repeat' split
  all_goals simp

@[simp] theorem serveHoldRequest_frame (body : List Byte) (s : State) :
    (serveHoldRequest body s).pending = s.pending ∧
      (serveHoldRequest body s).supply = s.supply ∧
      (serveHoldRequest body s).site = s.site ∧
      (serveHoldRequest body s).calendar = s.calendar ∧
      (serveHoldRequest body s).cell = s.cell ∧
      (serveHoldRequest body s).store = s.store ∧
      (serveHoldRequest body s).directory = s.directory ∧
      (serveHoldRequest body s).working = s.working ∧
      (serveHoldRequest body s).buffer = s.buffer ∧
      (serveHoldRequest body s).waiters = s.waiters ∧
      (serveHoldRequest body s).journal = s.journal ∧
      (serveHoldRequest body s).reserved = s.reserved ∧
      (serveHoldRequest body s).slots = s.slots ∧
      (serveHoldRequest body s).nextQuoteId = s.nextQuoteId ∧
      (serveHoldRequest body s).assembly = s.assembly ∧
      (serveHoldRequest body s).conditions = s.conditions ∧
      (serveHoldRequest body s).officeRequest = s.officeRequest ∧
      (serveHoldRequest body s).tillPorts = s.tillPorts ∧
      (serveHoldRequest body s).freeCount = s.freeCount := by
  unfold serveHoldRequest
  try dsimp only
  repeat' split
  all_goals simp

@[simp] theorem endHold_frame (s : State) :
    (endHold s).pending = s.pending ∧
      (endHold s).supply = s.supply ∧
      (endHold s).site = s.site ∧
      (endHold s).calendar = s.calendar ∧
      (endHold s).cell = s.cell ∧
      (endHold s).store = s.store ∧
      (endHold s).directory = s.directory ∧
      (endHold s).working = s.working ∧
      (endHold s).buffer = s.buffer ∧
      (endHold s).waiters = s.waiters ∧
      (endHold s).journal = s.journal ∧
      (endHold s).reserved = s.reserved ∧
      (endHold s).slots = s.slots ∧
      (endHold s).nextQuoteId = s.nextQuoteId ∧
      (endHold s).conditions = s.conditions ∧
      (endHold s).officeRequest = s.officeRequest ∧
      (endHold s).officePort = s.officePort ∧
      (endHold s).tillPorts = s.tillPorts ∧
      (endHold s).freeCount = s.freeCount := by
  unfold endHold
  try dsimp only
  all_goals simp

@[simp] theorem serveHoldRelease_frame (body : List Byte) (s : State) :
    (serveHoldRelease body s).pending = s.pending ∧
      (serveHoldRelease body s).supply = s.supply ∧
      (serveHoldRelease body s).site = s.site ∧
      (serveHoldRelease body s).calendar = s.calendar ∧
      (serveHoldRelease body s).cell = s.cell ∧
      (serveHoldRelease body s).store = s.store ∧
      (serveHoldRelease body s).directory = s.directory ∧
      (serveHoldRelease body s).working = s.working ∧
      (serveHoldRelease body s).buffer = s.buffer ∧
      (serveHoldRelease body s).waiters = s.waiters ∧
      (serveHoldRelease body s).journal = s.journal ∧
      (serveHoldRelease body s).reserved = s.reserved ∧
      (serveHoldRelease body s).slots = s.slots ∧
      (serveHoldRelease body s).nextQuoteId = s.nextQuoteId ∧
      (serveHoldRelease body s).conditions = s.conditions ∧
      (serveHoldRelease body s).officeRequest = s.officeRequest ∧
      (serveHoldRelease body s).tillPorts = s.tillPorts ∧
      (serveHoldRelease body s).freeCount = s.freeCount := by
  unfold serveHoldRelease
  try dsimp only
  repeat' split
  all_goals simp

@[simp] theorem lapseHold_frame (s : State) :
    (lapseHold s).pending = s.pending ∧
      (lapseHold s).supply = s.supply ∧
      (lapseHold s).site = s.site ∧
      (lapseHold s).calendar = s.calendar ∧
      (lapseHold s).cell = s.cell ∧
      (lapseHold s).store = s.store ∧
      (lapseHold s).directory = s.directory ∧
      (lapseHold s).buffer = s.buffer ∧
      (lapseHold s).reserved = s.reserved ∧
      (lapseHold s).nextQuoteId = s.nextQuoteId ∧
      (lapseHold s).officeRequest = s.officeRequest ∧
      (lapseHold s).freeCount = s.freeCount := by
  unfold lapseHold
  try dsimp only
  all_goals simp

@[simp] theorem serveClear_frame (body : List Byte) (s : State) :
    (serveClear body s).pending = s.pending ∧
      (serveClear body s).supply = s.supply ∧
      (serveClear body s).site = s.site ∧
      (serveClear body s).calendar = s.calendar ∧
      (serveClear body s).cell = s.cell ∧
      (serveClear body s).store = s.store ∧
      (serveClear body s).directory = s.directory ∧
      (serveClear body s).working = s.working ∧
      (serveClear body s).buffer = s.buffer ∧
      (serveClear body s).waiters = s.waiters ∧
      (serveClear body s).journal = s.journal ∧
      (serveClear body s).reserved = s.reserved ∧
      (serveClear body s).slots = s.slots ∧
      (serveClear body s).nextQuoteId = s.nextQuoteId ∧
      (serveClear body s).arbiter = s.arbiter ∧
      (serveClear body s).assembly = s.assembly ∧
      (serveClear body s).officeRequest = s.officeRequest ∧
      (serveClear body s).tillPorts = s.tillPorts ∧
      (serveClear body s).freeCount = s.freeCount := by
  unfold serveClear
  have h (l : List Condition) : (l.foldl clearCondition s).pending = s.pending ∧
       (l.foldl clearCondition s).supply = s.supply ∧
       (l.foldl clearCondition s).site = s.site ∧
       (l.foldl clearCondition s).calendar = s.calendar ∧
       (l.foldl clearCondition s).cell = s.cell ∧
       (l.foldl clearCondition s).store = s.store ∧
       (l.foldl clearCondition s).directory = s.directory ∧
       (l.foldl clearCondition s).working = s.working ∧
       (l.foldl clearCondition s).buffer = s.buffer ∧
       (l.foldl clearCondition s).waiters = s.waiters ∧
       (l.foldl clearCondition s).journal = s.journal ∧
       (l.foldl clearCondition s).reserved = s.reserved ∧
       (l.foldl clearCondition s).slots = s.slots ∧
       (l.foldl clearCondition s).nextQuoteId = s.nextQuoteId ∧
       (l.foldl clearCondition s).arbiter = s.arbiter ∧
       (l.foldl clearCondition s).assembly = s.assembly ∧
       (l.foldl clearCondition s).officeRequest = s.officeRequest ∧
       (l.foldl clearCondition s).tillPorts = s.tillPorts ∧
       (l.foldl clearCondition s).freeCount = s.freeCount :=
    ⟨foldl_keeps State.pending _ (by simp) _ _,
    foldl_keeps State.supply _ (by simp) _ _,
    foldl_keeps State.site _ (by simp) _ _,
    foldl_keeps State.calendar _ (by simp) _ _,
    foldl_keeps State.cell _ (by simp) _ _,
    foldl_keeps State.store _ (by simp) _ _,
    foldl_keeps State.directory _ (by simp) _ _,
    foldl_keeps State.working _ (by simp) _ _,
    foldl_keeps State.buffer _ (by simp) _ _,
    foldl_keeps State.waiters _ (by simp) _ _,
    foldl_keeps State.journal _ (by simp) _ _,
    foldl_keeps State.reserved _ (by simp) _ _,
    foldl_keeps State.slots _ (by simp) _ _,
    foldl_keeps State.nextQuoteId _ (by simp) _ _,
    foldl_keeps State.arbiter _ (by simp) _ _,
    foldl_keeps State.assembly _ (by simp) _ _,
    foldl_keeps State.officeRequest _ (by simp) _ _,
    foldl_keeps State.tillPorts _ (by simp) _ _,
    foldl_keeps State.freeCount _ (by simp) _ _⟩
  dsimp only
  repeat' split
  all_goals simp [h]

@[simp] theorem serveStatus_frame (body : List Byte) (s : State) :
    (serveStatus body s).pending = s.pending ∧
      (serveStatus body s).supply = s.supply ∧
      (serveStatus body s).site = s.site ∧
      (serveStatus body s).calendar = s.calendar ∧
      (serveStatus body s).cell = s.cell ∧
      (serveStatus body s).store = s.store ∧
      (serveStatus body s).directory = s.directory ∧
      (serveStatus body s).working = s.working ∧
      (serveStatus body s).buffer = s.buffer ∧
      (serveStatus body s).waiters = s.waiters ∧
      (serveStatus body s).journal = s.journal ∧
      (serveStatus body s).reserved = s.reserved ∧
      (serveStatus body s).slots = s.slots ∧
      (serveStatus body s).nextQuoteId = s.nextQuoteId ∧
      (serveStatus body s).arbiter = s.arbiter ∧
      (serveStatus body s).assembly = s.assembly ∧
      (serveStatus body s).conditions = s.conditions ∧
      (serveStatus body s).officeRequest = s.officeRequest ∧
      (serveStatus body s).tillPorts = s.tillPorts ∧
      (serveStatus body s).freeCount = s.freeCount := by
  unfold serveStatus
  try dsimp only
  repeat' split
  all_goals simp

@[simp] theorem serveRetry_frame (body : List Byte) (s : State) :
    (serveRetry body s).pending = s.pending ∧
      (serveRetry body s).supply = s.supply ∧
      (serveRetry body s).site = s.site ∧
      (serveRetry body s).calendar = s.calendar ∧
      (serveRetry body s).cell = s.cell ∧
      (serveRetry body s).directory = s.directory ∧
      (serveRetry body s).working = s.working ∧
      (serveRetry body s).buffer = s.buffer ∧
      (serveRetry body s).waiters = s.waiters ∧
      (serveRetry body s).journal = s.journal ∧
      (serveRetry body s).reserved = s.reserved ∧
      (serveRetry body s).slots = s.slots ∧
      (serveRetry body s).nextQuoteId = s.nextQuoteId ∧
      (serveRetry body s).arbiter = s.arbiter ∧
      (serveRetry body s).assembly = s.assembly ∧
      (serveRetry body s).conditions = s.conditions ∧
      (serveRetry body s).officeRequest = s.officeRequest ∧
      (serveRetry body s).tillPorts = s.tillPorts ∧
      (serveRetry body s).freeCount = s.freeCount := by
  unfold serveRetry
  try dsimp only
  repeat' split
  all_goals simp

end Sys2Proof.Machine
end

