-- ==== Sys2Proof/Laws/FramesStore.lean ====
section
/-! SUPPORT. What the store completions, the drain and start-up leave unchanged: one lemma for each operation. -/

namespace Sys2Proof.Machine

@[simp] theorem setDrain_frame (d : DrainStage) (s : State) :
    (setDrain d s).pending = s.pending ∧
      (setDrain d s).site = s.site ∧
      (setDrain d s).calendar = s.calendar ∧
      (setDrain d s).cell = s.cell ∧
      (setDrain d s).store = s.store ∧
      (setDrain d s).directory = s.directory ∧
      (setDrain d s).working = s.working ∧
      (setDrain d s).buffer = s.buffer ∧
      (setDrain d s).waiters = s.waiters ∧
      (setDrain d s).journal = s.journal ∧
      (setDrain d s).reserved = s.reserved ∧
      (setDrain d s).slots = s.slots ∧
      (setDrain d s).nextQuoteId = s.nextQuoteId ∧
      (setDrain d s).arbiter = s.arbiter ∧
      (setDrain d s).assembly = s.assembly ∧
      (setDrain d s).conditions = s.conditions ∧
      (setDrain d s).officeRequest = s.officeRequest ∧
      (setDrain d s).officePort = s.officePort ∧
      (setDrain d s).tillPorts = s.tillPorts ∧
      (setDrain d s).freeCount = s.freeCount := by
  unfold setDrain
  try dsimp only
  all_goals simp

@[simp] theorem endDrain_frame (s : State) :
    (endDrain s).pending = s.pending ∧
      (endDrain s).site = s.site ∧
      (endDrain s).calendar = s.calendar ∧
      (endDrain s).cell = s.cell ∧
      (endDrain s).store = s.store ∧
      (endDrain s).directory = s.directory ∧
      (endDrain s).working = s.working ∧
      (endDrain s).buffer = s.buffer ∧
      (endDrain s).waiters = s.waiters ∧
      (endDrain s).journal = s.journal ∧
      (endDrain s).reserved = s.reserved ∧
      (endDrain s).slots = s.slots ∧
      (endDrain s).nextQuoteId = s.nextQuoteId ∧
      (endDrain s).arbiter = s.arbiter ∧
      (endDrain s).assembly = s.assembly ∧
      (endDrain s).conditions = s.conditions ∧
      (endDrain s).officeRequest = s.officeRequest ∧
      (endDrain s).officePort = s.officePort ∧
      (endDrain s).tillPorts = s.tillPorts ∧
      (endDrain s).freeCount = s.freeCount := by
  unfold endDrain
  try dsimp only
  all_goals simp

@[simp] theorem drainNext_frame (s : State) :
    (drainNext s).pending = s.pending ∧
      (drainNext s).site = s.site ∧
      (drainNext s).calendar = s.calendar ∧
      (drainNext s).cell = s.cell ∧
      (drainNext s).directory = s.directory ∧
      (drainNext s).working = s.working ∧
      (drainNext s).buffer = s.buffer ∧
      (drainNext s).waiters = s.waiters ∧
      (drainNext s).journal = s.journal ∧
      (drainNext s).reserved = s.reserved ∧
      (drainNext s).slots = s.slots ∧
      (drainNext s).nextQuoteId = s.nextQuoteId ∧
      (drainNext s).arbiter = s.arbiter ∧
      (drainNext s).assembly = s.assembly ∧
      (drainNext s).conditions = s.conditions ∧
      (drainNext s).officeRequest = s.officeRequest ∧
      (drainNext s).officePort = s.officePort ∧
      (drainNext s).tillPorts = s.tillPorts ∧
      (drainNext s).freeCount = s.freeCount := by
  unfold drainNext
  try dsimp only
  repeat' split
  all_goals simp

@[simp] theorem startDrain_frame (s : State) :
    (startDrain s).pending = s.pending ∧
      (startDrain s).site = s.site ∧
      (startDrain s).calendar = s.calendar ∧
      (startDrain s).cell = s.cell ∧
      (startDrain s).directory = s.directory ∧
      (startDrain s).working = s.working ∧
      (startDrain s).buffer = s.buffer ∧
      (startDrain s).waiters = s.waiters ∧
      (startDrain s).journal = s.journal ∧
      (startDrain s).reserved = s.reserved ∧
      (startDrain s).slots = s.slots ∧
      (startDrain s).nextQuoteId = s.nextQuoteId ∧
      (startDrain s).arbiter = s.arbiter ∧
      (startDrain s).assembly = s.assembly ∧
      (startDrain s).conditions = s.conditions ∧
      (startDrain s).officeRequest = s.officeRequest ∧
      (startDrain s).officePort = s.officePort ∧
      (startDrain s).tillPorts = s.tillPorts ∧
      (startDrain s).freeCount = s.freeCount := by
  unfold startDrain
  try dsimp only
  repeat' split
  all_goals simp

@[simp] theorem dropAll_frame (s : State) :
    (dropAll s).pending = s.pending ∧
      (dropAll s).site = s.site ∧
      (dropAll s).calendar = s.calendar ∧
      (dropAll s).cell = s.cell ∧
      (dropAll s).directory = s.directory ∧
      (dropAll s).working = s.working ∧
      (dropAll s).waiters = s.waiters ∧
      (dropAll s).journal = s.journal ∧
      (dropAll s).reserved = s.reserved ∧
      (dropAll s).slots = s.slots ∧
      (dropAll s).nextQuoteId = s.nextQuoteId ∧
      (dropAll s).arbiter = s.arbiter ∧
      (dropAll s).assembly = s.assembly ∧
      (dropAll s).conditions = s.conditions ∧
      (dropAll s).officeRequest = s.officeRequest ∧
      (dropAll s).officePort = s.officePort ∧
      (dropAll s).tillPorts = s.tillPorts ∧
      (dropAll s).freeCount = s.freeCount := by
  unfold dropAll
  try dsimp only
  all_goals simp

@[simp] theorem afterOperation_frame (s : State) :
    (afterOperation s).pending = s.pending ∧
      (afterOperation s).site = s.site ∧
      (afterOperation s).calendar = s.calendar ∧
      (afterOperation s).cell = s.cell ∧
      (afterOperation s).directory = s.directory ∧
      (afterOperation s).working = s.working ∧
      (afterOperation s).buffer = s.buffer ∧
      (afterOperation s).waiters = s.waiters ∧
      (afterOperation s).journal = s.journal ∧
      (afterOperation s).reserved = s.reserved ∧
      (afterOperation s).slots = s.slots ∧
      (afterOperation s).nextQuoteId = s.nextQuoteId ∧
      (afterOperation s).arbiter = s.arbiter ∧
      (afterOperation s).assembly = s.assembly ∧
      (afterOperation s).conditions = s.conditions ∧
      (afterOperation s).officeRequest = s.officeRequest ∧
      (afterOperation s).officePort = s.officePort ∧
      (afterOperation s).tillPorts = s.tillPorts ∧
      (afterOperation s).freeCount = s.freeCount := by
  unfold afterOperation
  try dsimp only
  repeat' split
  all_goals simp

@[simp] theorem setFaulted_frame (b : Bool) (s : State) :
    (setFaulted b s).pending = s.pending ∧
      (setFaulted b s).supply = s.supply ∧
      (setFaulted b s).site = s.site ∧
      (setFaulted b s).calendar = s.calendar ∧
      (setFaulted b s).cell = s.cell ∧
      (setFaulted b s).directory = s.directory ∧
      (setFaulted b s).working = s.working ∧
      (setFaulted b s).buffer = s.buffer ∧
      (setFaulted b s).waiters = s.waiters ∧
      (setFaulted b s).journal = s.journal ∧
      (setFaulted b s).reserved = s.reserved ∧
      (setFaulted b s).slots = s.slots ∧
      (setFaulted b s).nextQuoteId = s.nextQuoteId ∧
      (setFaulted b s).arbiter = s.arbiter ∧
      (setFaulted b s).assembly = s.assembly ∧
      (setFaulted b s).conditions = s.conditions ∧
      (setFaulted b s).officeRequest = s.officeRequest ∧
      (setFaulted b s).officePort = s.officePort ∧
      (setFaulted b s).tillPorts = s.tillPorts ∧
      (setFaulted b s).freeCount = s.freeCount := by
  unfold setFaulted
  try dsimp only
  all_goals simp

@[simp] theorem drainWrite_frame (u : CommitUnit) (r : ReadBack) (s : State) :
    (drainWrite u r s).pending = s.pending ∧
      (drainWrite u r s).site = s.site ∧
      (drainWrite u r s).calendar = s.calendar ∧
      (drainWrite u r s).cell = s.cell ∧
      (drainWrite u r s).directory = s.directory ∧
      (drainWrite u r s).waiters = s.waiters ∧
      (drainWrite u r s).journal = s.journal ∧
      (drainWrite u r s).reserved = s.reserved ∧
      (drainWrite u r s).slots = s.slots ∧
      (drainWrite u r s).nextQuoteId = s.nextQuoteId ∧
      (drainWrite u r s).arbiter = s.arbiter ∧
      (drainWrite u r s).assembly = s.assembly ∧
      (drainWrite u r s).officeRequest = s.officeRequest ∧
      (drainWrite u r s).tillPorts = s.tillPorts ∧
      (drainWrite u r s).freeCount = s.freeCount := by
  unfold drainWrite
  try dsimp only
  repeat' split
  all_goals simp

@[simp] theorem enterStart_frame (cause : OutageCause) (s : State) :
    (enterStart cause s).pending = s.pending ∧
      (enterStart cause s).site = s.site ∧
      (enterStart cause s).calendar = s.calendar ∧
      (enterStart cause s).cell = s.cell ∧
      (enterStart cause s).store = s.store ∧
      (enterStart cause s).directory = s.directory ∧
      (enterStart cause s).working = s.working ∧
      (enterStart cause s).buffer = s.buffer ∧
      (enterStart cause s).waiters = s.waiters ∧
      (enterStart cause s).journal = s.journal ∧
      (enterStart cause s).reserved = s.reserved ∧
      (enterStart cause s).slots = s.slots ∧
      (enterStart cause s).nextQuoteId = s.nextQuoteId ∧
      (enterStart cause s).arbiter = s.arbiter ∧
      (enterStart cause s).assembly = s.assembly ∧
      (enterStart cause s).conditions = s.conditions ∧
      (enterStart cause s).officeRequest = s.officeRequest ∧
      (enterStart cause s).officePort = s.officePort ∧
      (enterStart cause s).tillPorts = s.tillPorts ∧
      (enterStart cause s).freeCount = s.freeCount := by
  unfold enterStart
  try dsimp only
  all_goals simp

@[simp] theorem setSupply_frame (v : SupplyState) (s : State) :
    (setSupply v s).pending = s.pending ∧
      (setSupply v s).site = s.site ∧
      (setSupply v s).calendar = s.calendar ∧
      (setSupply v s).cell = s.cell ∧
      (setSupply v s).store = s.store ∧
      (setSupply v s).directory = s.directory ∧
      (setSupply v s).working = s.working ∧
      (setSupply v s).buffer = s.buffer ∧
      (setSupply v s).waiters = s.waiters ∧
      (setSupply v s).journal = s.journal ∧
      (setSupply v s).reserved = s.reserved ∧
      (setSupply v s).slots = s.slots ∧
      (setSupply v s).nextQuoteId = s.nextQuoteId ∧
      (setSupply v s).arbiter = s.arbiter ∧
      (setSupply v s).assembly = s.assembly ∧
      (setSupply v s).conditions = s.conditions ∧
      (setSupply v s).officeRequest = s.officeRequest ∧
      (setSupply v s).officePort = s.officePort ∧
      (setSupply v s).tillPorts = s.tillPorts ∧
      (setSupply v s).freeCount = s.freeCount := by
  unfold setSupply
  try dsimp only
  all_goals simp

@[simp] theorem endHoldState_frame (h : HoldRecord) (s : State) :
    (endHoldState h s).pending = s.pending ∧
      (endHoldState h s).site = s.site ∧
      (endHoldState h s).calendar = s.calendar ∧
      (endHoldState h s).cell = s.cell ∧
      (endHoldState h s).store = s.store ∧
      (endHoldState h s).directory = s.directory ∧
      (endHoldState h s).working = s.working ∧
      (endHoldState h s).buffer = s.buffer ∧
      (endHoldState h s).waiters = s.waiters ∧
      (endHoldState h s).journal = s.journal ∧
      (endHoldState h s).reserved = s.reserved ∧
      (endHoldState h s).slots = s.slots ∧
      (endHoldState h s).nextQuoteId = s.nextQuoteId ∧
      (endHoldState h s).arbiter = s.arbiter ∧
      (endHoldState h s).assembly = s.assembly ∧
      (endHoldState h s).conditions = s.conditions ∧
      (endHoldState h s).officeRequest = s.officeRequest ∧
      (endHoldState h s).officePort = s.officePort ∧
      (endHoldState h s).tillPorts = s.tillPorts ∧
      (endHoldState h s).freeCount = s.freeCount := by
  unfold endHoldState
  try dsimp only
  repeat' split
  all_goals simp

@[simp] theorem slotFetched_frame (t : Till) (s : State) :
    (slotFetched t s).pending = s.pending ∧
      (slotFetched t s).supply = s.supply ∧
      (slotFetched t s).site = s.site ∧
      (slotFetched t s).calendar = s.calendar ∧
      (slotFetched t s).cell = s.cell ∧
      (slotFetched t s).store = s.store ∧
      (slotFetched t s).directory = s.directory ∧
      (slotFetched t s).buffer = s.buffer ∧
      (slotFetched t s).waiters = s.waiters ∧
      (slotFetched t s).nextQuoteId = s.nextQuoteId ∧
      (slotFetched t s).assembly = s.assembly ∧
      (slotFetched t s).officeRequest = s.officeRequest ∧
      (slotFetched t s).freeCount = s.freeCount := by
  unfold slotFetched
  try dsimp only
  repeat' split
  all_goals simp

@[simp] theorem slotFetchFailed_frame (t : Till) (s : State) :
    (slotFetchFailed t s).pending = s.pending ∧
      (slotFetchFailed t s).supply = s.supply ∧
      (slotFetchFailed t s).site = s.site ∧
      (slotFetchFailed t s).calendar = s.calendar ∧
      (slotFetchFailed t s).cell = s.cell ∧
      (slotFetchFailed t s).store = s.store ∧
      (slotFetchFailed t s).directory = s.directory ∧
      (slotFetchFailed t s).buffer = s.buffer ∧
      (slotFetchFailed t s).waiters = s.waiters ∧
      (slotFetchFailed t s).nextQuoteId = s.nextQuoteId ∧
      (slotFetchFailed t s).arbiter = s.arbiter ∧
      (slotFetchFailed t s).assembly = s.assembly ∧
      (slotFetchFailed t s).officeRequest = s.officeRequest ∧
      (slotFetchFailed t s).freeCount = s.freeCount := by
  unfold slotFetchFailed
  try dsimp only
  repeat' split
  all_goals simp

@[simp] theorem ownerFetched_frame (o : Option Owner) (slot : Nat) (s : State) :
    (ownerFetched o slot s).pending = s.pending ∧
      (ownerFetched o slot s).supply = s.supply ∧
      (ownerFetched o slot s).store = s.store ∧
      (ownerFetched o slot s).nextQuoteId = s.nextQuoteId := by
  unfold ownerFetched
  try dsimp only
  repeat' split
  all_goals simp

@[simp] theorem ownerFetchFailed_frame (o : Option Owner) (s : State) :
    (ownerFetchFailed o s).pending = s.pending ∧
      (ownerFetchFailed o s).supply = s.supply ∧
      (ownerFetchFailed o s).site = s.site ∧
      (ownerFetchFailed o s).calendar = s.calendar ∧
      (ownerFetchFailed o s).cell = s.cell ∧
      (ownerFetchFailed o s).store = s.store ∧
      (ownerFetchFailed o s).directory = s.directory ∧
      (ownerFetchFailed o s).buffer = s.buffer ∧
      (ownerFetchFailed o s).waiters = s.waiters ∧
      (ownerFetchFailed o s).nextQuoteId = s.nextQuoteId ∧
      (ownerFetchFailed o s).arbiter = s.arbiter ∧
      (ownerFetchFailed o s).assembly = s.assembly ∧
      (ownerFetchFailed o s).freeCount = s.freeCount := by
  unfold ownerFetchFailed
  try dsimp only
  repeat' split
  all_goals simp

@[simp] theorem fillLine_frame (l : LineNo) (meter slot : Nat) (result : Option Record) (s : State) :
    (fillLine l meter slot result s).pending = s.pending ∧
      (fillLine l meter slot result s).supply = s.supply ∧
      (fillLine l meter slot result s).store = s.store ∧
      (fillLine l meter slot result s).nextQuoteId = s.nextQuoteId := by
  unfold fillLine
  try dsimp only
  repeat' split
  all_goals simp

@[simp] theorem alterSlot_frame (damaged : Bool) (slot : Nat) (s : State) :
    (alterSlot damaged slot s).pending = s.pending ∧
      (alterSlot damaged slot s).supply = s.supply ∧
      (alterSlot damaged slot s).site = s.site ∧
      (alterSlot damaged slot s).calendar = s.calendar ∧
      (alterSlot damaged slot s).cell = s.cell ∧
      (alterSlot damaged slot s).directory = s.directory ∧
      (alterSlot damaged slot s).working = s.working ∧
      (alterSlot damaged slot s).buffer = s.buffer ∧
      (alterSlot damaged slot s).waiters = s.waiters ∧
      (alterSlot damaged slot s).journal = s.journal ∧
      (alterSlot damaged slot s).reserved = s.reserved ∧
      (alterSlot damaged slot s).slots = s.slots ∧
      (alterSlot damaged slot s).nextQuoteId = s.nextQuoteId ∧
      (alterSlot damaged slot s).arbiter = s.arbiter ∧
      (alterSlot damaged slot s).assembly = s.assembly ∧
      (alterSlot damaged slot s).conditions = s.conditions ∧
      (alterSlot damaged slot s).officeRequest = s.officeRequest ∧
      (alterSlot damaged slot s).officePort = s.officePort ∧
      (alterSlot damaged slot s).tillPorts = s.tillPorts ∧
      (alterSlot damaged slot s).freeCount = s.freeCount := by
  unfold alterSlot
  try dsimp only
  repeat' split
  all_goals simp

@[simp] theorem areaReply_frame (f : Fetch) (s : State) :
    (areaReply f s).pending = s.pending ∧
      (areaReply f s).supply = s.supply ∧
      (areaReply f s).site = s.site ∧
      (areaReply f s).calendar = s.calendar ∧
      (areaReply f s).cell = s.cell ∧
      (areaReply f s).store = s.store ∧
      (areaReply f s).directory = s.directory ∧
      (areaReply f s).working = s.working ∧
      (areaReply f s).buffer = s.buffer ∧
      (areaReply f s).waiters = s.waiters ∧
      (areaReply f s).journal = s.journal ∧
      (areaReply f s).reserved = s.reserved ∧
      (areaReply f s).slots = s.slots ∧
      (areaReply f s).nextQuoteId = s.nextQuoteId ∧
      (areaReply f s).arbiter = s.arbiter ∧
      (areaReply f s).assembly = s.assembly ∧
      (areaReply f s).conditions = s.conditions ∧
      (areaReply f s).officeRequest = s.officeRequest ∧
      (areaReply f s).tillPorts = s.tillPorts ∧
      (areaReply f s).freeCount = s.freeCount := by
  unfold areaReply
  try dsimp only
  repeat' split
  all_goals simp

@[simp] theorem refusePendingHold_frame (s : State) :
    (refusePendingHold s).pending = s.pending ∧
      (refusePendingHold s).supply = s.supply ∧
      (refusePendingHold s).site = s.site ∧
      (refusePendingHold s).calendar = s.calendar ∧
      (refusePendingHold s).cell = s.cell ∧
      (refusePendingHold s).store = s.store ∧
      (refusePendingHold s).directory = s.directory ∧
      (refusePendingHold s).working = s.working ∧
      (refusePendingHold s).buffer = s.buffer ∧
      (refusePendingHold s).waiters = s.waiters ∧
      (refusePendingHold s).journal = s.journal ∧
      (refusePendingHold s).reserved = s.reserved ∧
      (refusePendingHold s).slots = s.slots ∧
      (refusePendingHold s).nextQuoteId = s.nextQuoteId ∧
      (refusePendingHold s).assembly = s.assembly ∧
      (refusePendingHold s).conditions = s.conditions ∧
      (refusePendingHold s).officeRequest = s.officeRequest ∧
      (refusePendingHold s).tillPorts = s.tillPorts ∧
      (refusePendingHold s).freeCount = s.freeCount := by
  unfold refusePendingHold
  try dsimp only
  repeat' split
  all_goals simp

@[simp] theorem storeFault_frame (s : State) :
    (storeFault s).pending = s.pending ∧
      (storeFault s).site = s.site ∧
      (storeFault s).calendar = s.calendar ∧
      (storeFault s).cell = s.cell ∧
      (storeFault s).directory = s.directory ∧
      (storeFault s).buffer = s.buffer ∧
      (storeFault s).reserved = s.reserved ∧
      (storeFault s).nextQuoteId = s.nextQuoteId ∧
      (storeFault s).officeRequest = s.officeRequest ∧
      (storeFault s).freeCount = s.freeCount := by
  unfold storeFault
  try dsimp only
  repeat' split
  all_goals simp

@[simp] theorem writeVerified_frame (u : CommitUnit) (s : State) :
    (writeVerified u s).pending = s.pending ∧
      (writeVerified u s).nextQuoteId = s.nextQuoteId ∧
      (writeVerified u s).arbiter = s.arbiter ∧
      (writeVerified u s).officeRequest = s.officeRequest := by
  unfold writeVerified
  try dsimp only
  repeat' split
  all_goals simp

@[simp] theorem unitWrite_frame (u : CommitUnit) (r : ReadBack) (s : State) :
    (unitWrite u r s).pending = s.pending ∧
      (unitWrite u r s).nextQuoteId = s.nextQuoteId ∧
      (unitWrite u r s).officeRequest = s.officeRequest := by
  unfold unitWrite
  try dsimp only
  repeat' split
  all_goals simp

@[simp] theorem retryVerified_frame (u : CommitUnit) (s : State) :
    (retryVerified u s).pending = s.pending ∧
      (retryVerified u s).nextQuoteId = s.nextQuoteId ∧
      (retryVerified u s).arbiter = s.arbiter ∧
      (retryVerified u s).officeRequest = s.officeRequest := by
  unfold retryVerified
  try dsimp only
  repeat' split
  all_goals simp

@[simp] theorem retryFailed_frame (s : State) :
    (retryFailed s).pending = s.pending ∧
      (retryFailed s).site = s.site ∧
      (retryFailed s).calendar = s.calendar ∧
      (retryFailed s).cell = s.cell ∧
      (retryFailed s).directory = s.directory ∧
      (retryFailed s).working = s.working ∧
      (retryFailed s).buffer = s.buffer ∧
      (retryFailed s).waiters = s.waiters ∧
      (retryFailed s).journal = s.journal ∧
      (retryFailed s).reserved = s.reserved ∧
      (retryFailed s).slots = s.slots ∧
      (retryFailed s).nextQuoteId = s.nextQuoteId ∧
      (retryFailed s).arbiter = s.arbiter ∧
      (retryFailed s).assembly = s.assembly ∧
      (retryFailed s).conditions = s.conditions ∧
      (retryFailed s).officeRequest = s.officeRequest ∧
      (retryFailed s).tillPorts = s.tillPorts ∧
      (retryFailed s).freeCount = s.freeCount := by
  unfold retryFailed
  try dsimp only
  repeat' split
  all_goals simp

@[simp] theorem retryAttempt_frame (u : CommitUnit) (r : ReadBack) (s : State) :
    (retryAttempt u r s).pending = s.pending ∧
      (retryAttempt u r s).nextQuoteId = s.nextQuoteId ∧
      (retryAttempt u r s).arbiter = s.arbiter ∧
      (retryAttempt u r s).officeRequest = s.officeRequest := by
  unfold retryAttempt
  try dsimp only
  repeat' split
  all_goals simp

@[simp] theorem abandonWork_frame (s : State) :
    (abandonWork s).pending = s.pending ∧
      (abandonWork s).supply = s.supply ∧
      (abandonWork s).site = s.site ∧
      (abandonWork s).calendar = s.calendar ∧
      (abandonWork s).cell = s.cell ∧
      (abandonWork s).directory = s.directory ∧
      (abandonWork s).working = s.working ∧
      (abandonWork s).buffer = s.buffer ∧
      (abandonWork s).journal = s.journal ∧
      (abandonWork s).reserved = s.reserved ∧
      (abandonWork s).nextQuoteId = s.nextQuoteId ∧
      (abandonWork s).conditions = s.conditions ∧
      (abandonWork s).freeCount = s.freeCount := by
  unfold abandonWork
  try dsimp only
  all_goals simp

@[simp] theorem enterHold_frame (cause : OutageCause) (s : State) :
    (enterHold cause s).pending = s.pending ∧
      (enterHold cause s).calendar = s.calendar ∧
      (enterHold cause s).cell = s.cell ∧
      (enterHold cause s).directory = s.directory ∧
      (enterHold cause s).working = s.working ∧
      (enterHold cause s).buffer = s.buffer ∧
      (enterHold cause s).journal = s.journal ∧
      (enterHold cause s).reserved = s.reserved ∧
      (enterHold cause s).nextQuoteId = s.nextQuoteId ∧
      (enterHold cause s).conditions = s.conditions ∧
      (enterHold cause s).freeCount = s.freeCount := by
  unfold enterHold
  try dsimp only
  repeat' split
  all_goals simp

@[simp] theorem abandonStart_frame (s : State) :
    (abandonStart s).pending = s.pending ∧
      (abandonStart s).site = s.site ∧
      (abandonStart s).calendar = s.calendar ∧
      (abandonStart s).cell = s.cell ∧
      (abandonStart s).store = s.store ∧
      (abandonStart s).directory = s.directory ∧
      (abandonStart s).working = s.working ∧
      (abandonStart s).journal = s.journal ∧
      (abandonStart s).reserved = s.reserved ∧
      (abandonStart s).slots = s.slots ∧
      (abandonStart s).nextQuoteId = s.nextQuoteId ∧
      (abandonStart s).arbiter = s.arbiter ∧
      (abandonStart s).assembly = s.assembly ∧
      (abandonStart s).conditions = s.conditions ∧
      (abandonStart s).officeRequest = s.officeRequest ∧
      (abandonStart s).tillPorts = s.tillPorts ∧
      (abandonStart s).freeCount = s.freeCount := by
  unfold abandonStart
  try dsimp only
  all_goals simp

@[simp] theorem resetVolatile_frame (s : State) :
    (resetVolatile s).pending = s.pending ∧
      (resetVolatile s).site = s.site ∧
      (resetVolatile s).calendar = s.calendar ∧
      (resetVolatile s).cell = s.cell ∧
      (resetVolatile s).directory = s.directory ∧
      (resetVolatile s).freeCount = s.freeCount := by
  unfold resetVolatile
  try dsimp only
  all_goals simp

@[simp] theorem readStore_frame (s : State) :
    (readStore s).pending = s.pending ∧
      (readStore s).supply = s.supply ∧
      (readStore s).calendar = s.calendar ∧
      (readStore s).cell = s.cell ∧
      (readStore s).store = s.store ∧
      (readStore s).working = s.working ∧
      (readStore s).buffer = s.buffer ∧
      (readStore s).waiters = s.waiters ∧
      (readStore s).reserved = s.reserved ∧
      (readStore s).slots = s.slots ∧
      (readStore s).nextQuoteId = s.nextQuoteId ∧
      (readStore s).arbiter = s.arbiter ∧
      (readStore s).assembly = s.assembly ∧
      (readStore s).conditions = s.conditions ∧
      (readStore s).officeRequest = s.officeRequest ∧
      (readStore s).officePort = s.officePort ∧
      (readStore s).tillPorts = s.tillPorts ∧
      (readStore s).freeCount = s.freeCount := by
  unfold readStore
  try dsimp only
  all_goals simp

@[simp] theorem testCalendar_frame (s : State) :
    (testCalendar s).pending = s.pending ∧
      (testCalendar s).supply = s.supply ∧
      (testCalendar s).site = s.site ∧
      (testCalendar s).store = s.store ∧
      (testCalendar s).directory = s.directory ∧
      (testCalendar s).working = s.working ∧
      (testCalendar s).buffer = s.buffer ∧
      (testCalendar s).waiters = s.waiters ∧
      (testCalendar s).journal = s.journal ∧
      (testCalendar s).reserved = s.reserved ∧
      (testCalendar s).slots = s.slots ∧
      (testCalendar s).nextQuoteId = s.nextQuoteId ∧
      (testCalendar s).arbiter = s.arbiter ∧
      (testCalendar s).assembly = s.assembly ∧
      (testCalendar s).conditions = s.conditions ∧
      (testCalendar s).officeRequest = s.officeRequest ∧
      (testCalendar s).officePort = s.officePort ∧
      (testCalendar s).tillPorts = s.tillPorts ∧
      (testCalendar s).freeCount = s.freeCount := by
  unfold testCalendar
  try dsimp only
  repeat' split
  all_goals simp

@[simp] theorem postPowerUp_frame (cell : Option HoldCell) (s : State) :
    (postPowerUp cell s).pending = s.pending ∧
      (postPowerUp cell s).supply = s.supply ∧
      (postPowerUp cell s).calendar = s.calendar ∧
      (postPowerUp cell s).cell = s.cell ∧
      (postPowerUp cell s).store = s.store ∧
      (postPowerUp cell s).directory = s.directory ∧
      (postPowerUp cell s).working = s.working ∧
      (postPowerUp cell s).reserved = s.reserved ∧
      (postPowerUp cell s).slots = s.slots ∧
      (postPowerUp cell s).nextQuoteId = s.nextQuoteId ∧
      (postPowerUp cell s).arbiter = s.arbiter ∧
      (postPowerUp cell s).assembly = s.assembly ∧
      (postPowerUp cell s).officeRequest = s.officeRequest ∧
      (postPowerUp cell s).tillPorts = s.tillPorts ∧
      (postPowerUp cell s).freeCount = s.freeCount := by
  unfold postPowerUp
  try dsimp only
  repeat' split
  all_goals simp

@[simp] theorem startLinks_frame (s : State) :
    (startLinks s).pending = s.pending ∧
      (startLinks s).supply = s.supply ∧
      (startLinks s).site = s.site ∧
      (startLinks s).calendar = s.calendar ∧
      (startLinks s).cell = s.cell ∧
      (startLinks s).store = s.store ∧
      (startLinks s).directory = s.directory ∧
      (startLinks s).working = s.working ∧
      (startLinks s).buffer = s.buffer ∧
      (startLinks s).waiters = s.waiters ∧
      (startLinks s).journal = s.journal ∧
      (startLinks s).reserved = s.reserved ∧
      (startLinks s).slots = s.slots ∧
      (startLinks s).nextQuoteId = s.nextQuoteId ∧
      (startLinks s).arbiter = s.arbiter ∧
      (startLinks s).assembly = s.assembly ∧
      (startLinks s).conditions = s.conditions ∧
      (startLinks s).officeRequest = s.officeRequest ∧
      (startLinks s).freeCount = s.freeCount := by
  unfold startLinks
  try dsimp only
  all_goals simp

@[simp] theorem startRollover_frame (s : State) :
    (startRollover s).pending = s.pending ∧
      (startRollover s).supply = s.supply ∧
      (startRollover s).calendar = s.calendar ∧
      (startRollover s).cell = s.cell ∧
      (startRollover s).store = s.store ∧
      (startRollover s).directory = s.directory ∧
      (startRollover s).nextQuoteId = s.nextQuoteId ∧
      (startRollover s).arbiter = s.arbiter ∧
      (startRollover s).assembly = s.assembly ∧
      (startRollover s).officeRequest = s.officeRequest ∧
      (startRollover s).tillPorts = s.tillPorts ∧
      (startRollover s).freeCount = s.freeCount := by
  unfold startRollover
  try dsimp only
  repeat' split
  all_goals simp

@[simp] theorem startUp_frame (s : State) :
    (startUp s).pending = s.pending ∧
      (startUp s).freeCount = s.freeCount := by
  unfold startUp
  try dsimp only
  all_goals simp

end Sys2Proof.Machine
end

