-- ==== Sys2Proof/Laws/Steps.lean ====
section
/-! SUPPORT. What a step ends with, and what a port does with a request: the lemmas that claims about commands cite. -/

namespace Sys2Proof.Machine

@[simp] theorem finish_eq (s : State) : finish s = .next (settle s) := rfl

/-! ### Parts kept -/

theorem keepsAllBut_refl (l : List Part) (s : State) : keepsAllBut l s s := by
  intro p _
  cases p <;> simp [Part.same]

theorem Part.same_trans {p : Part} {s t u : State} (h : p.same s t) (k : p.same t u) : p.same s u := by
  cases p <;> simp_all [Part.same]

theorem keepsAllBut_trans {l : List Part} {s t u : State} (h : keepsAllBut l s t) (k : keepsAllBut l t u) :
    keepsAllBut l s u := fun p hp => Part.same_trans (h p hp) (k p hp)

theorem keepsAllBut_mono {l m : List Part} {s t : State} (h : keepsAllBut l s t) (hs : ∀ p ∈ l, p ∈ m) :
    keepsAllBut m s t := fun p hp => h p fun hl => hp (hs p hl)

/-! ### The transmitters -/

/-- No reply is of the kind of a notice (Table 11-5). -/
theorem replyKind_ne_notice (r : Reply) : replyKind r ≠ kindNotice := by
  cases r <;> simp [replyKind, kindNotice, kindRefused]

theorem pumpPort_port_other (p k : PortId) (s : State) (h : p ≠ k) : (pumpPort p s).port k = s.port k := by
  unfold pumpPort
  dsimp only
  split
  · split
    · simp [State.port_setPort, h]
    · rfl
  · rfl

theorem pumpPort_standing (p k : PortId) (s : State) : ((pumpPort p s).port k).standing = (s.port k).standing := by
  by_cases h : p = k
  · subst h
    unfold pumpPort
    dsimp only
    split
    · split
      · simp [LinkPort.standing]
      · rfl
    · rfl
  · rw [pumpPort_port_other p k s h]

theorem pumpPort_outstanding (p k : PortId) (s : State) :
    ((pumpPort p s).port k).outstanding = (s.port k).outstanding := by
  by_cases h : p = k
  · subst h
    unfold pumpPort
    dsimp only
    split
    · split
      · simp
      · rfl
    · rfl
  · rw [pumpPort_port_other p k s h]

theorem pumpPort_replies (p k : PortId) (s : State) : (pumpPort p s).replies k = s.replies k := by
  by_cases h : p = k
  · subst h
    unfold pumpPort
    dsimp only
    split
    · rename_i i rest h1 h2 h3
      split
      · cases i with
        | reply tag r b =>
          simp [State.replies, LinkPort.sending, h2, h3, TxItem.replyFrame?, replyFrame, frameOf, replyKind_ne_notice]
        | notice c =>
          simp [State.replies, LinkPort.sending, h2, h3, List.filterMap_cons, TxItem.replyFrame?, frameOf]
      · rfl
    · rfl
  · simp only [State.replies, pumpPort_port_other p k s h]

/-- The transmitters change no part: they only begin what is ready (R201). -/
theorem pumpPort_keeps (p : PortId) (s : State) : keepsAllBut [] s (pumpPort p s) := by
  intro q _
  cases q <;> simp [Part.same, State.slot, pumpPort_standing, pumpPort_outstanding, pumpPort_replies]

theorem pumpAll_keeps (s : State) : keepsAllBut [] s (pumpAll s) :=
  keepsAllBut_trans (keepsAllBut_trans (keepsAllBut_trans (keepsAllBut_trans (pumpPort_keeps _ _)
    (pumpPort_keeps _ _)) (pumpPort_keeps _ _)) (pumpPort_keeps _ _)) (pumpPort_keeps _ _)

/-- The store's choice changes its service state and its queues alone (R109). -/
theorem chooseOperation_areas (s : State) : (chooseOperation s).store.areas = s.store.areas := by
  unfold chooseOperation setService
  repeat' split
  all_goals rfl

theorem chooseOperation_port (s : State) (p : PortId) : (chooseOperation s).port p = s.port p := by
  cases p <;> simp [State.port]

theorem chooseOperation_keeps (s : State) : keepsAllBut [] s (chooseOperation s) := by
  intro q _
  cases q <;> simp [Part.same, State.slot, chooseOperation_areas, chooseOperation_port, State.replies]

/-- Nothing is granted where no PENDING hold waits for nothing (R81). -/
theorem grantHold_rest {s : State} (h : s.holdAtRest) : grantHold s = s := by
  unfold grantHold
  split
  · rename_i h1
    simp only [Bool.and_eq_true, beq_iff_eq, List.isEmpty_iff] at h1
    exact absurd h1.2 (h h1.1.2)
  · rfl

/-- The end of a step changes no part of a state whose hold is at rest. -/
theorem settle_keeps {s : State} (h : s.holdAtRest) : keepsAllBut [] s (settle s) := by
  unfold settle
  rw [grantHold_rest h]
  exact keepsAllBut_trans (chooseOperation_keeps s) (pumpAll_keeps _)

/-- After the end of a step in RUN no PENDING hold waits for nothing (R81). -/
theorem grantHold_atRest {s : State} (h : s.running = true) : (grantHold s).holdAtRest := by
  intro hp hb
  unfold grantHold at hp hb
  split at hp
  · simp at hp
  · rename_i h1
    simp [h] at h1
    simp_all

/-! ### Requests at a port -/

/-- A request that its port takes becomes outstanding and is served (R199). -/
theorem portTake_takes {s : State} {p : PortId} {kind tag : Byte} {body : List Byte} (h : s.takes p tag body)
    (busy serve : State → State) :
    portTake p kind tag body busy serve s = serve (s.modPort p fun q => { q with outstanding := some ⟨tag, kind⟩ }) := by
  obtain ⟨h1, h2, h3, h4, h5⟩ := h
  have h6 : ¬(tag = 0 ∨ maxBody < body.length) := fun h => h.elim h4 (Nat.not_lt.mpr h5)
  simp only [portTake, h1, h2, h3, if_neg h6, Bool.not_true, Bool.false_eq_true, if_false, Option.isSome_none]

/-- A port that does not receive takes nothing (R194, R198). -/
theorem portTake_closed {s : State} {p : PortId} (h : s.receives p = false) (kind tag : Byte) (body : List Byte)
    (busy serve : State → State) : portTake p kind tag body busy serve s = s := by
  simp [portTake, h]

/-- The reply to a request at its port: the reply is ready and nothing is outstanding (R199). -/
theorem answer_replied {s : State} {p : PortId} (h : s.receives p = true) (tag : Byte) (r : Reply) :
    replied p tag r s (answer p tag r s) := by
  simp only [State.receives, Bool.and_eq_true, beq_iff_eq] at h
  have h1 : ∀ f, (s.modPort p f).running = true := fun f => by simpa [State.running] using h.1
  simp [replied, answer, pushReply, endOutstanding, h1, h.2, State.replies, LinkPort.sending, TxItem.replyFrame?]

end Sys2Proof.Machine
end

