-- ==== Sys2Proof/Laws/Bytes.lean ====
section
/-! SUPPORT. Bytes, digits and fields read back: what the parsers see of what the senders write. -/

namespace Sys2Proof.Machine

theorem beBytes_length (n v : Nat) : (beBytes n v).length = n := by
  induction n generalizing v with
  | zero => rfl
  | succ n ih => simp [beBytes, ih]

theorem ofBe_append (a : List Byte) (b : Byte) : ofBe (a ++ [b]) = ofBe a * 256 + b.toNat := by
  simp [ofBe, List.foldl_append]

/-- Bytes written big end first are read back. -/
theorem ofBe_beBytes (n v : Nat) : ofBe (beBytes n v) = v % 256 ^ n := by
  induction n generalizing v with
  | zero => simp [beBytes, ofBe, Nat.mod_one]
  | succ n ih =>
    rw [beBytes, ofBe_append, ih]
    simp only [BitVec.toNat_ofNat]
    have : (256:Nat) ^ (n+1) = 256 * 256 ^ n := by ring
    rw [this, Nat.mod_mul]
    norm_num
    ring

theorem checkOf_two (k : Nat) (h : k < 65536) : ofBe (beBytes 2 k) = k := by rw [ofBe_beBytes]; norm_num; omega

/-- The receiver goes on to the end of a frame (R194). -/
theorem receive_mid (got rest : List Byte) (len : Byte) (h1 : (got)[1]? = some len) (hl : len.toNat ≤ maxBody)
    (h2 : got.length + rest.length = len.toNat + 6) (hr : rest ≠ []) :
    receive (.receiving got) (rest.map fun b => ⟨b, true⟩) = (.hunt, some (judgeFrame (got ++ rest))) := by
  induction rest generalizing got with
  | nil => exact absurd rfl hr
  | cons b rest ih =>
    have hlen : 2 ≤ got.length := by
      rcases Nat.lt_or_ge got.length 2 with h | h
      · rw [List.getElem?_eq_none (by omega)] at h1; cases h1
      · exact h
    have h1' : (got ++ [b])[1]? = some len := by rw [List.getElem?_append_left (by omega)]; exact h1
    simp only [List.map_cons, receive, receiveChar, Bool.not_true, Bool.false_eq_true, if_false, h1']
    have hnl : ¬ len.toNat > maxBody := by omega
    simp only [hnl, if_false]
    by_cases hrest : rest = []
    · subst hrest
      have : (got ++ [b]).length = len.toNat + 6 := by simp at h2 ⊢; omega
      rw [if_pos this]
    · have : ¬ (got ++ [b]).length = len.toNat + 6 := by
        have : 0 < rest.length := List.length_pos_iff.mpr hrest
        simp at h2 ⊢; omega
      rw [if_neg this]
      dsimp only
      have := ih (got ++ [b]) h1' (by simp at h2 ⊢; omega) hrest
      rw [this]; simp

theorem byteSum_le (l : List Byte) : (l.map BitVec.toNat).sum ≤ 255 * l.length := by
  induction l with
  | nil => simp
  | cons b l ih => simp only [List.map_cons, List.sum_cons, List.length_cons]; have := b.isLt; omega

theorem lengthByte_toNat {n : Nat} (h : n ≤ 200) : (BitVec.ofNat 8 n).toNat = n := by simp; omega

/-- The bytes the sender forms are judged good (R195). -/
theorem judge_wire (kind tag : Byte) (body : List Byte) (hb : body.length ≤ maxBody) (tail : List Byte) :
    judgeFrame (leadByte :: BitVec.ofNat 8 body.length :: kind :: tag :: (body ++ tail)) =
      if ofBe tail = checkOf (BitVec.ofNat 8 body.length :: kind :: tag :: body) ∧ tag ≠ 0 then .good ⟨kind, tag, body⟩ else .discarded := by
  have := lengthByte_toNat hb
  simp only [judgeFrame, this]
  simp

theorem decimalDigits_length (n v : Nat) : (decimalDigits n v).length = n := by
  induction n generalizing v with
  | zero => rfl
  | succ n ih => simp [decimalDigits, ih]

theorem decimalDigits_le (n v : Nat) : ∀ d ∈ decimalDigits n v, d ≤ 9 := by
  induction n generalizing v with
  | zero => simp [decimalDigits]
  | succ n ih =>
    intro d hd
    simp only [decimalDigits, List.mem_append, List.mem_singleton] at hd
    rcases hd with hd | rfl
    · exact ih _ d hd
    · omega

theorem plainBody_length (c : TokenClass) (a b d m : Nat) : (plainBody c a b d m).length = 16 := by simp [plainBody, decimalDigits_length]

theorem plainBody_le (c : TokenClass) (a b d m : Nat) : ∀ x ∈ plainBody c a b d m, x ≤ 9 := by
  intro x hx
  simp only [plainBody, List.mem_cons, List.mem_append] at hx
  rcases hx with rfl | ((hx | hx) | hx) | hx
  · cases c <;> simp [classDigit]
  all_goals exact decimalDigits_le _ _ x hx

theorem plainDigits_length (c : TokenClass) (a b d m : Nat) :
    (plainDigits c a b d m).length = 18 := by simp [plainDigits, plainBody_length, decimalDigits_length]

theorem plainDigits_le (c : TokenClass) (a b d m : Nat) : ∀ x ∈ plainDigits c a b d m, x ≤ 9 := by
  intro x hx
  simp only [plainDigits, List.mem_append] at hx
  rcases hx with hx | hx
  · exact plainBody_le _ _ _ _ _ x hx
  · exact decimalDigits_le _ _ x hx

theorem maskDigit_lt (code : Digits) (m j : Nat) : maskDigit code m j < 10 := by unfold maskDigit; dsimp only; omega

/-- The weighted sum of R85 from its definition. -/
theorem checkSum_eq (ds : Digits) (i : Nat) : checkSum i ds =
    ((List.range ds.length).map fun j => (i + j + 1) * ds.getD j 0).sum := by
  induction ds generalizing i with
  | nil => simp [checkSum]
  | cons d ds ih =>
    rw [checkSum, ih, List.length_cons, List.range_succ_eq_map]
    simp only [List.map_cons, List.sum_cons, List.map_map, List.getD_cons_zero, Nat.add_zero]
    congr 1
    congr 1
    apply List.map_congr_left
    intro j _
    simp only [Function.comp, List.getD_cons_succ, Nat.succ_eq_add_one]
    ring

theorem sum_range_sixteen (f : Nat → Nat) : ((List.range 16).map f).sum = f 0 + f 1 + f 2 + f 3 + f 4 + f 5 + f 6 + f 7 + f 8 + f 9 + f 10 + f 11 + f 12 + f 13 + f 14 + f 15 := by
  simp [List.range_succ]; ring

/-- The check of sixteen digits (R85). -/
theorem tokenCheck_eq (ds : Digits) (h : ds.length = 16) : tokenCheck ds =
    ((List.range 16).map fun i => (i + 1) * ds.getD i 0).sum % 97 := by
  unfold tokenCheck; rw [checkSum_eq, h]; simp

theorem digit_le {ds : Digits} (h : ∀ d ∈ ds, d ≤ 9) (i : Nat) : ds.getD i 0 ≤ 9 := by
  rw [List.getD_eq_getElem?_getD]
  rcases Nat.lt_or_ge i ds.length with hi | hi
  · rw [List.getElem?_eq_getElem hi]; exact h _ (List.getElem_mem hi)
  · rw [List.getElem?_eq_none hi]; simp

theorem digit_set (ds : Digits) (i j d : Nat) (hi : i < ds.length) :
    (ds.set i d).getD j 0 = if i = j then d else ds.getD j 0 := by
  simp only [List.getD_eq_getElem?_getD, List.getElem?_set]
  split
  · rename_i h; subst h; simp
  · rfl

/-- A weighted sum with one weight's value changed. -/
theorem weightedSum_set (w : Nat → Nat) (g : Nat → Nat) (i d : Nat) :
    ∀ n, i < n → ((List.range n).map fun j => w j * (if i = j then d else g j)).sum + w i * g i = ((List.range n).map fun j => w j * g j).sum + w i * d := by
  intro n
  induction n with
  | zero => intro h; omega
  | succ n ih =>
    intro hi
    rw [List.range_succ, List.map_append, List.sum_append, List.map_append, List.sum_append]
    simp only [List.map_cons, List.map_nil, List.sum_cons, List.sum_nil, Nat.add_zero]
    rcases Nat.lt_or_ge i n with h | h
    · have := ih h
      rw [if_neg (by omega)]; omega
    · have hin : i = n := by omega
      subst hin
      rw [if_pos rfl]
      have : ((List.range i).map fun j => w j * (if i = j then d else g j)) = (List.range i).map fun j => w j * g j := by
        apply List.map_congr_left; intro j hj
        rw [if_neg (by simp at hj; omega)]
      rw [this]; omega

theorem ofBe_of_lt {n v : Nat} (h : v < 256 ^ n) : ofBe (beBytes n v) = v := by rw [ofBe_beBytes]; exact Nat.mod_eq_of_lt h

theorem ofBe_boolByte (b : Bool) : ofBe (boolByte b) = if b then 1 else 0 := by cases b <;> rfl

theorem boolOf_if (b : Bool) : boolOf (if b then 1 else 0) = some b := by cases b <;> rfl

theorem meter_lt_five_bytes {m : Nat} (h : meterInRange m = true) : m < 256 ^ 5 := by
  simp only [meterInRange, Bool.and_eq_true, decide_eq_true_eq] at h; norm_num; omega

theorem ofBe_meter {m : Nat} (h : meterInRange m = true) : ofBe (beBytes 5 m) = m := ofBe_of_lt (meter_lt_five_bytes h)

theorem yearOfDay_bounds {day : Nat} (h : day ≤ 36524) : yearOfDay day ≤ 99 ∧ daysBeforeYear (yearOfDay day) ≤ day ∧
    day < daysBeforeYear (yearOfDay day) + (if yearOfDay day % 4 = 0 then 366 else 365) := by
  unfold yearOfDay daysBeforeYear; dsimp only
  split <;> split <;> omega

def splitAgrees (L : List Nat) (r : Nat) : Bool :=
  let p := splitMonth L 1 r
  decide (1 ≤ p.1) && decide (p.1 ≤ 12) && decide (1 ≤ p.2) && decide (p.2 ≤ L.getD (p.1 - 1) 0) && decide ((L.take (p.1 - 1)).sum + (p.2 - 1) = r)

theorem splitAgrees_leap : ∀ r < 366, splitAgrees [31, 29, 31, 30, 31, 30, 31, 31, 30, 31, 30,
    31] r = true := by decide +kernel

theorem splitAgrees_plain : ∀ r < 365, splitAgrees [31, 28, 31, 30, 31, 30, 31, 31, 30, 31, 30,
    31] r = true := by decide +kernel

/-- A day is the day of its date. -/
theorem dayOfDate_dateOfDay {day : Nat} (h : day ≤ lastDay) : let p := dateOfDay day
    p.1 ≤ 99 ∧ p.2.1 ≤ 12 ∧ p.2.2 ≤ 31 ∧ isRealDate p.1 p.2.1 p.2.2 = true ∧ dayOfDate p.1 p.2.1 p.2.2 = day := by
  obtain ⟨h1, h2, h3⟩ := yearOfDay_bounds h
  unfold dateOfDay; dsimp only
  generalize hy : yearOfDay day = y at *
  have hs : splitAgrees (monthLengths y) (day - daysBeforeYear y) = true := by
    unfold monthLengths
    by_cases hl : y % 4 = 0
    · rw [if_pos hl]; exact splitAgrees_leap _ (by rw [if_pos hl] at h3; omega)
    · rw [if_neg hl]; exact splitAgrees_plain _ (by rw [if_neg hl] at h3; omega)
  simp only [splitAgrees, Bool.and_eq_true, decide_eq_true_eq] at hs
  obtain ⟨⟨⟨⟨a, b⟩, c⟩, d⟩, e⟩ := hs
  generalize splitMonth (monthLengths y) 1 (day - daysBeforeYear y) = p at *
  refine ⟨h1, b, ?_, ?_, ?_⟩
  · have : ∀ i, (monthLengths y).getD i 0 ≤ 31 := by
      intro i
      rcases Nat.lt_or_ge i 12 with hi | hi
      · unfold monthLengths; interval_cases i <;> simp <;> split <;> omega
      · rw [List.getD_eq_getElem?_getD, List.getElem?_eq_none (by simp [monthLengths]; omega)]; simp
    exact le_trans d (this _)
  · simp only [isRealDate, Bool.and_eq_true, decide_eq_true_eq]; exact ⟨⟨⟨⟨h1, a⟩, b⟩, c⟩, d⟩
  · unfold dayOfDate; omega

theorem dateBytes_eq (day : Nat) : dateBytes day = beBytes 1 (dateOfDay day).1 ++ beBytes 1
    (dateOfDay day).2.1 ++ beBytes 1 (dateOfDay day).2.2 := rfl

theorem fieldAt_date {day : Nat} (h : day ≤ lastDay) (b : List Byte) (off : Nat)
    (h0 : fieldAt b off 1 = ofBe (beBytes 1 (dateOfDay day).1))
    (h1 : fieldAt b (off + 1) 1 = ofBe (beBytes 1 (dateOfDay day).2.1)) (h2 : fieldAt b (off + 2) 1 = ofBe (beBytes 1 (dateOfDay day).2.2)) : dateAt b off = some day := by
  obtain ⟨a, c, d, e, f⟩ := dayOfDate_dateOfDay h
  unfold dateAt
  rw [h0, h1, h2, ofBe_of_lt (by norm_num; omega), ofBe_of_lt (by norm_num; omega), ofBe_of_lt (by norm_num; omega)]
  dsimp only
  rw [if_pos e, f]

theorem beBytes_ne_absent {n v : Nat} (h : v < 256 ^ n - 1) (hn : 0 < n) : beBytes n v ≠ absentBytes n := by
  intro e
  have h1 := congrArg ofBe e
  rw [ofBe_beBytes, Nat.mod_eq_of_lt (by omega)] at h1
  have : ∀ n, ofBe (absentBytes n) = 256 ^ n - 1 := by
    intro n
    induction n with
    | zero => rfl
    | succ n ih =>
      have : absentBytes (n+1) = absentBytes n ++ [0xFF] := by unfold absentBytes; exact List.replicate_succ'
      rw [this, ofBe_append, ih]
      have : (256:Nat) ^ n ≥ 1 := Nat.one_le_two_pow.trans (Nat.pow_le_pow_left (by norm_num) n)
      have e2 : (0xFF : Byte).toNat = 255 := rfl
      rw [e2, Nat.pow_succ]; omega
  rw [this] at h1; omega

/-- An optional field is read back. -/
theorem optFieldAt_opt {b : List Byte} {off n : Nat} {o : Option Nat} (h : (b.drop off).take n = optBytes n o)
    (hv : ∀ v, o = some v → v < 256 ^ n - 1) (hn : 0 < n) : optFieldAt b off n = o := by
  unfold optFieldAt fieldAt
  rw [h]
  cases o with
  | none => simp [optBytes]
  | some v =>
    have := hv v rfl
    show (if optBytes n (some v) = absentBytes n then none else some (ofBe (optBytes n (some v)))) = some v
    rw [if_neg (show ¬ optBytes n (some v) = absentBytes n from beBytes_ne_absent this hn)]
    exact congrArg some (ofBe_of_lt (by omega))

theorem optBytes_length (n : Nat) (o : Option Nat) : (optBytes n o).length = n := by cases o <;> simp [optBytes, absentBytes, beBytes_length]

theorem optBytes_one (o : Option Nat) : ∃ a, optBytes 1 o = [a] := by cases o <;> exact ⟨_, rfl⟩

theorem optBytes_four (o : Option Nat) : ∃ a b c d, optBytes 4 o = [a, b, c,
    d] := by cases o <;> exact ⟨_, _, _, _, rfl⟩

theorem optBytes_three (o : Option Nat) : ∃ a b c, optBytes 3 o = [a, b, c] := by cases o <;> exact ⟨_, _, _, rfl⟩

theorem beBytes_one (v : Nat) : ∃ a, beBytes 1 v = [a] := ⟨_, rfl⟩

/-- Digits sent as pairs are read back. -/
theorem digitsOfPairs_digitPairs : ∀ (ds : Digits), ds.length % 2 = 0 → (∀ d ∈ ds, d ≤ 9) → digitsOfPairs
    (digitPairs ds) = ds ∧ 2 * (digitPairs ds).length = ds.length
  | [], _, _ => by simp [digitPairs, digitsOfPairs]
  | [a], h, _ => by simp at h
  | a :: b :: ds, h, hd => by
    have ha : a ≤ 9 := hd a (by simp)
    have hb : b ≤ 9 := hd b (by simp)
    obtain ⟨h1, h2⟩ := digitsOfPairs_digitPairs ds (by simp at h ⊢; omega) (fun d hx => hd d (by simp [hx]))
    refine ⟨?_, ?_⟩
    · simp only [digitPairs, digitsOfPairs, h1]
      have : (BitVec.ofNat 8 (a * 16 + b)).toNat = a * 16 + b := by simp; omega
      rw [this]
      congr 1
      · omega
      · congr 1; omega
    · simp only [digitPairs, List.length_cons]; omega

theorem paddedBytes_three (l : List Nat) : paddedBytes 3 l = optBytes 3 l[0]? ++ optBytes 3 l[1]? ++ optBytes 3 l[2]? := by
  simp [paddedBytes, List.range_succ]

theorem paddedBytes_four (l : List Nat) : paddedBytes 4 l = optBytes 3 l[0]? ++ optBytes 3 l[1]? ++ optBytes 3 l[2]? ++ optBytes 3 l[3]? := by
  simp [paddedBytes, List.range_succ]

/-- the raw entry read back from entryBytes -/
def orAbsent (o : Option Nat) : Nat := match o with
    | none => 16777215
    | some v => v

def rawOf (e : TariffEntry) : RawEntry :=
  let g := orAbsent
  match e with
  | none => ⟨false, 16777215, 65535, 255, [16777215, 16777215, 16777215], [16777215, 16777215, 16777215, 16777215]⟩
  | some t => ⟨true, t.serviceCharge, t.lifeline, t.prices.length, [g t.bounds[0]?, g t.bounds[1]?, g t.bounds[2]?], [g t.prices[0]?, g t.prices[1]?, g t.prices[2]?, g t.prices[3]?]⟩

theorem ofBe_optBytes (o : Option Nat) (h : ∀ v, o = some v → v < 16777216) : ofBe (optBytes 3 o) = orAbsent o := by
  cases o with
  | none => rfl
  | some v => exact ofBe_of_lt (by have := h v rfl; norm_num; omega)

theorem entryBytes_length (e : TariffEntry) : (entryBytes e).length = 28 := by
  cases e with
  | none => rfl
  | some t => simp [entryBytes, paddedBytes_three, paddedBytes_four, optBytes_length, beBytes_length, boolByte]

theorem fieldAt_shift (a b : List Byte) (off n : Nat) (h : off = a.length) (c : List Byte) (k : Nat)
    (hk : k + n ≤ b.length) :
    fieldAt (a ++ (b ++ c)) (off + k) n = fieldAt b k n := by
  subst h
  unfold fieldAt
  rw [List.drop_append, List.drop_of_length_le (by omega), List.nil_append]
  rw [Nat.add_sub_cancel_left]
  rw [List.drop_append_of_le_length (by omega), List.take_append_of_le_length (by simp; omega)]

/-- A tariff entry is read back as it was written. -/
theorem rawEntryAt_entryBytes (e : TariffEntry) (hv : ∀ tf, e = some tf → tf.valid) :
    rawEntryAt (entryBytes e) 0 = some (rawOf e) := by
  cases e with
  | none => rfl
  | some t =>
    obtain ⟨v1, v2, v3, v4, v5, v6⟩ := hv t rfl
    have hp : ∀ i v, t.prices[i]? = some v → v < 16777216 := fun i v h => by
      have := v6 v (List.mem_of_getElem? h); omega
    have hb : ∀ u ∈ t.bounds, u ≤ 9999998 := by
      have : ∀ (us : List Nat) (c : Nat), boundsValid c us = true → ∀ u ∈ us, u ≤ 9999998 := by
        intro us
        induction us with
        | nil => simp
        | cons a us ih =>
          intro c h u hu
          simp only [boundsValid, Bool.and_eq_true, decide_eq_true_eq] at h
          rcases List.mem_cons.mp hu with rfl | hu
          · exact h.1.2
          · exact ih _ h.2 u hu
      exact this _ 0 v5
    have hbb : ∀ i v, t.bounds[i]? = some v → v < 16777216 := fun i v h => by
      have := hb v (List.mem_of_getElem? h); omega
    have g0 := ofBe_optBytes t.bounds[0]? (hbb 0)
    have g1 := ofBe_optBytes t.bounds[1]? (hbb 1)
    have g2 := ofBe_optBytes t.bounds[2]? (hbb 2)
    have p0 := ofBe_optBytes t.prices[0]? (hp 0)
    have p1 := ofBe_optBytes t.prices[1]? (hp 1)
    have p2 := ofBe_optBytes t.prices[2]? (hp 2)
    have p3 := ofBe_optBytes t.prices[3]? (hp 3)
    unfold rawEntryAt
    simp only [entryBytes, paddedBytes_three, paddedBytes_four]
    generalize hB0 : optBytes 3 t.bounds[0]? = B0 at *
    generalize hB1 : optBytes 3 t.bounds[1]? = B1 at *
    generalize hB2 : optBytes 3 t.bounds[2]? = B2 at *
    generalize hP0 : optBytes 3 t.prices[0]? = P0 at *
    generalize hP1 : optBytes 3 t.prices[1]? = P1 at *
    generalize hP2 : optBytes 3 t.prices[2]? = P2 at *
    generalize hP3 : optBytes 3 t.prices[3]? = P3 at *
    obtain ⟨a0, a1, a2, e0⟩ : ∃ a b c, B0 = [a, b, c] := hB0 ▸ optBytes_three _
    obtain ⟨a3, a4, a5, e1⟩ : ∃ a b c, B1 = [a, b, c] := hB1 ▸ optBytes_three _
    obtain ⟨a6, a7, a8, e2⟩ : ∃ a b c, B2 = [a, b, c] := hB2 ▸ optBytes_three _
    obtain ⟨c0, c1, c2, e3⟩ : ∃ a b c, P0 = [a, b, c] := hP0 ▸ optBytes_three _
    obtain ⟨c3, c4, c5, e4⟩ : ∃ a b c, P1 = [a, b, c] := hP1 ▸ optBytes_three _
    obtain ⟨c6, c7, c8, e5⟩ : ∃ a b c, P2 = [a, b, c] := hP2 ▸ optBytes_three _
    obtain ⟨c9, c10, c11, e6⟩ : ∃ a b c, P3 = [a, b, c] := hP3 ▸ optBytes_three _
    subst e0 e1 e2 e3 e4 e5 e6
    set b := boolByte true ++ beBytes 3 t.serviceCharge ++ beBytes 2 t.lifeline ++ beBytes 1 t.prices.length ++ ([a0,
        a1, a2] ++ [a3, a4, a5] ++ [a6, a7, a8]) ++ ([c0, c1, c2] ++ [c3, c4, c5] ++ [c6, c7, c8] ++ [c9, c10,
        c11]) with hbd
    have f0 : fieldAt b 0 1 = 1 := rfl
    have f1 : fieldAt b (0+1) 3 = ofBe (beBytes 3 t.serviceCharge) := rfl
    have f2 : fieldAt b (0+4) 2 = ofBe (beBytes 2 t.lifeline) := rfl
    have f3 : fieldAt b (0+6) 1 = ofBe (beBytes 1 t.prices.length) := rfl
    have f4 : fieldAt b (0+7) 3 = ofBe [a0, a1, a2] := rfl
    have f5 : fieldAt b (0+10) 3 = ofBe [a3, a4, a5] := rfl
    have f6 : fieldAt b (0+13) 3 = ofBe [a6, a7, a8] := rfl
    have f7 : fieldAt b (0+16) 3 = ofBe [c0, c1, c2] := rfl
    have f8 : fieldAt b (0+19) 3 = ofBe [c3, c4, c5] := rfl
    have f9 : fieldAt b (0+22) 3 = ofBe [c6, c7, c8] := rfl
    have f10 : fieldAt b (0+25) 3 = ofBe [c9, c10, c11] := rfl
    rw [f0, f1, f2, f3, f4, f5, f6, f7, f8, f9, f10, ofBe_of_lt (v := t.serviceCharge) (by norm_num; omega), ofBe_of_lt (v := t.lifeline) (by norm_num; omega), ofBe_of_lt (v := t.prices.length) (by norm_num; omega),
      g0, g1, g2, p0, p1, p2, p3]
    rfl

theorem range_getElem {l : List Nat} {n : Nat} (h : l.length ≤ n) (d : Nat) :
    ((List.range n).map fun i => match l[i]? with
    | none => d
    | some v => v).take l.length = l := by
  apply List.ext_getElem
  · simp [h]
  · intro i h1 h2
    simp only [List.getElem_take, List.getElem_map, List.getElem_range]
    rw [List.getElem?_eq_getElem h2]

/-- A tariff entry that is valid is read as itself. -/
theorem rawOf_entry (e : TariffEntry) (hv : ∀ tf, e = some tf → tf.valid) :
    (rawOf e).valid = true ∧ (rawOf e).entry = e := by
  cases e with
  | none => exact ⟨rfl, rfl⟩
  | some t =>
    obtain ⟨v1, v2, v3, v4, v5, v6⟩ := hv t rfl
    have hb := range_getElem (l := t.bounds) (n := 3) (by omega) 16777215
    have hp := range_getElem (l := t.prices) (n := 4) (by omega) 16777215
    simp only [List.range_succ, List.range_zero, List.map_cons, List.map_nil, List.nil_append,
        List.cons_append] at hb hp
    have e1 : (rawOf (some t)).bounds.take ((rawOf (some t)).blocks - 1) = t.bounds := by
      have : t.prices.length - 1 = t.bounds.length := by omega
      show List.take (t.prices.length - 1) _ = _
      rw [this]; exact hb
    have e2 : (rawOf (some t)).prices.take (rawOf (some t)).blocks = t.prices := hp
    refine ⟨?_, ?_⟩
    · unfold RawEntry.valid
      rw [e1, e2]
      simp only [Bool.or_eq_true, Bool.and_eq_true, decide_eq_true_eq, List.all_eq_true]
      right
      exact ⟨⟨⟨⟨⟨(by show 1 ≤ t.prices.length; omega), v2⟩, v3⟩, v4⟩, v5⟩, fun p hp => v6 p hp⟩
    · unfold RawEntry.entry
      rw [e1, e2]; rfl

theorem rawEntryAt_shift (a : List Byte) (e : TariffEntry) (c : List Byte) (off : Nat) (h : off = a.length)
    (hv : ∀ tf, e = some tf → tf.valid) :
    rawEntryAt (a ++ (entryBytes e ++ c)) off = some (rawOf e) := by
  have hl := entryBytes_length e
  have hs := rawEntryAt_entryBytes e hv
  have f : ∀ k n, k + n ≤ 28 → fieldAt (a ++ (entryBytes e ++ c)) (off + k) n = fieldAt (entryBytes e) k n := fun k n hk => fieldAt_shift a _ off n h c k (by omega)
  rw [← hs]
  unfold rawEntryAt
  rw [show off = off + 0 from rfl, f 0 1 (by omega)]
  simp only [Nat.add_zero, Nat.zero_add]
  rw [f 1 3 (by omega), f 4 2 (by omega), f 6 1 (by omega), f 7 3 (by omega), f 10 3 (by omega), f 13 3 (by omega), f 16 3 (by omega), f 19 3 (by omega), f 22 3 (by omega), f 25 3 (by omega)]

end Sys2Proof.Machine
end

