-- ==== Sys2Proof/Laws/Ports.lean ====
section
/-! SUPPORT. What a port shows and what a request does there: replies, immediate ends of requests, the transmitters, and the parts that the plain updates keep. -/

namespace Sys2Proof.Machine

/-- What a port shows besides its notices. -/
def LinkPort.view (q : LinkPort) : LinkState × LinkRate × RxMode × Bool × Option Outstanding × List TxItem × Option TxFrame :=
  (q.link, q.rate, q.receiver, q.settingsWaiting, q.outstanding,
    q.order.filter (fun i => match i with | .reply _ _ _ => true | .notice _ => false), q.transmitting)

/-- The replies of an order are those of its items that are no notices. -/
theorem replyFrames_view (o : List TxItem) :
    (o.filter (fun i => match i with | .reply _ _ _ => true | .notice _ => false)).filterMap TxItem.replyFrame? =
      o.filterMap TxItem.replyFrame? := by
  induction o with
  | nil => rfl
  | cons a o ih =>
    cases a <;> simp [TxItem.replyFrame?, List.filterMap_cons, ih]

/-- Ports that show the same have the same replies. -/
theorem view_replies {s t : State} {p : PortId} (h : (t.port p).view = (s.port p).view) :
    t.replies p = s.replies p := by
  simp only [LinkPort.view, Prod.mk.injEq] at h
  obtain ⟨-, -, -, -, -, h1, h2⟩ := h
  simp only [State.replies, LinkPort.sending, h2]
  rw [← replyFrames_view (t.port p).order, h1, replyFrames_view]

/-- Ports that show the same stand at the same settings. -/
theorem view_standing {q r : LinkPort} (h : q.view = r.view) : q.standing = r.standing := by
  simp only [LinkPort.view, Prod.mk.injEq] at h
  simp [LinkPort.standing, h]

theorem view_outstanding {q r : LinkPort} (h : q.view = r.view) : q.outstanding = r.outstanding := by
  simp only [LinkPort.view, Prod.mk.injEq] at h
  simp [h]

theorem view_link {q r : LinkPort} (h : q.view = r.view) : q.link = r.link := by
  simp only [LinkPort.view, Prod.mk.injEq] at h
  simp [h]

theorem view_waiting {q r : LinkPort} (h : q.view = r.view) : q.settingsWaiting = r.settingsWaiting := by
  simp only [LinkPort.view, Prod.mk.injEq] at h
  simp [h]

/-- A queued notice changes nothing else at any port. -/
theorem queueNotice_view (c : Condition) (s : State) (p : PortId) :
    ((queueNotice c s).port p).view = (s.port p).view := by
  unfold queueNotice
  split
  · cases p with
    | office => simp [LinkPort.view, List.filter_append]
    | till t => simp [State.port_modPort]
  · rfl

theorem setLatch_port (s : State) (c : Condition) (b : Bool) (p : PortId) : (s.setLatch c b).port p = s.port p := by
  cases p <;> rfl

/-- An arising changes no port but by its notice (R173). -/
theorem arise_view (c : Condition) (s : State) (p : PortId) : ((arise c s).port p).view = (s.port p).view := by
  unfold arise
  split
  · rw [queueNotice_view, setLatch_port]
  · rfl

theorem reportLevel_view (c : Condition) (s : State) (p : PortId) :
    ((reportLevel c s).port p).view = (s.port p).view := by
  unfold reportLevel
  cases p <;> (simp only [State.port]; split)
  · exact arise_view c s .office
  · rfl
  · rename_i t h; exact arise_view c s (.till t)
  · rfl

/-- A level report changes no port but by its notices (R170). -/
@[simp] theorem reportLevels_view (s : State) (p : PortId) :
    ((reportLevels s).port p).view = (s.port p).view := by
  unfold reportLevels
  split
  · simp [reportLevel_view]
  · rfl

@[simp] theorem reportLevels_replies (s : State) (p : PortId) : (reportLevels s).replies p = s.replies p :=
  view_replies (reportLevels_view s p)

@[simp] theorem reportLevels_standing (s : State) (p : PortId) :
    ((reportLevels s).port p).standing = (s.port p).standing :=
  view_standing (reportLevels_view s p)

@[simp] theorem reportLevels_outstanding (s : State) (p : PortId) :
    ((reportLevels s).port p).outstanding = (s.port p).outstanding :=
  view_outstanding (reportLevels_view s p)

@[simp] theorem reportLevels_link (s : State) (p : PortId) : ((reportLevels s).port p).link = (s.port p).link :=
  view_link (reportLevels_view s p)

@[simp] theorem reportLevels_receives (s : State) (p : PortId) : (reportLevels s).receives p = s.receives p := by
  simp [State.receives, State.running]

@[simp] theorem reportLevels_office_outstanding (s : State) :
    (reportLevels s).officePort.outstanding = s.officePort.outstanding :=
  reportLevels_outstanding s .office

theorem onlyLevels_refl (s : State) : onlyLevels s s := by
  refine ⟨rfl, fun c => ?_⟩; split <;> simp

theorem onlyLevels_trans {s t u : State} (h : onlyLevels s t) (k : onlyLevels t u) : onlyLevels s u := by
  refine ⟨k.1.trans h.1, fun c => ?_⟩
  have h2 := h.2 c; have k2 := k.2 c
  split at h2 <;> simp_all

/-- Nothing of the Condition Unit changed. -/
theorem onlyLevels_of_conditions {s t : State} (h : t.conditions = s.conditions) : onlyLevels s t := by
  refine ⟨by rw [h], fun c => ?_⟩
  simp only [State.latched, h]; split <;> simp

/-- `onlyLevels` speaks of the Condition Unit alone. -/
theorem onlyLevels_congr {s t s' t' : State} (h : onlyLevels s t) (h1 : s'.conditions = s.conditions)
    (h2 : t'.conditions = t.conditions) : onlyLevels s' t' := by
  simpa only [onlyLevels, State.latched, h1, h2] using h

/-- One bit of a condition set written. -/
theorem conditionBit_set (v : ConditionSet) (c d : Condition) (b : Bool) :
    conditionBit (setConditionBit v c b) d = if c = d then b else conditionBit v d := by
  simp only [conditionBit, setConditionBit, Vector.get_eq_getElem, Vector.getElem_set]
  cases c <;> cases d <;> simp [Condition.index]

@[simp] theorem arise_tillSet (c : Condition) (s : State) : (arise c s).conditions.tillSet = s.conditions.tillSet := by
  unfold arise; split
  · rw [(queueNotice_frame c _).2.2.2.2.2.2.2.2.2.2.2.2.2.2.2.2.1]; rfl
  · rfl

/-- What an arising latches (R169). -/
theorem arise_latched (c d : Condition) (s : State) :
    (arise c s).latched d = if c = d ∧ s.takesArisings = true then true else s.latched d := by
  unfold arise; split
  · simp only [State.latched]
    rw [(queueNotice_frame c _).2.2.2.2.2.2.2.2.2.2.2.2.2.2.2.2.1]
    simp only [State.setLatch, conditionBit_set]
    simp_all
  · simp_all [State.latched]

/-- A level report latches its own level at most (R170). -/
theorem reportLevel_onlyLevels (c : Condition) (hc : c.isLevel = true) (s : State) :
    onlyLevels s (reportLevel c s) := by
  unfold reportLevel
  refine ⟨?_, fun d => ?_⟩
  · dsimp only; split <;> simp
  · have : ∀ u : State, State.latched { u with conditions := { u.conditions with
        levels := setConditionBit u.conditions.levels c (s.levelOf c) } } d = u.latched d := fun u => rfl
    dsimp only
    rw [this]
    by_cases hd : c = d
    · subst hd; rw [if_pos hc]; intro h
      split
      · rw [arise_latched]; simp_all
      · exact h
    · have : (if (s.levelOf c && !conditionBit s.conditions.levels c) = true then arise c s else s).latched d = s.latched d := by
        split
        · rw [arise_latched, if_neg (by simp [hd])]
        · rfl
      rw [this]; split <;> simp

@[simp] theorem reportLevels_onlyLevels (s : State) : onlyLevels s (reportLevels s) := by
  unfold reportLevels; split
  · exact onlyLevels_trans (onlyLevels_trans (onlyLevels_trans (onlyLevels_trans
      (reportLevel_onlyLevels _ rfl _) (reportLevel_onlyLevels _ rfl _)) (reportLevel_onlyLevels _ rfl _))
      (reportLevel_onlyLevels _ rfl _)) (reportLevel_onlyLevels _ rfl _)
  · exact onlyLevels_refl _

/-- A report of the levels after other parts than the Condition Unit changed. -/
theorem onlyLevels_report {s y : State} (h : y.conditions = s.conditions) : onlyLevels s (reportLevels y) :=
  onlyLevels_congr (reportLevels_onlyLevels y) h.symm rfl

@[simp] theorem reportLevels_tillSet (s : State) : (reportLevels s).conditions.tillSet = s.conditions.tillSet :=
  (reportLevels_onlyLevels s).1

/-- What answering does at every port (R199): the reply joins its port and nothing is outstanding there. -/
theorem answer_port (p k : PortId) (tag : Byte) (r : Reply) (s : State) :
    (answer p tag r s).port k = if k = p then
      { s.port p with outstanding := none, order := (s.port p).order ++ if s.receives p then [.reply tag r false] else [] }
    else s.port k := by
  by_cases hk : k = p
  · subst hk
    simp only [if_true, answer, pushReply, endOutstanding]
    by_cases h : s.receives k = true
    · have h' := h
      simp only [State.receives, Bool.and_eq_true, beq_iff_eq] at h
      have h1 : ∀ f, (s.modPort k f).running = true := fun f => by simpa [State.running] using h.1
      simp [h1, h.2, h']
    · have h' := h
      simp only [State.receives, Bool.and_eq_true, beq_iff_eq, not_and] at h
      have h1 : ∀ f, (s.modPort k f).running = s.running := fun f => by simp [State.running]
      have : ¬(s.running = true ∧ (s.port k).link = .active) := fun x => h x.1 x.2
      simp only [State.port_modPort_same, h1, Bool.and_eq_true, beq_iff_eq, if_neg this]
      simp [h']
  · simp only [if_neg hk, answer, pushReply, endOutstanding]
    have : p ≠ k := fun h => hk h.symm
    simp only [apply_ite (fun x : State => x.port k), State.port_modPort, if_neg this, ite_self]

/-- The replies after an answer. -/
theorem answer_replies (p k : PortId) (tag : Byte) (r : Reply) (s : State) :
    (answer p tag r s).replies k = s.replies k ++ if k = p ∧ s.receives p = true then [replyFrame tag r] else [] := by
  simp only [State.replies, answer_port]
  by_cases hk : k = p
  · subst hk
    by_cases h : s.receives k = true <;> simp [h, LinkPort.sending, TxItem.replyFrame?]
  · simp [hk]

theorem answer_standing (p k : PortId) (tag : Byte) (r : Reply) (s : State) :
    ((answer p tag r s).port k).standing = (s.port k).standing := by
  rw [answer_port]; split
  · rename_i h; subst h; rfl
  · rfl

theorem answer_outstanding (p k : PortId) (tag : Byte) (r : Reply) (s : State) :
    ((answer p tag r s).port k).outstanding = if k = p then none else (s.port k).outstanding := by
  rw [answer_port]; split <;> rfl

theorem answer_link (p k : PortId) (tag : Byte) (r : Reply) (s : State) :
    ((answer p tag r s).port k).link = (s.port k).link := by
  rw [answer_port]; split
  · rename_i h; subst h; rfl
  · rfl

/-- With a request outstanding the office is answered. -/
theorem officeReply_eq {s : State} {o : Outstanding} (h : s.officePort.outstanding = some o) (r : Reply) :
    officeReply r s = answer .office o.tag r s := by simp [officeReply, h]

theorem officeRefuseWith_eq {s : State} {o : Outstanding} (h : s.officePort.outstanding = some o) (c : RefusalCode)
    (d : Nat) :
    officeRefuseWith c d s = answer .office o.tag (.refused c o.kind 0 d) s := by simp [officeRefuseWith, h]

theorem officeRefuse_eq {s : State} {o : Outstanding} (h : s.officePort.outstanding = some o) (c : RefusalCode) :
    officeRefuse c s = answer .office o.tag (.refused c o.kind 0 0) s := officeRefuseWith_eq h c 0

/-- The end of a step changes no part where the hold is at rest. -/
theorem settle_part_same {x : State} (h : x.holdAtRest) (p : Part) : p.same x (settle x) := settle_keeps h p (by simp)

/-- A step that ends in `settle x` keeps what `x` keeps. -/
theorem keepsAllBut_settle {l : List Part} {s x : State} (h : x.holdAtRest) (k : keepsAllBut l s x) :
    keepsAllBut l s (settle x) := fun p hp => Part.same_trans (k p hp) (settle_part_same h p)

theorem settle_replies {x : State} (h : x.holdAtRest) (p : PortId) : (settle x).replies p = x.replies p :=
  settle_part_same h (.replies p)

theorem settle_outstanding {x : State} (h : x.holdAtRest) (p : PortId) :
    ((settle x).port p).outstanding = (x.port p).outstanding := settle_part_same h (.outstanding p)

theorem settle_standing {x : State} (h : x.holdAtRest) (p : PortId) :
    ((settle x).port p).standing = (x.port p).standing := settle_part_same h (.link p)

theorem settle_arbiter {x : State} (h : x.holdAtRest) : (settle x).arbiter = x.arbiter := by
  have a := settle_part_same h .hold
  have b := settle_part_same h .grants
  simp only [Part.same] at a b
  cases hx : (settle x).arbiter; cases hy : x.arbiter; simp_all

theorem settle_replied {p : PortId} {tag : Byte} {r : Reply} {s x : State} (h : x.holdAtRest)
    (k : replied p tag r s x) :
    replied p tag r s (settle x) := ⟨(settle_replies h p).trans k.1, (settle_outstanding h p).trans k.2⟩

theorem settle_onlyLevels {s x : State} (h : onlyLevels s x) : onlyLevels s (settle x) :=
  onlyLevels_trans h (onlyLevels_of_conditions (by simp))

/-- The state in which a taken request is served. -/
abbrev State.serving (s : State) (p : PortId) (kind tag : Byte) : State :=
  s.modPort p fun q => { q with outstanding := some ⟨tag, kind⟩ }

/-- A request answered at once changes nothing but the replies of its port. -/
theorem answered_keeps {s : State} {p : PortId} {tag : Byte} {body : List Byte} (h : s.takes p tag body) (kind : Byte)
    (r : Reply) :
    keepsAllBut [.replies p] s (answer p tag r (s.serving p kind tag)) := by
  intro q hq
  cases q with
  | link k => simp only [Part.same, answer_standing, State.serving]
              rw [State.port_modPort]; split
              · rename_i h; subst h; rfl
              · rfl
  | outstanding k =>
    simp only [Part.same, answer_outstanding, State.serving]
    rw [State.port_modPort]
    by_cases hk : k = p
    · subst hk; simp [h.2.2.1]
    · rw [if_neg hk, if_neg (fun x => hk x.symm)]
  | replies k =>
    have hk : k ≠ p := by simpa using hq
    simp only [Part.same, answer_replies, hk, false_and, if_false, List.append_nil]
    simp only [State.replies, State.serving, State.port_modPort, if_neg (fun x => hk (Eq.symm x))]
  | _ => simp [Part.same, State.slot]

/-- A request answered at once has its reply. -/
theorem answered_replied {s : State} {p : PortId} {tag : Byte} {body : List Byte} (h : s.takes p tag body)
    (kind : Byte) (r : Reply) :
    replied p tag r s (answer p tag r (s.serving p kind tag)) := by
  have h1 : (s.serving p kind tag).receives p = true := by
    have := h.1
    simp only [State.receives, State.serving, State.running, State.port_modPort_same, State.modPort_supply] at this ⊢
    exact this
  refine ⟨?_, by simp [answer_outstanding]⟩
  rw [answer_replies, h1]
  simp [State.replies, State.serving, LinkPort.sending]

/-- Whether the hold is at rest depends on the arbiter and the buffer alone. -/
theorem holdAtRest_congr {s t : State} (h : s.holdAtRest) (h1 : t.arbiter = s.arbiter) (h2 : t.buffer = s.buffer) :
    t.holdAtRest := by
  simpa [State.holdAtRest, h1, h2] using h

/-- The end of a request that is answered and changes nothing else. -/
theorem answered_end {s : State} {p : PortId} {tag : Byte} {body : List Byte} (h : s.takes p tag body)
    (hr : s.holdAtRest)
    (kind : Byte) (r : Reply) :
    replied p tag r s (settle (answer p tag r (s.serving p kind tag))) ∧
      keepsAllBut [.replies p] s (settle (answer p tag r (s.serving p kind tag))) := by
  have hx : (answer p tag r (s.serving p kind tag)).holdAtRest := holdAtRest_congr hr (by simp) (by simp)
  exact ⟨settle_replied hx (answered_replied h kind r), keepsAllBut_settle hx (answered_keeps h kind r)⟩

theorem serving_outstanding (s : State) (kind tag : Byte) :
    (s.serving .office kind tag).officePort.outstanding = some ⟨tag, kind⟩ := by simp [State.serving]

/-- An office request: the step is the settling of its service. -/
theorem takeOffice_exec {s : State} {kind tag : Byte} {body : List Byte} (h : s.takes .office tag body)
    (serve : State → State) :
    finish (takeOffice kind tag body serve s) = .next (settle (serve (s.serving .office kind tag))) := by
  simp [takeOffice, takeRequest, portTake_takes h, State.serving]

/-- A till request: the step is the settling of its service. -/
theorem takeTill_exec {s : State} {k : Till} {kind tag : Byte} {body : List Byte} (h : s.takes (.till k) tag body)
    (serve : State → State) :
    finish (takeRequest (.till k) kind tag body serve s) = .next (settle (serve (s.serving (.till k) kind tag))) := by
  simp [takeRequest, portTake_takes h, State.serving]

/-- An office request answered at once changes nothing else. -/
theorem takeOffice_answered {s : State} {kind tag : Byte} {body : List Byte} (h : s.takes .office tag body)
    (hr : s.holdAtRest)
    (serve : State → State) (r : Reply) (hs : serve (s.serving .office kind tag) = officeReply r (s.serving .office kind tag)) :
    ∃ t, finish (takeOffice kind tag body serve s) = .next t ∧ replied .office tag r s t ∧ keepsAllBut [.replies .office] s t := by
  refine ⟨_, takeOffice_exec h serve, ?_⟩
  rw [hs, officeReply_eq (serving_outstanding s kind tag)]
  exact answered_end h hr kind r

/-- An office request refused at once changes nothing else. -/
theorem takeOffice_refused {s : State} {kind tag : Byte} {body : List Byte} (h : s.takes .office tag body)
    (hr : s.holdAtRest)
    (serve : State → State) (code : RefusalCode) (d : Nat) (hq : Request.isQuarter kind = false)
    (hs : serve (s.serving .office kind tag) = officeRefuseWith code d (s.serving .office kind tag)) :
    ∃ t, finish (takeOffice kind tag body serve s) = .next t ∧ refusedWith .office kind tag code 0 d s t := by
  refine ⟨_, takeOffice_exec h serve, ?_⟩
  rw [hs, officeRefuseWith_eq (serving_outstanding s kind tag)]
  have := answered_end h hr kind (.refused code kind 0 d)
  exact ⟨this.1, by rw [hq]; exact this.2⟩

@[simp] theorem serving_commissioned (s : State) (p : PortId) (k t : Byte) :
    (s.serving p k t).commissioned = s.commissioned := by simp [State.commissioned]

@[simp] theorem serving_now (s : State) (p : PortId) (k t : Byte) : (s.serving p k t).now = s.now := by simp [State.now]

@[simp] theorem serving_line (s : State) (p : PortId) (k t : Byte) (l : LineNo) :
    (s.serving p k t).line l = s.line l := by simp [State.line]

@[simp] theorem serving_slot (s : State) (p : PortId) (k t : Byte) (l : Till) :
    (s.serving p k t).slot l = s.slot l := by simp [State.slot]

@[simp] theorem serving_findLine (s : State) (p : PortId) (k t : Byte) (m : Nat) :
    findLine m (s.serving p k t) = findLine m s := by simp [findLine]

@[simp] theorem serving_findPinned (s : State) (p : PortId) (k t : Byte) (o : Owner) :
    findPinned o (s.serving p k t) = findPinned o s := by simp [findPinned]

@[simp] theorem serving_storeFaultLatched (s : State) (p : PortId) (k t : Byte) :
    (s.serving p k t).storeFaultLatched = s.storeFaultLatched := by simp [State.storeFaultLatched]

@[simp] theorem serving_held (s : State) (p : PortId) (k t : Byte) :
    (s.serving p k t).heldEntries = s.heldEntries := by simp [State.heldEntries]

@[simp] theorem serving_newest (s : State) (p : PortId) (k t : Byte) :
    (s.serving p k t).newestDurable = s.newestDurable := by simp [State.newestDurable]

@[simp] theorem serving_salesFree (s : State) (p : PortId) (k t : Byte) :
    (s.serving p k t).salesFree = s.salesFree := by
  simp [State.salesFree, State.free, State.held, State.buffered]

@[simp] theorem serving_running (s : State) (p : PortId) (k t : Byte) :
    (s.serving p k t).running = s.running := by simp [State.running]

theorem serving_link (s : State) (p k : PortId) (a t : Byte) : ((s.serving p a t).port k).link = (s.port k).link := by
  rw [State.port_modPort]; split
  · rename_i h; subst h; rfl
  · rfl

@[simp] theorem serving_postsAtOnce (s : State) (p : PortId) (k t : Byte) :
    (s.serving p k t).postsAtOnce = s.postsAtOnce := by simp [State.postsAtOnce]

@[simp] theorem serving_roomForOffice (s : State) (p : PortId) (k t : Byte) :
    (s.serving p k t).roomForOffice = s.roomForOffice := by
  simp only [State.roomForOffice, serving_salesFree]

theorem parseNone_nil : parseNone [] = some () := by simp [parseNone]

/-- A selling request passes its common steps (Table 3-2). -/
theorem sellingRefusal_none {s : State} (h1 : s.editable) (h2 : s.calendar.valid = true) (p : PortId) (k t : Byte) :
    sellingRefusal (s.serving p k t) = none := by
  simp [sellingRefusal, h1.1, h1.2, h2]

/-- After asking for a grant, with a slot changed. -/
theorem askGrant_end {s : State} {k : Till} {tag : Byte} {body : List Byte} (h : s.takes (.till k) tag body)
    (kind : Byte) (f : VendSlot → VendSlot) (n : Nat)
    (hr : s.holdAtRest) :
    let t := settle (askGrant k ({ s.serving (.till k) kind tag with nextQuoteId := n }.modSlot k f))
    t.nextQuoteId = n ∧ t.slot k = f (s.slot k) ∧ t.arbiter.pending.get k = true ∧
      (∀ j, j ≠ k → t.arbiter.pending.get j = s.arbiter.pending.get j) ∧
      t.arbiter.pointer = s.arbiter.pointer ∧ (t.port (.till k)).outstanding = some ⟨tag, kind⟩ ∧
      keepsAllBut [.slot k, .quoteIds, .grants, .outstanding (.till k)] s t := by
  intro t
  have hx : (askGrant k ({ s.serving (.till k) kind tag with nextQuoteId := n }.modSlot k f)).holdAtRest := by
    simpa [State.holdAtRest, askGrant] using hr
  refine ⟨?_, ?_, ?_, ?_, ?_, ?_, ?_⟩
  · simp [t, askGrant]
  · have : t.slot k = (askGrant k ({ s.serving (.till k) kind tag with nextQuoteId := n }.modSlot k f)).slot k := settle_part_same hx (.slot k)
    rw [this]; simp [askGrant, State.slot, State.modSlot, State.setSlot, get_set_four]
  · simp only [t, settle_arbiter hx]; simp [askGrant, get_set_four]
  · intro j hj; simp only [t, settle_arbiter hx]; simp [askGrant, get_set_four, Ne.symm hj]
  · simp only [t, settle_arbiter hx]; simp [askGrant]
  · simp only [t, settle_outstanding hx]
    simp [askGrant, State.port, State.modSlot, State.setSlot, State.modPort, State.setPort, get_set_four]
  · refine keepsAllBut_settle hx ?_
    intro q hq
    have hp : ∀ p, (askGrant k ({ s.serving (.till k) kind tag with nextQuoteId := n }.modSlot k f)).port p = (s.serving (.till k) kind tag).port p := by
      intro p; cases p <;> rfl
    cases q with
    | slot j =>
      have : j ≠ k := by simpa using hq
      simp [Part.same, askGrant, State.slot, State.modSlot, State.setSlot, get_set_four, Ne.symm this]
    | outstanding p =>
      have : p ≠ .till k := by simpa using hq
      simp only [Part.same, hp]; simp [State.port_modPort, Ne.symm this]
    | link p =>
      simp only [Part.same, hp, State.port_modPort]; split
      · rename_i h; subst h; rfl
      · rfl
    | replies p =>
      simp only [Part.same, State.replies, hp, State.port_modPort]; split
      · rename_i h; subst h; rfl
      · rfl
    | _ => first
           | (simp at hq; done)
           | simp [Part.same, askGrant]

/-- The id taken for a quote is in use by no slot (R57). -/
theorem freeId_not_mem (used : List Nat) (hl : used.length ≤ 4) (n : Nat) : freeId 4 used n ∉ used := by
  simp only [freeId, List.contains_iff_mem]
  by_cases h0 : n ∈ used
  · by_cases h1 : nextId n ∈ used
    · by_cases h2 : nextId (nextId n) ∈ used
      · by_cases h3 : nextId (nextId (nextId n)) ∈ used
        · simp only [h0, h1, h2, h3, if_true]
          intro h4
          have hn : [n, nextId n, nextId (nextId n), nextId (nextId (nextId n)),
              nextId (nextId (nextId (nextId n)))].Nodup := by
            simp only [List.nodup_cons, List.mem_cons, List.not_mem_nil, or_false, not_or, not_false_eq_true,
                List.nodup_nil, and_true]
            unfold nextId
            refine ⟨⟨?_, ?_, ?_, ?_⟩, ⟨?_, ?_, ?_⟩, ⟨?_, ?_⟩, ?_⟩ <;> (repeat' split) <;> omega
          have hs := hn.subperm (l₂ := used) (by
            intro x hx
            simp only [List.mem_cons, List.not_mem_nil, or_false] at hx
            rcases hx with rfl | rfl | rfl | rfl | rfl <;> assumption)
          have := hs.length_le
          simp at this; omega
        · simp [h0, h1, h2, h3]
      · simp [h0, h1, h2]
    · simp [h0, h1]
  · simp [h0]

theorem keepsAllBut_quoteIds {l : List Part} {s t : State} (h : keepsAllBut (.quoteIds :: l) s t)
    (h1 : t.nextQuoteId = s.nextQuoteId) :
    keepsAllBut l s t := by
  intro q hq
  by_cases e : q = .quoteIds
  · subst e; exact h1
  · exact h q (by simp [e, hq])

/-- A till request refused at once changes nothing else. -/
theorem takeTill_refused {s : State} {k : Till} {kind tag : Byte} {body : List Byte} (h : s.takes (.till k) tag body)
    (hr : s.holdAtRest)
    (serve : State → State) (code : RefusalCode) (id d : Nat) (hq : Request.isQuarter kind = false)
    (hs : serve (s.serving (.till k) kind tag) = answer (.till k) tag (.refused code kind id d) (s.serving (.till k) kind tag)) :
    ∃ t, finish (takeRequest (.till k) kind tag body serve s) = .next t ∧ refusedWith (.till k) kind tag code id d s t := by
  refine ⟨_, takeTill_exec h serve, ?_⟩
  rw [hs]
  have := answered_end h hr kind (.refused code kind id d)
  exact ⟨this.1, by rw [hq]; exact this.2⟩

/-- A refused TARIFF_STAGE or TARIFF_LOAD quarter empties the assembly area. -/
theorem takeQuarter_refused {s : State} {kind tag : Byte} {body : List Byte} (h : s.takes .office tag body)
    (hr : s.holdAtRest)
    (serve : State → State) (code : RefusalCode) (d : Nat) (hq : Request.isQuarter kind = true)
    (hs : serve (s.serving .office kind tag) = refuseQuarterWith code d (s.serving .office kind tag)) :
    ∃ t, finish (takeOffice kind tag body serve s) = .next t ∧ refusedWith .office kind tag code 0 d s t := by
  have h' : ({ s with assembly := none } : State).takes .office tag body := h
  have hr' : ({ s with assembly := none } : State).holdAtRest := hr
  refine ⟨_, takeOffice_exec h serve, ?_⟩
  have e : refuseQuarterWith code d (s.serving .office kind tag) =
      answer .office tag (.refused code kind 0 d) (({ s with assembly := none } : State).serving .office kind tag) := by
    unfold refuseQuarterWith
    exact officeRefuseWith_eq (s := ({ s with assembly := none } : State).serving .office kind tag) (o := ⟨tag, kind⟩) (by simp [State.serving]) code d
  rw [hs, e]
  have := answered_end h' hr' kind (.refused code kind 0 d)
  refine ⟨this.1, ?_⟩
  rw [hq]
  refine ⟨?_, by simp⟩
  intro q hq'
  have hq2 : q ≠ .assembly ∧ q ≠ .replies .office := by
    constructor <;> (rintro rfl; simp at hq')
  have h3 := this.2 q (by simpa using hq2.2)
  cases q <;> first
    | exact h3
    | exact absurd rfl hq2.1

/-- A CANCEL refused at once changes nothing else. -/
theorem takeCancel_refused {s : State} {k : Till} {tag : Byte} {body : List Byte} (h : s.takes (.till k) tag body)
    (hr : s.holdAtRest)
    (code : RefusalCode) (id d : Nat)
    (hs : cancelOutcome k body (s.serving (.till k) kindCancel tag) = (.refused code kindCancel id d, s.serving (.till k) kindCancel tag)) :
    ∃ t, exec (.cancel k tag body) s = .next t ∧ refusedWith (.till k) kindCancel tag code id d s t := by
  refine ⟨_, by simp only [exec, execCancel, portTake_takes h, finish_eq]; rfl, ?_⟩
  have e : serveCancel k tag body (s.serving (.till k) kindCancel tag) = answer (.till k) tag (.refused code kindCancel id d) (s.serving (.till k) kindCancel tag) := by
    simp only [serveCancel, hs]
  have := answered_end h hr kindCancel (.refused code kindCancel id d)
  rw [← e] at this
  exact ⟨this.1, by rw [show Request.isQuarter kindCancel = false from rfl]; exact this.2⟩

theorem site_keeps (s : State) (v : SiteState) : keepsAllBut [.site] s { s with site := v } := by
  intro p hp; cases p <;> first
    | rfl
    | exact ⟨rfl, rfl⟩
    | simp at hp

theorem answer_keeps (p : PortId) (tag : Byte) (r : Reply) (s : State) :
    keepsAllBut [.outstanding p, .replies p] s (answer p tag r s) := by
  intro q hq
  cases q with
  | link k => exact answer_standing p k tag r s
  | outstanding k =>
    have : k ≠ p := by simpa using hq
    simp [Part.same, answer_outstanding, this]
  | replies k =>
    have : k ≠ p := by simpa using hq
    simp [Part.same, answer_replies, this]
  | _ => simp [Part.same, State.slot]

theorem serving_keeps (s : State) (p : PortId) (kind tag : Byte) :
    keepsAllBut [.outstanding p] s (s.serving p kind tag) := by
  intro q hq
  cases q with
  | link k => simp only [Part.same, State.port_modPort]; split
              · rename_i h; subst h; rfl
              · rfl
  | outstanding k =>
    have : k ≠ p := by simpa using hq
    simp [Part.same, State.port_modPort, Ne.symm this]
  | replies k => simp only [Part.same, State.replies, State.port_modPort]; split
                 · rename_i h; subst h; rfl
                 · rfl
  | _ => simp [Part.same, State.slot]

/-- A request that was taken and answered at the end: nothing is outstanding before and after. -/
theorem end_keeps {s x : State} {p : PortId} {tag : Byte} {body : List Byte} {l : List Part} (kind : Byte) (r : Reply)
    (h : s.takes p tag body)
    (hp : Part.replies p ∈ l) (k : keepsAllBut l (s.serving p kind tag) x) : keepsAllBut l s (answer p tag r x) := by
  intro q hq
  by_cases e : q = .outstanding p
  · subst e; simp [Part.same, answer_outstanding, h.2.2.1]
  · have h1 := serving_keeps s p kind tag q (by simpa using e)
    have h2 := k q hq
    have h3 := answer_keeps p tag r x q (by
      simp only [List.mem_cons, List.not_mem_nil, or_false, not_or]
      exact ⟨e, fun e2 => hq (e2 ▸ hp)⟩)
    exact Part.same_trans h1 (Part.same_trans h2 h3)

/-- The same with the port's replies as they were when served. -/
theorem end_replied {s x : State} {p : PortId} {tag : Byte} {body : List Byte} (kind : Byte) (r : Reply)
    (h : s.takes p tag body)
    (hl : ((x.port p).link) = (s.port p).link) (hs : x.supply = s.supply) (hre : x.replies p = s.replies p) :
    replied p tag r s (answer p tag r x) := by
  have h1 : x.receives p = true := by
    have := h.1
    simpa only [State.receives, State.running, hl, hs] using this
  exact ⟨by rw [answer_replies, h1, hre]; simp, by simp [answer_outstanding]⟩

theorem serving_replies (s : State) (p k : PortId) (a b : Byte) : (s.serving p a b).replies k = s.replies k :=
  serving_keeps s p a b (.replies k) (by simp)

theorem serving_levels (s : State) (p : PortId) (kind tag : Byte) :
    onlyLevels s (s.serving p kind tag) := onlyLevels_of_conditions (by simp)

/-- The office's reply at the end. -/
theorem officeReply_at {s z : State} {kind tag : Byte} (r : Reply) (hz : z.officePort.outstanding = some ⟨tag, kind⟩) :
    officeReply r z = answer .office tag r z := officeReply_eq hz r

/-- A service that leaves the outstanding request alone finds it when it answers. -/
theorem after_outstanding {s z : State} {l : List Part} {kind tag : Byte}
    (k : keepsAllBut l (s.serving .office kind tag) z) (hl : Part.outstanding .office ∉ l) :
    z.officePort.outstanding = some ⟨tag, kind⟩ := by
  have := k (.outstanding .office) hl
  simp only [Part.same, State.port_office] at this
  rw [this]; simp

theorem assembly_keeps (s : State) (a : Option Assembly) : keepsAllBut [.assembly] s { s with assembly := a } := by
  intro p hp; cases p <;> first
    | rfl
    | exact ⟨rfl, rfl⟩
    | simp at hp

theorem clock_keeps (s : State) (c : Calendar) (b : BackupCell) :
    keepsAllBut [.clock] s { s with calendar := c, cell := b } := by
  intro p hp; cases p <;> first
    | rfl
    | exact ⟨rfl, rfl⟩
    | simp at hp

theorem standing_link {q r : LinkPort} (h : q.standing = r.standing) : q.link = r.link := by
  have := congrArg Prod.fst h; simpa [LinkPort.standing] using this

theorem hold_keeps (s : State) (a : Arbiter) (h1 : a.pending = s.arbiter.pending) (h2 : a.pointer = s.arbiter.pointer)
    (b : Option Assembly) :
    keepsAllBut [.hold, .assembly] s { s with arbiter := a, assembly := b } := by
  intro p hp; cases p <;> first
    | rfl
    | exact ⟨rfl, rfl⟩
    | exact ⟨h1, h2⟩
    | simp at hp

theorem conditions_keeps (s : State) (c : ConditionUnit) : keepsAllBut [.conditions] s { s with conditions := c } := by
  intro p hp; cases p <;> first
    | rfl
    | exact ⟨rfl, rfl⟩
    | simp at hp

theorem setService_keeps (v : Service) (s : State) : keepsAllBut [] s (setService v s) := by
  intro p hp; cases p <;> first
    | rfl
    | exact ⟨rfl, rfl⟩

theorem setFaulted_keeps (b : Bool) (s : State) : keepsAllBut [.areas] s (setFaulted b s) := by
  intro p hp; cases p <;> first
    | rfl
    | exact ⟨rfl, rfl⟩
    | simp at hp

/-- The areas, one by one. -/
theorem areas_same {s t : State} (h : t.store.areas = s.store.areas) :
    t.store.slots = s.store.slots ∧ t.store.journal = s.store.journal ∧
    t.store.summaries = s.store.summaries ∧ t.store.image = s.store.image ∧ t.store.holdCell = s.store.holdCell ∧ t.store.faulted = s.store.faulted := by
  simpa only [RecordStore.areas, Prod.mk.injEq] using h

/-- The end of a step changes no area of the store. -/
theorem settle_areas (x : State) : (settle x).store.areas = x.store.areas := by
  unfold settle
  have := (pumpAll_keeps (chooseOperation (grantHold x))) .areas (by simp)
  rw [this, chooseOperation_areas]; simp

theorem settle_faulted (x : State) : (settle x).store.faulted = x.store.faulted :=
    (areas_same (settle_areas x)).2.2.2.2.2

/-- A store with an operation in progress begins none (R109). -/
theorem chooseOperation_busy {x : State} (h : x.store.service ≠ .idle) : chooseOperation x = x := by
  have : (x.store.service == .idle) = false := by rw [beq_eq_false_iff_ne]; exact h
  simp [chooseOperation, this]

theorem settle_busy {x : State} (hr : x.holdAtRest) (h : x.store.service ≠ .idle) : (settle x).store = x.store := by
  unfold settle; rw [grantHold_rest hr, chooseOperation_busy h]; simp [pumpAll]

theorem holdAtRest_of_not_pending {x : State} (h : x.arbiter.hold ≠ .pending) : x.holdAtRest := fun hp => absurd hp h

theorem receives_running {s : State} {p : PortId} (h : s.receives p = true) : s.running = true := by
  simp only [State.receives, Bool.and_eq_true] at h; exact h.1

theorem receives_link {s : State} {p : PortId} (h : s.receives p = true) : (s.port p).link = .active := by
  simp only [State.receives, Bool.and_eq_true, beq_iff_eq] at h; exact h.2

theorem receives_of {s t : State} {p : PortId} (h : s.receives p = true) (h1 : t.supply = s.supply)
    (h2 : (t.port p).link = (s.port p).link) : t.receives p = true := by
  simpa only [State.receives, State.running, h1, h2] using h

/-- A reply made to a request already outstanding, at the end of an event. -/
theorem event_reply {s y : State} {p : PortId} (tag : Byte) (r : Reply) (l : List Part) (h : s.receives p = true)
    (k : keepsAllBut l s y) (hl : Part.replies p ∉ l) (hl2 : Part.link p ∉ l) (hl3 : Part.supply ∉ l) (hx : y.holdAtRest) :
    replied p tag r s (settle (answer p tag r y)) ∧ keepsAllBut (l ++ [.outstanding p,
        .replies p]) s (settle (answer p tag r y)) := by
  have hx2 : (answer p tag r y).holdAtRest := holdAtRest_congr hx (by simp) (by simp)
  have h1 : y.receives p = true := receives_of h (k .supply hl3) (standing_link (k (.link p) hl2))
  refine ⟨settle_replied hx2 ⟨?_, by simp [answer_outstanding]⟩, keepsAllBut_settle hx2 (keepsAllBut_trans (keepsAllBut_mono k (by simp +contextual)) (keepsAllBut_mono (answer_keeps p tag r y) (by simp)))⟩
  rw [answer_replies, h1]; have : y.replies p = s.replies p := k (.replies p) hl
  simp [this]

/-- Outside RUN a step ends with nothing more. -/
theorem notRunning_settle {x : State} (h : x.running = false) : settle x = x := by
  have hg : grantHold x = x := by simp [grantHold, h]
  have hc : chooseOperation x = x := by simp [chooseOperation, h]
  have hp : ∀ p, pumpPort p x = x := by
    intro p; unfold pumpPort; dsimp only; split
    · simp [h]
    · rfl
  simp [settle, hg, hc, pumpAll, hp]

theorem supply_keeps (s : State) (v : Supply) : keepsAllBut [.supply] s { s with supply := v } := by
  intro p hp; cases p <;> first
    | rfl
    | exact ⟨rfl, rfl⟩
    | simp at hp

/-- The drain goes on with the head unit (R182). -/
theorem drainNext_ne {x : State} (h : x.buffer ≠ []) : drainNext x =
    { x with supply := { x.supply with drain := .draining }, store := { x.store with service := .writing } } := by
  have : x.buffer.isEmpty = false := by cases hx : x.buffer <;> simp_all
  simp [drainNext, this, setDrain, setService]

/-- The drain of an empty buffer ends and the hold cell write begins (R185). -/
theorem drainNext_nil {x : State} (h : x.buffer = []) : drainNext x = { x with
    supply := { x.supply with drain := .cellWrite, holdRecord := x.supply.holdRecord.map fun h => { h with outageNumber := some (raiseNumber x.keptOutage) } }
    store := { x.store with service := .idle } } := by
  simp [drainNext, h, setDrain, setService, endDrain, State.keptOutage]

/-- A change of one slot. -/
theorem modSlot_keeps (s : State) (k : Till) (f : VendSlot → VendSlot) : keepsAllBut [.slot k] s (s.modSlot k f) := by
  intro p hp
  cases p with
  | slot j => have : k ≠ j := by simp at hp; exact fun e => hp e.symm
              simp only [Part.same, State.slot_modSlot, if_neg this]
  | link p => cases p <;> rfl
  | outstanding p => cases p <;> rfl
  | replies p => cases p <;> rfl
  | _ => first
    | rfl
    | exact ⟨rfl, rfl⟩

theorem dir_keeps (s : State) (d : List DirEntry) : keepsAllBut [.directory] s { s with directory := d } := by
  intro p hp
  cases p with
  | link p => cases p <;> rfl
  | outstanding p => cases p <;> rfl
  | replies p => cases p <;> rfl
  | directory => simp at hp
  | _ => first
    | rfl
    | exact ⟨rfl, rfl⟩

/-- An IDLE store begins the first waiting read (R109). -/
theorem settle_idle_store {x : State} (hr : x.holdAtRest) (h1 : x.running = true) (h2 : x.store.service = .idle)
    {f : Fetch} {rest : List Fetch} (h3 : x.store.queue = f :: rest)
    (h4 : x.store.retryWaiting = false) (h5 : x.buffer.length < 4) : (settle x).store.service = .reading f ∧ (settle x).store.queue = rest := by
  have : ¬ 4 ≤ x.buffer.length := by omega
  unfold settle; rw [grantHold_rest hr]
  simp [pumpAll, chooseOperation, h1, h2, h3, h4, bufferSize, this]

theorem queue_keeps (s : State) (q : List Fetch) : keepsAllBut [] s
    { s with store := { s.store with queue := q } } := by
  intro p hp; cases p <;> first
    | rfl
    | exact ⟨rfl, rfl⟩

/-- A port with nothing ready begins nothing. -/
theorem pumpPort_idle {p : PortId} {s : State} (h : (s.port p).order = []) (q : PortId) :
    (pumpPort q s).port p = s.port p := by
  by_cases e : q = p
  · subst e; unfold pumpPort; dsimp only; split
    · rename_i h3; rw [h] at h3; cases h3
    · rfl
  · exact pumpPort_port_other _ _ _ e

/-- A port with a frame in transmission begins none (R201). -/
theorem pumpPort_busy {p : PortId} {s : State} {f : TxFrame} (h : (s.port p).transmitting = some f) (q : PortId) :
    (pumpPort q s).port p = s.port p := by
  by_cases e : q = p
  · subst e; unfold pumpPort; dsimp only; split
    · rename_i h3 _; rw [h] at h3; cases h3
    · rfl
  · exact pumpPort_port_other _ _ _ e

/-- The frame of a ready item depends on the values that a notice reports (R173, R207). -/
theorem frameOf_congr {s t : State} (h1 : t.store.areas = s.store.areas) (h2 : t.site = s.site)
    (h3 : t.buffer = s.buffer) (h4 : t.journal = s.journal) (h5 : t.reserved = s.reserved)
    (h6 : t.conditions = s.conditions) (h7 : t.calendar = s.calendar) (i : TxItem) : frameOf t i = frameOf s i := by
  obtain ⟨a, b, c, d, e, f⟩ := areas_same h1
  cases i with
  | reply => rfl
  | notice c =>
    have : noticeFields t c = noticeFields s c := by
      cases c <;> simp [noticeFields, State.held, State.heldEntries, State.salesFree, State.free, State.buffered, b,
          h2, h3, h4, h5, h6]
    simp [frameOf, this, State.now, h7]

/-- An ACTIVE port with no frame in transmission begins the head of its order (R201). -/
theorem pumpPort_begins {p : PortId} {s : State} {i : TxItem} {rest : List TxItem} (h1 : s.running = true)
    (h2 : (s.port p).link = .active)
    (h3 : (s.port p).transmitting = none) (h4 : (s.port p).order = i :: rest) :
    ((pumpPort p s).port p).order = rest ∧ ((pumpPort p s).port p).transmitting = some ⟨frameOf s i, s.linkRate p⟩ := by
  unfold pumpPort; dsimp only; rw [h2, h3, h4]; dsimp only
  rw [if_pos h1]
  simp

theorem pumpPort_step (p q : PortId) (x s : State) (hk : keepsAllBut [] s x) (hp : x.port p = s.port p) (i : TxItem)
    (rest : List TxItem) (h1 : s.running = true) (h2 : (s.port p).link = .active)
    (h3 : (s.port p).transmitting = none) (h4 : (s.port p).order = i :: rest) :
    (q = p → ((pumpPort q x).port p).order = rest ∧ ((pumpPort q x).port p).transmitting = some ⟨frameOf s i, s.linkRate p⟩) ∧
      (q ≠ p → (pumpPort q x).port p = s.port p) := by
  refine ⟨?_, fun e => by rw [pumpPort_port_other _ _ _ e, hp]⟩
  rintro rfl
  have hsup : x.supply = s.supply := hk .supply (by simp)
  obtain ⟨a, b⟩ := pumpPort_begins (s := x) (p := q) (i := i) (rest := rest) (by simpa [State.running, hsup] using h1) (by rw [hp, h2]) (by rw [hp, h3]) (by rw [hp, h4])
  refine ⟨a, ?_⟩
  rw [b]
  have hs : x.site = s.site := hk .site (by simp)
  have e1 : frameOf x i = frameOf s i := frameOf_congr (hk .areas (by simp)) hs (hk .buffer (by simp)) (hk .journal (by simp)) (hk .reserved (by simp)) (hk .conditions (by simp)) (hk .clock (by simp)).1 i
  have e2 : x.linkRate q = s.linkRate q := by cases q <;> simp [State.linkRate, hs]
  rw [e1, e2]

/-- The same after every port has been served. -/
theorem pumpAll_begins {p : PortId} {s : State} {i : TxItem} {rest : List TxItem} (h1 : s.running = true)
    (h2 : (s.port p).link = .active)
    (h3 : (s.port p).transmitting = none) (h4 : (s.port p).order = i :: rest) :
    ((pumpAll s).port p).order = rest ∧ ((pumpAll s).port p).transmitting = some ⟨frameOf s i, s.linkRate p⟩ := by
  have key : ∀ q x, keepsAllBut [] s x → (x.port p = s.port p ∨ (x.port p).order = rest ∧ (x.port p).transmitting = some ⟨frameOf s i, s.linkRate p⟩) →
      keepsAllBut [] s (pumpPort q x) ∧ ((pumpPort q x).port p = s.port p ∧ (q ≠ p ∧ x.port p = s.port p) ∨ ((pumpPort q x).port p).order = rest ∧ ((pumpPort q x).port p).transmitting = some ⟨frameOf s i, s.linkRate p⟩) := by
    intro q x hk hx
    refine ⟨keepsAllBut_trans hk (pumpPort_keeps _ _), ?_⟩
    rcases hx with hx | hx
    · obtain ⟨a, b⟩ := pumpPort_step p q x s hk hx i rest h1 h2 h3 h4
      by_cases e : q = p
      · exact .inr (a e)
      · exact .inl ⟨b e, e, hx⟩
    · rw [pumpPort_busy hx.2]; exact .inr hx
  have K : ∀ q x, keepsAllBut [] s x → (x.port p = s.port p ∨ (x.port p).order = rest ∧ (x.port p).transmitting = some ⟨frameOf s i, s.linkRate p⟩) →
      keepsAllBut [] s (pumpPort q x) ∧ ((pumpPort q x).port p = s.port p ∨ ((pumpPort q x).port p).order = rest ∧ ((pumpPort q x).port p).transmitting = some ⟨frameOf s i, s.linkRate p⟩) :=
    fun q x a b => ⟨(key q x a b).1, (key q x a b).2.imp (·.1) id⟩
  unfold pumpAll
  have a0 := K .office s (keepsAllBut_refl _ _) (.inl rfl)
  have a1 := K (.till 0) _ a0.1 a0.2
  have a2 := K (.till 1) _ a1.1 a1.2
  have a3 := K (.till 2) _ a2.1 a2.2
  have a4 := key (.till 3) _ a3.1 a3.2
  rcases a4.2 with ⟨-, hne, h⟩ | h
  · -- the port was never pumped: impossible
    exfalso
    have b3 := key (.till 2) _ a2.1 a2.2
    rcases b3.2 with ⟨-, hne2, h'⟩ | h'
    · have b2 := key (.till 1) _ a1.1 a1.2
      rcases b2.2 with ⟨-, hne1, h''⟩ | h''
      · have b1 := key (.till 0) _ a0.1 a0.2
        rcases b1.2 with ⟨-, hne0, h3'⟩ | h3'
        · have b0 := key .office s (keepsAllBut_refl _ _) (.inl rfl)
          rcases b0.2 with ⟨-, hneo, -⟩ | h4'
          · cases p with
            | office => exact hneo rfl
            | till k =>
              have hk : ∀ k : Till, k = 0 ∨ k = 1 ∨ k = 2 ∨ k = 3 := by decide
              rcases hk k with rfl | rfl | rfl | rfl
              · exact hne0 rfl
              · exact hne1 rfl
              · exact hne2 rfl
              · exact hne rfl
          · rw [h3', h3] at h4'; simp at h4'
        · rw [h'', h3] at h3'; simp at h3'
      · rw [h', h3] at h''; simp at h''
    · rw [h, h3] at h'; simp at h'
  · exact h

/-- Serving every port leaves one with nothing ready as it is. -/
theorem pumpAll_idle {p : PortId} {s : State} (h : (s.port p).order = []) : (pumpAll s).port p = s.port p := by
  unfold pumpAll
  have e0 := pumpPort_idle (s := s) h .office
  have e1 := pumpPort_idle (p := p) (s := pumpPort .office s) (by rw [e0, h]) (.till 0)
  have e2 := pumpPort_idle (p := p) (s := pumpPort (.till 0) (pumpPort .office s)) (by rw [e1, e0, h]) (.till 1)
  have e3 := pumpPort_idle (p := p) (s := pumpPort (.till 1) (pumpPort (.till 0) (pumpPort .office s))) (by rw [e2, e1, e0, h]) (.till 2)
  have e4 := pumpPort_idle (p := p) (s := pumpPort (.till 2) (pumpPort (.till 1) (pumpPort (.till 0) (pumpPort .office s)))) (by rw [e3, e2, e1, e0, h]) (.till 3)
  rw [e4, e3, e2, e1, e0]

/-- Serving every port leaves one with a frame in transmission as it is. -/
theorem pumpAll_busy {p : PortId} {s : State} {f : TxFrame} (h : (s.port p).transmitting = some f) :
    (pumpAll s).port p = s.port p := by
  unfold pumpAll
  have e0 := pumpPort_busy (s := s) h .office
  have e1 := pumpPort_busy (p := p) (s := pumpPort .office s) (by rw [e0, h]) (.till 0)
  have e2 := pumpPort_busy (p := p) (s := pumpPort (.till 0) (pumpPort .office s)) (by rw [e1, e0, h]) (.till 1)
  have e3 := pumpPort_busy (p := p) (s := pumpPort (.till 1) (pumpPort (.till 0) (pumpPort .office s))) (by rw [e2, e1, e0, h]) (.till 2)
  have e4 := pumpPort_busy (p := p) (s := pumpPort (.till 2) (pumpPort (.till 1) (pumpPort (.till 0) (pumpPort .office s)))) (by rw [e3, e2, e1, e0, h]) (.till 3)
  rw [e4, e3, e2, e1, e0]

theorem endFrame_none {p : PortId} {s : State} (h : (s.port p).settingsWaiting = false) : endFrame p s = s := by
  unfold endFrame; split
  · rfl
  · simp [h]

/-- A change of a port's settings and receiver alone. -/
theorem setPort_keeps (s : State) (p : PortId) (q : LinkPort) (h1 : q.outstanding = (s.port p).outstanding)
    (h2 : q.order = (s.port p).order) (h3 : q.transmitting = (s.port p).transmitting) :
    keepsAllBut [.link p] s (s.setPort p q) := by
  intro r hr
  cases r with
  | link k => have : k ≠ p := by simpa using hr
              simp only [Part.same, State.port_setPort]; rw [if_neg (Ne.symm this)]
  | outstanding k => simp only [Part.same, State.port_setPort]; split
                     · rename_i e; subst e; exact h1
                     · rfl
  | replies k => simp only [Part.same, State.replies, State.port_setPort]; by_cases e : p = k
                 · subst e; simp [LinkPort.sending, h2, h3]
                 · rw [if_neg e]
  | _ => simp [Part.same, State.slot]

theorem running_takes {s : State} (h : s.running = true) : s.takesArisings = true := by
  simp only [State.running] at h; simp [State.takesArisings, h]

theorem four_tills (k : Till) : k = 0 ∨ k = 1 ∨ k = 2 ∨ k = 3 := by revert k; decide

/-- Asking for a grant changes the pending grants alone. -/
theorem askGrant_keeps (k : Till) (s : State) : keepsAllBut [.grants] s (askGrant k s) := by
  intro p hp
  cases p with
  | link p => cases p <;> rfl
  | outstanding p => cases p <;> rfl
  | replies p => cases p <;> rfl
  | _ => first
    | rfl
    | exact ⟨rfl, rfl⟩
    | simp at hp

end Sys2Proof.Machine
end

