-- ==== Sys2Proof/Laws/Conditions.lean ====
section
/-! SUPPORT. The Condition Unit: bits of a condition set, arisings, level reports, CONDITION_CLEAR. -/

namespace Sys2Proof.Machine

theorem reportLevels_keeps (s : State) : keepsAllBut [.conditions] s (reportLevels s) := by
  intro p hp
  cases p with
  | link p => exact reportLevels_standing s p
  | outstanding p => exact reportLevels_outstanding s p
  | replies p => exact reportLevels_replies s p
  | _ => first
    | (simp at hp; done)
    | simp [Part.same, State.slot]

/-- Condition sets with the same bits are the same. -/
theorem conditionSet_ext {v w : ConditionSet} (h : ∀ c, conditionBit v c = conditionBit w c) : v = w := by
  apply Vector.ext
  intro i hi
  have key : ∀ c : Condition, v[c.index.val] = w[c.index.val] := fun c => by
    have := h c; simpa [conditionBit, Vector.get_eq_getElem] using this
  match i, hi with
  | 0, _ => exact key .journalHigh
  | 1, _ => exact key .journalFull
  | 2, _ => exact key .budgetLow
  | 3, _ => exact key .lineFault
  | 4, _ => exact key .storeFault
  | 5, _ => exact key .clockInvalid
  | 6, _ => exact key .tariffShifted
  | 7, _ => exact key .holdLapsed
  | 8, _ => exact key .powerUp
  | n + 9, h => omega

theorem conditionBit_replicate (b : Bool) (c : Condition) : conditionBit (Vector.replicate 9 b) c = b := by
  cases c <;> simp [conditionBit, Condition.index, Vector.get_eq_getElem]

/-- The bits of the set of a list. -/
theorem conditionSetOf_bit (cs : List Condition) (c : Condition) :
    conditionBit (conditionSetOf cs) c = decide (c ∈ cs) := by
  have : ∀ (cs : List Condition) (v : ConditionSet), conditionBit (cs.foldl (fun v c => setConditionBit v c true) v) c =
      (decide (c ∈ cs) || conditionBit v c) := by
    intro cs
    induction cs with
    | nil => simp
    | cons d cs ih =>
      intro v; rw [List.foldl_cons, ih, conditionBit_set]
      by_cases h : d = c
      · subst h; simp
      · simp [h, Ne.symm h]
  rw [conditionSetOf, this, conditionBit_replicate]; simp

theorem withdrawDisabled_view (m : ConditionSet) (s : State) (p : PortId) :
    ((withdrawDisabled m s).port p).view = (s.port p).view := by
  unfold withdrawDisabled
  cases p with
  | office =>
    simp only [State.port_modPort_same, LinkPort.view, List.filter_filter, Prod.mk.injEq, true_and, and_true]
    congr 1; funext i; cases i <;> simp
  | till t => simp [State.port_modPort]

theorem withdrawDisabled_keeps (m : ConditionSet) (s : State) : keepsAllBut [] s (withdrawDisabled m s) := by
  intro p _
  cases p with
  | link p => exact view_standing (withdrawDisabled_view m s p)
  | outstanding p => exact view_outstanding (withdrawDisabled_view m s p)
  | replies p => exact view_replies (withdrawDisabled_view m s p)
  | _ => simp [Part.same, State.slot]

theorem pumpPort_notice (p : PortId) (s : State) (c : Condition) (h : s.noticePending c = false) :
    (pumpPort p s).noticePending c = false := by
  cases p with
  | till t =>
    have : (pumpPort (.till t) s).officePort = s.officePort := by
      have := pumpPort_port_other (.till t) .office s (by simp); simpa using this
    simpa [State.noticePending, this] using h
  | office =>
    unfold pumpPort; dsimp only
    split
    · rename_i i rest h1 h2 h3
      split
      · simp only [State.noticePending, State.setPort_office_officePort]
        simp only [State.noticePending] at h
        have h3 : s.officePort.order = i :: rest := h3
        rw [h3] at h; simp at h; simp [h.2]
      · exact h
    · exact h

theorem chooseOperation_notice (s : State) (c : Condition) : (chooseOperation s).noticePending c = s.noticePending c := by simp [State.noticePending]

theorem settle_notice {s : State} (hr : s.holdAtRest) (c : Condition) (h : s.noticePending c = false) :
    (settle s).noticePending c = false := by
  unfold settle; rw [grantHold_rest hr]
  exact pumpPort_notice _ _ _ (pumpPort_notice _ _ _ (pumpPort_notice _ _ _ (pumpPort_notice _ _ _ (pumpPort_notice _ _ _ (by rw [chooseOperation_notice]; exact h)))))

theorem answer_notice (p : PortId) (tag : Byte) (r : Reply) (s : State) (c : Condition) :
    (answer p tag r s).noticePending c = s.noticePending c := by
  cases p with
  | till t => simp [State.noticePending]
  | office =>
    have := answer_port .office .office tag r s
    simp only [State.port_office, if_true] at this
    simp only [State.noticePending, this]
    split <;> simp

theorem arise_keeps (c : Condition) (s : State) : keepsAllBut [.conditions] s (arise c s) := by
  intro p hp
  cases p with
  | link p => exact view_standing (arise_view c s p)
  | outstanding p => exact view_outstanding (arise_view c s p)
  | replies p => exact view_replies (arise_view c s p)
  | _ => first
    | (simp at hp; done)
    | simp [Part.same, State.slot]

theorem withdrawNotice_view (c : Condition) (s : State) (p : PortId) :
    ((withdrawNotice c s).port p).view = (s.port p).view := by
  unfold withdrawNotice
  cases p with
  | office =>
    simp only [State.port_modPort_same, LinkPort.view, List.filter_filter, Prod.mk.injEq, true_and, and_true]
    congr 1; funext i; cases i <;> simp
  | till t => simp [State.port_modPort]

/-- What the levels depend on. -/
theorem levelOf_congr {s t : State} (h1 : t.store = s.store) (h2 : t.site = s.site) (h3 : t.buffer = s.buffer)
    (h4 : t.journal = s.journal)
    (h5 : t.reserved = s.reserved) (h6 : t.calendar = s.calendar) (c : Condition) : t.levelOf c = s.levelOf c := by
  cases c <;> simp [State.levelOf, State.salesFree, State.free, State.held, State.heldEntries, State.buffered,
      State.commissioned, h1, h2, h3, h4, h5, h6]

theorem queueNotice_conditions (c : Condition) (s : State) : (queueNotice c s).conditions = s.conditions := by simp

/-- What is pending after a notice was queued (R173). -/
theorem noticePending_queue (c d : Condition) (s : State) :
    (queueNotice c s).noticePending d = if c = d then (conditionBit s.site.mask c || s.noticePending c) else s.noticePending d := by
  unfold queueNotice
  split
  · rename_i h
    simp only [Bool.and_eq_true, Bool.not_eq_true'] at h
    simp only [State.noticePending, State.modPort_office_officePort]
    by_cases hcd : c = d
    · subst hcd; simp [h.1]
    · have : d ≠ c := fun x => hcd x.symm
      simp [hcd, this]
  · rename_i h
    simp only [Bool.and_eq_true, Bool.not_eq_true', not_and, Bool.not_eq_false] at h
    by_cases hcd : c = d
    · subst hcd
      cases hm : conditionBit s.site.mask c
      · simp
      · simp [h hm]
    · simp [hcd]

/-- All that clearing one condition does (R175). -/
theorem clearCondition_spec (s : State) (c : Condition) (hta : s.takesArisings = true) :
    (∀ d, (clearCondition s c).latched d = if d = c then s.levelOf c else s.latched d) ∧
      (clearCondition s c).conditions.tillSet = (if c = .lineFault then Vector.replicate 4 false else s.conditions.tillSet) ∧
      (∀ d, d ≠ c → s.noticePending d = false → (clearCondition s c).noticePending d = false) ∧
      (s.levelOf c = false → (clearCondition s c).noticePending c = false) ∧
      (∀ p, ((clearCondition s c).port p).view = (s.port p).view) := by
  simp only [clearCondition]
  generalize h2 : (if c = .lineFault then
      { withdrawNotice c (s.setLatch c false) with conditions := { (withdrawNotice c (s.setLatch c false)).conditions with tillSet := Vector.replicate 4 false } } else withdrawNotice c (s.setLatch c false)) = s2
  have hlev : s2.levelOf c = s.levelOf c := by
    rw [← h2]; split <;> exact levelOf_congr (by simp) (by simp) (by simp) (by simp) (by simp) (by simp) c
  have hlat : ∀ d, s2.latched d = if d = c then false else s.latched d := by
    intro d; rw [← h2]
    have : ∀ d, (withdrawNotice c (s.setLatch c false)).latched d = if d = c then false else s.latched d := by
      intro d; simp only [State.latched, withdrawNotice_frame, State.setLatch, conditionBit_set]
      by_cases h : c = d
      · subst h; simp
      · simp [h, Ne.symm h]
    split
    · exact this d
    · exact this d
  have hts : s2.conditions.tillSet = if c = .lineFault then Vector.replicate 4 false else s.conditions.tillSet := by
    rw [← h2]; split <;> simp [State.setLatch]
  have hta2 : s2.takesArisings = true := by
    rw [← h2]; split <;> simpa [State.takesArisings] using hta
  have hnp : ∀ d, s2.noticePending d = if d = c then false else s.noticePending d := by
    intro d
    have e : s2.officePort.order = s.officePort.order.filter fun i => i != .notice c := by
      rw [← h2]; split <;> rfl
    simp only [State.noticePending, e]
    by_cases h : d = c
    · subst h; simp
    · simp [h]
  have hv : ∀ p, (s2.port p).view = (s.port p).view := by
    intro p; rw [← h2]; split
    · have := withdrawNotice_view c (s.setLatch c false) p
      rw [setLatch_port] at this; cases p <;> exact this
    · rw [withdrawNotice_view, setLatch_port]
  refine ⟨?_, ?_, ?_, ?_, ?_⟩
  · intro d
    simp only [hlev]
    split
    · rename_i h; rw [arise_latched, hlat]
      by_cases hd : d = c
      · subst hd; simp [hta2, h]
      · simp [hd, Ne.symm hd]
    · rename_i h; rw [hlat]
      by_cases hd : d = c
      · subst hd; simp at h; simp [h]
      · simp [hd]
  · simp only [hlev]; split
    · rw [arise_tillSet, hts]
    · exact hts
  · intro d hd hn; simp only [hlev]; split
    · unfold arise; rw [if_pos hta2, noticePending_queue, if_neg (Ne.symm hd)]
      have : (s2.setLatch c true).noticePending d = s2.noticePending d := rfl
      rw [this, hnp, if_neg hd]; exact hn
    · rw [hnp, if_neg hd]; exact hn
  · intro h; simp only [hlev, h, Bool.false_eq_true, if_false]; rw [hnp]; simp
  · intro p; simp only [hlev]; split
    · rw [arise_view, hv]
    · exact hv p

theorem clearCondition_keeps (s : State) (c : Condition) (hta : s.takesArisings = true) :
    keepsAllBut [.conditions] s (clearCondition s c) := by
  intro p hp
  have hv := (clearCondition_spec s c hta).2.2.2.2
  cases p with
  | link p => exact view_standing (hv p)
  | outstanding p => exact view_outstanding (hv p)
  | replies p => exact view_replies (hv p)
  | _ => first
    | (simp at hp; done)
    | simp [Part.same, State.slot]

/-- All that clearing a list of conditions does (R175). -/
theorem clearConditions_spec : ∀ (cs : List Condition) (s : State), s.takesArisings = true →
    let t := cs.foldl clearCondition s
    (∀ d, t.latched d = if d ∈ cs then s.levelOf d else s.latched d) ∧
      t.conditions.tillSet = (if Condition.lineFault ∈ cs then Vector.replicate 4 false else s.conditions.tillSet) ∧
      (∀ d, s.noticePending d = false → d ∉ cs → t.noticePending d = false) ∧
      (∀ d ∈ cs, s.levelOf d = false → t.noticePending d = false) ∧ keepsAllBut [.conditions] s t ∧ t.takesArisings = true := by
  intro cs
  induction cs with
  | nil => intro s h; simp [keepsAllBut_refl, h]
  | cons c cs ih =>
    intro s h
    obtain ⟨a1, a2, a3, a4, a5⟩ := clearCondition_spec s c h
    have hk := clearCondition_keeps s c h
    have hta : (clearCondition s c).takesArisings = true := by simpa [State.takesArisings] using h
    have hlev : ∀ d, (clearCondition s c).levelOf d = s.levelOf d := fun d => levelOf_congr (by simp) (by simp) (by simp) (by simp) (by simp) (by simp) d
    obtain ⟨b1, b2, b3, b4, b5, b6⟩ := ih _ hta
    simp only [List.foldl_cons]
    refine ⟨?_, ?_, ?_, ?_, keepsAllBut_trans hk b5, b6⟩
    · intro d; rw [b1, hlev, a1]
      by_cases h1 : d ∈ cs
      · simp [h1]
      · by_cases h2 : d = c
        · subst h2; simp [h1]
        · simp [h1, h2]
    · rw [b2, a2]
      by_cases h1 : Condition.lineFault ∈ cs
      · simp [h1]
      · by_cases h2 : c = .lineFault
        · subst h2; simp [h1]
        · simp [h1, h2, Ne.symm h2]
    · intro d hd hn
      simp only [List.mem_cons, not_or] at hn
      exact b3 d (a3 d hn.1 hd) hn.2
    · intro d hd hl
      by_cases h1 : d ∈ cs
      · exact b4 d h1 (by rw [hlev]; exact hl)
      · have : d = c := by simpa [h1] using hd
        subst this
        exact b3 d (a4 hl) h1

/-- All that the arising of LINE_FAULT for a till does (R172). -/
theorem ariseLineFault_spec (k : Till) (s : State) (h : s.running = true) :
    let t := ariseLineFault k s
    keepsAllBut [.conditions] s t ∧ t.latched .lineFault = true ∧ t.conditions.tillSet = s.conditions.tillSet.set k.val true k.isLt ∧
      (∀ c, c ≠ .lineFault → t.latched c = s.latched c) ∧
      t.noticePending .lineFault = (conditionBit s.site.mask .lineFault || s.noticePending .lineFault) ∧
      t.officePort.transmitting = s.officePort.transmitting ∧ t.arbiter = s.arbiter ∧ t.buffer = s.buffer := by
  intro t
  have hta := running_takes h
  generalize hZ : ({ s with conditions := { s.conditions with tillSet := s.conditions.tillSet.set k.val true k.isLt } } : State) = Z
  have ht : t = arise .lineFault Z := by simp only [t, ariseLineFault, hZ]
  have kZ : keepsAllBut [.conditions] s Z := by rw [← hZ]; exact conditions_keeps s _
  have zta : Z.takesArisings = true := by rw [← hZ]; exact hta
  have he : t = queueNotice .lineFault (Z.setLatch .lineFault true) := by rw [ht]; simp only [arise, zta, if_true]
  refine ⟨?_, ?_, ?_, ?_, ?_, ?_, ?_, ?_⟩
  · rw [ht]; exact keepsAllBut_trans kZ (arise_keeps _ _)
  · rw [ht]; rw [arise_latched]; simp [zta]
  · rw [ht, arise_tillSet, ← hZ]
  · intro c hc; rw [ht, arise_latched, ← hZ]; simp [Ne.symm hc, State.latched]
  · rw [he, noticePending_queue, if_pos rfl, ← hZ]; rfl
  · rw [he]; unfold queueNotice; split
    · simp only [State.modPort_office_officePort]; rw [← hZ]; rfl
    · rw [← hZ]; rfl
  · rw [ht]; simp [← hZ]
  · rw [ht]; simp [← hZ]

/-- The levels kept after one report (R170). -/
theorem reportLevel_levels (c d : Condition) (s : State) : conditionBit (reportLevel c s).conditions.levels d =
    if d = c then s.levelOf c else conditionBit s.conditions.levels d := by
  have ha : ∀ c (x : State), (arise c x).conditions.levels = x.conditions.levels := by
    intro c x; unfold arise; split
    · simp [State.setLatch]
    · rfl
  unfold reportLevel
  dsimp only
  rw [conditionBit_set]
  by_cases h : c = d
  · subst h; simp
  · have : ¬ d = c := fun e => h e.symm
    simp only [h, this, if_false]
    split
    · rw [ha]
    · rfl

theorem reportLevel_levelOf (c e : Condition) (s : State) : (reportLevel c s).levelOf e = s.levelOf e := by
  refine levelOf_congr ?_ ?_ ?_ ?_ ?_ ?_ e <;> simp

theorem reportLevel_takesArisings (c : Condition) (s : State) : (reportLevel c s).takesArisings = s.takesArisings := by
  have : (reportLevel c s).supply = s.supply := by simp
  simp [State.takesArisings]

/-- A level that a report finds to have gone from absent to present (R170). -/
def State.arises (s : State) (c : Condition) : Bool := c.isLevel && s.levelOf c && !conditionBit s.conditions.levels c

/-- What one report latches and queues while arisings are taken (R170, R173). -/
theorem reportLevel_arises (c d : Condition) (s : State) (h : s.takesArisings = true) :
    let new := decide (d = c) && s.levelOf c && !conditionBit s.conditions.levels c
    (reportLevel c s).latched d = (s.latched d || new) ∧
      (reportLevel c s).noticePending d = (s.noticePending d || (new && conditionBit s.site.mask d)) := by
  intro new
  generalize hx : (if (s.levelOf c && !conditionBit s.conditions.levels c) = true then arise c s else s) = x
  have e1 : (reportLevel c s).latched d = x.latched d := by rw [← hx]; rfl
  have e2 : (reportLevel c s).noticePending d = x.noticePending d := by rw [← hx]; rfl
  rw [e1, e2]
  by_cases hp : (s.levelOf c && !conditionBit s.conditions.levels c) = true
  · have hn : new = decide (d = c) := by simp only [new, Bool.and_assoc, hp, Bool.and_true]
    rw [if_pos hp] at hx
    subst hx
    refine ⟨?_, ?_⟩
    · rw [arise_latched, hn]
      by_cases hd : d = c
      · simp [hd, h]
      · simp [hd, Ne.symm hd]
    · unfold arise; rw [if_pos h, noticePending_queue, hn]
      by_cases hd : d = c
      · subst hd; simp [State.noticePending, Bool.or_comm]
      · simp [hd, Ne.symm hd, State.noticePending]
  · have hn : new = false := by simp only [new, Bool.and_assoc]; simpa using fun _ => hp
    rw [if_neg hp] at hx
    subst hx
    simp [hn]

/-- All that a report of the levels does to the Condition Unit while arisings are taken: the levels kept are those that
stand, and one gone from absent to present is latched, its notice queued while its enable is on (R170, R171, R173). -/
theorem reportLevels_spec (s : State) (h : s.takesArisings = true) (d : Condition) :
    conditionBit (reportLevels s).conditions.levels d =
        (if d.isLevel = true then s.levelOf d else conditionBit s.conditions.levels d) ∧
      (reportLevels s).latched d = (s.latched d || s.arises d) ∧
      (reportLevels s).noticePending d = (s.noticePending d || (s.arises d && conditionBit s.site.mask d)) := by
  have hs : ∀ (c : Condition) (x : State), x.takesArisings = true →
      (reportLevel c x).latched d = (x.latched d || (decide (d = c) && x.levelOf c && !conditionBit x.conditions.levels c)) :=
    fun c x hx => (reportLevel_arises c d x hx).1
  have hn : ∀ (c : Condition) (x : State), x.takesArisings = true → (reportLevel c x).noticePending d =
      (x.noticePending d || (decide (d = c) && x.levelOf c && !conditionBit x.conditions.levels c && conditionBit x.site.mask d)) :=
    fun c x hx => (reportLevel_arises c d x hx).2
  have hm : ∀ (c : Condition) (x : State), (reportLevel c x).site = x.site := fun c x => by simp
  unfold reportLevels
  rw [if_pos h]
  refine ⟨?_, ?_, ?_⟩
  · simp only [reportLevel_levels, reportLevel_levelOf]
    cases d <;> simp [Condition.isLevel]
  · simp only [hs, reportLevel_takesArisings, h, reportLevel_levels, reportLevel_levelOf, State.arises]
    cases d <;> simp [Condition.isLevel]
  · simp only [hn, reportLevel_takesArisings, h, reportLevel_levels, reportLevel_levelOf, hm, State.arises]
    cases d <;> simp [Condition.isLevel]

/-- After a report the levels are at rest, where every level told before as present was latched (R170). -/
theorem reportLevels_rest (s : State) (h : s.takesArisings = true)
    (hl : ∀ c : Condition, c.isLevel = true → conditionBit s.conditions.levels c = true → s.levelOf c = true →
      s.latched c = true) : (reportLevels s).levelsAtRest := by
  intro c hc
  obtain ⟨h1, h2, -⟩ := reportLevels_spec s h c
  have e : (reportLevels s).levelOf c = s.levelOf c := levelOf_congr (by simp) (by simp) (by simp) (by simp) (by simp) (by simp) c
  rw [e, h1, if_pos hc, h2]
  refine ⟨rfl, fun hp => ?_⟩
  cases hb : conditionBit s.conditions.levels c
  · simp [State.arises, hc, hp, hb]
  · simp [hl c hc hb hp]

/-- CLOCK_INVALID is latched by a report in which it has become present. -/
theorem reportLevels_clockInvalid (s : State) (h : s.takesArisings = true)
    (h1 : conditionBit s.conditions.levels .clockInvalid = false) (h2 : s.levelOf .clockInvalid = true) :
    (reportLevels s).latched .clockInvalid = true := by
  rw [(reportLevels_spec s h _).2.1]; simp [State.arises, Condition.isLevel, h1, h2]

end Sys2Proof.Machine
end

