-- ==== Sys2Proof/Laws/Lines.lean ====
section
/-! SUPPORT. Lines and pins: what pinning, releasing, freeing, filling and a posted image do to the Working Set. -/

namespace Sys2Proof.Machine

theorem findPinned_congr {s t : State} (h : t.working = s.working) (o : Owner) : findPinned o t = findPinned o s := by
  simp [findPinned, State.line, h]

theorem findLine_congr {s t : State} (h : t.working = s.working) (m : Nat) : findLine m t = findLine m s := by
  simp [findLine, State.line, h]

/-- One line written. -/
theorem line_setLine (s : State) (l j : LineNo) (v : Line) : (s.setLine l v).line j = if l = j then v else s.line j := by
  simp [State.line, State.setLine, Vector.get_eq_getElem, Vector.getElem_set, Fin.ext_iff]

/-- One line changed. -/
theorem line_modLine (s : State) (l j : LineNo) (f : Line → Line) :
    (s.modLine l f).line j = if l = j then f (s.line l) else s.line j := by
  simp [State.modLine, line_setLine]

/-- Releasing a pin changes the line that it is on alone (R98). -/
theorem releasePin_lines (o : Owner) (s : State) (j : LineNo) :
    (releasePin o s).line j = if findPinned o s = some j then { s.line j with pin := none } else s.line j := by
  unfold releasePin
  cases h : findPinned o s with
  | none => simp [State.line]
  | some l =>
    have : ∀ (x : State), (notePin o none x).line j = x.line j := fun x => by simp [State.line]
    simp only [this, line_modLine, Option.some.injEq]
    by_cases e : l = j
    · subst e; simp
    · simp [e]

theorem releasePin_recency (o : Owner) (s : State) : (releasePin o s).working.recency = s.working.recency := by
  unfold releasePin; split <;> simp [State.modLine, State.setLine]

/-- Releasing a slot's pin changes that slot alone. -/
theorem releasePin_slot (k j : Till) (s : State) :
    (releasePin (.slot k) s).slot j = if j = k then { s.slot k with pin := none } else s.slot j := by
  unfold releasePin; split
  · simp only [notePin, State.slot_modSlot]; by_cases h : k = j
    · subst h; simp
    · simp [h, Ne.symm h]
  · simp only [notePin, State.slot_modSlot]; by_cases h : k = j
    · subst h; simp [State.slot]
    · simp [h, Ne.symm h, State.slot]

theorem releasePin_port (o : Owner) (s : State) (p : PortId) : (releasePin o s).port p = s.port p := by
  cases p <;> simp [State.port]

/-- The line of a meter depends on the meters the lines hold. -/
theorem findLine_of_meters {s t : State} (h : ∀ l, (t.line l).meter = (s.line l).meter) (m : Nat) :
    findLine m t = findLine m s := by
  simp [findLine, h]

/-- All that a slot's pin does (R97, R98). -/
theorem pinLine_spec (k : Till) (l : LineNo) (m : Nat) (s : State) :
    let t := pinLine (.slot k) l m s
    t.line l = { s.line l with pin := some (.slot k) } ∧ (∀ j, j ≠ l → t.line j = s.line j) ∧
      t.working.recency = s.working.recency.erase l ++ [l] ∧ t.slot k = { s.slot k with pin := some m } ∧ (∀ j, j ≠ k → t.slot j = s.slot j) ∧
      keepsAllBut [.lines, .slot k] s t ∧ (∀ p, t.port p = s.port p) := by
  intro t
  have ht : ∀ (x : State) (j : LineNo), (notePin (.slot k) (some m) (touchLine l x)).line j = x.line j := fun x j => by simp [State.line, touchLine]
  have hp : ∀ p, t.port p = s.port p := fun p => by cases p <;> simp [t, State.port]
  have hsl : ∀ j, t.slot j = if k = j then { s.slot k with pin := some m } else s.slot j := by
    intro j
    simp only [t, pinLine, notePin, State.slot_modSlot]
    have : ∀ j, (touchLine l (s.modLine l fun v => { v with pin := some (.slot k) })).slot j = s.slot j := fun j => rfl
    simp only [this]
  refine ⟨?_, ?_, ?_, ?_, ?_, ?_, hp⟩
  · simp only [t, pinLine, ht, line_modLine, if_true]
  · intro j hj; simp only [t, pinLine, ht, line_modLine, if_neg (Ne.symm hj)]
  · simp only [t, pinLine, notePin]; rfl
  · simp [hsl]
  · intro j hj; rw [hsl, if_neg (Ne.symm hj)]
  · intro p hpp
    cases p with
    | slot j => have : k ≠ j := by simp at hpp; exact fun e => hpp e.symm
                simp only [Part.same, hsl, if_neg this]
    | link p => simp [Part.same, hp]
    | outstanding p => simp [Part.same, hp]
    | replies p => simp [Part.same, State.replies, hp]
    | _ => first
      | (simp at hpp; done)
      | simp [Part.same, t]

/-- The search over the lines finds the one that fits. -/
theorem find_line_of_unique {p : LineNo → Bool} {l : LineNo} (h : p l = true) (hu : ∀ j, p j = true → j = l) :
    allLines.find? p = some l := by
  cases hf : allLines.find? p with
  | none =>
    rw [List.find?_eq_none] at hf
    exact absurd h (hf l (List.mem_ofFn.mpr ⟨l, rfl⟩))
  | some j => rw [hu j (List.find?_some hf)]

theorem find_line_none {p : LineNo → Bool} (h : allLines.find? p = none) (l : LineNo) : p l = false := by
  rw [List.find?_eq_none] at h
  have := h l (List.mem_ofFn.mpr ⟨l, rfl⟩); simpa using this

/-- All that a posted image does to its meter's line (R103). -/
theorem lineTakesImage_spec {s : State} {m : Nat} {l : LineNo} (r : Record) (h : findLine m s = some l) :
    let t := lineTakesImage m r s
    t.line l = { s.line l with record := some r, dirty := (s.line l).dirty + 1 } ∧ (∀ j, j ≠ l → t.line j = s.line j) ∧
      t.working.recency = s.working.recency.erase l ++ [l] ∧ (∀ j, t.slot j = s.slot j) ∧ (∀ p, t.port p = s.port p) ∧ keepsAllBut [.lines] s t ∧
      t = { s with working := t.working } := by
  intro t
  have ht : t = touchLine l (s.modLine l fun v => { v with record := some r, dirty := v.dirty + 1 }) := by simp only [t, lineTakesImage, h]
  have hl : ∀ j, t.line j = if l = j then { s.line l with record := some r, dirty := (s.line l).dirty + 1 } else s.line j := by
    intro j; rw [ht, ← line_modLine s l j (fun v => { v with record := some r, dirty := v.dirty + 1 })]; rfl
  refine ⟨by rw [hl, if_pos rfl], fun j hj => by rw [hl, if_neg (Ne.symm hj)], by rw [ht]; rfl, fun j => by rw [ht]; rfl, fun p => by rw [ht]; cases p <;> rfl, ?_, by rw [ht]; rfl⟩
  intro p hp
  rw [ht]
  cases p with
  | link p => cases p <;> rfl
  | outstanding p => cases p <;> rfl
  | replies p => cases p <;> rfl
  | _ => first
    | rfl
    | exact ⟨rfl, rfl⟩
    | simp at hp

theorem lineTakesImage_findLine {s : State} {m : Nat} {l : LineNo} (r : Record) (h : findLine m s = some l)
    (m2 : Nat) : findLine m2 (lineTakesImage m r s) = findLine m2 s := by
  obtain ⟨a, b, -, -, -, -, -⟩ := lineTakesImage_spec r h
  refine findLine_of_meters (fun j => ?_) m2
  by_cases hj : j = l
  · subst hj; rw [a]
  · rw [b j hj]

theorem findPinned_of_pins {s t : State} (h : ∀ l, (t.line l).pin = (s.line l).pin) (o : Owner) :
    findPinned o t = findPinned o s := by
  simp [findPinned, h]

theorem lineTakesImage_findPinned {s : State} {m : Nat} {l : LineNo} (r : Record) (h : findLine m s = some l)
    (o : Owner) : findPinned o (lineTakesImage m r s) = findPinned o s := by
  obtain ⟨a, b, -, -, -, -, -⟩ := lineTakesImage_spec r h
  refine findPinned_of_pins (fun j => ?_) o
  by_cases hj : j = l
  · subst hj; rw [a]
  · rw [b j hj]

/-- A line touched twice is touched once. -/
theorem touch_twice {rec : List LineNo} (h : rec.Nodup) (l : LineNo) :
    (rec.erase l ++ [l]).erase l ++ [l] = rec.erase l ++ [l] := by
  have : l ∉ rec.erase l := by simp [h.mem_erase_iff]
  rw [List.erase_append_right _ this]; simp

theorem recency_nodup {s : State} (h : RecencyLaw s) : s.working.recency.Nodup := by
  have : allLines.Nodup := by decide
  exact h.nodup_iff.mpr this

/-- A change of lines alone. -/
theorem lines_keeps {s t : State} (h : t = { s with working := t.working }) : keepsAllBut [.lines] s t := by
  intro p hp
  rw [h]
  cases p with
  | link p => cases p <;> rfl
  | outstanding p => cases p <;> rfl
  | replies p => cases p <;> rfl
  | lines => simp at hp
  | _ => first
    | rfl
    | exact ⟨rfl, rfl⟩

/-- All that the office's pin does (R97, R98). -/
theorem pinOfficeLine_spec (l : LineNo) (m : Nat) (s : State) :
    let t := pinLine .office l m s
    t.line l = { s.line l with pin := some .office } ∧ (∀ j, j ≠ l → t.line j = s.line j) ∧
      t.working.recency = s.working.recency.erase l ++ [l] ∧ t = { s with working := t.working } := by
  intro t
  have hl : ∀ j, t.line j = if l = j then { s.line l with pin := some .office } else s.line j := by
    intro j; rw [← line_modLine s l j (fun v => { v with pin := some .office })]; rfl
  exact ⟨by rw [hl, if_pos rfl], fun j hj => by rw [hl, if_neg (Ne.symm hj)], rfl, rfl⟩

/-- All that taking a line without a fetch does (R100). -/
theorem takeLineValid_spec (m : Nat) (r : Record) (s : State) (l : LineNo) (hv : victim s = l) :
    let t := takeLineValid m r s
    t.line l = ⟨.valid, some m, some .office, 0, some r⟩ ∧ (∀ j, j ≠ l → t.line j = s.line j) ∧
      t.working.recency = s.working.recency.erase l ++ [l] ∧ t = { s with working := t.working } := by
  intro t
  have ht : t = touchLine l (s.setLine l ⟨.valid, some m, some .office, 0, some r⟩) := by simp only [t, takeLineValid, hv]
  have hl : ∀ j, t.line j = if l = j then ⟨.valid, some m, some .office, 0, some r⟩ else s.line j := by
    intro j; rw [ht, ← line_setLine s l j _]; rfl
  exact ⟨by rw [hl, if_pos rfl], fun j hj => by rw [hl, if_neg (Ne.symm hj)], by rw [ht]; rfl, by rw [ht]; rfl⟩

/-- All that releasing the office's pin does. -/
theorem releaseOfficePin_spec (s : State) :
    let t := releasePin .office s
    (∀ j, t.line j = if findPinned .office s = some j then { s.line j with pin := none } else s.line j) ∧
      t.working.recency = s.working.recency ∧ t = { s with working := t.working } := by
  intro t
  refine ⟨releasePin_lines _ _, releasePin_recency _ _, ?_⟩
  simp only [t, releasePin]; split <;> rfl

/-- The one line that an owner pins is found. -/
theorem findPinned_of_unique {s : State} {l : LineNo} {o : Owner} (h : (s.line l).pin = some o)
    (hu : ∀ j, (s.line j).pin = some o → j = l) : findPinned o s = some l :=
  find_line_of_unique (by simp [h]) (fun j hj => hu j (by simpa using hj))

/-- The one line that holds a meter is found. -/
theorem findLine_of_unique {s : State} {l : LineNo} {m : Nat} (h : (s.line l).meter = some m)
    (hu : ∀ j, (s.line j).meter = some m → j = l) : findLine m s = some l :=
  find_line_of_unique (by simp [h]) (fun j hj => hu j (by simpa using hj))

theorem findPinned_none {s : State} {o : Owner} (h : findPinned o s = none) (j : LineNo) : (s.line j).pin ≠ some o := by
  have := find_line_none h j; simpa using this

theorem findLine_none {s : State} {m : Nat} (h : findLine m s = none) (j : LineNo) : (s.line j).meter ≠ some m := by
  have := find_line_none h j; simpa using this

/-- All that freeing a line does (R105). -/
theorem freeLine_spec (l : LineNo) (s : State) :
    let t := freeLine l s
    t.line l = Line.freed ∧ (∀ j, j ≠ l → t.line j = s.line j) ∧ t.working.recency = l :: s.working.recency.erase l ∧
      t = { s with working := t.working } := by
  intro t
  have hl : ∀ j, t.line j = if l = j then Line.freed else s.line j := by
    intro j; rw [← line_setLine s l j _]; rfl
  exact ⟨by rw [hl, if_pos rfl], fun j hj => by rw [hl, if_neg (Ne.symm hj)], rfl, rfl⟩

/-- A line filled by its fetch (R101). -/
theorem fillLine_valid (l : LineNo) (r : Record) (s : State) :
    let t := touchLine l (s.modLine l fun v => { v with state := .valid, record := some r })
    t.line l = { s.line l with state := .valid, record := some r } ∧ (∀ j, j ≠ l → t.line j = s.line j) ∧
      t.working.recency = s.working.recency.erase l ++ [l] ∧ t = { s with working := t.working } := by
  intro t
  have hl : ∀ j, t.line j = if l = j then { s.line l with state := .valid, record := some r } else s.line j := by
    intro j; rw [← line_modLine s l j (fun v => { v with state := .valid, record := some r })]; rfl
  exact ⟨by rw [hl, if_pos rfl], fun j hj => by rw [hl, if_neg (Ne.symm hj)], rfl, rfl⟩

end Sys2Proof.Machine
end

