-- ==== Sys2Proof/Laws/Quotes.lean ====
section
/-! SUPPORT. The closing of a quote: its slot, its reservations, its pin. -/

namespace Sys2Proof.Machine

theorem giveBack_port (q : QuoteRecord) (s : State) (p : PortId) : ((giveBack q s).port p).view = (s.port p).view := by
  unfold giveBack; rw [reportLevels_view]; cases p <;> rfl

theorem giveBack_levels (q : QuoteRecord) (s : State) : onlyLevels s (giveBack q s) :=
  onlyLevels_congr (reportLevels_onlyLevels { s with
    reserved := s.reserved - q.reservedBudget.getD 0
    journal := { s.journal with reservations := s.journal.reservations - (if q.journalReservation then 1 else 0) } }) rfl rfl

/-- What a closed quote gives back (R65). -/
theorem giveBack_counts (q : QuoteRecord) (s : State) : (giveBack q s).reserved = s.reserved - q.reservedBudget.getD 0 ∧
    (giveBack q s).journal = ⟨s.journal.nextSeq, s.journal.reservations - (if q.journalReservation then 1 else 0)⟩ := by
  simp [giveBack]

/-- The closing of a quote whose slot has no reprint. -/
theorem closeQuote_spec {s : State} {k : Till} {q : QuoteRecord} (outcome : CloseOutcome)
    (hq : (s.slot k).quote = some q)
    (hw : (s.slot k).reprint = none) :
    let t := closeQuote k outcome s
    t.slot k = ⟨.idle, none, none, none, none, some (q.id, outcome), none⟩ ∧
      t.reserved = s.reserved - q.reservedBudget.getD 0 ∧
      t.journal = ⟨s.journal.nextSeq, s.journal.reservations - (if q.journalReservation then 1 else 0)⟩ ∧
      (∀ j, t.line j = if findPinned (.slot k) s = some j then { s.line j with pin := none } else s.line j) ∧
      t.working.recency = s.working.recency ∧ onlyLevels s t ∧ (∀ p, (t.port p).view = (s.port p).view) ∧
      (∀ j, j ≠ k → t.slot j = s.slot j) ∧ t.arbiter = s.arbiter ∧ t.buffer = s.buffer := by
  intro t
  have ht : t = (releasePin (.slot k) (giveBack q s)).modSlot k fun v =>
      { v with state := .idle, quote := none, abandon := none, timer := none, lastClosed := some (q.id, outcome) } := by
    simp [t, closeQuote, hq, VendSlot.reprintHoldsPin, hw]
  have hb : ∀ j, (giveBack q s).slot j = s.slot j := fun j => by simp [State.slot]
  refine ⟨?_, ?_, ?_, ?_, ?_, ?_, ?_, ?_, ?_, ?_⟩
  · rw [ht, State.slot_modSlot_same, releasePin_slot]; simp [hb, hw]
  · rw [ht]; simp [(giveBack_counts q s).1]
  · rw [ht]; simp [(giveBack_counts q s).2]
  · intro j; rw [ht]
    have : ∀ x : State, ∀ f, (x.modSlot k f).line j = x.line j := fun x f => by simp [State.line]
    rw [this, releasePin_lines, findPinned_congr (s := s) (by simp)]; simp [State.line]
  · rw [ht]; simp [releasePin_recency]
  · rw [ht]; exact onlyLevels_congr (giveBack_levels q s) rfl (by simp)
  · intro p; rw [ht]
    have : ∀ x : State, ∀ f, (x.modSlot k f).port p = x.port p := fun x f => by cases p <;> simp [State.port]
    rw [this, releasePin_port, giveBack_port]
  · intro j hj; rw [ht, State.slot_modSlot, if_neg (Ne.symm hj), releasePin_slot, if_neg hj, hb]
  · rw [ht]; simp
  · rw [ht]; simp

theorem settle_slot {x : State} (k : Till) : (settle x).slot k = x.slot k := by simp [State.slot]

theorem settle_line {x : State} (l : LineNo) : (settle x).line l = x.line l := by simp [State.line]

/-- Closing a quote as a whole keeps the other parts. -/
theorem closeQuote_keeps {s : State} {k : Till} {q : QuoteRecord} (outcome : CloseOutcome)
    (hq : (s.slot k).quote = some q)
    (hw : (s.slot k).reprint = none) :
    keepsAllBut [.slot k, .reserved, .journal, .lines, .conditions] s (closeQuote k outcome s) := by
  obtain ⟨h1, h2, h3, h4, h5, h6, h7, h8, h9, h10⟩ := closeQuote_spec outcome hq hw
  intro p hp
  cases p with
  | slot j => exact h8 j (by simpa using hp)
  | link p => exact view_standing (h7 p)
  | outstanding p => exact view_outstanding (h7 p)
  | replies p => exact view_replies (h7 p)
  | _ => first
    | (simp at hp; done)
    | simp [Part.same]

end Sys2Proof.Machine
end

