-- ==== Sys2Proof/Laws/Stores.lean ====
section
/-! SUPPORT. The Record Store: the form of the slot list and of the directory, unit writes, fetches, and the entries an area read returns. -/

namespace Sys2Proof.Machine

/-- A directory insert keeps the order and adds no other entry (R9). -/
theorem dirInsert_sorted {e : DirEntry} : ∀ {d : List DirEntry}, d.Pairwise (fun a b => a.meter < b.meter) →
    (dirInsert e d).Pairwise (fun a b => a.meter < b.meter) ∧ ∀ x ∈ dirInsert e d, x = e ∨ x ∈ d
  | [], _ => by simp [dirInsert]
  | y :: d, h => by
    rw [List.pairwise_cons] at h
    obtain ⟨ih1, ih2⟩ := dirInsert_sorted (e := e) h.2
    unfold dirInsert
    split
    · rename_i hl
      refine ⟨?_, by simp⟩
      rw [List.pairwise_cons, List.pairwise_cons]
      refine ⟨?_, h.1, h.2⟩
      intro a ha
      rcases List.mem_cons.mp ha with rfl | ha
      · exact hl
      · exact lt_trans hl (h.1 a ha)
    · split
      · rename_i h1 h2
        refine ⟨?_, by intro x hx; simp at hx ⊢; tauto⟩
        rw [List.pairwise_cons]
        exact ⟨fun a ha => h2 ▸ h.1 a ha, h.2⟩
      · refine ⟨?_, ?_⟩
        · rw [List.pairwise_cons]
          refine ⟨fun a ha => ?_, ih1⟩
          rcases ih2 a ha with rfl | ha
          · omega
          · exact h.1 a ha
        · intro x hx
          rcases List.mem_cons.mp hx with rfl | hx
          · simp
          · rcases ih2 x hx with rfl | hx
            · simp
            · simp [hx]

/-- A removal keeps the directory's order (R9). -/
theorem dirErase_sorted {m : Nat} {d : List DirEntry} (h : d.Pairwise (fun a b => a.meter < b.meter)) :
    (dirErase m d).Pairwise (fun a b => a.meter < b.meter) := h.filter _

/-- A mark keeps the directory's order (R8, R9). -/
theorem dirMark_sorted {m : Nat} {b : Bool} {d : List DirEntry} (h : d.Pairwise (fun a b => a.meter < b.meter)) :
    (dirMark m b d).Pairwise (fun a b => a.meter < b.meter) := by
  unfold dirMark
  rw [List.pairwise_map]
  refine h.imp ?_
  intro x y hxy
  split <;> split <;> exact hxy

/-- The directory rebuilt is in its order (R9, R11). -/
theorem rebuildDirectory_sorted (m : List (Nat × StoredRecord)) :
    (rebuildDirectory m).Pairwise (fun a b => a.meter < b.meter) := by
  unfold rebuildDirectory
  have : ∀ (l : List (Nat × StoredRecord)) (d : List DirEntry), d.Pairwise (fun a b => a.meter < b.meter) →
      (l.foldl (fun d e => dirInsert ⟨e.2.record.meter, e.1, false⟩ d) d).Pairwise (fun a b => a.meter < b.meter) := by
    intro l
    induction l with
    | nil => exact fun d h => h
    | cons a l ih => exact fun d h => ih _ (dirInsert_sorted h).1
  exact this m [] List.Pairwise.nil

/-- A write keeps the slot list in rising slot order, each slot once. -/
theorem slotPut_sorted {n : Nat} {v : StoredRecord} : ∀ {d : List (Nat × StoredRecord)},
    d.Pairwise (fun a b => a.1 < b.1) →
    (slotPut n v d).Pairwise (fun a b => a.1 < b.1) ∧ ∀ x ∈ slotPut n v d, x = (n, v) ∨ x ∈ d
  | [], _ => by simp [slotPut]
  | y :: d, h => by
    rw [List.pairwise_cons] at h
    obtain ⟨ih1, ih2⟩ := slotPut_sorted (n := n) (v := v) h.2
    unfold slotPut
    split
    · rename_i hl
      refine ⟨?_, by simp⟩
      rw [List.pairwise_cons, List.pairwise_cons]
      refine ⟨?_, h.1, h.2⟩
      intro a ha
      rcases List.mem_cons.mp ha with rfl | ha
      · exact hl
      · exact lt_trans hl (h.1 a ha)
    · split
      · refine ⟨?_, by intro x hx; simp at hx ⊢; tauto⟩
        rw [List.pairwise_cons]
        exact ⟨fun a ha => by have := h.1 a ha; simp; omega, h.2⟩
      · refine ⟨?_, ?_⟩
        · rw [List.pairwise_cons]
          refine ⟨fun a ha => ?_, ih1⟩
          rcases ih2 a ha with rfl | ha
          · simp; omega
          · exact h.1 a ha
        · intro x hx
          rcases List.mem_cons.mp hx with rfl | hx
          · simp
          · rcases ih2 x hx with rfl | hx
            · simp
            · simp [hx]

/-- Freeing a slot keeps the slot list's form. -/
theorem slotErase_sorted {m : Nat} {d : List (Nat × StoredRecord)} (h : d.Pairwise (fun a b => a.1 < b.1)) :
    (slotErase m d).Pairwise (fun a b => a.1 < b.1) := h.filter _

/-- Altering a slot keeps the slot list's form. -/
theorem slotAlter_sorted {m : Nat} {d : List (Nat × StoredRecord)} (h : d.Pairwise (fun a b => a.1 < b.1)) :
    (slotAlter m d).Pairwise (fun a b => a.1 < b.1) := by
  unfold slotAlter
  rw [List.pairwise_map]
  refine h.imp ?_
  intro x y hxy
  split <;> split <;> exact hxy

/-- Reading a slot after a write (R110). -/
theorem slotGet_put (n slot : Nat) (v : StoredRecord) : ∀ m : List (Nat × StoredRecord),
    slotGet n (slotPut slot v m) = if n = slot then some v else slotGet n m := by
  intro m
  induction m with
  | nil => by_cases h : n = slot
           · subst h; simp [slotGet, slotPut]
           · simp [slotGet, slotPut, h, Ne.symm h]
  | cons x rest ih =>
    simp only [slotPut]
    by_cases h1 : slot < x.1
    · simp only [h1, if_true]
      by_cases h : n = slot
      · subst h; simp [slotGet]
      · simp [slotGet, h, Ne.symm h, List.find?_cons]
    · simp only [h1, if_false]
      by_cases h2 : slot = x.1
      · simp only [h2, if_true]
        by_cases h : n = x.1
        · subst h; simp [slotGet]
        · simp [slotGet, h, Ne.symm h]
      · simp only [h2, if_false]
        have ih' := ih
        simp only [slotGet, List.find?_cons] at ih' ⊢
        by_cases h3 : x.1 = n
        · subst h3; simp [Ne.symm h2]
        · have h4 : (x.1 == n) = false := by simpa using h3
          simp only [h4]; exact ih'

/-- Reading a slot after it was freed (R110). -/
theorem slotGet_erase (n slot : Nat) (m : List (Nat × StoredRecord)) :
    slotGet n (slotErase slot m) = if n = slot then none else slotGet n m := by
  induction m with
  | nil => simp [slotGet, slotErase]
  | cons x rest ih =>
    simp only [slotErase, slotGet] at ih ⊢
    by_cases h : x.1 = slot
    · subst h
      simp only [List.filter_cons, bne_self_eq_false, Bool.false_eq_true, if_false, ih, List.find?_cons]
      by_cases h2 : n = x.1
      · simp [h2]
      · have : (x.1 == n) = false := by simpa using Ne.symm h2
        simp [h2, this]
    · have h1 : (x.1 != slot) = true := by simpa using h
      simp only [List.filter_cons, h1, if_true, List.find?_cons]
      by_cases h2 : x.1 = n
      · subst h2; simp [h]
      · have : (x.1 == n) = false := by simpa using h2
        simp only [this]; exact ih

/-- The image written is the kept one once it is verified (R184). -/
theorem image_keep (a : ImageArea) (v : SiteState) : (a.keep v).image = some v := by
  unfold ImageArea.keep ImageArea.write ImageArea.image ImageArea.place
  cases a with | mk f s k => cases k with
    | none => rfl
    | some k => cases k <;> rfl

/-- An image being written leaves the kept one as it is (R184). -/
theorem image_write (a : ImageArea) (v : SiteState) : (a.write v).image = a.image := by
  unfold ImageArea.write ImageArea.image ImageArea.place
  cases a with | mk f s k => cases k with
    | none => rfl
    | some k => cases k <;> rfl

theorem stored_congr {u : CommitUnit} {s t s' t' : State} (h : stored u s t) (h1 : s'.store.areas = s.store.areas)
    (h2 : t'.store.slots = t.store.slots)
    (h3 : t'.store.journal = t.store.journal) (h4 : t'.store.summaries = t.store.summaries) (h5 : t'.store.image = t.store.image) (h6 : t'.store.holdCell = t.store.holdCell) : stored u s' t' := by
  simp only [RecordStore.areas, Prod.mk.injEq] at h1
  obtain ⟨a, b, c, d, e, f⟩ := h1
  simpa only [stored, h2, h3, h4, h5, h6, a, b, c, d, e] using h

/-- The head unit leaves the buffer and is written, its line's dirty count lowered (R104, R110). -/
theorem lowerDirty_spec (u : CommitUnit) (s : State) :
    let t := lowerDirty u { s with store := s.store.written u, buffer := s.buffer.tail }
    stored u s t ∧ linesAfterStore u s t ∧ keepsAllBut [.areas, .lines, .buffer] s t := by
  intro t
  have hst : t.store = s.store.written u := by simp [t]
  refine ⟨⟨?_, ?_, ?_, ?_, ?_⟩, ⟨?_, ?_⟩, ?_⟩
  · intro n; rw [hst]; simp only [RecordStore.written]
    cases u.part with
    | none => rfl
    | some p => cases p with
      | image slot r => exact slotGet_put n slot _ _
      | erase slot m => exact slotGet_erase n slot _
  · rw [hst]; simp only [RecordStore.written]; cases u.entry <;> rfl
  · rw [hst]; simp only [RecordStore.written]; cases u.summary <;> rfl
  · rw [hst]; exact image_keep _ _
  · rw [hst]; rfl
  · simp only [t, lowerDirty]; repeat' split
    all_goals rfl
  · have hl : ∀ m, findLine m { s with store := s.store.written u, buffer := s.buffer.tail } = findLine m s := fun m => rfl
    intro j
    simp only [t, lowerDirty, lineAfterStore]
    cases hp : u.part with
    | none => rfl
    | some p => cases p with
      | erase slot m => rfl
      | image slot r =>
        simp only [hl]
        cases hf : findLine r.meter s with
        | none => simp; rfl
        | some l =>
          simp only [line_modLine, Option.some.injEq]
          by_cases h : l = j
          · subst h; simp [State.line]
          · simp [h, State.line]
  · intro p hp
    have hport : ∀ k, t.port k = s.port k := fun k => by cases k <;> simp [t, State.port]
    cases p with
    | link p => simp [Part.same, hport]
    | outstanding p => simp [Part.same, hport]
    | replies p => simp [Part.same, State.replies, hport]
    | _ => first
      | (simp at hp; done)
      | simp [Part.same, State.slot, t]

/-- All that the completing of the head unit does; where no arising is taken it leaves the Condition Unit and the office
port alone. -/
theorem completeUnit_spec (u : CommitUnit) (s : State) :
    let t := completeUnit u s
    t.buffer = s.buffer.tail ∧ stored u s t ∧ linesAfterStore u s t ∧ t.store.faulted = s.store.faulted ∧
      t.store.service = s.store.service ∧ t.store.queue = s.store.queue ∧ t.store.retryWaiting = s.store.retryWaiting ∧
      keepsAllBut [.areas, .lines, .buffer, .conditions] s t ∧ onlyLevels s t ∧
      (s.takesArisings = false → t.conditions = s.conditions ∧ t.officePort = s.officePort) := by
  intro t
  obtain ⟨h1, h2, h3⟩ := lowerDirty_spec u s
  generalize hy : lowerDirty u { s with store := s.store.written u, buffer := s.buffer.tail } = y at h1 h2 h3
  have ht : t = reportLevels y := by rw [← hy]; rfl
  have hst : t.store = s.store.written u := by rw [ht, ← hy]; simp
  have hw : t.working = y.working := by rw [ht]; simp
  have hs : t.store = y.store := by rw [ht]; simp
  refine ⟨by rw [ht, ← hy]; simp, stored_congr h1 rfl (by rw [hs]) (by rw [hs]) (by rw [hs]) (by rw [hs]) (by rw [hs]),
    ⟨by rw [hw]; exact h2.1, fun j => by simp only [State.line, hw]; exact h2.2 j⟩, by rw [hst]; rfl, by rw [hst]; rfl,
    by rw [hst]; rfl, by rw [hst]; rfl, ?_, ?_, ?_⟩
  · rw [ht]; exact keepsAllBut_trans (keepsAllBut_mono h3 (by simp)) (keepsAllBut_mono (reportLevels_keeps y) (by simp))
  · rw [ht]; exact onlyLevels_report (by rw [← hy]; simp)
  · intro h
    have : y.takesArisings = false := by rw [← h, ← hy]; simp [State.takesArisings]
    rw [ht]; simp only [reportLevels, this, Bool.false_eq_true, if_false]; rw [← hy]; simp

/-- Reading a slot after it was altered (R107). -/
theorem slotGet_alter (n slot : Nat) : ∀ m : List (Nat × StoredRecord), slotGet n (slotAlter slot m) =
    (slotGet n m).map (fun x => if n = slot then { x with check := none } else x) := by
  intro m
  induction m with
  | nil => rfl
  | cons e m ih =>
    unfold slotGet slotAlter at ih ⊢
    simp only [List.map_cons, List.find?_cons]
    by_cases h : e.1 = slot
    · by_cases h2 : e.1 = n
      · subst h; subst h2; simp
      · have : (e.1 == n) = false := by simpa using h2
        simp only [h, if_true]
        rw [h] at this
        simp only [this]
        exact ih
    · by_cases h2 : e.1 = n
      · have : ¬ n = slot := fun x => h (h2.trans x)
        simp [h2, this]
      · have : (e.1 == n) = false := by simpa using h2
        simp only [if_neg h, this]
        exact ih

/-- All that a failed write of the head unit does (R112, R184). -/
theorem failUnit_spec (u : CommitUnit) (a : Bool) (s : State) :
    leftUnstored u a s (failUnit u a s) ∧ keepsAllBut [.areas] s (failUnit u a s) ∧ (failUnit u a s).store.faulted = s.store.faulted := by
  refine ⟨⟨image_write _ _, ?_, rfl, rfl, rfl, ?_, ?_⟩, ?_, rfl⟩
  · show (s.store.image.write u.image).kept = _
    unfold ImageArea.write; split <;> rfl
  · intro h
    rcases h with h | h
    · subst h; simp [failUnit, RecordStore.failed]
    · cases a <;> simp only [failUnit, RecordStore.failed, h]
  · intro p ha hp n
    subst ha
    have : (failUnit u true s).store.slots = slotAlter p.slot s.store.slots := by
      cases p <;> simp [failUnit, RecordStore.failed, hp, RecordPart.slot]
    rw [this, slotGet_alter]
    by_cases h : n = p.slot
    · simp [h]
    · simp [h]
  · intro p hp; cases p <;> first
      | rfl
      | exact ⟨rfl, rfl⟩
      | simp at hp

theorem settle_stored {u : CommitUnit} {s x : State} (h : stored u s x) : stored u s (settle x) := by
  obtain ⟨a, b, c, d, e, f⟩ := areas_same (settle_areas x)
  exact stored_congr h rfl a b c d e

theorem settle_lines {u : CommitUnit} {s x : State} (h : linesAfterStore u s x) : linesAfterStore u s (settle x) := by
  refine ⟨by simpa using h.1, fun j => ?_⟩
  rw [settle_line]; exact h.2 j

theorem settle_unstored {u : CommitUnit} {a : Bool} {s x : State} (h : leftUnstored u a s x) :
    leftUnstored u a s (settle x) := by
  obtain ⟨a1, b, c, d, e, f⟩ := areas_same (settle_areas x)
  simpa only [leftUnstored, a1, b, c, d, e] using h

theorem entryBytes_total (es : List JournalEntry) : (es.map fun e => beBytes 1 (journalEntryBytes e).length ++ journalEntryBytes e).flatten.length =
    (es.map fun e => 1 + (journalEntryBytes e).length).sum := by
  induction es with
  | nil => rfl
  | cons e es ih =>
    rw [List.map_cons, List.flatten_cons, List.length_append, ih, List.map_cons, List.sum_cons]
    simp [beBytes]; omega

/-- The entries returned are the first of those asked for (R139). -/
theorem fitEntries_prefix : ∀ (es : List JournalEntry) (n : Nat), fitEntries n es <+: es := by
  intro es
  induction es with
  | nil => intro n; simp [fitEntries]
  | cons e es ih =>
    intro n; unfold fitEntries; dsimp only
    split
    · exact List.cons_prefix_cons.mpr ⟨rfl, ih _⟩
    · simp

/-- The entries returned fit a body (R206). -/
theorem fitEntries_fits : ∀ (es : List JournalEntry) (n : Nat), n ≤ maxBody →
    n + ((fitEntries n es).map fun e => 1 + (journalEntryBytes e).length).sum ≤ maxBody := by
  intro es
  induction es with
  | nil => intro n h; simpa [fitEntries] using h
  | cons e es ih =>
    intro n h; unfold fitEntries; dsimp only
    split
    · rename_i h2
      have := ih _ h2
      simp only [List.map_cons, List.sum_cons]; omega
    · simpa using h

/-- One entry more would not fit a body (R206). -/
theorem fitEntries_longest : ∀ (es : List JournalEntry) (n : Nat) (e : JournalEntry), fitEntries n es ++ [e] <+: es →
    maxBody < n + ((fitEntries n es ++ [e]).map fun e => 1 + (journalEntryBytes e).length).sum := by
  intro es
  induction es with
  | nil => intro n e h; simp [fitEntries] at h
  | cons a es ih =>
    intro n e h
    unfold fitEntries at h ⊢; dsimp only at h ⊢
    split
    · rename_i h2
      simp only [h2, if_true, List.cons_append, List.cons_prefix_cons, true_and] at h
      have := ih _ e h
      simp only [List.cons_append, List.map_cons, List.sum_cons]; omega
    · rename_i h2
      simp only [h2, if_false, List.nil_append, List.cons_prefix_cons] at h
      obtain ⟨h, -⟩ := h
      subst h
      simp; omega

theorem alterSlot_keeps (d : Bool) (slot : Nat) (s : State) : keepsAllBut [.areas] s (alterSlot d slot s) := by
  unfold alterSlot; split
  · intro p hp; cases p <;> first
      | rfl
      | exact ⟨rfl, rfl⟩
      | simp at hp
  · exact keepsAllBut_refl _ _

/-- A fetch of a slot that does not hold the meter's record with a good check fails (R107). -/
theorem fetchResult_bad {damaged : Bool} {meter slot : Nat} {s : State}
    (h : ¬∃ r, damaged = false ∧ r.meter = meter ∧ slotGet slot s.store.slots = some ⟨r, some r⟩) :
    fetchResult meter (slotGet slot (alterSlot damaged slot s).store.slots) = none := by
  unfold fetchResult alterSlot
  cases damaged with
  | true =>
    simp only [if_true, slotGet_alter]
    cases slotGet slot s.store.slots <;> simp
  | false =>
    simp only [Bool.false_eq_true, if_false]
    cases hv : slotGet slot s.store.slots with
    | none => rfl
    | some x =>
      dsimp only
      rw [if_neg]
      rintro ⟨h1, h2⟩
      exact h ⟨x.record, rfl, h1, by rw [hv]; cases x; simp at h2 ⊢; exact h2⟩

/-- A fetch of the meter's record with a good check gives it (R107). -/
theorem fetchResult_good {damaged : Bool} {meter slot : Nat} {s : State} {r : Record}
    (h : damaged = false ∧ r.meter = meter ∧ slotGet slot s.store.slots = some ⟨r, some r⟩) :
    fetchResult meter (slotGet slot (alterSlot damaged slot s).store.slots) = some r ∧ alterSlot damaged slot s = s := by
  obtain ⟨h1, h2, h3⟩ := h
  subst h1
  have : alterSlot false slot s = s := rfl
  rw [this]
  simp [fetchResult, h3, h2]

end Sys2Proof.Machine
end

