-- ==== Sys2Proof/Laws/Postings.lean ====
section
/-! SUPPORT. Posting: the unit that enters the buffer and the common ends of requests that post. -/

namespace Sys2Proof.Machine

/-- Taking a reservation changes the journal's counts and the levels alone. -/
theorem takeReservation_keeps (s : State) : keepsAllBut [.journal, .conditions] s (takeReservation s) := by
  have : keepsAllBut [.journal] s { s with journal := { s.journal with reservations := s.journal.reservations + 1 } } := by
    intro p hp; cases p <;> first
      | rfl
      | exact ⟨rfl, rfl⟩
      | simp at hp
  exact keepsAllBut_trans (keepsAllBut_mono this (by simp)) (keepsAllBut_mono (reportLevels_keeps _) (by simp))

theorem takeReservation_levels (s : State) : onlyLevels s (takeReservation s) :=
  onlyLevels_congr (reportLevels_onlyLevels { s with journal := { s.journal with reservations := s.journal.reservations + 1 } }) rfl rfl

theorem takeReservation_journal (s : State) : (takeReservation s).journal = ⟨s.journal.nextSeq, s.journal.reservations + 1⟩ := by
  simp [takeReservation]

/-- All that a unit with an entry does as it enters the buffer (R121, R127, R137). -/
theorem addUnit_entry (kind : UnitKind) (part : Option RecordPart) (src : Source) (body : EntryBody) (s : State) :
    posts (postedUnit s kind part s.now src body s.site) (s.journal.reservations - 1) s
      (addUnit kind part (some (src, body)) none s) := by
  simp [posts, addUnit, postedUnit]

/-- A unit that enters the buffer moves levels alone in the Condition Unit (R138, R171). -/
theorem addUnit_levels (kind : UnitKind) (part : Option RecordPart) (entry : Option (Source × EntryBody))
    (sm : Option DaySummary) (s : State) : onlyLevels s (addUnit kind part entry sm s) := by
  unfold addUnit; split
  · exact onlyLevels_of_conditions rfl
  · exact onlyLevels_report rfl

/-- No port sees a unit enter the buffer. -/
theorem addUnit_view (kind : UnitKind) (part : Option RecordPart) (entry : Option (Source × EntryBody))
    (sm : Option DaySummary) (s : State) (p : PortId) : ((addUnit kind part entry sm s).port p).view = (s.port p).view := by
  unfold addUnit; split
  · rfl
  · rw [reportLevels_view]; rfl

/-- What a unit entering the buffer leaves alone. -/
theorem addUnit_keeps (kind : UnitKind) (part : Option RecordPart) (entry : Option (Source × EntryBody))
    (sm : Option DaySummary) (s : State) :
    keepsAllBut [.site, .buffer, .journal, .conditions] s (addUnit kind part entry sm s) := by
  intro p hp
  have hv := addUnit_view kind part entry sm s
  cases p with
  | link p => exact view_standing (hv p)
  | outstanding p => exact view_outstanding (hv p)
  | replies p => exact view_replies (hv p)
  | _ => first
    | (simp at hp; done)
    | simp [Part.same, State.slot]

/-- Common end of an office request that posts. -/
theorem officePosting_end {s y : State} {tag : Byte} {body : List Byte} {l : List Part} (kind : Byte) (r : Reply)
    (h : s.takes .office tag body)
    (hl : Part.replies .office ∉ l) (hl2 : Part.link .office ∉ l) (hl3 : Part.supply ∉ l) (hn : y.buffer ≠ [])
    (k : keepsAllBut l (s.serving .office kind tag) y) :
    replied .office tag r s (settle (answer .office tag r y)) ∧ keepsAllBut (l ++ [.replies .office]) s (settle (answer .office tag r y)) := by
  have hx : (answer .office tag r y).holdAtRest := by intro _; simpa using hn
  have hk : keepsAllBut (l ++ [.replies .office]) (s.serving .office kind tag) y := keepsAllBut_mono k (fun p hp => List.mem_append_left _ hp)
  have k2 : (y.port .office).standing = ((s.serving .office kind tag).port .office).standing := k (.link .office) hl2
  have k3 : y.supply = (s.serving .office kind tag).supply := k .supply hl3
  have k4 : y.replies .office = (s.serving .office kind tag).replies .office := k (.replies .office) hl
  refine ⟨settle_replied hx (end_replied kind r h ?_ (by simpa using k3) (by rw [k4, serving_replies])),
    keepsAllBut_settle hx (end_keeps kind r h (by simp) hk)⟩
  have : (y.port .office).link = ((s.serving .office kind tag).port .office).link := by
    have := congrArg Prod.fst k2; simpa [LinkPort.standing] using this
  rw [this, serving_link]

/-- The end of an office request that posts a unit with an entry. `y0` is the state before the unit, `z` after it. -/
theorem officeUnit_end {s y0 z : State} {tag : Byte} {body : List Byte} {l : List Part} (kind : Byte) (r : Reply)
    (h : s.takes .office tag body)
    (ukind : UnitKind) (part : Option RecordPart) (now : Option DateTime) (src : Source) (eb : EntryBody) (v : SiteState)
    (hl : Part.replies .office ∉ l) (hl2 : Part.link .office ∉ l) (hl3 : Part.supply ∉ l)
    (hl4 : Part.site ∈ l) (hl5 : Part.buffer ∈ l) (hl6 : Part.journal ∈ l) (hl7 : Part.conditions ∈ l)
    (k : keepsAllBut l (s.serving .office kind tag) y0)
    (hb : y0.buffer = s.buffer) (hv : y0.site = v) (hj : y0.journal = ⟨s.journal.nextSeq, s.journal.reservations + 1⟩)
    (hn : y0.now = now) (ho : onlyLevels s y0)
    (hz : keepsAllBut l (addUnit ukind part (some (src, eb)) none y0) z)
    (hzs : z.site = (addUnit ukind part (some (src, eb)) none y0).site)
    (hzb : z.buffer = (addUnit ukind part (some (src, eb)) none y0).buffer)
    (hzj : z.journal = (addUnit ukind part (some (src, eb)) none y0).journal)
    (hzo : onlyLevels (addUnit ukind part (some (src, eb)) none y0) z) :
    let t := settle (answer .office tag r z)
    posts (postedUnit s ukind part now src eb v) s.journal.reservations s t ∧ replied .office tag r s t ∧ onlyLevels s t ∧
      keepsAllBut (l ++ [.replies .office]) s t := by
  intro t
  have kz : keepsAllBut l (s.serving .office kind tag) z :=
    keepsAllBut_trans k (keepsAllBut_trans (keepsAllBut_mono (addUnit_keeps _ _ _ _ _) (by
      intro p hp; simp only [List.mem_cons, List.not_mem_nil, or_false] at hp
      rcases hp with rfl | rfl | rfl | rfl <;> assumption)) hz)
  have hne : z.buffer ≠ [] := by rw [hzb]; simp [addUnit]
  obtain ⟨e1, e2⟩ := officePosting_end kind r h hl hl2 hl3 hne kz
  refine ⟨?_, e1, ?_, e2⟩
  · have := addUnit_entry ukind part src eb y0
    obtain ⟨a1, a2, a3⟩ := this
    refine ⟨?_, ?_, ?_⟩
    · simp only [t, settle_frame, answer_frame, hzb, a1, hb]
      simp [postedUnit, hj, hn, hv]
    · simp only [t, settle_frame, answer_frame, hzs, a2]
      simp [postedUnit, hv]
    · simp only [t, settle_frame, answer_frame, hzj, a3, hj]
      simp
  · refine settle_onlyLevels (onlyLevels_congr (onlyLevels_trans (onlyLevels_trans ho ?_) hzo) rfl (by simp))
    exact addUnit_levels _ _ _ _ _

/-- Where an office request's unit posts at once: the reserving state. -/
theorem reserve_posts {s : State} {kind tag : Byte} (hp : s.ready) (j : Job) :
    reserveAndPost j (s.serving .office kind tag) = runJob ⟨j, true⟩ (takeReservation (s.serving .office kind tag)) := by
  have : (takeReservation (s.serving .office kind tag)).postsAtOnce = true := by
    have := hp.1; simpa [State.postsAtOnce] using this
  simp [reserveAndPost, postOrWait, this]

theorem postOffice_posts {s : State} {kind tag : Byte} (hp : s.ready) (j : Job) :
    postOffice j (s.serving .office kind tag) = runJob ⟨j, true⟩ (takeReservation (s.serving .office kind tag)) := by
  simp only [postOffice, serving_roomForOffice, hp.2, if_true, reserve_posts hp]

/-- A JOURNAL-ONLY unit of a setting: the usual case. -/
theorem setting_end {s z : State} {tag : Byte} {body : List Byte} (kind : Byte) (r : Reply)
    (h : s.takes .office tag body)
    (eb : EntryBody) (v : SiteState) (more : List Part)
    (hl : Part.replies .office ∉ more) (hl2 : Part.link .office ∉ more) (hl3 : Part.supply ∉ more) (y0 : State)
    (hy : keepsAllBut more { takeReservation (s.serving .office kind tag) with site := v } y0)
    (h1 : y0.buffer = s.buffer) (h2 : y0.site = v) (h3 : y0.journal = (takeReservation (s.serving .office kind tag)).journal) (h4 : y0.now = s.now)
    (h5 : y0.conditions = (takeReservation (s.serving .office kind tag)).conditions)
    (hz : keepsAllBut (more ++ [.conditions]) (postSetting true eb y0) z)
    (hzs : z.site = (postSetting true eb y0).site) (hzb : z.buffer = (postSetting true eb y0).buffer)
    (hzj : z.journal = (postSetting true eb y0).journal) (hzo : onlyLevels (postSetting true eb y0) z) :
    settingPosts tag eb v r more s (settle (answer .office tag r z)) := by
  have := officeUnit_end (s := s) (y0 := y0) (z := z) (l := more ++ [.site, .buffer, .journal,
      .conditions]) kind r h .journalOnly none s.now .office eb v
    (by simpa using hl) (by simpa using hl2) (by simpa using hl3) (by simp) (by simp) (by simp) (by simp)
    (keepsAllBut_trans (keepsAllBut_mono (takeReservation_keeps _) (by simp)) (keepsAllBut_trans (keepsAllBut_mono (site_keeps _ v) (by simp)) (keepsAllBut_mono hy (by simp +contextual))))
    h1 h2 (by rw [h3, takeReservation_journal]; simp) h4
    (onlyLevels_trans (serving_levels s .office kind tag) (onlyLevels_congr (takeReservation_levels _) rfl h5))
    (keepsAllBut_mono hz (by simp; tauto)) hzs hzb hzj hzo
  refine ⟨this.1, this.2.1, this.2.2.1, keepsAllBut_mono this.2.2.2 (by simp)⟩

theorem takeReservation_now (s : State) : (takeReservation s).now = s.now := by simp [State.now]

/-- A setting whose posting changes the site state alone. -/
theorem setting_simple {s : State} {tag : Byte} {body : List Byte} (kind : Byte) (r : Reply)
    (h : s.takes .office tag body) (eb : EntryBody) (v : SiteState) :
    settingPosts tag eb v r [] s (settle (officeReply r (postSetting true eb { takeReservation (s.serving .office kind tag) with site := v }))) := by
  have hout : (postSetting true eb { takeReservation (s.serving .office kind tag) with site := v }).officePort.outstanding = some ⟨tag, kind⟩ := by
    refine after_outstanding (s := s) (l := [.journal, .conditions, .site, .buffer]) ?_ (by simp)
    exact keepsAllBut_trans (keepsAllBut_mono (takeReservation_keeps _) (by simp)) (keepsAllBut_trans (keepsAllBut_mono (site_keeps _ v) (by simp)) (keepsAllBut_mono (addUnit_keeps _ _ _ _ _) (by simp)))
  rw [officeReply_at (s := s) _ hout]
  exact setting_end (s := s) (tag := tag) kind r h eb v [] (by simp) (by simp) (by simp)
    { takeReservation (s.serving .office kind tag) with site := v } (keepsAllBut_refl _ _) (by simp) rfl rfl (by simp [State.now]) rfl
    (keepsAllBut_refl _ _) rfl rfl rfl (onlyLevels_refl _)

theorem settingRefusal_none {s : State} (he : s.editable) (p : PortId) (k t : Byte) :
    settingRefusal (s.serving p k t) = none := by simp [settingRefusal, he.1, he.2]

theorem quarterFollows_iff (s : State) (purpose : Purpose) (q : Nat) :
    quarterFollows purpose q s.assembly = true ↔ s.quarterFits purpose q := by
  simp [quarterFollows, State.quarterFits, Option.any_eq_true]

theorem serving_assembly (s : State) (k t : Byte) : (s.serving .office k t).assembly = s.assembly := by simp

theorem addQuarter_eq (s : State) (purpose : Purpose) (q : Nat) (raw : List RawEntry) :
    addQuarter purpose q raw s.assembly = ⟨purpose, s.collected q ++ raw.map RawEntry.entry⟩ := by
  simp only [addQuarter, State.collected]
  split
  · simp
  · cases s.assembly <;> simp

theorem firstInvalid_eq {raw : List RawEntry} {i : Nat} (h1 : i < raw.length)
    (h2 : (raw.take i).all RawEntry.valid = true)
    (h3 : (raw.drop i).head?.any RawEntry.valid = false) : raw.findIdx (fun e => !e.valid) = i := by
  rw [List.findIdx_eq h1]
  constructor
  · have : raw.drop i = raw[i] :: raw.drop (i + 1) := List.drop_eq_getElem_cons h1
    rw [this] at h3; simpa [List.getElem?_eq_getElem h1] using h3
  · intro j hj
    have : raw[j]'(by omega) ∈ raw.take i := by
      rw [List.mem_iff_getElem]; exact ⟨j, by simp; omega, by simp⟩
    simpa using List.all_eq_true.1 h2 _ this

theorem all_valid_false {raw : List RawEntry} {i : Nat} (h1 : i < raw.length)
    (h3 : (raw.drop i).head?.any RawEntry.valid = false) : raw.all RawEntry.valid = false := by
  have : raw.drop i = raw[i] :: raw.drop (i + 1) := List.drop_eq_getElem_cons h1
  rw [this] at h3
  rw [List.all_eq_false]
  exact ⟨raw[i], by simp, by simpa [List.getElem?_eq_getElem h1] using h3⟩

/-- A quarter that does not complete its set is kept and answered (R26). -/
theorem takeQuarter_answered {s : State} {kind tag : Byte} {body : List Byte} (h : s.takes .office tag body)
    (hr : s.holdAtRest)
    (serve : State → State) (r : Reply) (a : Assembly)
    (hs : serve (s.serving .office kind tag) = officeReply r { s.serving .office kind tag with assembly := some a }) :
    ∃ t, finish (takeOffice kind tag body serve s) = .next t ∧ replied .office tag r s t ∧ t.assembly = some a ∧
      keepsAllBut [.assembly, .replies .office] s t := by
  have h' : ({ s with assembly := some a } : State).takes .office tag body := h
  have hr' : ({ s with assembly := some a } : State).holdAtRest := hr
  refine ⟨_, takeOffice_exec h serve, ?_⟩
  have e : officeReply r { s.serving .office kind tag with assembly := some a } =
      answer .office tag r (({ s with assembly := some a } : State).serving .office kind tag) := by
    exact officeReply_eq (s := ({ s with assembly := some a } : State).serving .office kind tag) (o := ⟨tag, kind⟩) (by simp [State.serving]) r
  rw [hs, e]
  have := answered_end h' hr' kind r
  refine ⟨this.1, by simp, ?_⟩
  intro q hq'
  have hq2 : q ≠ .assembly ∧ q ≠ .replies .office := by
    constructor <;> (rintro rfl; simp at hq')
  have h3 := this.2 q (by simpa using hq2.2)
  cases q <;> first
    | exact h3
    | exact absurd rfl hq2.1

/-- A completing quarter or a setting posted: with the assembly area changed before the posting and after it. -/
theorem completedSet_posts {s : State} {tag : Byte} {body : List Byte} (kind : Byte) (r : Reply)
    (h : s.takes .office tag body) (eb : EntryBody) (v : SiteState)
    (a : Option Assembly) :
    let t := settle (officeReply r (postSetting true eb { takeReservation { s.serving .office kind tag with assembly := a } with site := v, assembly := none }))
    settingPosts tag eb v r [.assembly] s t ∧ t.assembly = none := by
  intro t
  generalize hy : ({ takeReservation { s.serving .office kind tag with assembly := a } with site := v, assembly := none } : State) = y0
  have hk : keepsAllBut [.journal, .conditions, .site, .buffer, .assembly] (s.serving .office kind tag) y0 := by
    rw [← hy]
    exact keepsAllBut_trans (keepsAllBut_mono (assembly_keeps _ a) (by simp)) (keepsAllBut_trans (keepsAllBut_mono (takeReservation_keeps _) (by simp))
      (keepsAllBut_trans (keepsAllBut_mono (site_keeps _ v) (by simp)) (keepsAllBut_mono (assembly_keeps _ none) (by simp))))
  have hout : (postSetting true eb y0).officePort.outstanding = some ⟨tag, kind⟩ := by
    refine after_outstanding (s := s) (l := [.journal, .conditions, .site, .buffer, .assembly]) ?_ (by simp)
    exact keepsAllBut_trans hk (keepsAllBut_mono (addUnit_keeps _ _ _ _ _) (by simp))
  have ht : t = settle (answer .office tag r (postSetting true eb y0)) := by
    simp only [t, hy]; rw [officeReply_at (s := s) _ hout]
  have := officeUnit_end (s := s) (y0 := y0) (z := postSetting true eb y0) (l := [.journal, .conditions, .site,
      .buffer, .assembly])
      kind r h .journalOnly none s.now .office eb v
      (by simp) (by simp) (by simp) (by simp) (by simp) (by simp) (by simp) hk (by rw [← hy]; simp) (by rw [← hy]) (by rw [← hy]; simp [takeReservation_journal])
      (by rw [← hy]; simp [State.now]) (onlyLevels_trans (serving_levels s .office kind tag) (onlyLevels_congr (takeReservation_levels { s.serving .office kind tag with assembly := a }) rfl (by rw [← hy])))
      (keepsAllBut_refl _ _) rfl rfl rfl (onlyLevels_refl _)
  rw [ht]
  refine ⟨⟨this.1, this.2.1, this.2.2.1, keepsAllBut_mono this.2.2.2 (by simp)⟩, ?_⟩
  rw [← hy]; simp [postSetting, addUnit, entryIf]

/-- The same on a BLANK part: the image alone is posted. -/
theorem completedSet_blank {s : State} {tag : Byte} {body : List Byte} (kind : Byte) (r : Reply)
    (h : s.takes .office tag body) (eb : EntryBody) (v : SiteState)
    (a : Option Assembly) :
    let t := settle (officeReply r (postSetting false eb { ({ s.serving .office kind tag with assembly := a } : State) with site := v, assembly := none }))
    t.buffer = s.buffer ++ [⟨.journalOnly, none, none, none, v⟩] ∧ t.site = v ∧ replied .office tag r s t ∧
      keepsAllBut [.site, .buffer, .assembly, .replies .office] s t ∧ t.assembly = none := by
  intro t
  generalize hy : ({ ({ s.serving .office kind tag with assembly := a } : State) with site := v, assembly := none } : State) = y0
  have hz : postSetting false eb y0 = { y0 with buffer := s.buffer ++ [⟨.journalOnly, none, none, none, v⟩] } := by
    rw [← hy]; simp [postSetting, addUnit, entryIf]
  have hk : keepsAllBut [.site, .buffer, .assembly] (s.serving .office kind tag) (postSetting false eb y0) := by
    rw [hz, ← hy]
    intro p hp; cases p <;> first
      | rfl
      | exact ⟨rfl, rfl⟩
      | simp at hp
  have hout : (postSetting false eb y0).officePort.outstanding = some ⟨tag, kind⟩ :=
    after_outstanding (s := s) hk (by simp)
  have ht : t = settle (answer .office tag r (postSetting false eb y0)) := by
    simp only [t, hy]; rw [officeReply_at (s := s) _ hout]
  obtain ⟨e1, e2⟩ := officePosting_end kind r h (by simp) (by simp) (by simp) (by rw [hz]; simp) hk
  rw [ht]
  refine ⟨?_, ?_, e1, keepsAllBut_mono e2 (by simp), ?_⟩
  · simp [hz]
  · simp only [settle_frame, answer_frame, hz]; rw [← hy]
  · simp only [settle_frame, answer_frame, hz]; rw [← hy]

theorem dropLoad_eq (a : Option Assembly) : dropLoad a = if a.any (fun a => a.purpose == .load) then none else a := by
  cases a with
  | none => rfl
  | some a =>
    simp only [dropLoad, Option.filter, Option.any, bne]
    by_cases h : (a.purpose == Purpose.load) = true <;> simp [h]

theorem takes_running {s : State} {tag : Byte} {body : List Byte} (h : s.takes .office tag body) :
    s.running = true := by
  have := h.1; simp only [State.receives, Bool.and_eq_true] at this; exact this.1

/-- A PENDING hold with the buffer empty is granted (R81). -/
theorem settle_grants {x : State} (h1 : x.running = true) (h2 : x.arbiter.hold = .pending) (h3 : x.buffer = []) :
    settle x = pumpAll (chooseOperation (officeReply (.holdOk (x.now.map fun d => reportedTime d holdSeconds))
        { x with arbiter := { x.arbiter with hold := .held, lapse := some holdSeconds } })) := by
  simp [settle, grantHold, h1, h2, h3]

theorem giveReservation_levels (s : State) : onlyLevels s (giveReservation s) :=
  onlyLevels_congr (reportLevels_onlyLevels { s with journal := { s.journal with reservations := s.journal.reservations - 1 } }) rfl rfl

/-- A refused waiter changes levels alone in the Condition Unit. -/
theorem refuseJob_levels (w : Waiter) (c : RefusalCode) (s : State) : onlyLevels s (refuseJob w c s) := by
  have h1 : onlyLevels s (dropWaiterReservation w s) := by
    unfold dropWaiterReservation; split
    · exact giveReservation_levels s
    · exact onlyLevels_refl s
  refine onlyLevels_trans h1 ?_
  unfold refuseJob; dsimp only
  split <;> first
    | exact onlyLevels_of_conditions (by simp)
    | (split
       · exact onlyLevels_refl _
       · exact onlyLevels_of_conditions (by simp))

theorem withdrawWaiters_levels (f : Job → Bool) (c : RefusalCode) (s : State) :
    onlyLevels s (withdrawWaiters f c s) := by
  unfold withdrawWaiters
  have : ∀ (l : List Waiter) (x : State), onlyLevels x (l.foldl (fun s w => refuseJob w c s) x) := by
    intro l; induction l with
    | nil => intro x; exact onlyLevels_refl x
    | cons a l ih => intro x; exact onlyLevels_trans (refuseJob_levels a c x) (ih _)
  exact onlyLevels_trans (onlyLevels_of_conditions rfl) (this _ _)

theorem withdrawWaiters_arbiter (f : Job → Bool) (c : RefusalCode) (s : State) :
    (withdrawWaiters f c s).arbiter = s.arbiter := by
  unfold withdrawWaiters
  rw [foldl_keeps State.arbiter (fun s w => refuseJob w c s) (fun s w => by simp)]

/-- What the space check depends on (R135). -/
theorem roomForOffice_congr {s t : State} (h1 : t.store = s.store) (h2 : t.site = s.site) (h3 : t.buffer = s.buffer)
    (h4 : t.journal = s.journal) : t.roomForOffice = s.roomForOffice := by
  have a : t.salesFree = s.salesFree := by simp [State.salesFree, State.free, State.held, State.heldEntries, State.buffered, h1, h2, h3, h4]
  simp only [State.roomForOffice, a]

/-- A record request posts at once where there is room. -/
theorem record_posts {Y : State} {s : State} {kind tag : Byte}
    (hY : Y = { s.serving .office kind tag with working := Y.working }) (hr : s.ready) (j : Job) :
    Y.roomForOffice = true ∧ reserveAndPost j Y = runJob ⟨j, true⟩ (takeReservation Y) := by
  have h1 : Y.roomForOffice = true := by
    rw [← hr.2]; exact roomForOffice_congr (by rw [hY]; simp) (by rw [hY]; simp) (by rw [hY]; simp) (by rw [hY]; simp)
  have h2 : (takeReservation Y).postsAtOnce = true := by
    rw [← hr.1]; simp only [State.postsAtOnce]
    have : (takeReservation Y).buffer = s.buffer ∧ (takeReservation Y).waiters = s.waiters := by rw [hY]; simp
    rw [this.1, this.2]
  exact ⟨h1, by simp [reserveAndPost, postOrWait, h2]⟩

theorem takeReservation_working (Y : State) : (takeReservation Y).working = Y.working := by simp

/-- A read of an area is queued, and begins at once where the store is IDLE (R109, R139). -/
theorem areaRead_queued {s : State} {tag : Byte} {body : List Byte} {kind : Byte} {f : Fetch}
    (h : s.takes .office tag body) (hr : s.holdAtRest) {X : State}
    (hX : X = { s.serving .office kind tag with store := { s.store with queue := s.store.queue ++ [f] } }) :
    (s.store.service ≠ .idle → (settle X).store.queue = s.store.queue ++ [f] ∧ (settle X).store.service = s.store.service) ∧
    (s.store.service = .idle → s.store.queue = [] → s.store.retryWaiting = false → s.buffer.length < 4 →
        (settle X).store.service = .reading f ∧ (settle X).store.queue = []) ∧
      ((settle X).port .office).outstanding = some ⟨tag, kind⟩ ∧ keepsAllBut [.outstanding .office] s (settle X) := by
  have hst : (s.serving .office kind tag).store = s.store := by simp
  have k1 : keepsAllBut [.outstanding .office] s X := by
    have := queue_keeps (s.serving .office kind tag) (s.store.queue ++ [f])
    rw [hst] at this
    rw [hX]
    exact keepsAllBut_trans (serving_keeps s .office kind tag) (keepsAllBut_mono this (by simp))
  have x1 : X.store = { s.store with queue := s.store.queue ++ [f] } := by rw [hX]
  have x2 : X.buffer = s.buffer := by rw [hX]; simp
  have x3 : X.running = true := by rw [← receives_running h.1]; simp only [State.running]; rw [hX]; simp
  have x4 : X.arbiter = s.arbiter := by rw [hX]; simp
  have x5 : (X.port .office).outstanding = some ⟨tag, kind⟩ := by rw [hX]; exact serving_outstanding s kind tag
  have hx : X.holdAtRest := holdAtRest_congr hr x4 x2
  clear hX
  refine ⟨?_, ?_, ?_, keepsAllBut_settle hx k1⟩
  · intro hs
    have := settle_busy hx (by rw [x1]; exact hs)
    simp only [this, x1, and_self]
  · intro hs hq hw hl
    exact settle_idle_store hx x3 (by rw [x1]; exact hs) (f := f) (rest := []) (by rw [x1]; simp [hq]) (by rw [x1]; exact hw) (by rw [x2]; exact hl)
  · rw [settle_outstanding hx]; exact x5

theorem runSystem_slot (w : Waiter) (s : State) : (∀ k, (runSystemJob w s).slot k = s.slot k) ∧
    onlyLevels s (runSystemJob w s) ∧
    (runSystemJob w s).site = { s.site with unlogged := (runSystemJob w s).site.unlogged } := by
  have key : ∀ kind part entry sm, (addUnit kind part entry sm s).site =
      { s.site with unlogged := (addUnit kind part entry sm s).site.unlogged } := by
    intro kind part entry sm; unfold addUnit; split <;> simp
  unfold runSystemJob
  split <;> exact ⟨fun k => by simp [State.slot], addUnit_levels _ _ _ _ _, key _ _ _ _⟩

theorem postSystem_slot (w : Waiter) (s : State) : (∀ k, (postSystem w s).slot k = s.slot k) ∧
    onlyLevels s (postSystem w s) ∧
    (postSystem w s).site = { s.site with unlogged := (postSystem w s).site.unlogged } := by
  unfold postSystem
  split
  · exact runSystem_slot w s
  · exact ⟨fun _ => rfl, onlyLevels_refl s, rfl⟩

/-- A SYSTEM unit changes no slot, clears no latch, and of the site state the unlogged count alone. -/
theorem postSystemEntry_slot (j : Job) (b : Bool) (s : State) : (∀ k, (postSystemEntry j b s).slot k = s.slot k) ∧
    (∀ c, s.latched c = true → (postSystemEntry j b s).latched c = true) ∧
    (postSystemEntry j b s).site = { s.site with unlogged := (postSystemEntry j b s).site.unlogged } := by
  unfold postSystemEntry
  have key : ∀ w (y : State), (∀ k, y.slot k = s.slot k) → onlyLevels s y → (∃ n, y.site = { s.site with unlogged := n }) →
      (∀ k, (postSystem w y).slot k = s.slot k) ∧ (∀ c, s.latched c = true → (postSystem w y).latched c = true) ∧
      (postSystem w y).site = { s.site with unlogged := (postSystem w y).site.unlogged } := by
    intro w y h1 h2 h3
    obtain ⟨a, b, c⟩ := postSystem_slot w y
    obtain ⟨n, h3⟩ := h3
    refine ⟨fun k => by rw [a, h1], fun c hc => ?_, ?_⟩
    · have := (onlyLevels_trans h2 b).2 c
      split at this
      · exact this hc
      · rw [this]; exact hc
    · rw [c]; rw [h3]
  split
  · exact key _ s (fun _ => rfl) (onlyLevels_refl s) ⟨s.site.unlogged, rfl⟩
  · split
    · exact key _ (takeReservation s) (fun k => by simp [State.slot]) (takeReservation_levels s) ⟨s.site.unlogged, by simp⟩
    · split
      · exact key _ (raiseUnlogged 1 s) (fun _ => rfl) (onlyLevels_of_conditions rfl) ⟨_, rfl⟩
      · exact ⟨fun _ => rfl, fun c h => h, rfl⟩

end Sys2Proof.Machine
end

