-- ==== Sys2Proof/Laws/Clocks.lean ====
section
/-! SUPPORT. Dates and the day rollover. -/

namespace Sys2Proof.Machine

theorem totalSeconds_last : totalSeconds lastSecond = 3155759999 := by decide

theorem inRange_iff (d : DateTime) : inRange d = true ↔ d.day ≤ 36524 ∧ d.second < 86400 := by
  unfold inRange; rw [Bool.and_eq_true, decide_eq_true_eq, decide_eq_true_eq]; exact Iff.rfl

theorem totalSeconds_eq (d : DateTime) : totalSeconds d = d.day * 86400 + d.second := rfl

theorem ofTotal_eq (n : Nat) : ofTotal n = ⟨n / 86400, n % 86400⟩ := rfl

theorem addSeconds_zero {d : DateTime} (h : inRange d = true) : addSeconds d 0 = d := by
  rw [inRange_iff] at h
  have h1 : totalSeconds d + 0 ≤ totalSeconds lastSecond := by rw [totalSeconds_last, totalSeconds_eq]; omega
  rw [addSeconds, if_pos h1, ofTotal_eq, totalSeconds_eq]
  cases d with | mk a b => simp at h ⊢; omega

theorem monthDays_lt (y m d : Nat) (h1 : 1 ≤ m) (h2 : m ≤ 12) (h3 : 1 ≤ d) (h4 : d ≤ (monthLengths y).getD (m - 1) 0) :
    ((monthLengths y).take (m - 1)).sum + d ≤ if y % 4 = 0 then 366 else 365 := by
  unfold monthLengths at *
  have : m = 1 ∨ m = 2 ∨ m = 3 ∨ m = 4 ∨ m = 5 ∨ m = 6 ∨ m = 7 ∨ m = 8 ∨ m = 9 ∨ m = 10 ∨ m = 11 ∨ m = 12 := by omega
  by_cases hy : y % 4 = 0
  · simp only [hy, if_true] at *
    rcases this with rfl | rfl | rfl | rfl | rfl | rfl | rfl | rfl | rfl | rfl | rfl | rfl <;> simp at h4 ⊢ <;> omega
  · simp only [hy, if_false] at *
    rcases this with rfl | rfl | rfl | rfl | rfl | rfl | rfl | rfl | rfl | rfl | rfl | rfl <;> simp at h4 ⊢ <;> omega

/-- A real date lies in the range of days (R148). -/
theorem realDate_range {y m d : Nat} (h : isRealDate y m d = true) : dayOfDate y m d ≤ 36524 := by
  simp only [isRealDate, Bool.and_eq_true, decide_eq_true_eq] at h
  obtain ⟨⟨⟨⟨h1, h2⟩, h3⟩, h4⟩, h5⟩ := h
  have := monthDays_lt y m d h2 h3 h4 h5
  simp only [dayOfDate, daysBeforeYear]
  split at this <;> omega

/-- A date-time that CLOCK_SET reads lies in the range (R148). -/
theorem parseClock_range {body : List Byte} {d : DateTime} (h : parseClock body = some d) : inRange d = true := by
  simp only [parseClock] at h
  split at h
  · simp only [dateTimeAt, dateAt] at h
    split at h
    · simp at h
    · rename_i day hd
      split at hd
      · simp only [Option.some.injEq] at hd
        split at h
        · simp only [Option.some.injEq] at h
          rename_i hr hx
          have := realDate_range hr
          rw [inRange_iff, ← h]; simp only; omega
        · simp at h
      · simp at hd
  · simp at h

/-- One second later (R144). -/
theorem nextSecond_eq (d : DateTime) (h : inRange d = true) : nextSecond d =
    if d.second + 1 < 86400 then ⟨d.day, d.second + 1⟩ else if d.day < 36524 then ⟨d.day + 1, 0⟩ else d := by
  obtain ⟨h1, h2⟩ := (inRange_iff d).mp h
  unfold nextSecond addSeconds
  rw [totalSeconds_last, totalSeconds_eq, ofTotal_eq]
  obtain ⟨day, sec⟩ := d
  simp only at h1 h2 ⊢
  split
  · split
    · congr 1 <;> omega
    · rw [if_pos (by omega)]; congr 1 <;> omega
  · rw [if_neg (by omega), if_neg (by omega)]
    show (⟨36524, 86399⟩ : DateTime) = _
    congr 1 <;> omega

/-- The slot of a closed quote, whatever its reprint. -/
theorem closeQuote_slot (k : Till) (o : CloseOutcome) (s : State) :
    (∀ j, j ≠ k → (closeQuote k o s).slot j = s.slot j) ∧
      ∀ q, (s.slot k).quote = some q → ((closeQuote k o s).slot k).state = .idle ∧ ((closeQuote k o s).slot k).quote = none ∧
        ((closeQuote k o s).slot k).lastClosed = some (q.id, o) := by
  unfold closeQuote
  cases hq : (s.slot k).quote with
  | none => simp
  | some q =>
    dsimp only
    refine ⟨?_, ?_⟩
    · intro j hj
      rw [State.slot_modSlot, if_neg (Ne.symm hj)]
      split
      · simp [State.slot]
      · rw [releasePin_slot, if_neg hj]; simp [State.slot]
    · intro q' hq'; cases hq'
      simp [State.slot_modSlot_same]

/-- All that a rollover does to the slots (R76). -/
theorem slotRollover_slot (k : Till) (s : State) :
    (∀ j, j ≠ k → (slotRollover k s).slot j = s.slot j) ∧
      ((s.slot k).state = .opened → ∀ q, (s.slot k).quote = some q → ((slotRollover k s).slot k).state = .idle ∧ ((slotRollover k s).slot k).quote = none ∧
        ((slotRollover k s).slot k).lastClosed = some (q.id, .rollover)) ∧
      ((s.slot k).state = .quoting ∨ (s.slot k).state = .fetching → (slotRollover k s).slot k = { s.slot k with abandon := some ((s.slot k).abandon.getD .rollover) }) := by
  unfold slotRollover
  refine ⟨?_, ?_, ?_⟩
  · intro j hj
    split
    · exact (closeQuote_slot k _ s).1 j hj
    · rw [State.slot_modSlot, if_neg (Ne.symm hj)]
    · rw [State.slot_modSlot, if_neg (Ne.symm hj)]
    · rfl
  · intro ho q hq
    rw [ho]; exact (closeQuote_slot k _ s).2 q hq
  · intro h
    have : ∀ a : Option AbandonCause, a.or (some .rollover) = some (a.getD .rollover) := fun a => by cases a <;> rfl
    rcases h with h | h <;> (rw [h]; simp [State.slot_modSlot_same, this])

/-- The same after the responses of the four slots. -/
theorem slotRollovers_slot (s : State) (k : Till) :
    let t := slotRollover 3 (slotRollover 2 (slotRollover 1 (slotRollover 0 s)))
    ((s.slot k).state = .opened → ∀ q, (s.slot k).quote = some q → (t.slot k).state = .idle ∧ (t.slot k).quote = none ∧ (t.slot k).lastClosed = some (q.id, .rollover)) ∧
      ((s.slot k).state = .quoting ∨ (s.slot k).state = .fetching → t.slot k = { s.slot k with abandon := some ((s.slot k).abandon.getD .rollover) }) := by
  intro t
  have a0 := slotRollover_slot 0 s
  have a1 := slotRollover_slot 1 (slotRollover 0 s)
  have a2 := slotRollover_slot 2 (slotRollover 1 (slotRollover 0 s))
  have a3 := slotRollover_slot 3 (slotRollover 2 (slotRollover 1 (slotRollover 0 s)))
  rcases four_tills k with rfl | rfl | rfl | rfl
  · have e : t.slot 0 = (slotRollover 0 s).slot 0 := by
      show (slotRollover 3 _).slot 0 = _
      rw [a3.1 0 (by decide), a2.1 0 (by decide), a1.1 0 (by decide)]
    rw [e]; exact a0.2
  · have e : t.slot 1 = (slotRollover 1 (slotRollover 0 s)).slot 1 := by
      show (slotRollover 3 _).slot 1 = _
      rw [a3.1 1 (by decide), a2.1 1 (by decide)]
    rw [e]
    have := a1.2; rw [a0.1 1 (by decide)] at this; exact this
  · have e : t.slot 2 = (slotRollover 2 (slotRollover 1 (slotRollover 0 s))).slot 2 := by
      show (slotRollover 3 _).slot 2 = _
      rw [a3.1 2 (by decide)]
    rw [e]
    have := a2.2; rw [a1.1 2 (by decide), a0.1 2 (by decide)] at this; exact this
  · have := a3.2; rw [a2.1 3 (by decide), a1.1 3 (by decide), a0.1 3 (by decide)] at this; exact this

/-- The site state of a day that begins on a COMMISSIONED part (R147, R154). -/
theorem beginDay_commissioned (day : Nat) {s : State} (hc : s.commissioned = true) :
    (beginDay day s).site = { s.site with businessDay := day, dayTotals := Counts.zero } := by simp [beginDay, hc]

/-- What the unit that closes a day does to slots, latches and site state (R154). -/
theorem closeDay_slot (d : DaySummary) (s : State) : (∀ k, (closeDay d s).slot k = s.slot k) ∧
    (∀ c, s.latched c = true → (closeDay d s).latched c = true) ∧
    (closeDay d s).site = { s.site with unlogged := (closeDay d s).site.unlogged } :=
  postSystemEntry_slot (.dayClose d) true s

/-- What the Tariff Tables' response does to slots, latches and site state (R33, R34). -/
theorem tariffRollover_slot (s : State) (hr : s.running = true) : (∀ k, (tariffRollover s).slot k = s.slot k) ∧
    (∀ p, s.site.pendingSet = some p → p.effectiveDay ≤ s.site.businessDay → (tariffRollover s).latched .tariffShifted = true ∧
      (tariffRollover s).site = { s.site with active := p.entries, pendingSet := none, generation := raiseNumber s.site.generation, unlogged := (tariffRollover s).site.unlogged }) ∧
    (∀ p, s.site.pendingSet = some p → s.site.businessDay < p.effectiveDay → tariffRollover s = s) ∧
    (s.site.pendingSet = none → tariffRollover s = s) := by
  refine ⟨?_, ?_, ?_, ?_⟩
  · intro k
    unfold tariffRollover
    split
    · rfl
    · split
      · rfl
      · dsimp only
        rw [(postSystemEntry_slot _ _ _).1]; simp [State.slot]
  · intro p hp hd
    have e : tariffRollover s = postSystemEntry (.tariffShift (raiseNumber s.site.generation) p.effectiveDay) false
        (arise .tariffShifted { s with site := { s.site with active := p.entries, generation := raiseNumber s.site.generation, pendingSet := none } }) := by
      unfold tariffRollover; rw [hp]; dsimp only; rw [if_neg (Nat.not_lt.mpr hd)]
    rw [e]
    obtain ⟨a, b, c⟩ := postSystemEntry_slot (.tariffShift (raiseNumber s.site.generation) p.effectiveDay) false
        (arise .tariffShifted { s with site := { s.site with active := p.entries, generation := raiseNumber s.site.generation, pendingSet := none } })
    refine ⟨b _ ?_, ?_⟩
    · rw [arise_latched]
      have := running_takes hr
      have h2 : ({ s with site := { s.site with active := p.entries, generation := raiseNumber s.site.generation, pendingSet := none } } : State).takesArisings = true := this
      simp [h2]
    · rw [c]; simp
  · intro p hp hd
    unfold tariffRollover; rw [hp]; dsimp only; rw [if_pos hd]
  · intro hp; unfold tariffRollover; rw [hp]

/-- A unit entered takes the business day and the day totals as they stand (R120). -/
theorem addUnit_units (kind : UnitKind) (part : Option RecordPart) (entry : Option (Source × EntryBody))
    (summary : Option DaySummary) (s : State) : ∃ u, (addUnit kind part entry summary s).buffer = s.buffer ++ [u] ∧
      u.image.businessDay = s.site.businessDay ∧ u.image.dayTotals = s.site.dayTotals := by
  cases entry with
  | none => exact ⟨_, rfl, rfl, rfl⟩
  | some e => exact ⟨_, by simp only [addUnit, reportLevels_frame]; rfl, rfl, rfl⟩

/-- The units a SYSTEM poster brings at once hold the business day and the day totals as they stand (R120, R136). -/
theorem postSystemEntry_units (j : Job) (b : Bool) (s : State) : ∃ more, (postSystemEntry j b s).buffer = s.buffer ++ more ∧
    ∀ u ∈ more, u.image.businessDay = s.site.businessDay ∧ u.image.dayTotals = s.site.dayTotals := by
  have one : ∀ (w : Waiter) (y : State), y.buffer = s.buffer → y.site.businessDay = s.site.businessDay →
      y.site.dayTotals = s.site.dayTotals → ∃ more, (postSystem w y).buffer = s.buffer ++ more ∧
        ∀ u ∈ more, u.image.businessDay = s.site.businessDay ∧ u.image.dayTotals = s.site.dayTotals := by
    intro w y hb hd ht
    unfold postSystem
    split
    · rw [← hb, ← hd, ← ht]
      unfold runSystemJob
      split <;> (obtain ⟨u, e, h⟩ := addUnit_units _ _ _ _ y; exact ⟨[u], e, fun v hv => by cases List.mem_singleton.mp hv; exact h⟩)
    · exact ⟨[], by simp [hb], by simp⟩
  unfold postSystemEntry
  split
  · exact one _ s rfl rfl rfl
  · split
    · exact one _ _ (by simp) (by simp) (by simp)
    · split
      · exact one _ _ rfl rfl rfl
      · exact ⟨[], by simp [raiseUnlogged], by simp⟩

/-- Every unit a rollover posts holds the new business day, and on a COMMISSIONED part day totals of 0 (R152, R155, R160). -/
theorem rollover_units {s : State} {d : DateTime} (hn : s.now = some d) (hr : s.running = true) (hc : s.commissioned = true) :
    ∃ more, (rollover s).buffer = s.buffer ++ more ∧
      ∀ u ∈ more, u.image.businessDay = d.day ∧ u.image.dayTotals = Counts.zero := by
  have he : rollover s = closeDay ⟨s.site.businessDay, s.site.dayTotals, s.now, none⟩ (tariffRollover
      (slotRollover 3 (slotRollover 2 (slotRollover 1 (slotRollover 0 (beginDay d.day s)))))) := by unfold rollover; rw [hn]
  rw [he]
  generalize hA : slotRollover 3 (slotRollover 2 (slotRollover 1 (slotRollover 0 (beginDay d.day s)))) = A
  have hs : A.site = { s.site with businessDay := d.day, dayTotals := Counts.zero } := by
    rw [← hA, ← beginDay_commissioned d.day hc]; simp only [slotRollover_frame]
  have hb : A.buffer = s.buffer := by rw [← hA]; simp
  have hAr : A.running = true := by
    have : A.supply = s.supply := by rw [← hA]; simp
    simp only [State.running] at hr ⊢; rw [this]; exact hr
  have shift : ∃ more, (tariffRollover A).buffer = A.buffer ++ more ∧
      ∀ u ∈ more, u.image.businessDay = A.site.businessDay ∧ u.image.dayTotals = A.site.dayTotals := by
    unfold tariffRollover
    split
    · exact ⟨[], by simp, by simp⟩
    · split
      · exact ⟨[], by simp, by simp⟩
      · obtain ⟨m, e, h⟩ := postSystemEntry_units (.tariffShift (raiseNumber A.site.generation) _) false (arise .tariffShifted
          { A with site := { A.site with active := _, generation := raiseNumber A.site.generation, pendingSet := none } })
        exact ⟨m, by rw [e]; simp, fun u hu => by simpa using h u hu⟩
  obtain ⟨m1, e1, h1⟩ := shift
  have hT : (tariffRollover A).site.businessDay = A.site.businessDay ∧ (tariffRollover A).site.dayTotals = A.site.dayTotals := by
    obtain ⟨-, t2, t3, t4⟩ := tariffRollover_slot A hAr
    cases hp : A.site.pendingSet with
    | none => rw [t4 hp]; exact ⟨rfl, rfl⟩
    | some p =>
      by_cases hle : p.effectiveDay ≤ A.site.businessDay
      · rw [(t2 p hp hle).2]; exact ⟨rfl, rfl⟩
      · rw [t3 p hp (by omega)]; exact ⟨rfl, rfl⟩
  obtain ⟨m2, e2, h2⟩ := postSystemEntry_units (.dayClose ⟨s.site.businessDay, s.site.dayTotals, s.now, none⟩) true (tariffRollover A)
  refine ⟨m1 ++ m2, ?_, fun u hu => ?_⟩
  · unfold closeDay; rw [e2, e1, hb, List.append_assoc]
  · have h3 : u.image.businessDay = A.site.businessDay ∧ u.image.dayTotals = A.site.dayTotals := by
      rcases List.mem_append.mp hu with h | h
      · exact h1 u h
      · have := h2 u h; rw [hT.1, hT.2] at this; exact this
    rw [hs] at h3; exact h3

end Sys2Proof.Machine
end

