-- ==== Sys2Proof/Laws/Grants.lean ====
section
/-! SUPPORT. Grants: the stage a grant serves, and the postings of a SALE and of a REPRINT. -/

namespace Sys2Proof.Machine

/-- A grant is used for the stage of the slot that it names (R79). -/
theorem engineGrant_exec {s : State} {k : Till} (h1 : s.running = true) (h2 : s.arbiter.hold = .none)
    (h3 : (grantOrder s.arbiter.pointer).find? (fun j => s.arbiter.pending.get j) = some k) :
    exec .engineGrant s = .next (settle (settlePending k (slotStage k { s with arbiter := { s.arbiter with pointer := k } }))) := by
  have : s.nextGrant = some k := by simp [State.nextGrant, h1, h2, h3]
  simp [exec, execEngineGrant, this]

/-- A state with the pointer moved. -/
abbrev State.pointed (s : State) (k : Till) : State := { s with arbiter := { s.arbiter with pointer := k } }

@[simp] theorem pointed_port (s : State) (k : Till) (p : PortId) : (s.pointed k).port p = s.port p := by cases p <;> rfl

@[simp] theorem pointed_replies (s : State) (k : Till) (p : PortId) :
    (s.pointed k).replies p = s.replies p := by simp only [State.replies, pointed_port]

theorem settlePending_port (k : Till) (x : State) (p : PortId) :
    (settlePending k x).port p = x.port p := by cases p <;> rfl

theorem settlePending_replies (k : Till) (x : State) (p : PortId) : (settlePending k x).replies p = x.replies p := by
  simp only [State.replies, settlePending_port]

/-- The end of a grant. -/
theorem grant_end {s x : State} {k : Till} {l : List Part} (hh : s.arbiter.hold = .none)
    (ha : x.arbiter = (s.pointed k).arbiter) (hk : keepsAllBut l (s.pointed k) x) :
    let t := settle (settlePending k x)
    t.arbiter.pointer = k ∧ t.arbiter.pending.get k = (x.slot k).wantsGrant ∧ (∀ j, j ≠ k → t.arbiter.pending.get j = s.arbiter.pending.get j) ∧
      keepsAllBut (.grants :: l) s t ∧ (∀ j, t.slot j = x.slot j) ∧ (∀ j, t.line j = x.line j) ∧ t.working.recency = x.working.recency ∧
      (∀ p, t.replies p = x.replies p) ∧ (∀ p, (t.port p).outstanding = (x.port p).outstanding) ∧ t.conditions = x.conditions ∧ t.reserved = x.reserved ∧
      t.journal = x.journal ∧ t.buffer = x.buffer ∧ t.site = x.site ∧ t.directory = x.directory := by
  intro t
  have hx : (settlePending k x).holdAtRest := holdAtRest_of_not_pending (by simp [settlePending, ha, hh])
  refine ⟨?_, ?_, ?_, ?_, ?_, ?_, ?_, ?_, ?_, ?_, ?_, ?_, ?_, ?_, ?_⟩
  · show (settle _).arbiter.pointer = k
    rw [settle_arbiter hx]; simp [settlePending, ha]
  · show (settle _).arbiter.pending.get k = _
    rw [settle_arbiter hx]; simp [settlePending, get_set_four]
  · intro j hj
    show (settle _).arbiter.pending.get j = _
    rw [settle_arbiter hx]; simp [settlePending, get_set_four, ha, Ne.symm hj]
  · refine keepsAllBut_settle hx ?_
    intro p hp
    simp only [List.mem_cons, not_or] at hp
    have := hk p hp.2
    cases p with
    | grants => exact absurd rfl hp.1
    | hold => simp only [Part.same] at this ⊢; simpa [settlePending] using this
    | link p => simpa only [Part.same, settlePending_port, pointed_port] using this
    | outstanding p => simpa only [Part.same, settlePending_port, pointed_port] using this
    | replies p => simpa only [Part.same, settlePending_replies, pointed_replies] using this
    | _ => exact this
  · intro j; show (settle _).slot j = _
    rw [settle_slot]; rfl
  · intro j; show (settle _).line j = _
    rw [settle_line]; rfl
  · simp [t, settlePending]
  · intro p; show (settle _).replies p = _
    rw [settle_replies hx, settlePending_replies]
  · intro p; show ((settle _).port p).outstanding = _
    rw [settle_outstanding hx, settlePending_port]
  all_goals simp [t, settlePending]

theorem lookup_hit {s : State} {k : Till} {m : Nat} {l : LineNo} {r : Record} (h : s.hits (.slot k) m l r) :
    lookup (.slot k) m s = .hit l := by
  have : (s.line l).pin = none := by rw [h.2.1]
  simp [lookup, h.1, this]

theorem lineRecord_pinned {s : State} {k : Till} {m : Nat} {l : LineNo} {r : Record} (h : s.hits (.slot k) m l r) :
    lineRecord m (pinLine (.slot k) l m s) = some r := by
  obtain ⟨p1, p2, p3, p4, p5, p6, p7⟩ := pinLine_spec k l m s
  have hf : findLine m (pinLine (.slot k) l m s) = some l := by
    rw [findLine_of_meters (s := s) ?_, h.1]
    intro j; by_cases hj : j = l
    · subst hj; rw [p1]
    · rw [p2 j hj]
  simp only [lineRecord, hf, Option.bind_some, p1]
  rw [h.2.1]

/-- All that the reservations of a quote do (R54, R162). -/
theorem reserveQuote_spec (n : Nat) (s : State) : (reserveQuote n s).reserved = s.reserved + n ∧
    (reserveQuote n s).journal = ⟨s.journal.nextSeq, s.journal.reservations + 1⟩ ∧
    onlyLevels s (reserveQuote n s) ∧ keepsAllBut [.reserved, .journal,
        .conditions] s (reserveQuote n s) ∧ (∀ j, (reserveQuote n s).slot j = s.slot j) ∧
    (∀ p, ((reserveQuote n s).port p).view = (s.port p).view) := by
  unfold reserveQuote
  generalize hy : ({ s with reserved := s.reserved + n, journal := { s.journal with reservations := s.journal.reservations + 1 } } : State) = y
  have k1 : keepsAllBut [.reserved, .journal] s y := by
    rw [← hy]; intro p hp; cases p <;> first
      | rfl
      | exact ⟨rfl, rfl⟩
      | simp at hp
  refine ⟨by rw [← hy]; simp, by rw [← hy]; simp, ?_, keepsAllBut_trans (keepsAllBut_mono k1 (by simp)) (keepsAllBut_mono (reportLevels_keeps y) (by simp)), ?_, ?_⟩
  · exact onlyLevels_congr (reportLevels_onlyLevels y) (by rw [← hy]) rfl
  · intro j; rw [← hy]; simp [State.slot]
  · intro p; rw [reportLevels_view, ← hy]; cases p <;> rfl

/-- A grant of a quote whose meter is a hit computes it at once (R60). -/
theorem quoteStage_hit {s : State} {k : Till} {q : QuoteRecord} {e : DirEntry} {l : LineNo} {r : Record}
    (hs : (s.slot k).state = .quoting) (hq : (s.slot k).quote = some q)
    (ha : (s.slot k).abandon = none) (hp : (s.slot k).pin = none) (hd : dirFind q.meter s.directory = some e) (hdm : e.damaged = false)
    (hh : s.hits (.slot k) q.meter l r) : slotStage k s = computeQuote k q r (pinLine (.slot k) l q.meter s) := by
  simp only [slotStage, hs, quoteStage, hq, ha, hp, Option.isSome_none, Bool.false_eq_true, if_false, lookupQuote, hd,
      hdm, lookup_hit hh, computeFromLine, lineRecord_pinned hh]

theorem findPinned_pinLine {s : State} {k : Till} {m : Nat} {l : LineNo} (h : findPinned (.slot k) s = none) :
    findPinned (.slot k) (pinLine (.slot k) l m s) = some l := by
  obtain ⟨p1, p2, -, -, -, -, -⟩ := pinLine_spec k l m s
  refine find_line_of_unique (by rw [p1]; simp) ?_
  intro j hj
  by_contra hne
  rw [p2 j hne] at hj
  have := find_line_none h j
  rw [this] at hj; cases hj

/-- All that beginning a fetch for a slot does (R99, R101). -/
theorem startFetch_spec (k : Till) (m slot : Nat) (s : State) (l : LineNo) (hl : victim s = l) :
    let t := startFetch (.slot k) m slot s
    t.line l = ⟨.filling, some m, some (.slot k), 0, none⟩ ∧ (∀ j, j ≠ l → t.line j = s.line j) ∧ t.working.recency = s.working.recency.erase l ++ [l] ∧
      t.slot k = { s.slot k with pin := some m } ∧ (∀ j, j ≠ k → t.slot j = s.slot j) ∧ (∀ p, t.port p = s.port p) ∧
      t.store = { s.store with queue := s.store.queue ++ [.record l m slot] } ∧ keepsAllBut [.lines, .slot k] s t := by
  intro t
  subst hl
  have hp : ∀ p, t.port p = s.port p := fun p => by cases p <;> rfl
  have hsl : ∀ j, t.slot j = if k = j then { s.slot k with pin := some m } else s.slot j := by
    intro j
    have : ∀ x : State, ∀ st, State.slot { x with store := st } j = x.slot j := fun x st => rfl
    simp only [t, startFetch, notePin, this, State.slot_modSlot]; rfl
  have hli : ∀ j, t.line j = if victim s = j then ⟨.filling, some m, some (.slot k), 0, none⟩ else s.line j := by
    intro j; rw [← line_setLine]; rfl
  refine ⟨by rw [hli, if_pos rfl], fun j hj => by rw [hli, if_neg (Ne.symm hj)], rfl, by rw [hsl, if_pos rfl], fun j hj => by rw [hsl, if_neg (Ne.symm hj)], hp, rfl, ?_⟩
  intro p hpp
  cases p with
  | slot j => have : k ≠ j := by simp at hpp; exact fun e => hpp e.symm
              simp only [Part.same, hsl, if_neg this]
  | link p => simp [Part.same, hp]
  | outstanding p => simp [Part.same, hp]
  | replies p => simp [Part.same, State.replies, hp]
  | _ => first
    | rfl
    | exact ⟨rfl, rfl⟩
    | simp at hpp

/-- All that posting a SALE does, from a state whose slot holds the built quote (R70). -/
theorem postSale_spec {y : State} {k : Till} {q : QuoteRecord} {p : Priced} {b : BuiltSale} {e : DirEntry}
    {l : LineNo} {r : Record} {tag : Byte}
    (hq : (y.slot k).quote = some q) (hw : (y.slot k).reprint = none) (hp : q.priced = some p) (hb : q.built = some b) (hd : dirFind q.meter y.directory = some e)
    (hf : findLine q.meter y = some l) (hpin : findPinned (.slot k) y = some l) (hr : (y.line l).record = some r) (htag : q.replyTag = some tag)
    (hrec : y.receives (.till k) = true) :
    let n := y.journal.nextSeq
    let image := saleImage r q p b n
    let t := postSale k y
    posts (postedUnit y .sale (some (.image e.slot image)) y.now (.till k) (.sale (saleFields q p b)) (takeSale k q.tender p y).site) (y.journal.reservations - 1) y t ∧
      t.reserved = y.reserved - q.tender ∧ t.slot k = ⟨.idle, none, none, none, none, some (q.id, .committed), none⟩ ∧
      t.line l = { y.line l with pin := none, dirty := (y.line l).dirty + 1, record := some image } ∧ (∀ j, j ≠ l → t.line j = y.line j) ∧
      t.working.recency = y.working.recency.erase l ++ [l] ∧ t.arbiter = y.arbiter ∧
      t.replies (.till k) = y.replies (.till k) ++ [replyFrame tag (.token (saleToken q p b n))] ∧ (t.port (.till k)).outstanding = none ∧ onlyLevels y t ∧
      keepsAllBut [.site, .buffer, .journal, .reserved, .slot k, .lines, .conditions, .outstanding (.till k),
          .replies (.till k)] y t := by
  intro n image t
  have hlr : lineRecord q.meter y = some r := by simp [lineRecord, hf, hr]
  generalize hA : takeSale k q.tender p y = A
  have kA : keepsAllBut [.site, .reserved] y A := by
    rw [← hA]; intro x hx; cases x with
    | link p => cases p <;> rfl
    | outstanding p => cases p <;> rfl
    | replies p => cases p <;> rfl
    | _ => first
      | rfl
      | exact ⟨rfl, rfl⟩
      | simp at hx
  have wA : A.working = y.working := by rw [← hA]; rfl
  generalize hB : addUnit .sale (some (.image e.slot image)) (some (.till k, .sale (saleFields q p b))) none A = B
  have kB := addUnit_keeps .sale (some (.image e.slot image)) (some (.till k, .sale (saleFields q p b))) none A
  have eB := addUnit_entry .sale (some (.image e.slot image)) (.till k) (.sale (saleFields q p b)) A
  rw [hB] at kB eB
  have wB : B.working = y.working := by rw [← hB]; simp [wA]
  have hfB : findLine q.meter B = some l := by rw [findLine_congr wB, hf]
  obtain ⟨t1, t2, t3, t4, t5, t6, t7⟩ := lineTakesImage_spec image hfB
  have tp := lineTakesImage_findPinned image hfB (.slot k)
  generalize hC : lineTakesImage q.meter image B = C at *
  generalize hD : C.modSlot k (fun v => { v with quote := some { q with reservedBudget := none, journalReservation := false } }) = D
  have kD : keepsAllBut [.site, .buffer, .journal, .reserved, .slot k, .lines, .conditions] y D := by
    rw [← hD]
    exact keepsAllBut_trans (keepsAllBut_mono kA (by simp)) (keepsAllBut_trans (keepsAllBut_mono kB (by simp)) (keepsAllBut_trans (keepsAllBut_mono t6 (by simp)) (keepsAllBut_mono (modSlot_keeps C k _) (by simp))))
  have sB : B.slot k = y.slot k := (kB (.slot k) (by simp)).trans (kA (.slot k) (by simp))
  have sD : D.slot k = { y.slot k with quote := some { q with reservedBudget := none, journalReservation := false } } := by
    rw [← hD, State.slot_modSlot_same, t4, sB]
  have hDq : (D.slot k).quote = some { q with reservedBudget := none, journalReservation := false } := by rw [sD]
  have hDw : (D.slot k).reprint = none := by rw [sD]; exact hw
  obtain ⟨c1, c2, c3, c4, c5, c6, c7, c8, c9, c10⟩ := closeQuote_spec .committed hDq hDw
  have ck := closeQuote_keeps .committed hDq hDw
  generalize hE : closeQuote k .committed D = E at *
  have ht : t = answer (.till k) tag (.token (saleToken q p b n)) E := by
    simp only [t, postSale, hq]
    have : ∀ (a : Option Priced) (c : Option BuiltSale) (x : Option Byte), q.priced = a → q.built = c → q.replyTag = x → a = some p → c = some b → x = some tag → True := fun _ _ _ _ _ _ _ _ _ => trivial
    split
    · rename_i p' b' r' e' h1 h2 h3 h4
      rw [hp] at h1; rw [hb] at h2; rw [hlr] at h3; rw [hd] at h4
      cases h1; cases h2; cases h3; cases h4
      rw [← hE, ← hD, ← hC, ← hB, ← hA, htag]
      rfl
    · rename_i hno; exact absurd hd (hno _ _ _ _ hp hb hlr)
  have pinD : findPinned (.slot k) D = some l := by
    have h1 : findPinned (.slot k) D = findPinned (.slot k) C := findPinned_congr (by rw [← hD]; rfl) _
    rw [h1, tp, findPinned_congr wB, hpin]
  have lineD : ∀ j, D.line j = C.line j := fun j => by rw [← hD]; rfl
  have vD : ∀ p, (D.port p).view = (y.port p).view := by
    intro p
    have h1 : D.port p = C.port p := by rw [← hD]; cases p <;> rfl
    rw [h1, t5, ← hB, addUnit_view, ← hA]; cases p <;> rfl
  have siteE : E.site = B.site := by
    have := ck .site (by simp); simp only [Part.same] at this
    rw [this, ← hD]; show C.site = _; rw [t7]
  have bufE : E.buffer = B.buffer := by
    rw [c10, ← hD]; show C.buffer = _; rw [t7]
  have jD : D.journal = B.journal := by rw [← hD]; show C.journal = _; rw [t7]
  have jE : E.journal = B.journal := by
    rw [c3, jD]; simp
  have bA : A.buffer = y.buffer := by rw [← hA]; rfl
  have jA : A.journal = y.journal := by rw [← hA]; rfl
  have nA : A.now = y.now := by rw [← hA]; rfl
  refine ⟨⟨?_, ?_, ?_⟩, ?_, ?_, ?_, ?_, ?_, ?_, ?_, ?_, ?_, ?_⟩
  · rw [ht]; simp only [answer_frame, bufE, eB.1, bA]
    simp only [postedUnit, jA, nA]
  · rw [ht]; simp only [answer_frame, siteE, eB.2.1]
    simp only [postedUnit]
  · rw [ht]; simp only [answer_frame, jE, eB.2.2, jA]
  · rw [ht]; simp only [answer_frame, c2]
    have : D.reserved = y.reserved - q.tender := by
      rw [← hD]; show C.reserved = _; rw [t7]; show B.reserved = _; rw [← hB, ← hA]; simp [takeSale]
    rw [this]; simp
  · rw [ht]; have : (answer (.till k) tag (.token (saleToken q p b n)) E).slot k = E.slot k := by simp [State.slot]
    rw [this, c1]
  · rw [ht]; have : (answer (.till k) tag (.token (saleToken q p b n)) E).line l = E.line l := by simp [State.line]
    rw [this, c4, pinD, if_pos rfl, lineD, t1]
    have : B.line l = y.line l := by simp only [State.line, wB]
    rw [this]
  · intro j hj
    rw [ht]; have : (answer (.till k) tag (.token (saleToken q p b n)) E).line j = E.line j := by simp [State.line]
    rw [this, c4, pinD, if_neg (by simpa using Ne.symm hj), lineD, t2 j hj]
    simp only [State.line, wB]
  · rw [ht]; simp only [answer_frame, c5]
    have : D.working = C.working := by rw [← hD]; rfl
    rw [this, t3, wB]
  · rw [ht]; simp only [answer_frame, c9]
    rw [← hD]; show C.arbiter = _; rw [t7]; show B.arbiter = _; rw [← hB, ← hA]; simp [takeSale]
  · rw [ht, answer_replies]
    have hsup : E.supply = y.supply := by
      have := ck .supply (by simp); have h2 := kD .supply (by simp); exact this.trans h2
    have : E.receives (.till k) = true := receives_of hrec hsup (view_link ((c7 (.till k)).trans (vD _)))
    rw [view_replies ((c7 (.till k)).trans (vD _)), this]; simp
  · rw [ht]; simp [answer_outstanding]
  · have h1 : onlyLevels y B := by
      rw [← hB]; exact onlyLevels_congr (addUnit_levels _ _ _ _ A) (by rw [← hA]; rfl) rfl
    have h2 : D.conditions = B.conditions := by rw [← hD]; show C.conditions = _; rw [t7]
    exact onlyLevels_trans (onlyLevels_trans h1 (onlyLevels_of_conditions h2)) (onlyLevels_congr c6 rfl (by rw [ht]; simp))
  · rw [ht]
    exact keepsAllBut_trans (keepsAllBut_mono kD (by simp +contextual)) (keepsAllBut_trans (keepsAllBut_mono ck (by simp +contextual)) (keepsAllBut_mono (answer_keeps (.till k) tag _ E) (by simp +contextual)))

theorem view_congr {s t : State} {p : PortId} (h : t.port p = s.port p) : (t.port p).view = (s.port p).view := by rw [h]

/-- All that posting a REPRINT does (R71, R74). -/
theorem postReprint_spec {y : State} {k : Till} {w : ReprintWork} {l : LineNo} {tag : Byte} {m index : Nat}
    {b : RecentToken} {rep : Bool}
    (hq : (y.slot k).quote = none) (hw : (y.slot k).reprint = some w) (hst : w.stage ≠ .lookup) (htag : w.replyTag = some tag)
    (hpin : findPinned (.slot k) y = some l) (hrec : y.receives (.till k) = true) :
    let t := postReprint k m index b rep y
    posts (postedUnit y .journalOnly none y.now (.till k) (.reprint m index b.sequence rep b.quoteId) y.site) (y.journal.reservations - 1) y t ∧
      t.slot k = { y.slot k with reprint := none, pin := none } ∧
      t.line l = { y.line l with pin := none } ∧ (∀ j, j ≠ l → t.line j = y.line j) ∧
      t.working.recency = y.working.recency ∧ t.arbiter = y.arbiter ∧
      t.replies (.till k) = y.replies (.till k) ++ [replyFrame tag (.token (recentToken m b index rep))] ∧ (t.port (.till k)).outstanding = none ∧
      onlyLevels y t ∧
      keepsAllBut [.site, .buffer, .journal, .slot k, .lines, .conditions, .outstanding (.till k), .replies (.till k)]
        y t := by
  intro t
  generalize hB : addUnit .journalOnly none (some (.till k, .reprint m index b.sequence rep b.quoteId)) none y = B
  have kB := addUnit_keeps .journalOnly none (some (.till k, .reprint m index b.sequence rep b.quoteId)) none y
  have eB := addUnit_entry .journalOnly none (.till k) (.reprint m index b.sequence rep b.quoteId) y
  rw [hB] at kB eB
  have wB : B.working = y.working := by rw [← hB]; simp
  have sB : ∀ j, B.slot j = y.slot j := fun j => kB (.slot j) (by simp)
  have pB : ∀ p, (B.port p).view = (y.port p).view := fun p => by rw [← hB]; exact addUnit_view _ _ _ _ y p
  generalize hC : releasePin (.slot k) B = C
  generalize hE : C.modSlot k (fun v => { v with reprint := none }) = E
  have hend : endReprint k B = E := by
    have h1 : (B.slot k).quote = none := by rw [sB]; exact hq
    have h2 : (B.slot k).reprintHoldsPin = true := by
      rw [sB]; simp only [VendSlot.reprintHoldsPin, hw]; simpa using hst
    simp only [endReprint, h1, h2, Option.isSome_none, Bool.not_true, Bool.or_false, Bool.false_eq_true, if_false]
    rw [hC, hE]
  have ht : t = answer (.till k) tag (.token (recentToken m b index rep)) E := by
    simp only [t, postReprint, hw, hB, hend, htag, tillReply]
  have hpB : findPinned (.slot k) B = some l := by rw [findPinned_congr wB, hpin]
  have lineC : ∀ j, C.line j = if l = j then { y.line j with pin := none } else y.line j := by
    intro j; rw [← hC, releasePin_lines, hpB]
    have : B.line j = y.line j := by simp only [State.line, wB]
    simp only [Option.some.injEq, this]
  have lineE : ∀ j, E.line j = C.line j := fun j => by rw [← hE]; rfl
  have lineT : ∀ j, t.line j = C.line j := fun j => by
    rw [ht, ← lineE]; have : (answer (.till k) tag (.token (recentToken m b index rep)) E).line j = E.line j := by simp [State.line]
    exact this
  have pE : ∀ p, (E.port p).view = (y.port p).view := fun p => by
    have h1 : E.port p = C.port p := by rw [← hE]; cases p <;> rfl
    rw [h1, ← hC, releasePin_port, pB]
  have kC : keepsAllBut [.lines, .slot k] B C := by
    rw [← hC]
    intro p hp
    cases p with
    | slot j =>
      have : j ≠ k := by intro e; apply hp; simp [e]
      simp only [Part.same, releasePin_slot, if_neg this]
    | link p => simp only [Part.same, releasePin_port]
    | outstanding p => simp only [Part.same, releasePin_port]
    | replies p => simp only [Part.same, State.replies, releasePin_port]
    | lines => simp at hp
    | grants => exact ⟨by simp, by simp⟩
    | hold => exact ⟨by simp, by simp⟩
    | clock => exact ⟨by simp, by simp⟩
    | _ => simp [Part.same]
  have kE : keepsAllBut [.site, .buffer, .journal, .lines, .slot k, .conditions] y E := by
    rw [← hE]
    exact keepsAllBut_trans (keepsAllBut_mono kB (by simp +contextual)) (keepsAllBut_trans (keepsAllBut_mono kC (by simp +contextual)) (keepsAllBut_mono (modSlot_keeps C k _) (by simp)))
  refine ⟨⟨?_, ?_, ?_⟩, ?_, ?_, ?_, ?_, ?_, ?_, ?_, ?_, ?_⟩
  · rw [ht]; simp only [answer_frame]
    rw [← eB.1, ← hE, ← hC]; simp
  · rw [ht]; simp only [answer_frame]
    rw [← eB.2.1, ← hE, ← hC]; simp
  · rw [ht]; simp only [answer_frame]
    rw [← eB.2.2, ← hE, ← hC]; simp
  · rw [ht]; have : (answer (.till k) tag (.token (recentToken m b index rep)) E).slot k = E.slot k := by simp [State.slot]
    rw [this, ← hE, State.slot_modSlot_same, ← hC, releasePin_slot, if_pos rfl, sB]
  · rw [lineT, lineC, if_pos rfl]
  · intro j hj; rw [lineT, lineC, if_neg (Ne.symm hj)]
  · rw [ht]; simp only [answer_frame]; rw [← hE]; show C.working.recency = _; rw [← hC, releasePin_recency, wB]
  · rw [ht]; simp only [answer_frame]; rw [← hE]; show C.arbiter = _; rw [← hC, ← hB]; simp
  · rw [ht, answer_replies]
    have hsup : E.supply = y.supply := kE .supply (by simp)
    have : E.receives (.till k) = true := receives_of hrec hsup (view_link (pE _))
    have h2 : E.replies (.till k) = y.replies (.till k) := view_replies (pE _)
    rw [h2, this]; simp
  · rw [ht]; simp [answer_outstanding]
  · have h1 : onlyLevels y B := by rw [← hB]; exact addUnit_levels _ _ _ _ y
    have h2 : E.conditions = B.conditions := by rw [← hE]; show C.conditions = _; rw [← hC]; simp
    exact onlyLevels_trans h1 (onlyLevels_of_conditions (by rw [ht]; simp [h2]))
  · rw [ht]
    exact keepsAllBut_trans (keepsAllBut_mono kE (by simp +contextual)) (keepsAllBut_mono (answer_keeps (.till k) tag _ E) (by simp +contextual))

theorem takeReservation_port (s : State) (p : PortId) : ((takeReservation s).port p).view = (s.port p).view := by
  unfold takeReservation; rw [reportLevels_view]; cases p <;> rfl

end Sys2Proof.Machine
end

