-- ==== Sys2Proof/Laws/Links.lean ====
section
/-! SUPPORT. Till links: the taking of settings and FAULT. -/

namespace Sys2Proof.Machine

/-- The receive side's taking of its settings with the slot IDLE. -/
theorem takeSettings_spec {Y : State} {k : Till} {v : LinkSettings} (hv : Y.site.links.get k = v)
    (hs : (Y.slot k).state = .idle) :
    let q := Y.port (.till k)
    let Z := takeSettings k Y
    (Z.port (.till k)).standing = (linkAfter q.link v, v.rate, .hunt, false) ∧
      (v.enabled = true ∨ q.link = .off → Z.slot k = Y.slot k ∧ (Z.port (.till k)).outstanding = q.outstanding ∧ Z.replies (.till k) = Y.replies (.till k)) ∧
      (v.enabled = false → q.link ≠ .off → Z.slot k = (Y.slot k).unanswered ∧ (Z.port (.till k)).outstanding = none ∧ Z.replies (.till k) = q.sending) ∧
      keepsAllBut [.link (.till k), .slot k, .outstanding (.till k), .replies (.till k)] Y Z ∧
      Z.site = Y.site ∧ Z.buffer = Y.buffer ∧ Z.journal = Y.journal ∧ Z.conditions = Y.conditions := by
  intro q Z
  have hport : ∀ (w : LinkPort) p, p ≠ .till k → (Y.setPort (.till k) w).port p = Y.port p := fun w p hp => by simp [State.port_setPort, Ne.symm hp]
  have simplePort : ∀ w : LinkPort, (Y.setPort (.till k) w).slot k = Y.slot k := fun w => by simp [State.slot]
  have keepsP : ∀ w : LinkPort, keepsAllBut [.link (.till k), .slot k, .outstanding (.till k),
      .replies (.till k)] Y (Y.setPort (.till k) w) := by
    intro w p hp
    cases p with
    | link p => simp only [Part.same]; rw [hport]; simpa using hp
    | outstanding p => simp only [Part.same]; rw [hport]; simpa using hp
    | replies p => simp only [Part.same, State.replies]; rw [hport]; simpa using hp
    | _ => simp [Part.same, State.slot]
  by_cases he : v.enabled = true
  · have hZ : Z = Y.setPort (.till k) { q with rate := v.rate, receiver := .hunt, settingsWaiting := false, link := if q.link == .off then .active else q.link } := by
      simp only [Z, takeSettings, hv, he, if_true]; rfl
    refine ⟨?_, fun _ => ⟨?_, ?_, ?_⟩, fun h => (by rw [he] at h; cases h), ?_, ?_⟩
    · rw [hZ]; simp [LinkPort.standing, linkAfter, he]
    · rw [hZ]; exact simplePort _
    · rw [hZ]; simp
    · rw [hZ]; simp [State.replies, LinkPort.sending, q]
    · rw [hZ]; exact keepsP _
    · rw [hZ]; simp
  · have he' : v.enabled = false := by simpa using he
    by_cases hl : q.link = .off
    · have hZ : Z = Y.setPort (.till k) { q with rate := v.rate, receiver := .hunt, settingsWaiting := false } := by
        have : (Y.port (.till k)).link = .off := hl
        simp only [Z, takeSettings, hv, he', Bool.false_eq_true, if_false, this, beq_self_eq_true, if_true]; rw [hl]
      refine ⟨?_, fun _ => ⟨?_, ?_, ?_⟩, fun _ h => absurd hl h, ?_, ?_⟩
      · rw [hZ]; simp [LinkPort.standing, linkAfter, he', hl]
      · rw [hZ]; exact simplePort _
      · rw [hZ]; simp
      · rw [hZ]; simp [State.replies, LinkPort.sending, q]
      · rw [hZ]; exact keepsP _
      · rw [hZ]; simp
    · have hZ : Z = dropReplyTags k (Y.setPort (.till k) { q with rate := v.rate, receiver := .hunt, settingsWaiting := false, link := .off, order := [], outstanding := none }) := by
        have h1 : ((Y.port (.till k)).link == LinkState.off) = false := by rw [beq_eq_false_iff_ne]; exact hl
        simp only [Z, takeSettings, hv, he', Bool.false_eq_true, if_false, h1, slotLinkOff]
        have : ((dropReplyTags k (Y.setPort (.till k) { q with rate := v.rate, receiver := .hunt, settingsWaiting := false, link := .off, order := [], outstanding := none })).slot k).state = .idle := by
          simp only [dropReplyTags, State.slot_modSlot_same, simplePort]; exact hs
        rw [this]
      have hpp : ∀ p, (dropReplyTags k (Y.setPort (.till k) { q with rate := v.rate, receiver := .hunt, settingsWaiting := false, link := .off, order := [], outstanding := none })).port p = (Y.setPort (.till k) { q with rate := v.rate, receiver := .hunt, settingsWaiting := false, link := .off, order := [], outstanding := none }).port p := by
        intro p; cases p <;> simp [State.port, dropReplyTags]
      refine ⟨?_, fun h => ?_, fun _ _ => ⟨?_, ?_, ?_⟩, ?_, ?_⟩
      · rw [hZ, hpp]; simp [LinkPort.standing, linkAfter, he']
      · rcases h with h | h
        · rw [he'] at h; cases h
        · exact absurd h hl
      · rw [hZ]; simp only [dropReplyTags, State.slot_modSlot_same, simplePort]; rfl
      · rw [hZ, hpp]; simp
      · rw [hZ]; simp only [State.replies, hpp]; simp [LinkPort.sending, q]
      · rw [hZ]
        refine keepsAllBut_trans (keepsP { q with rate := v.rate, receiver := .hunt, settingsWaiting := false, link := .off, order := [], outstanding := none }) ?_
        intro p hp
        cases p with
        | slot j => have : j ≠ k := by simpa using hp
                    simp [Part.same, dropReplyTags, State.slot_modSlot, Ne.symm this]
        | link p => rfl
        | outstanding p => rfl
        | replies p => rfl
        | _ => first
          | rfl
          | exact ⟨rfl, rfl⟩
      · rw [hZ]; simp [dropReplyTags]

/-- The posting of settings with the slot IDLE: they apply at once or wait (R204). -/
theorem offerSettings_spec {Y : State} {k : Till} {v : LinkSettings} (hv : Y.site.links.get k = v)
    (hs : (Y.slot k).state = .idle)
    (hw : (Y.port (.till k)).settingsWaiting = false) :
    let q := Y.port (.till k)
    let Z := offerSettings k Y
    let waits := q.link = .active ∧ Config.frameInReception Y.freeCount = true
    (waits → (Z.port (.till k)).standing = (.active, q.rate, .receiving, true) ∧ Z.slot k = Y.slot k ∧
        (Z.port (.till k)).outstanding = q.outstanding ∧ Z.replies (.till k) = Y.replies (.till k)) ∧
    (¬waits → (Z.port (.till k)).standing = (linkAfter q.link v, v.rate, .hunt, false) ∧
      (v.enabled = true ∨ q.link = .off → Z.slot k = Y.slot k ∧ (Z.port (.till k)).outstanding = q.outstanding ∧ Z.replies (.till k) = Y.replies (.till k)) ∧
      (v.enabled = false → q.link ≠ .off → Z.slot k = (Y.slot k).unanswered ∧ (Z.port (.till k)).outstanding = none ∧ Z.replies (.till k) = q.sending)) ∧
      keepsAllBut [.link (.till k), .slot k, .outstanding (.till k), .replies (.till k)] Y Z ∧
      Z.site = Y.site ∧ Z.buffer = Y.buffer ∧ Z.journal = Y.journal ∧ Z.conditions = Y.conditions := by
  intro q Z waits
  by_cases ha : q.link = .active
  · have ha' : ((Y.port (.till k)).link == .active) = true := by simpa using ha
    by_cases hf : Config.frameInReception Y.freeCount = true
    · have hZ : Z = { Y.setPort (.till k) { q with receiver := .receiving, settingsWaiting := true } with freeCount := Y.freeCount + 1 } := by
        simp only [Z, offerSettings, ha', if_true, hw, Bool.false_eq_true, if_false, hf]; rfl
      have hpp : ∀ p, Z.port p = (Y.setPort (.till k) { q with receiver := .receiving, settingsWaiting := true }).port p := by
        intro p; rw [hZ]; cases p <;> rfl
      refine ⟨fun _ => ⟨?_, ?_, ?_, ?_⟩, fun h => absurd ⟨ha, hf⟩ h, ?_, ?_⟩
      · rw [hpp]; simp [LinkPort.standing, ha]
      · rw [hZ]; simp [State.slot]
      · rw [hpp]; simp
      · simp only [State.replies, hpp]; simp [LinkPort.sending, q]
      · intro p hp
        cases p with
        | link p => simp only [Part.same]; rw [hpp, State.port_setPort, if_neg]; simpa [eq_comm] using hp
        | outstanding p => simp only [Part.same]; rw [hpp, State.port_setPort, if_neg]; simpa [eq_comm] using hp
        | replies p => simp only [Part.same, State.replies]; rw [hpp, State.port_setPort, if_neg]; simpa [eq_comm] using hp
        | _ => rw [hZ]; simp [Part.same, State.slot]
      · rw [hZ]; simp
    · have hZ : Z = takeSettings k { Y with freeCount := Y.freeCount + 1 } := by
        simp only [Z, offerSettings, ha', if_true, hw, Bool.false_eq_true, if_false, hf]
      obtain ⟨a, b, c, d, e⟩ := takeSettings_spec (Y := { Y with freeCount := Y.freeCount + 1 }) (k := k) (v := v) hv hs
      rw [← hZ] at a b c d e
      exact ⟨fun h => absurd h.2 hf, fun _ => ⟨a, b, c⟩, d, e⟩
  · have ha' : ((Y.port (.till k)).link == .active) = false := by rw [beq_eq_false_iff_ne]; exact ha
    have hZ : Z = takeSettings k Y := by
      simp only [Z, offerSettings, ha', Bool.false_eq_true, if_false]
    obtain ⟨a, b, c, d, e⟩ := takeSettings_spec (Y := Y) (k := k) (v := v) hv hs
    rw [← hZ] at a b c d e
    exact ⟨fun h => absurd h.1 ha, fun _ => ⟨a, b, c⟩, d, e⟩

/-- Settings taken with the link enabled (R204). -/
theorem takeSettings_on {k : Till} {s : State} (hv : (s.site.links.get k).enabled = true) :
    ((takeSettings k s).port (.till k)).standing = (linkAfter (s.port (.till k)).link (s.site.links.get k), (s.site.links.get k).rate, .hunt, false) ∧
      keepsAllBut [.link (.till k)] s (takeSettings k s) ∧ (takeSettings k s).arbiter = s.arbiter ∧ (takeSettings k s).buffer = s.buffer := by
  unfold takeSettings
  dsimp only
  rw [if_pos hv]
  refine ⟨?_, setPort_keeps s _ _ rfl rfl rfl, by simp, by simp⟩
  simp only [State.port_setPort_same, LinkPort.standing, linkAfter, hv, if_true, beq_iff_eq]

/-- A link set to FAULT (R198). -/
theorem setFault_spec (p : PortId) (s : State) (h : (s.port p).settingsWaiting = false) :
    ((setFault p s).port p).standing = (.fault, (s.port p).rate, .hunt, false) ∧ keepsAllBut [.link p] s (setFault p s) := by
  unfold setFault
  refine ⟨by simp [LinkPort.standing, h], ?_⟩
  rw [State.modPort]
  exact setPort_keeps s p _ rfl rfl rfl

theorem dropReplyTags_eq (k : Till) (s : State) : dropReplyTags k s = s.modSlot k VendSlot.unanswered := rfl

end Sys2Proof.Machine
end

