-- ==== Sys2Proof/WellFormed.lean ====
section
/-! DEFINITION. Which commands can arise: a request's frame is a good one, an unknown kind is no request kind of its
link, and the characters of a discarded or late frame are such (R194 to R199). -/

namespace Sys2Proof

open Machine

/-- A good frame as R197 leaves it: a tag other than 0 and a body of at most 200 bytes. -/
def goodFrame (tag : Byte) (body : List Byte) : Bool :=
  tag != 0 && decide (body.length ≤ maxBody)

/-- The command can arise on a link or in the part. -/
def Instr.wellFormed : Instr → Bool
  | .quote _ tag body => goodFrame tag body
  | .confirm _ tag body => goodFrame tag body
  | .cancel _ tag body => goodFrame tag body
  | .reprint _ tag body => goodFrame tag body
  | .tillStatus _ tag body => goodFrame tag body
  | .meterEnrol tag body => goodFrame tag body
  | .meterEdit tag body => goodFrame tag body
  | .meterBlock tag body => goodFrame tag body
  | .meterUnblock tag body => goodFrame tag body
  | .meterRetire tag body => goodFrame tag body
  | .meterPurge tag body => goodFrame tag body
  | .meterRestore tag body => goodFrame tag body
  | .meterRead tag body => goodFrame tag body
  | .tariffStage tag body => goodFrame tag body
  | .tariffUnstage tag body => goodFrame tag body
  | .tariffLoadNow tag body => goodFrame tag body
  | .tariffRead tag body => goodFrame tag body
  | .budgetVoucher tag body => goodFrame tag body
  | .budgetFloorSet tag body => goodFrame tag body
  | .journalRead tag body => goodFrame tag body
  | .journalRelease tag body => goodFrame tag body
  | .clockSet tag body => goodFrame tag body
  | .clockRead tag body => goodFrame tag body
  | .summaryRead tag body => goodFrame tag body
  | .totalsSnapshot tag body => goodFrame tag body
  | .tillClose tag body => goodFrame tag body
  | .holdRequest tag body => goodFrame tag body
  | .holdRelease tag body => goodFrame tag body
  | .linkSet tag body => goodFrame tag body
  | .quoteTimeSet tag body => goodFrame tag body
  | .noticeMaskSet tag body => goodFrame tag body
  | .conditionClear tag body => goodFrame tag body
  | .statusRead tag body => goodFrame tag body
  | .siteCodeLoad tag body => goodFrame tag body
  | .storeRetry tag body => goodFrame tag body
  | .unknownKind p kind tag body => goodFrame tag body && !isRequestKind p kind
  | .frameDiscarded _ chars => isDiscarded chars
  | .frameTimeLimit _ chars elapsed => limitRanOut chars elapsed
  | .frameTransmitted _ => true
  | .linkEntersFault _ => true
  | .linkFaultEnd _ => true
  | .linkSettingsTaken _ => true
  | .engineGrant => true
  | .quoteHoldExpiry _ => true
  | .officeHoldLapse => true
  | .dayRollover => true
  | .recordFetchComplete _ => true
  | .areaReadComplete => true
  | .unitWriteComplete _ => true
  | .retryAttemptComplete _ => true
  | .supplyLow => true
  | .supplyOk => true
  | .resetAsserted => true
  | .resetReleased => true
  | .drainWriteComplete _ => true
  | .holdCellWriteComplete _ => true
  | .startUp => true
  | .startUpComplete => true
  | .calendarSecond => true
  | .backupCellFailed => true

end Sys2Proof
end

