-- ==== Sys2Proof/Laws/PerInstr.lean ====
section
/-! SUPPORT. One claim for every command: the frame of a well-formed request says which request it is (11, R199,
Table 11-5). -/

namespace Sys2Proof.Laws

open Machine

/-- The command that a good frame on a port is: the request of its kind on that link, or UNKNOWN_KIND (R199). -/
def commandOf (p : PortId) (kind tag : Byte) (body : List Byte) : Instr :=
  match p with
  | .till t =>
    if kind = kindQuote then .quote t tag body
    else if kind = kindConfirm then .confirm t tag body
    else if kind = kindCancel then .cancel t tag body
    else if kind = kindReprint then .reprint t tag body
    else if kind = kindTillStatus then .tillStatus t tag body
    else .unknownKind p kind tag body
  | .office =>
    if kind = kindMeterEnrol then .meterEnrol tag body
    else if kind = kindMeterEdit then .meterEdit tag body
    else if kind = kindMeterBlock then .meterBlock tag body
    else if kind = kindMeterUnblock then .meterUnblock tag body
    else if kind = kindMeterRetire then .meterRetire tag body
    else if kind = kindMeterPurge then .meterPurge tag body
    else if kind = kindMeterRestore then .meterRestore tag body
    else if kind = kindMeterRead then .meterRead tag body
    else if kind = kindTariffStage then .tariffStage tag body
    else if kind = kindTariffUnstage then .tariffUnstage tag body
    else if kind = kindTariffLoadNow then .tariffLoadNow tag body
    else if kind = kindTariffRead then .tariffRead tag body
    else if kind = kindBudgetVoucher then .budgetVoucher tag body
    else if kind = kindBudgetFloorSet then .budgetFloorSet tag body
    else if kind = kindJournalRead then .journalRead tag body
    else if kind = kindJournalRelease then .journalRelease tag body
    else if kind = kindClockSet then .clockSet tag body
    else if kind = kindClockRead then .clockRead tag body
    else if kind = kindSummaryRead then .summaryRead tag body
    else if kind = kindTotalsSnapshot then .totalsSnapshot tag body
    else if kind = kindTillClose then .tillClose tag body
    else if kind = kindHoldRequest then .holdRequest tag body
    else if kind = kindHoldRelease then .holdRelease tag body
    else if kind = kindLinkSet then .linkSet tag body
    else if kind = kindQuoteTimeSet then .quoteTimeSet tag body
    else if kind = kindNoticeMaskSet then .noticeMaskSet tag body
    else if kind = kindConditionClear then .conditionClear tag body
    else if kind = kindStatusRead then .statusRead tag body
    else if kind = kindSiteCodeLoad then .siteCodeLoad tag body
    else if kind = kindStoreRetry then .storeRetry tag body
    else .unknownKind p kind tag body

/-- A well-formed request is read back from its frame: its kind is a request kind of its link and names it alone, or it
is an unknown kind and the kind is none of the link's; its tag is not 0 and its body has at most 200 bytes (R197). -/
def Encoding.Statement (c : Instr) : Prop :=
  ∀ (p : PortId) (kind tag : Byte) (body : List Byte), c.wellFormed = true →
    Request.of c = some (p, kind, tag, body) → commandOf p kind tag body = c ∧ tag ≠ 0 ∧ body.length ≤ 200

/-- A good frame by its parts. -/
theorem goodFrame_parts {tag : Byte} {body : List Byte} (h : goodFrame tag body = true) :
    tag ≠ 0 ∧ body.length ≤ 200 := by
  simp only [goodFrame, Bool.and_eq_true, bne_iff_ne, decide_eq_true_eq] at h
  exact h

theorem Encoding.quote (t : Till) (tag : Byte) (body : List Byte) : Encoding.Statement (.quote t tag body) := by
  intro p kind tag' body' h hr
  cases hr
  exact ⟨rfl, goodFrame_parts h⟩

theorem Encoding.confirm (t : Till) (tag : Byte) (body : List Byte) : Encoding.Statement (.confirm t tag body) := by
  intro p kind tag' body' h hr
  cases hr
  exact ⟨rfl, goodFrame_parts h⟩

theorem Encoding.cancel (t : Till) (tag : Byte) (body : List Byte) : Encoding.Statement (.cancel t tag body) := by
  intro p kind tag' body' h hr
  cases hr
  exact ⟨rfl, goodFrame_parts h⟩

theorem Encoding.reprint (t : Till) (tag : Byte) (body : List Byte) : Encoding.Statement (.reprint t tag body) := by
  intro p kind tag' body' h hr
  cases hr
  exact ⟨rfl, goodFrame_parts h⟩

theorem Encoding.tillStatus (t : Till) (tag : Byte) (body : List Byte) : Encoding.Statement (.tillStatus t tag body) := by
  intro p kind tag' body' h hr
  cases hr
  exact ⟨rfl, goodFrame_parts h⟩

theorem Encoding.meterEnrol (tag : Byte) (body : List Byte) : Encoding.Statement (.meterEnrol tag body) := by
  intro p kind tag' body' h hr
  cases hr
  exact ⟨rfl, goodFrame_parts h⟩

theorem Encoding.meterEdit (tag : Byte) (body : List Byte) : Encoding.Statement (.meterEdit tag body) := by
  intro p kind tag' body' h hr
  cases hr
  exact ⟨rfl, goodFrame_parts h⟩

theorem Encoding.meterBlock (tag : Byte) (body : List Byte) : Encoding.Statement (.meterBlock tag body) := by
  intro p kind tag' body' h hr
  cases hr
  exact ⟨rfl, goodFrame_parts h⟩

theorem Encoding.meterUnblock (tag : Byte) (body : List Byte) : Encoding.Statement (.meterUnblock tag body) := by
  intro p kind tag' body' h hr
  cases hr
  exact ⟨rfl, goodFrame_parts h⟩

theorem Encoding.meterRetire (tag : Byte) (body : List Byte) : Encoding.Statement (.meterRetire tag body) := by
  intro p kind tag' body' h hr
  cases hr
  exact ⟨rfl, goodFrame_parts h⟩

theorem Encoding.meterPurge (tag : Byte) (body : List Byte) : Encoding.Statement (.meterPurge tag body) := by
  intro p kind tag' body' h hr
  cases hr
  exact ⟨rfl, goodFrame_parts h⟩

theorem Encoding.meterRestore (tag : Byte) (body : List Byte) : Encoding.Statement (.meterRestore tag body) := by
  intro p kind tag' body' h hr
  cases hr
  exact ⟨rfl, goodFrame_parts h⟩

theorem Encoding.meterRead (tag : Byte) (body : List Byte) : Encoding.Statement (.meterRead tag body) := by
  intro p kind tag' body' h hr
  cases hr
  exact ⟨rfl, goodFrame_parts h⟩

theorem Encoding.tariffStage (tag : Byte) (body : List Byte) : Encoding.Statement (.tariffStage tag body) := by
  intro p kind tag' body' h hr
  cases hr
  exact ⟨rfl, goodFrame_parts h⟩

theorem Encoding.tariffUnstage (tag : Byte) (body : List Byte) : Encoding.Statement (.tariffUnstage tag body) := by
  intro p kind tag' body' h hr
  cases hr
  exact ⟨rfl, goodFrame_parts h⟩

theorem Encoding.tariffLoadNow (tag : Byte) (body : List Byte) : Encoding.Statement (.tariffLoadNow tag body) := by
  intro p kind tag' body' h hr
  cases hr
  exact ⟨rfl, goodFrame_parts h⟩

theorem Encoding.tariffRead (tag : Byte) (body : List Byte) : Encoding.Statement (.tariffRead tag body) := by
  intro p kind tag' body' h hr
  cases hr
  exact ⟨rfl, goodFrame_parts h⟩

theorem Encoding.budgetVoucher (tag : Byte) (body : List Byte) : Encoding.Statement (.budgetVoucher tag body) := by
  intro p kind tag' body' h hr
  cases hr
  exact ⟨rfl, goodFrame_parts h⟩

theorem Encoding.budgetFloorSet (tag : Byte) (body : List Byte) : Encoding.Statement (.budgetFloorSet tag body) := by
  intro p kind tag' body' h hr
  cases hr
  exact ⟨rfl, goodFrame_parts h⟩

theorem Encoding.journalRead (tag : Byte) (body : List Byte) : Encoding.Statement (.journalRead tag body) := by
  intro p kind tag' body' h hr
  cases hr
  exact ⟨rfl, goodFrame_parts h⟩

theorem Encoding.journalRelease (tag : Byte) (body : List Byte) : Encoding.Statement (.journalRelease tag body) := by
  intro p kind tag' body' h hr
  cases hr
  exact ⟨rfl, goodFrame_parts h⟩

theorem Encoding.clockSet (tag : Byte) (body : List Byte) : Encoding.Statement (.clockSet tag body) := by
  intro p kind tag' body' h hr
  cases hr
  exact ⟨rfl, goodFrame_parts h⟩

theorem Encoding.clockRead (tag : Byte) (body : List Byte) : Encoding.Statement (.clockRead tag body) := by
  intro p kind tag' body' h hr
  cases hr
  exact ⟨rfl, goodFrame_parts h⟩

theorem Encoding.summaryRead (tag : Byte) (body : List Byte) : Encoding.Statement (.summaryRead tag body) := by
  intro p kind tag' body' h hr
  cases hr
  exact ⟨rfl, goodFrame_parts h⟩

theorem Encoding.totalsSnapshot (tag : Byte) (body : List Byte) : Encoding.Statement (.totalsSnapshot tag body) := by
  intro p kind tag' body' h hr
  cases hr
  exact ⟨rfl, goodFrame_parts h⟩

theorem Encoding.tillClose (tag : Byte) (body : List Byte) : Encoding.Statement (.tillClose tag body) := by
  intro p kind tag' body' h hr
  cases hr
  exact ⟨rfl, goodFrame_parts h⟩

theorem Encoding.holdRequest (tag : Byte) (body : List Byte) : Encoding.Statement (.holdRequest tag body) := by
  intro p kind tag' body' h hr
  cases hr
  exact ⟨rfl, goodFrame_parts h⟩

theorem Encoding.holdRelease (tag : Byte) (body : List Byte) : Encoding.Statement (.holdRelease tag body) := by
  intro p kind tag' body' h hr
  cases hr
  exact ⟨rfl, goodFrame_parts h⟩

theorem Encoding.linkSet (tag : Byte) (body : List Byte) : Encoding.Statement (.linkSet tag body) := by
  intro p kind tag' body' h hr
  cases hr
  exact ⟨rfl, goodFrame_parts h⟩

theorem Encoding.quoteTimeSet (tag : Byte) (body : List Byte) : Encoding.Statement (.quoteTimeSet tag body) := by
  intro p kind tag' body' h hr
  cases hr
  exact ⟨rfl, goodFrame_parts h⟩

theorem Encoding.noticeMaskSet (tag : Byte) (body : List Byte) : Encoding.Statement (.noticeMaskSet tag body) := by
  intro p kind tag' body' h hr
  cases hr
  exact ⟨rfl, goodFrame_parts h⟩

theorem Encoding.conditionClear (tag : Byte) (body : List Byte) : Encoding.Statement (.conditionClear tag body) := by
  intro p kind tag' body' h hr
  cases hr
  exact ⟨rfl, goodFrame_parts h⟩

theorem Encoding.statusRead (tag : Byte) (body : List Byte) : Encoding.Statement (.statusRead tag body) := by
  intro p kind tag' body' h hr
  cases hr
  exact ⟨rfl, goodFrame_parts h⟩

theorem Encoding.siteCodeLoad (tag : Byte) (body : List Byte) : Encoding.Statement (.siteCodeLoad tag body) := by
  intro p kind tag' body' h hr
  cases hr
  exact ⟨rfl, goodFrame_parts h⟩

theorem Encoding.storeRetry (tag : Byte) (body : List Byte) : Encoding.Statement (.storeRetry tag body) := by
  intro p kind tag' body' h hr
  cases hr
  exact ⟨rfl, goodFrame_parts h⟩

theorem Encoding.unknownKind (p : PortId) (kind tag : Byte) (body : List Byte) :
    Encoding.Statement (.unknownKind p kind tag body) := by
  intro p' kind' tag' body' h hr
  cases hr
  simp only [Instr.wellFormed, Bool.and_eq_true, Bool.not_eq_true'] at h
  refine ⟨?_, goodFrame_parts h.1⟩
  cases p <;> simp_all [commandOf, isRequestKind, tillKinds, officeKinds]

theorem Encoding.frameDiscarded (p : PortId) (chars : List RxChar) : Encoding.Statement (.frameDiscarded p chars) := by
  intro _ _ _ _ _ hr
  cases hr

theorem Encoding.frameTimeLimit (p : PortId) (chars : List RxChar) (elapsed : Nat) : Encoding.Statement (.frameTimeLimit p chars elapsed) := by
  intro _ _ _ _ _ hr
  cases hr

theorem Encoding.frameTransmitted (p : PortId) : Encoding.Statement (.frameTransmitted p) := by
  intro _ _ _ _ _ hr
  cases hr

theorem Encoding.linkEntersFault (p : PortId) : Encoding.Statement (.linkEntersFault p) := by
  intro _ _ _ _ _ hr
  cases hr

theorem Encoding.linkFaultEnd (p : PortId) : Encoding.Statement (.linkFaultEnd p) := by
  intro _ _ _ _ _ hr
  cases hr

theorem Encoding.linkSettingsTaken (t : Till) : Encoding.Statement (.linkSettingsTaken t) := by
  intro _ _ _ _ _ hr
  cases hr

theorem Encoding.engineGrant : Encoding.Statement .engineGrant := by
  intro _ _ _ _ _ hr
  cases hr

theorem Encoding.quoteHoldExpiry (t : Till) : Encoding.Statement (.quoteHoldExpiry t) := by
  intro _ _ _ _ _ hr
  cases hr

theorem Encoding.officeHoldLapse : Encoding.Statement .officeHoldLapse := by
  intro _ _ _ _ _ hr
  cases hr

theorem Encoding.dayRollover : Encoding.Statement .dayRollover := by
  intro _ _ _ _ _ hr
  cases hr

theorem Encoding.recordFetchComplete (damaged : Bool) : Encoding.Statement (.recordFetchComplete damaged) := by
  intro _ _ _ _ _ hr
  cases hr

theorem Encoding.areaReadComplete : Encoding.Statement .areaReadComplete := by
  intro _ _ _ _ _ hr
  cases hr

theorem Encoding.unitWriteComplete (r : ReadBack) : Encoding.Statement (.unitWriteComplete r) := by
  intro _ _ _ _ _ hr
  cases hr

theorem Encoding.retryAttemptComplete (r : ReadBack) : Encoding.Statement (.retryAttemptComplete r) := by
  intro _ _ _ _ _ hr
  cases hr

theorem Encoding.supplyLow : Encoding.Statement .supplyLow := by
  intro _ _ _ _ _ hr
  cases hr

theorem Encoding.supplyOk : Encoding.Statement .supplyOk := by
  intro _ _ _ _ _ hr
  cases hr

theorem Encoding.resetAsserted : Encoding.Statement .resetAsserted := by
  intro _ _ _ _ _ hr
  cases hr

theorem Encoding.resetReleased : Encoding.Statement .resetReleased := by
  intro _ _ _ _ _ hr
  cases hr

theorem Encoding.drainWriteComplete (r : ReadBack) : Encoding.Statement (.drainWriteComplete r) := by
  intro _ _ _ _ _ hr
  cases hr

theorem Encoding.holdCellWriteComplete (r : CellReadBack) : Encoding.Statement (.holdCellWriteComplete r) := by
  intro _ _ _ _ _ hr
  cases hr

theorem Encoding.startUp : Encoding.Statement .startUp := by
  intro _ _ _ _ _ hr
  cases hr

theorem Encoding.startUpComplete : Encoding.Statement .startUpComplete := by
  intro _ _ _ _ _ hr
  cases hr

theorem Encoding.calendarSecond : Encoding.Statement .calendarSecond := by
  intro _ _ _ _ _ hr
  cases hr

theorem Encoding.backupCellFailed : Encoding.Statement .backupCellFailed := by
  intro _ _ _ _ _ hr
  cases hr

end Sys2Proof.Laws
end

