-- ==== Sys2Proof/Laws/Records.lean ====
section
/-! SUPPORT. The office record requests: a hit of the Working Set, and their ends. -/

namespace Sys2Proof.Machine

/-- All that posting a record image does to the lines (R103). -/
theorem postImage_spec {y : State} {r : Record} {l : LineNo} (slot : Nat) (body : EntryBody)
    (hf : findLine r.meter y = some l) (hp : findPinned .office y = some l) :
    let a := addUnit .edit (some (.image slot r)) (some (.office, body)) none y
    let t := postImage slot r body y
    t = { a with working := t.working } ∧ t.line l = { y.line l with pin := none, dirty := (y.line l).dirty + 1, record := some r } ∧
      (∀ j, j ≠ l → t.line j = y.line j) ∧ t.working.recency = y.working.recency.erase l ++ [l] := by
  intro a t
  have wa : a.working = y.working := by simp [a]
  have hfa : findLine r.meter a = some l := by rw [findLine_congr wa, hf]
  obtain ⟨t1, t2, t3, t4, t5, t6, t7⟩ := lineTakesImage_spec r hfa
  have tp := lineTakesImage_findPinned r hfa .office
  rw [findPinned_congr wa, hp] at tp
  have ht : t = releasePin .office (lineTakesImage r.meter r a) := rfl
  generalize hC : lineTakesImage r.meter r a = C at *
  obtain ⟨r1, r2, r3⟩ := releaseOfficePin_spec C
  have la : ∀ j, a.line j = y.line j := fun j => by simp only [State.line, wa]
  refine ⟨?_, ?_, ?_, ?_⟩
  · rw [ht, r3, t7]
  · rw [ht, r1, tp, if_pos rfl, t1, la]
  · intro j hj; rw [ht, r1, tp, if_neg (by simpa using Ne.symm hj), t2 j hj, la]
  · rw [ht, r2, t3, wa]

/-- The end of an office record request that posts an image: `y` is the state when it posts. -/
theorem recordRequest_end {s y z : State} {tag kind : Byte} {body : List Byte} {r : Record} {l : LineNo}
    (more : List Part) (reply : Reply) (slot : Nat) (eb : EntryBody)
    (h : s.takes .office tag body) (hf : findLine r.meter y = some l) (hp : findPinned .office y = some l)
    (hy : ∃ Y, Y = { s.serving .office kind tag with working := Y.working } ∧ y = takeReservation Y)
    (hm : Part.replies .office ∉ more ∧ Part.link .office ∉ more ∧ Part.supply ∉ more ∧ Part.outstanding .office ∉ more)
    (hz : keepsAllBut more (postImage slot r eb y) z) (hzw : z.working = (postImage slot r eb y).working)
    (hzs : z.site = (postImage slot r eb y).site) (hzb : z.buffer = (postImage slot r eb y).buffer)
    (hzj : z.journal = (postImage slot r eb y).journal) (hzo : z.conditions = (postImage slot r eb y).conditions) :
    let t := settle (officeReply reply z)
    officePosts .edit (some (.image slot r)) eb s.site s t ∧ replied .office tag reply s t ∧ onlyLevels s t ∧
      t.line l = { y.line l with pin := none, dirty := (y.line l).dirty + 1, record := some r } ∧
      (∀ j, j ≠ l → t.line j = y.line j) ∧ t.working.recency = y.working.recency.erase l ++ [l] ∧ t.directory = z.directory ∧
      keepsAllBut (more ++ [.lines, .site, .buffer, .journal, .conditions, .replies .office]) s t := by
  intro t
  obtain ⟨Y, hY, hyY⟩ := hy
  obtain ⟨i1, i2, i3, i4⟩ := postImage_spec slot eb hf hp
  have kY : keepsAllBut [.lines] (s.serving .office kind tag) Y := lines_keeps hY
  have ky : keepsAllBut [.lines, .journal, .conditions] (s.serving .office kind tag) y := by
    rw [hyY]; exact keepsAllBut_trans (keepsAllBut_mono kY (by simp)) (keepsAllBut_mono (takeReservation_keeps Y) (by simp +contextual))
  generalize hB : addUnit .edit (some (.image slot r)) (some (.office, eb)) none y = B at *
  have kB := addUnit_keeps .edit (some (.image slot r)) (some (.office, eb)) none y
  rw [hB] at kB
  generalize hC : postImage slot r eb y = C at *
  have kC : keepsAllBut [.lines] B C := lines_keeps i1
  have kz : keepsAllBut (more ++ [.lines]) B z := keepsAllBut_trans (keepsAllBut_mono kC (by simp)) (keepsAllBut_mono hz (by simp +contextual))
  have hout : z.officePort.outstanding = some ⟨tag, kind⟩ := by
    refine after_outstanding (s := s) (l := more ++ [.lines, .site, .buffer, .journal,
        .conditions]) ?_ (by simpa using hm.2.2.2)
    exact keepsAllBut_trans (keepsAllBut_mono ky (by simp +contextual)) (keepsAllBut_trans (keepsAllBut_mono kB (by simp +contextual)) (keepsAllBut_mono kz (by simp +contextual; tauto)))
  have hcs : C.site = B.site ∧ C.buffer = B.buffer ∧ C.journal = B.journal ∧ C.conditions = B.conditions := by rw [i1]; exact ⟨rfl, rfl, rfl, rfl⟩
  have hYj : Y.journal = s.journal := by rw [hY]; simp
  have hYc : Y.conditions = s.conditions := by rw [hY]; simp
  have U := officeUnit_end (s := s) (y0 := y) (z := z) (tag := tag) (l := more ++ [.lines, .site, .buffer, .journal,
      .conditions]) kind reply h .edit (some (.image slot r)) s.now .office eb s.site
    (by simpa using hm.1) (by simpa using hm.2.1) (by simpa using hm.2.2.1) (by simp) (by simp) (by simp) (by simp)
    (keepsAllBut_mono ky (by simp +contextual))
    (by have := ky .buffer (by simp); simpa [Part.same] using this)
    (by have := ky .site (by simp); simpa [Part.same] using this)
    (by rw [hyY, takeReservation_journal, hYj])
    (by have := ky .clock (by simp); simp only [Part.same] at this; simp [State.now, this.1])
    (by rw [hyY]; exact onlyLevels_congr (takeReservation_levels Y) hYc.symm rfl)
    (by rw [hB]; exact keepsAllBut_mono kz (by simp +contextual; tauto))
    (by rw [hB, hzs, hcs.1]) (by rw [hB, hzb, hcs.2.1]) (by rw [hB, hzj, hcs.2.2.1]) (by rw [hB]; exact onlyLevels_of_conditions (by rw [hzo, hcs.2.2.2]))
  have ht : t = settle (answer .office tag reply z) := by simp only [t, officeReply_at (s := s) _ hout]
  have lt : ∀ j, t.line j = C.line j := fun j => by
    rw [ht, settle_line]
    have : (answer .office tag reply z).line j = z.line j := by simp [State.line]
    rw [this]; simp only [State.line, hzw]
  rw [ht] at lt ⊢
  refine ⟨U.1, U.2.1, U.2.2.1, by rw [lt, i2], fun j hj => by rw [lt, i3 j hj], ?_, by simp, keepsAllBut_mono U.2.2.2 (by simp +contextual)⟩
  have : (settle (answer .office tag reply z)).working.recency = z.working.recency := by simp
  rw [this, hzw, i4]

theorem postImage_directory (slot : Nat) (r : Record) (b : EntryBody) (y : State) :
    (postImage slot r b y).directory = y.directory := by simp

theorem serving_directory (s : State) (a b : Byte) : (s.serving .office a b).directory = s.directory := by simp

/-- The lowest free slot is none of the taken ones, and one of the part's while fewer are taken (R10). -/
theorem lowestFree_free {taken : List Nat} (h : taken.length < recordSlots) :
    lowestFree taken < recordSlots ∧ lowestFree taken ∉ taken := by
  unfold lowestFree
  cases hf : (List.range (taken.length + 1)).find? fun n => !taken.contains n with
  | some n =>
    have hn := List.mem_of_find?_eq_some hf
    have ht := List.find?_some hf
    exact ⟨by simp at hn; simp only [Option.getD_some]; omega, by simpa using ht⟩
  | none =>
    rw [List.find?_eq_none] at hf
    have hs : List.range (taken.length + 1) ⊆ taken := fun n hn => by simpa using hf n hn
    have := (List.nodup_range.subperm hs).length_le
    simp at this

/-- With nothing waiting, the taken slots are those of the directory. -/
theorem takenSlots_directory {s : State} (h : s.waiters = []) : s.takenSlots = s.directory.map (·.slot) := by
  simp [State.takenSlots, h]

theorem parseRestore_recent {body : List Byte} {r : Record} (h : parseRestore body = some r) : r.recent = [] := by
  unfold parseRestore at h
  dsimp only at h
  split at h
  · split at h
    · cases h; rfl
    · cases h
  · cases h

/-- What a hit of the office gives: the line, its record, the pin. -/
theorem officeHit {s : State} {kind tag : Byte} {m : Nat} {l : LineNo} {r : Record} (h : s.hits .office m l r) :
    let S := s.serving .office kind tag
    let Y := pinLine .office l m S
    lookup .office m S = .hit l ∧ lineRecord m Y = some r ∧ findLine m Y = some l ∧ findPinned .office Y = some l ∧
      Y = { S with working := Y.working } ∧ Y.line l = { s.line l with pin := some .office } ∧ (∀ j, j ≠ l → Y.line j = s.line j) ∧
      Y.working.recency = s.working.recency.erase l ++ [l] := by
  intro S Y
  have Sw : S.working = s.working := by simp [S]
  have Sl : ∀ j, S.line j = s.line j := fun j => by simp only [State.line, Sw]
  obtain ⟨p1, p2, p3, p4⟩ := pinOfficeLine_spec l m S
  have hl := h.2.1
  have hpin : (s.line l).pin = none := by rw [hl]
  have hfl : findLine m Y = some l := by
    have : findLine m Y = findLine m S := findLine_of_meters (fun j => by
      by_cases hj : j = l
      · subst hj; show (Y.line j).meter = _; rw [p1]
      · show (Y.line j).meter = _; rw [p2 j hj]) m
    rw [this, findLine_congr Sw, h.1]
  refine ⟨?_, ?_, hfl, ?_, p4, by rw [← Sl]; exact p1, fun j hj => by rw [← Sl]; exact p2 j hj, by rw [← Sw]; exact p3⟩
  · have : findLine m S = some l := by rw [findLine_congr Sw, h.1]
    simp [lookup, this, Sl, hpin]
  · simp only [lineRecord, hfl, Option.bind_some]
    show (Y.line l).record = _
    rw [p1, Sl, hl]
  · exact findPinned_of_unique (by show (Y.line l).pin = _; rw [p1]) (fun j hj => by
      by_contra hne
      have : (Y.line j).pin = some .office := hj
      rw [p2 j hne, Sl] at this; exact findPinned_none h.2.2.2 j this)

/-- A record request whose meter is a hit continues at once (R12). -/
theorem lookupRecord_officeHit {s : State} {kind tag : Byte} {req : RecordRequest} {e : DirEntry} {l : LineNo}
    {r : Record}
    (hd : dirFind req.meter s.directory = some e) (hdm : e.damaged = false) (h : s.hits .office req.meter l r) :
    lookupRecord req (s.serving .office kind tag) = continueRecord req e.slot r (pinLine .office l req.meter (s.serving .office kind tag)) := by
  obtain ⟨h1, h2, -⟩ := officeHit (kind := kind) (tag := tag) h
  simp only [lookupRecord, serving_directory, hd, hdm, Bool.false_eq_true, if_false, h1, continueFromLine, h2]

/-- A pinned request that posts an image. -/
theorem officeHit_posts {s : State} {tag : Byte} {body : List Byte} {kind : Byte} {m : Nat} {l : LineNo}
    {r r' : Record} (h : s.takes .office tag body)
    (hh : s.hits .office m l r) (hm : r'.meter = m) (hlaw : RecencyLaw s) (slot : Nat) (eb : EntryBody) (reply : Reply) :
    let t := settle (officeReply reply (postImage slot r' eb (takeReservation (pinLine .office l m (s.serving .office kind tag)))))
    officePosts .edit (some (.image slot r')) eb s.site s t ∧
      lineBecomes l { s.line l with dirty := (s.line l).dirty + 1, record := some r' } s t ∧
      replied .office tag reply s t ∧ onlyLevels s t ∧
      keepsAllBut [.site, .buffer, .journal, .lines, .conditions, .replies .office] s t := by
  have H := officeHit (kind := kind) (tag := tag) hh
  simp only [] at H
  revert H
  generalize pinLine .office l m (s.serving .office kind tag) = Y
  intro H
  obtain ⟨-, -, hfl, hfp, hY, hl, ho, hrec⟩ := H
  generalize hy : takeReservation Y = y
  intro t
  have yw : y.working = Y.working := by rw [← hy]; simp
  have yl : ∀ j, y.line j = Y.line j := fun j => by simp only [State.line, yw]
  have := recordRequest_end (s := s) (y := y) (z := postImage slot r' eb y) (tag := tag) (kind := kind) (r := r') (l := l) [] reply slot eb h
    (by rw [hm, findLine_congr yw]; exact hfl) (by rw [findPinned_congr yw]; exact hfp) ⟨Y, hY, hy.symm⟩ (by simp)
    (keepsAllBut_refl _ _) rfl rfl rfl rfl rfl
  obtain ⟨a1, a2, a3, a4, a5, a6, a7, a8⟩ := this
  have hpin : (s.line l).pin = none := by rw [hh.2.1]
  refine ⟨a1, ⟨?_, ?_, ?_⟩, a2, a3, keepsAllBut_mono a8 (by simp +contextual)⟩
  · rw [a4, yl, hl]; generalize s.line l = v at hpin; obtain ⟨a, b, c, d, e⟩ := v; cases hpin; rfl
  · intro j hj; rw [a5 j hj, yl, ho j hj]
  · rw [a6, yw, hrec, touch_twice (recency_nodup hlaw)]

/-- A pinned request that is answered and posts nothing. -/
theorem officeHit_answered {s : State} {tag : Byte} {body : List Byte} {kind : Byte} {m : Nat} {l : LineNo}
    {r : Record} (h : s.takes .office tag body)
    (hh : s.hits .office m l r) (hrest : s.holdAtRest) (reply : Reply) :
    let t := settle (officeReply reply (releasePin .office (pinLine .office l m (s.serving .office kind tag))))
    replied .office tag reply s t ∧ lineBecomes l (s.line l) s t ∧ keepsAllBut [.lines, .replies .office] s t := by
  have H := officeHit (kind := kind) (tag := tag) hh
  simp only [] at H
  revert H
  generalize pinLine .office l m (s.serving .office kind tag) = Y
  intro H
  obtain ⟨-, -, hfl, hfp, hY, hl, ho, hrec⟩ := H
  have R := releaseOfficePin_spec Y
  revert R
  generalize releasePin .office Y = C
  intro R t
  obtain ⟨r1, r2, r3⟩ := R
  have kC : keepsAllBut [.lines] (s.serving .office kind tag) C := keepsAllBut_trans (lines_keeps hY) (lines_keeps r3)
  have hout : C.officePort.outstanding = some ⟨tag, kind⟩ := after_outstanding (s := s) kC (by simp)
  have c1 : C.arbiter = s.arbiter := by rw [r3, hY]; simp
  have c2 : C.buffer = s.buffer := by rw [r3, hY]; simp
  have c3 : C.supply = s.supply := by rw [r3, hY]; simp
  have c4 : (C.port .office).link = (s.port .office).link := by
    have := congrArg Prod.fst (kC (.link .office) (by simp)); rw [← serving_link s .office .office kind tag]; simpa [LinkPort.standing] using this
  have c5 : C.replies .office = s.replies .office := by rw [kC (.replies .office) (by simp), serving_replies]
  have hx : (answer .office tag reply C).holdAtRest := holdAtRest_congr hrest (by simp [c1]) (by simp [c2])
  have ht : t = settle (answer .office tag reply C) := by simp only [t, officeReply_at (s := s) _ hout]
  have lt : ∀ j, t.line j = C.line j := fun j => by
    rw [ht, settle_line]; simp [State.line]
  have hpin : (s.line l).pin = none := by rw [hh.2.1]
  refine ⟨?_, ⟨?_, ?_, ?_⟩, ?_⟩
  · rw [ht]
    exact settle_replied hx (end_replied kind reply h c4 c3 c5)
  · rw [lt, r1, hfp, if_pos rfl, hl]; generalize s.line l = v at hpin; obtain ⟨a, b, c, d, e⟩ := v; cases hpin; rfl
  · intro j hj; rw [lt, r1, hfp, if_neg (by simpa using Ne.symm hj), ho j hj]
  · rw [ht]; simp only [settle_frame, answer_frame]; rw [r2, hrec]
  · rw [ht]; exact keepsAllBut_settle hx (keepsAllBut_mono (end_keeps kind reply h (by simp) (l := [.lines, .replies .office]) (keepsAllBut_mono kC (by simp))) (by simp))

theorem editItem_nil {α : Type} [DecidableEq α] (mk : α → RecordValue) (old : α) (g : Option α) :
    (editItem mk old g).isEmpty = true ↔ g.getD old = old := by
  unfold editItem
  cases g with
  | none => simp
  | some v => by_cases h : v = old <;> simp [h]

theorem isEmpty_append_eq {α : Type} (a b : List α) : (a ++ b).isEmpty = (a.isEmpty && b.isEmpty) := by cases a <;> simp

/-- An edit lists nothing just where it changes nothing (R18). -/
theorem editItems_nil (r : Record) (g : EditRequest) : (editItems r g).isEmpty = true ↔ editRecord r g = r := by
  simp only [editItems, isEmpty_append_eq, Bool.and_eq_true, editItem_nil, editRecord]
  constructor
  · rintro ⟨⟨⟨a, b⟩, c⟩, d⟩; rw [a, b, c, d]
  · intro h
    have h1 := congrArg Record.tariffIndex h
    have h2 := congrArg Record.recoveryRate h
    have h3 := congrArg Record.arrears h
    have h4 := congrArg Record.lifelineEligible h
    exact ⟨⟨⟨h1, h2⟩, h3⟩, h4⟩

theorem refusal_editable {s : State} (he : s.editable) (kind tag : Byte) :
    recordRefusal false false true (s.serving .office kind tag) = none := by
  simp [recordRefusal, he.1, he.2]

theorem officeHit_postRecord {s : State} {kind tag : Byte} {m : Nat} {l : LineNo} {r : Record}
    (hh : s.hits .office m l r) (hr : s.ready) (j : Job) :
    postRecord j (pinLine .office l m (s.serving .office kind tag)) = runJob ⟨j, true⟩ (takeReservation (pinLine .office l m (s.serving .office kind tag))) := by
  have H := officeHit (kind := kind) (tag := tag) hh
  simp only [] at H
  revert H
  generalize pinLine .office l m (s.serving .office kind tag) = Y
  intro H
  obtain ⟨-, -, hfl, hfp, hY, hl, ho, hrec⟩ := H
  obtain ⟨a, b⟩ := record_posts hY hr j
  simp only [postRecord, a, if_true, b]

theorem officeHit_nextSeq {s : State} {kind tag : Byte} {m : Nat} {l : LineNo} {r : Record}
    (hh : s.hits .office m l r) :
    (takeReservation (pinLine .office l m (s.serving .office kind tag))).journal.nextSeq = s.journal.nextSeq := by
  have H := officeHit (kind := kind) (tag := tag) hh
  simp only [] at H
  revert H
  generalize pinLine .office l m (s.serving .office kind tag) = Y
  intro H
  obtain ⟨-, -, hfl, hfp, hY, hl, ho, hrec⟩ := H
  rw [takeReservation_journal, hY]; simp

/-- A pinned request that is refused (R12). -/
theorem officeHit_refused {s : State} {tag : Byte} {body : List Byte} {kind : Byte} {m : Nat} {l : LineNo}
    {r : Record} (h : s.takes .office tag body)
    (hh : s.hits .office m l r) (hrest : s.holdAtRest) (code : RefusalCode) (hq : Request.isQuarter kind = false):
    let t := settle (refuseRecord code (pinLine .office l m (s.serving .office kind tag)))
    replied .office tag (.refused code kind 0 0) s t ∧ lineBecomes l (s.line l) s t ∧ keepsAllBut [.lines,
        .replies .office] s t := by
  have hout : (releasePin .office (pinLine .office l m (s.serving .office kind tag))).officePort.outstanding = some ⟨tag, kind⟩ := by
    have H := officeHit (kind := kind) (tag := tag) hh
    simp only [] at H
    revert H
    generalize pinLine .office l m (s.serving .office kind tag) = Y
    intro H
    obtain ⟨-, -, hfl, hfp, hY, hl, ho, hrec⟩ := H
    obtain ⟨r1, r2, r3⟩ := releaseOfficePin_spec Y
    exact after_outstanding (s := s) (keepsAllBut_trans (lines_keeps hY) (lines_keeps r3)) (by simp)
  intro t
  have ht : t = settle (officeReply (.refused code kind 0 0) (releasePin .office (pinLine .office l m (s.serving .office kind tag)))) := by
    simp only [t, refuseRecord]
    rw [officeRefuse_eq hout, officeReply_eq hout]
  rw [ht]
  exact officeHit_answered (kind := kind) h hh hrest (.refused code kind 0 0)

end Sys2Proof.Machine
end

