-- ==== Sys2Proof/Laws/Supplies.lean ====
section
/-! SUPPORT. The Supply Monitor: the entry to HOLD, the drain, start-up. -/

namespace Sys2Proof.Machine

/-- What a closed port is left with (R180). -/
theorem closed_port (q : LinkPort) : q.closed.outstanding = none ∧ q.closed.sending = q.sending ∧ q.closed.order = [] ∧ q.closed.standing = (q.link, q.rate, .hunt, false) :=
  ⟨rfl, rfl, rfl, rfl⟩

/-- The waiters that raise the unlogged count (R125). -/
theorem countsUnlogged_eq (w : Waiter) : w.countsUnlogged = (w.hasEntry && match w.job with
        | .dayClose _ => true
        | .tariffShift _ _ => true
        | .powerUp _ => true
        | _ => false) := by
  obtain ⟨j, b⟩ := w
  cases j <;> simp [Waiter.countsUnlogged]

/-- The slots and ports after the entry to HOLD (R180, R181). -/
theorem abandonWork_spec (s : State) :
    let t := abandonWork s
    (∀ k, t.slot k = (s.slot k).dropped) ∧ (∀ p, t.port p = (s.port p).closed) := by
  refine ⟨?_, ?_⟩
  · intro k; rcases four_tills k with rfl | rfl | rfl | rfl <;> rfl
  · intro p; cases p with
    | office => rfl
    | till k => rcases four_tills k with rfl | rfl | rfl | rfl <;> rfl

/-- The drain's begin changes the supply and the store's service alone (R182, R183). -/
theorem startDrain_spec (s : State) : startDrain s = { s with supply := (startDrain s).supply, store := { s.store with service := (startDrain s).store.service } } ∧ (startDrain s).supply.state = s.supply.state ∧
    (s.buffer = [] → (startDrain s).supply = { s.supply with drain := .cellWrite, holdRecord := s.supply.holdRecord.map fun h => { h with outageNumber := some (raiseNumber s.keptOutage) } }) ∧
    (s.buffer ≠ [] → (startDrain s).supply = { s.supply with drain := if s.store.faulted then .lastTry else .draining } ∧ (startDrain s).store.service = .writing) := by
  by_cases hb : s.buffer = []
  · have e : startDrain s = setDrain .cellWrite { setService .idle s with supply := { s.supply with holdRecord := s.supply.holdRecord.map fun h => { h with outageNumber := some (raiseNumber s.keptOutage) } } } := by
      unfold startDrain drainNext endDrain; rw [hb]; simp [State.keptOutage, setService]
    rw [e]
    exact ⟨rfl, rfl, fun _ => rfl, fun h => absurd hb h⟩
  · have hbe : s.buffer.isEmpty = false := by simpa using hb
    cases hf : s.store.faulted with
    | true =>
      have e : startDrain s = setDrain .lastTry (setService .writing s) := by unfold startDrain; rw [hf, hbe]; rfl
      rw [e]
      exact ⟨rfl, rfl, fun h => absurd h hb, fun _ => ⟨rfl, rfl⟩⟩
    | false =>
      have e : startDrain s = setDrain .draining (setService .writing s) := by unfold startDrain drainNext; rw [hf, hbe]; rfl
      rw [e]
      exact ⟨rfl, rfl, fun h => absurd h hb, fun _ => ⟨rfl, rfl⟩⟩

/-- The parts that the entry to HOLD keeps. -/
theorem parts_kept_by_hold (p : Part) (hp : p ∉ ([.supply, .site, .waiters, .officeRequest, .assembly, .hold, .grants,
    .slot 0, .slot 1, .slot 2,
         .slot 3, .outstanding .office, .replies .office, .link .office] ++
         [(0 : Till), 1, 2, 3].flatMap fun k => [Part.outstanding (.till k), .replies (.till k), .link (.till k)])) :
      p = .clock ∨ p = .areas ∨ p = .directory ∨ p = .lines ∨ p = .buffer ∨ p = .journal ∨ p = .reserved ∨ p = .quoteIds ∨ p = .conditions := by
  cases p with
  | slot k => rcases four_tills k with rfl | rfl | rfl | rfl <;> simp at hp
  | link p => cases p with
    | office => simp at hp
    | till k => rcases four_tills k with rfl | rfl | rfl | rfl <;> simp at hp
  | outstanding p => cases p with
    | office => simp at hp
    | till k => rcases four_tills k with rfl | rfl | rfl | rfl <;> simp at hp
  | replies p => cases p with
    | office => simp at hp
    | till k => rcases four_tills k with rfl | rfl | rfl | rfl <;> simp at hp
  | _ => simp at hp ⊢

/-- All that the entry to HOLD does (R180 to R183). -/
theorem enterHold_spec (cause : OutageCause) (s : State) (supply : Supply) :
    let s1 : State := { s with supply := supply }
    let t := enterHold cause s1
       let raised := (s.waiters.filter fun w => w.hasEntry && match w.job with
        | .dayClose _ => true
        | .tariffShift _ _ => true
        | .powerUp _ => true
        | _ => false).length
       let h : HoldRecord := ⟨none, cause, s.now, 0, none, none, raised⟩
       let kept := (s.store.image.image.map (·.outageNumber)).getD 0
       t.supply.state = .hold ∧
       (s.store.service ≠ .idle → t.supply = { supply with state := .hold, holdRecord := some h, drain := .settling } ∧
         t.store.service = s.store.service) ∧
       (s.store.service = .idle → s.buffer = [] →
         t.supply = { supply with
           state := .hold, drain := .cellWrite
           holdRecord := some { h with outageNumber := some (if kept = 4294967295 then 1 else kept + 1) } }) ∧
       (s.store.service = .idle → s.buffer ≠ [] →
         t.supply = { supply with
           state := .hold, drain := if s.store.faulted then .lastTry else .draining, holdRecord := some h } ∧
         t.store.service = .writing) ∧
       t.site = { s.site with unlogged := min 4294967295 (s.site.unlogged + raised) } ∧
       t.waiters = [] ∧ t.officeRequest = none ∧ t.assembly = none ∧ t.arbiter.hold = .none ∧ t.arbiter.lapse = none ∧
       t.store.queue = [] ∧ t.store.retryWaiting = false ∧ (∀ k, t.arbiter.pending.get k = false) ∧
       t.arbiter.pointer = s.arbiter.pointer ∧ (∀ k, t.slot k = (s.slot k).dropped) ∧
       (∀ p, (t.port p).outstanding = none ∧ t.replies p = (s.port p).sending ∧
         (t.port p).standing = ((s.port p).link, (s.port p).rate, .hunt, false)) ∧
       keepsAllBut ([.supply, .site, .waiters, .officeRequest, .assembly, .hold, .grants, .slot 0, .slot 1, .slot 2,
         .slot 3, .outstanding .office, .replies .office, .link .office] ++
         [0, 1, 2, 3].flatMap fun k => [.outstanding (.till k), .replies (.till k), .link (.till k)]) s t := by
  intro s1 t raised h kept
  have hraise : (s1.waiters.filter Waiter.countsUnlogged).length = raised := by
    show (s.waiters.filter _).length = _
    simp only [raised]; congr 2; funext w; exact countsUnlogged_eq w
  generalize hX : ({ raiseUnlogged raised (abandonWork s1) with supply := { supply with state := .hold, holdRecord := some h, drain := .settling } } : State) = X
  have ht : t = if s.store.service == .idle then startDrain X else X := by
    simp only [t, enterHold, hraise, ← hX]; rfl
  obtain ⟨w1, w2⟩ := abandonWork_spec s1
  have Xs : ∀ k, X.slot k = (s.slot k).dropped := fun k => by rw [← hX]; exact w1 k
  have Xp : ∀ p, X.port p = (s.port p).closed := fun p => by
    have : X.port p = (abandonWork s1).port p := by rw [← hX]; cases p <;> rfl
    rw [this, w2]; cases p <;> rfl
  obtain ⟨d1, d2, d3, d4⟩ := startDrain_spec X
  have Xsup : X.supply = { supply with state := .hold, holdRecord := some h, drain := .settling } := by rw [← hX]
  have Xst : X.store = { s.store with queue := [], retryWaiting := false } := by rw [← hX]; rfl
  have Xb : X.buffer = s.buffer := by rw [← hX]; rfl
  have tX : t = { X with supply := t.supply, store := { X.store with service := t.store.service } } := by
    rw [ht]; split
    · exact d1
    · rfl
  have tst : t.store = { X.store with service := t.store.service } := congrArg State.store tX
  refine ⟨?_, ?_, ?_, ?_, ?_, ?_, ?_, ?_, ?_, ?_, ?_, ?_, ?_, ?_, ?_, ?_, ?_⟩
  · rw [ht]; split
    · rw [d2, Xsup]
    · rw [Xsup]
  · intro hs
    have : (s.store.service == .idle) = false := by simpa using hs
    rw [ht, this]; simp only [Bool.false_eq_true, if_false]
    exact ⟨Xsup, by rw [Xst]⟩
  · intro hs hb
    rw [ht, hs]; simp only [beq_self_eq_true, if_true]
    rw [d3 (by rw [Xb]; exact hb), Xsup]
    have : X.keptOutage = kept := by simp only [State.keptOutage, Xst]; rfl
    simp only [Option.map_some, this]; rfl
  · intro hs hb
    rw [ht, hs]; simp only [beq_self_eq_true, if_true]
    obtain ⟨a, b⟩ := d4 (by rw [Xb]; exact hb)
    refine ⟨?_, b⟩
    rw [a, Xsup, Xst]
  · rw [congrArg State.site tX]; rw [← hX]; rfl
  · rw [congrArg State.waiters tX]; rw [← hX]; rfl
  · rw [congrArg State.officeRequest tX]; rw [← hX]; rfl
  · rw [congrArg State.assembly tX]; rw [← hX]; rfl
  · rw [congrArg State.arbiter tX]; rw [← hX]; rfl
  · rw [congrArg State.arbiter tX]; rw [← hX]; rfl
  · rw [tst, Xst]
  · rw [tst, Xst]
  · intro k; rw [congrArg State.arbiter tX]; rw [← hX]
    show (Vector.replicate 4 false).get k = false
    simp [Vector.get_eq_getElem]
  · rw [congrArg State.arbiter tX]; rw [← hX]; rfl
  · intro k
    have : t.slot k = X.slot k := by rw [tX]; rfl
    rw [this, Xs]
  · intro p
    have : t.port p = (s.port p).closed := by
      rw [← Xp, tX]; cases p <;> rfl
    obtain ⟨a, b, c, d⟩ := closed_port (s.port p)
    refine ⟨by rw [this, a], ?_, by rw [this, d]⟩
    simp only [State.replies, this, b, c, List.filterMap_nil, List.append_nil]
  · intro p hp
    rcases parts_kept_by_hold p hp with rfl | rfl | rfl | rfl | rfl | rfl | rfl | rfl | rfl
    · exact ⟨by rw [congrArg State.calendar tX, ← hX]; rfl, by rw [congrArg State.cell tX, ← hX]; rfl⟩
    · show t.store.areas = s.store.areas; rw [tst, Xst]; rfl
    · show t.directory = _; rw [congrArg State.directory tX, ← hX]; rfl
    · show t.working = _; rw [congrArg State.working tX, ← hX]; rfl
    · show t.buffer = _; rw [congrArg State.buffer tX, ← hX]; rfl
    · show t.journal = _; rw [congrArg State.journal tX, ← hX]; rfl
    · show t.reserved = _; rw [congrArg State.reserved tX, ← hX]; rfl
    · show t.nextQuoteId = _; rw [congrArg State.nextQuoteId tX, ← hX]; rfl
    · show t.conditions = _; rw [congrArg State.conditions tX, ← hX]; rfl

theorem settle_not_run {x : State} (h : x.supply.state ≠ .run) :
    settle x = x := notRunning_settle (by simpa [State.running] using h)

/-- All that abandoning start-up does (R190). -/
theorem abandonStart_spec (s : State) (v w : Supply) : let t :
    State := { abandonStart { s with supply := v } with supply := w }
    t.supply = w ∧ t.buffer = [] ∧ t.waiters = [] ∧ keepsAllBut [.supply, .buffer, .waiters, .link .office,
        .outstanding .office, .replies .office] s t := by
  refine ⟨rfl, rfl, rfl, ?_⟩
  intro p hp
  cases p with
  | link p => cases p with
    | office => simp at hp
    | till k => rfl
  | outstanding p => cases p with
    | office => simp at hp
    | till k => rfl
  | replies p => cases p with
    | office => simp at hp
    | till k => rfl
  | _ => first
    | (simp at hp; done)
    | rfl
    | exact ⟨rfl, rfl⟩

theorem raiseNumber_eq (n : Nat) : raiseNumber n = if n = 4294967295 then 1 else n + 1 := rfl

/-- The links as start-up sets them (R190, R202). -/
theorem startLinks_link (s : State) : ((startLinks s).port .office).link = .active ∧
    ∀ k, ((startLinks s).port (.till k)).link = if (s.site.links.get k).enabled then .active else .off := by
  refine ⟨rfl, fun k => ?_⟩
  rcases four_tills k with rfl | rfl | rfl | rfl <;> rfl

end Sys2Proof.Machine
end

