-- ==== Sys2Proof/Laws/Walks.lean ====
section
/-! SUPPORT. The block walk: what it keeps. -/

namespace Sys2Proof.Machine

/-- A block list that ends in a block without bound. -/
def endsUnbounded : List Block → Prop
  | [] => False
  | [b] => b.room = none
  | _ :: b :: bs => endsUnbounded (b :: bs)

/-- What a walk of blocks keeps (R49). -/
theorem walkBlocks_keeps (cap : Nat) : ∀ (bs : List Block) (w : Walk), w.purchased ≤ cap →
    (∀ b ∈ bs, 1 ≤ b.price ∧ b.price ≤ 999999) →
    let r := walkBlocks cap bs w
    r.purchased ≤ cap ∧ r.money + lineMoney r.lines = w.money + lineMoney w.lines ∧
      lineTakes r.lines + w.purchased = r.purchased + lineTakes w.lines ∧ r.money ≤ w.money ∧
      r.lines.length ≤ w.lines.length + bs.length ∧
      (∀ l ∈ r.lines, l ∈ w.lines ∨ ∃ b ∈ bs, l.block = b.number ∧ 0 < l.take ∧ l.money = l.take * b.price) ∧
      (endsUnbounded bs → r.byCap = false → r.money ≤ 999998)
  | [], w, h, _ => by
    refine ⟨h, rfl, Nat.add_comm _ _, le_refl _, by simp [walkBlocks], fun l hl => Or.inl hl, fun x => absurd x id⟩
  | b :: rest, w, h, hp => by
    have hb := hp b (by simp)
    have ht : blockTake cap b w ≤ cap - w.purchased := by
      unfold blockTake; dsimp only; cases b.room <;> simp
    have ha : blockTake cap b w * b.price ≤ w.money := by
      have : blockTake cap b w ≤ w.money / b.price := by
        unfold blockTake; dsimp only; cases b.room <;> simp
      exact le_trans (Nat.mul_le_mul_right _ this) (Nat.div_mul_le_self _ _)
    have hw : (walkBlock cap b w).purchased ≤ cap ∧ (walkBlock cap b w).money + lineMoney (walkBlock cap b w).lines = w.money + lineMoney w.lines ∧
        lineTakes (walkBlock cap b w).lines + w.purchased = (walkBlock cap b w).purchased + lineTakes w.lines ∧ (walkBlock cap b w).money ≤ w.money ∧
        (walkBlock cap b w).lines.length ≤ w.lines.length + 1 ∧
        (∀ l ∈ (walkBlock cap b w).lines, l ∈ w.lines ∨ (l.block = b.number ∧ 0 < l.take ∧ l.money = l.take * b.price)) := by
      unfold walkBlock
      generalize blockTake cap b w = k at *
      dsimp only
      refine ⟨by omega, ?_, ?_, by omega, ?_, ?_⟩
      · split
        · rename_i h0; subst h0; simp
        · simp only [lineMoney, List.map_append, List.sum_append, List.map_cons, List.map_nil, List.sum_cons,
            List.sum_nil]; omega
      · split
        · rename_i h0; subst h0; simp; omega
        · simp only [lineTakes, List.map_append, List.sum_append, List.map_cons, List.map_nil, List.sum_cons,
            List.sum_nil]; omega
      · split <;> simp
      · intro l hl
        split at hl
        · exact Or.inl hl
        · rename_i h0
          simp only [List.mem_append, List.mem_singleton] at hl
          rcases hl with hl | rfl
          · exact Or.inl hl
          · exact Or.inr ⟨rfl, Nat.pos_of_ne_zero h0, rfl⟩
    obtain ⟨a1, a2, a3, a4, a5, a6⟩ := hw
    simp only [walkBlocks]
    by_cases hc : (walkBlock cap b w).byCap = true
    · simp only [hc, if_true]
      refine ⟨a1, a2, a3, a4, by simp; omega, ?_, fun _ h => by cases h⟩
      intro l hl
      rcases a6 l hl with h | h
      · exact Or.inl h
      · exact Or.inr ⟨b, by simp, h⟩
    · simp only [hc, Bool.false_eq_true, if_false]
      split
      · rename_i hr
        obtain ⟨i1, i2, i3, i4, i5, i6, i7⟩ := walkBlocks_keeps cap rest (walkBlock cap b w) a1 (fun x hx => hp x (by simp [hx]))
        refine ⟨i1, by omega, by omega, by omega, by simp at i5 ⊢; omega, ?_, ?_⟩
        · intro l hl
          rcases i6 l hl with h | ⟨c, hc1, hc2⟩
          · rcases a6 l h with h | h
            · exact Or.inl h
            · exact Or.inr ⟨b, by simp, h⟩
          · exact Or.inr ⟨c, by simp [hc1], hc2⟩
        · intro hg
          cases rest with
          | nil => simp [endsUnbounded] at hg; rw [hg] at hr; cases hr
          | cons c cs => exact i7 hg
      · rename_i hr
        refine ⟨a1, a2, a3, a4, by simp; omega, ?_, ?_⟩
        · intro l hl
          rcases a6 l hl with h | h
          · exact Or.inl h
          · exact Or.inr ⟨b, by simp, h⟩
        · intro _ _
          -- ended by affordability
          have hne : w.purchased + blockTake cap b w ≠ cap := by
            intro e; apply hc; simp [walkBlock, e]
          have hk : blockTake cap b w = w.money / b.price := by
            unfold blockTake at hne hr ⊢
            dsimp only at hne hr ⊢
            cases hroom : b.room with
            | none => simp only [hroom] at hne ⊢; omega
            | some r =>
              simp only [hroom, Option.some.injEq] at hne hr ⊢
              omega
          simp only [walkBlock, hk]
          have := Nat.mod_lt w.money (show b.price > 0 by omega)
          have e := Nat.div_add_mod w.money b.price
          have e2 : w.money / b.price * b.price = b.price * (w.money / b.price) := Nat.mul_comm _ _
          omega

/-- The later blocks of a tariff (R46). -/
theorem laterBlocks_spec : ∀ (us ps : List Nat) (i below : Nat), ps.length = us.length + 1 → i ≥ 1 →
    endsUnbounded (laterBlocks i below us ps) ∧ (laterBlocks i below us ps).length = ps.length ∧
      ∀ b ∈ laterBlocks i below us ps, ∃ j, b.number = i + j ∧ j < ps.length ∧ b.price = ps.getD j 0
  | [], [p], i, below, _, _ => by
    refine ⟨rfl, rfl, ?_⟩
    intro b hb; simp [laterBlocks] at hb; subst hb
    exact ⟨0, rfl, by simp, rfl⟩
  | u :: us, p :: ps, i, below, h, hi => by
    obtain ⟨a, b, c⟩ := laterBlocks_spec us ps (i+1) u (by simpa using h) (by omega)
    have hne : laterBlocks (i+1) u us ps ≠ [] := by
      intro e; rw [e] at a; exact a
    refine ⟨?_, ?_, ?_⟩
    · simp only [laterBlocks]
      obtain ⟨x, xs, hx⟩ := List.exists_cons_of_ne_nil hne
      rw [hx] at a ⊢; exact a
    · simp [laterBlocks, b]
    · intro y hy
      simp only [laterBlocks, List.mem_cons] at hy
      rcases hy with rfl | hy
      · exact ⟨0, rfl, by simp, rfl⟩
      · obtain ⟨j, j1, j2, j3⟩ := c y hy
        exact ⟨j+1, by omega, by simp; omega, by simpa using j3⟩
  | [], [], _, _, h, _ => by simp at h
  | [], _ :: _ :: _, _, _, h, _ => by simp at h
  | _ :: _, [], _, _, h, _ => by simp at h

/-- The blocks of a tariff from where the month stands (R46). -/
theorem blocksFrom_spec (m : Nat) : ∀ (us ps : List Nat) (i : Nat), ps.length = us.length + 1 → i ≥ 1 →
    endsUnbounded (blocksFrom m i us ps) ∧ (blocksFrom m i us ps).length ≤ ps.length ∧
      ∀ b ∈ blocksFrom m i us ps, ∃ j, b.number = i + j ∧ j < ps.length ∧ b.price = ps.getD j 0
  | [], [p], i, _, _ => by
    refine ⟨rfl, by simp [blocksFrom], ?_⟩
    intro b hb; simp [blocksFrom] at hb; subst hb
    exact ⟨0, rfl, by simp, rfl⟩
  | u :: us, p :: ps, i, h, hi => by
    simp only [blocksFrom]
    split
    · obtain ⟨a, b, c⟩ := laterBlocks_spec us ps (i+1) u (by simpa using h) (by omega)
      have hne : laterBlocks (i+1) u us ps ≠ [] := by
        intro e; rw [e] at a; exact a
      refine ⟨?_, ?_, ?_⟩
      · obtain ⟨x, xs, hx⟩ := List.exists_cons_of_ne_nil hne
        rw [hx] at a ⊢; exact a
      · simp [b]
      · intro y hy
        simp only [List.mem_cons] at hy
        rcases hy with rfl | hy
        · exact ⟨0, rfl, by simp, rfl⟩
        · obtain ⟨j, j1, j2, j3⟩ := c y hy
          exact ⟨j+1, by omega, by simp; omega, by simpa using j3⟩
    · obtain ⟨a, b, c⟩ := blocksFrom_spec m us ps (i+1) (by simpa using h) (by omega)
      refine ⟨a, by simp; omega, ?_⟩
      intro y hy
      obtain ⟨j, j1, j2, j3⟩ := c y hy
      exact ⟨j+1, by omega, by simp; omega, by simpa using j3⟩
  | [], [], _, h, _ => by simp at h
  | [], _ :: _ :: _, _, h, _ => by simp at h
  | _ :: _, [], _, h, _ => by simp at h

end Sys2Proof.Machine
end

