-- ==== Sys2Proof/Tests/Slice0.lean ====
section
/-! SUPPORT. Tests: the smoke test of each check of WellFormed, the spec's worked cases, one step of each command on a
small part, and for every statement with hypotheses a state and operands that meet them. -/

namespace Sys2Proof.Machine.Tests

open Sys2Proof Sys2Proof.Machine

/-! ### WellFormed: an ill-formed command for each check -/

theorem test_wellFormed_refuses_tag_zero : (Instr.quote 0 0 []).wellFormed = false := by decide

theorem test_wellFormed_refuses_long_body : (Instr.clockRead 1 (List.replicate 201 0)).wellFormed = false := by decide +kernel

theorem test_wellFormed_takes_longest_body : (Instr.clockRead 1 (List.replicate 200 0)).wellFormed = true := by decide +kernel

theorem test_wellFormed_refuses_known_kind :
    (Instr.unknownKind (.till 0) kindQuote 1 []).wellFormed = false ∧
      (Instr.unknownKind .office kindQuote 1 []).wellFormed = true := by decide

theorem test_wellFormed_refuses_good_frame_as_discarded :
    (Instr.frameDiscarded .office ((wireBytes ⟨kindStatusRead, 1, []⟩).map fun b => ⟨b, true⟩)).wellFormed = false := by
  decide

theorem test_wellFormed_takes_bad_check_as_discarded :
    (Instr.frameDiscarded .office ([0xA5, 0, 0x64, 1, 0, 0].map fun b => ⟨b, true⟩)).wellFormed = true := by decide

theorem test_wellFormed_refuses_early_limit :
    (Instr.frameTimeLimit .office [⟨0xA5, true⟩] 89).wellFormed = false ∧
      (Instr.frameTimeLimit .office [⟨0xA5, true⟩] 90).wellFormed = true := by decide

/-! ### Worked cases of the spec -/

/-- Table 11-12: the frame of a QUOTE, from 11.10. -/
theorem test_frame_of_Table_11_12 :
    wireBytes ⟨kindQuote, 0x17, quoteBody 4010022317 20000⟩ =
      [0xA5, 0x08, 0x11, 0x17, 0x00, 0xEF, 0x04, 0x15, 0xAD, 0x00, 0x4E, 0x20, 0xFD, 0xAC] := by decide

/-- The meter of 5.4. -/
def meterA : Nat := 14100877012

/-- 5.4: the token of the worked case. -/
theorem test_token_of_5_4 :
    tokenDigits (List.replicate 32 3) .credit 42 972 11395 meterA =
      [7, 8, 0, 2, 8, 0, 1, 8, 6, 4, 3, 2, 3, 9, 9, 0, 9, 2] := by decide

/-- The entries of Table 3-6. -/
def entry2 : Tariff := ⟨2500, 500, [500, 3500], [14250, 18900, 26000]⟩

def entry9 : Tariff := ⟨1000, 1000, [], [800]⟩

/-- The record of case 1 of 3.10, as 5.4 goes on with it: the last token sequence is 41. -/
def recordA : Record where
  meter := meterA
  account := .active
  tariffIndex := 2
  lifelineEligible := true
  recoveryRate := 10
  arrears := 30000
  monthTag := 374
  monthUnits := 420
  servicePaid := true
  lifelineGiven := true
  residue := 3700
  lastToken := 41
  recent := [⟨[1, 1, 1, 1, 1, 1, 1, 1, 1, 1, 1, 1, 1, 1, 1, 1, 1, 1], 41, .credit, 10, 11390, 9, 5000⟩]
  lastSeq := 5000
  enrolDay := 10000

/-- Case 1 of 3.10. -/
theorem test_case_1 : priceQuote recordA entry2 7 374 20000 = .ok
    { tariffIndex := 2, generation := 7, service := 0, recovery := 2000, energyMoney := 18000
      lines := [⟨1, 80, 1140000⟩, ⟨2, 892, 16858800⟩], purchased := 972, lifeline := 0, total := 972, change := 0
      consumed := 20000, cls := .credit, newMonthTag := 374, newMonthUnits := 1392, newServicePaid := true
      newLifelineGiven := true, newArrears := 28000, newResidue := 4900 } := by decide

/-- The record of case 2. -/
def record2 : Record :=
  { recordA with monthTag := 378, monthUnits := 2840, arrears := 1200, recoveryRate := 25, residue := 11000 }

/-- Case 2 of 3.10: a month that rolls, service and lifeline. -/
theorem test_case_2 : priceQuote record2 entry2 7 379 10000 = .ok
    { tariffIndex := 2, generation := 7, service := 2500, recovery := 1200, energyMoney := 6300
      lines := [⟨1, 442, 6298500⟩], purchased := 442, lifeline := 500, total := 942, change := 0, consumed := 10000
      cls := .creditLifeline, newMonthTag := 379, newMonthUnits := 442, newServicePaid := true
      newLifelineGiven := true, newArrears := 0, newResidue := 12500 } := by decide +kernel

theorem test_case_2_below_charges : priceQuote record2 entry2 7 379 2000 = .error (.belowCharges 2500) := by decide

/-- The record of case 3. -/
def record3 : Record :=
  { recordA with monthTag := 379, monthUnits := 1250, lifelineGiven := false, arrears := 5000, recoveryRate := 20
                 residue := 7300 }

/-- Case 3 of 3.10: a lifeline-only quote. -/
theorem test_case_3 : priceQuote record3 entry2 7 379 0 = .ok
    { tariffIndex := 2, generation := 7, service := 0, recovery := 0, energyMoney := 0, lines := [], purchased := 0
      lifeline := 500, total := 500, change := 0, consumed := 0, cls := .lifeline, newMonthTag := 379
      newMonthUnits := 1250, newServicePaid := true, newLifelineGiven := true, newArrears := 5000
      newResidue := 7300 } := by decide

/-- Case 3 of 3.10: the second tender of 0, and the tender of 5, which is a receipt. -/
theorem test_case_3_after :
    priceQuote { record3 with lifelineGiven := true } entry2 7 379 0 = .error .nothingToIssue ∧
    priceQuote { record3 with lifelineGiven := true } entry2 7 379 5 = .ok
      { tariffIndex := 2, generation := 7, service := 0, recovery := 1, energyMoney := 4, lines := [], purchased := 0
        lifeline := 0, total := 0, change := 0, consumed := 5, cls := .receipt, newMonthTag := 379
        newMonthUnits := 1250, newServicePaid := true, newLifelineGiven := true, newArrears := 4999
        newResidue := 11300 } := by decide

/-- The record of case 4. -/
def record4 : Record :=
  { recordA with tariffIndex := 9, monthUnits := 30000, lifelineGiven := false, arrears := 0, recoveryRate := 0
                 residue := 650 }

/-- Case 4 of 3.10: the token capacity. -/
theorem test_case_4 : priceQuote record4 entry9 7 374 900000 = .ok
    { tariffIndex := 9, generation := 7, service := 0, recovery := 0, energyMoney := 900000
      lines := [⟨1, 998999, 799199200⟩], purchased := 998999, lifeline := 1000, total := 999999, change := 100801
      consumed := 799199, cls := .creditLifeline, newMonthTag := 374, newMonthUnits := 1028999
      newServicePaid := true, newLifelineGiven := true, newArrears := 0, newResidue := 450 } := by decide +kernel

/-- 00, Table 1 and 5.4: day 11,395 is 14 March 2031, in the month of tag 374. -/
theorem test_day_11395 : dateOfDay 11395 = (31, 3, 14) ∧ dayOfDate 31 3 14 = 11395 ∧ monthTagOf 11395 = 374 := by decide

/-! ### Small parts -/

/-- Noon of 14 March 2031. -/
def noon : DateTime := ⟨11395, 43200⟩

/-- A COMMISSIONED part's site state. -/
def site : SiteState := { SiteState.blank with
  budget := 1000000
  siteCode := some (List.replicate 32 3)
  businessDay := 11395
  active := (SiteState.blank.active.set 2 (some entry2)).set 9 (some entry9)
  generation := 7 }

/-- A COMMISSIONED part in RUN with one meter, in record slot 0, and all links ACTIVE. -/
def part : State := { State.reset with
  supply := ⟨.run, true, false, none, .none, false, .supply⟩
  site := site
  calendar := ⟨some noon, true⟩
  cell := ⟨true, some noon⟩
  directory := [⟨meterA, 0, false⟩]
  store := { RecordStore.blank with slots := [(0, ⟨recordA, some recordA⟩)] }
  journal := ⟨6047, 0⟩
  tillPorts := Vector.replicate 4 (LinkPort.quiet .active .r19200) }

/-- A BLANK part in RUN. -/
def blankPart : State := { part with site := { SiteState.blank with businessDay := 11395 }, directory := []
                                     store := RecordStore.blank, journal := ⟨1, 0⟩ }

/-- The part with its meter's record in line 0. -/
def inLine (r : Record) (pin : Option Owner) (s : State) : State := s.setLine 0 ⟨.valid, some meterA, pin, 0, some r⟩

/-- The part's slot 1, pending a grant. -/
def withSlot (v : VendSlot) (s : State) : State :=
  { s.setSlot 1 v with arbiter := { s.arbiter with pending := s.arbiter.pending.set 1 true } }

/-- A quote of a tender of 20,000 for the meter, taken under tag 5. -/
def taken : QuoteRecord := QuoteRecord.taken 2118 meterA 20000 5

/-- Case 1's figures. -/
def priced1 : Priced :=
  { tariffIndex := 2, generation := 7, service := 0, recovery := 2000, energyMoney := 18000
    lines := [⟨1, 80, 1140000⟩, ⟨2, 892, 16858800⟩], purchased := 972, lifeline := 0, total := 972, change := 0
    consumed := 20000, cls := .credit, newMonthTag := 374, newMonthUnits := 1392, newServicePaid := true
    newLifelineGiven := true, newArrears := 28000, newResidue := 4900 }

/-- The quote after its computing grant. -/
def openQuote : QuoteRecord := { taken with
  priced := some priced1, reservedBudget := some 20000, journalReservation := true, openedAt := some noon
  expiresAt := some (addSeconds noon 90), replyTag := none }

/-- The part with the quote OPEN in slot 1. -/
def openPart : State := { (inLine recordA (some (.slot 1)) part).setSlot 1
    ⟨.opened, some openQuote, none, some 90, none, none, some meterA⟩ with
  journal := ⟨6047, 1⟩, reserved := 20000 }

/-- A port with an outstanding request. -/
def waitingOn (p : PortId) (kind : Byte) (s : State) : State :=
  s.setPort p { s.port p with outstanding := some ⟨5, kind⟩ }

/-- The state a command leaves. -/
def after (c : Instr) (s : State) : State :=
  match exec c s with
  | .next t => t
  | .fault _ => s
  | .refused _ => s

/-! ### The machine and its laws: the hypotheses are met -/

/-- The part with one command waiting. -/
def queued : State := { part with pending := [.quote 1 5 (quoteBody meterA 20000)] }

theorem witness_StepRunsFront :
    queued.pending = .quote 1 5 (quoteBody meterA 20000) :: [] ∧ State.reset.pending = [] := ⟨rfl, rfl⟩

theorem witness_StepEndsSettled : ∃ t, exec .engineGrant part = .next t ∧ t.running = true :=
  ⟨_, rfl, by decide⟩

theorem witness_step_answers : ∃ t, step queued = .next t := ⟨_, rfl⟩

theorem witness_StepKeepsBufferLaw : BufferLaw queued := by unfold BufferLaw; decide

theorem witness_StepKeepsRecencyLaw : RecencyLaw queued := by unfold RecencyLaw; decide

theorem witness_StepKeepsDirectoryLaw : DirectoryLaw queued := by unfold DirectoryLaw; decide

/-- A METER_ENROL unit waits with slot 1, and a unit for slot 0 is in the buffer. -/
theorem witness_StepKeepsDirectoryLaw_slots :
    SlotLaw { queued with
      waiters := [⟨.enrol 1 recordA, true⟩], buffer := [⟨.edit, some (.image 0 recordA), none, none, site⟩] } := by
  unfold SlotLaw; decide

theorem witness_StepKeepsCalendarLaw : CalendarLaw queued := by
  show queued.calendar.valid = true ∧ inRange noon = true ∧ queued.site.businessDay ≤ noon.day
  decide

theorem witness_StepKeepsPendingSetLaw : PendingSetLaw queued := by
  refine ⟨?_, ?_, ?_, ?_⟩ <;> intro _ h <;> cases h

theorem witness_StepKeepsBudgetLaw : BudgetLaw { openPart with pending := [.quoteHoldExpiry 1] } := by
  intro _
  refine ⟨by decide, by decide, ?_⟩
  intro k
  match k with
  | 0 => trivial
  | 1 => exact ⟨⟨rfl, by decide⟩, by decide, by decide⟩
  | 2 => trivial
  | 3 => trivial

/-! ### Frames, bodies, tokens, arithmetic: the hypotheses are met -/

theorem witness_ReceiverReadsFrame : (0xFF : Byte) ≠ 0 ∧ (List.replicate 200 (0xFF : Byte)).length ≤ maxBody := by
  decide +kernel

/-- R193: the lead byte A5H on its line, after the start bit: 1, 0, 1, 0, 0, 1, 0, 1, then the stop bit. -/
theorem test_levels_of_lead_byte : charLevels 0xA5 =
    [.spacing, .marking, .spacing, .marking, .spacing, .spacing, .marking, .spacing, .marking, .marking] := by decide

/-- An edit with every field given, and one with a single field. -/
def editAll : EditRequest := ⟨99999999999, some 15, some 254, some maxArrears, some true⟩

def editOne : EditRequest := ⟨1, none, none, some 0, none⟩

/-- A record as METER_RESTORE carries it, every field at its largest. -/
def restored : Record :=
  ⟨99999999999, .retired, 15, true, 255, maxArrears, maxMonthTag, maxMonthUnits, true, true, maxResidue, 999, [], 0, lastDay⟩

theorem witness_RequestBodiesReadBack_till :
    meterInRange 1 = true ∧ meterInRange 99999999999 = true ∧ 999999 ≤ maxTender ∧ 1 ≤ 1 ∧ 65535 ≤ 65535 ∧ 2 ≤ 2 := by
  decide

theorem witness_RequestBodiesReadBack_records :
    (15 ≤ 15 ∧ 255 ≤ 255 ∧ 99999999 ≤ maxArrears) ∧
    (∀ e ∈ [editAll, editOne], meterInRange e.meter = true ∧ (∀ v ∈ e.tariffIndex, v ≤ 15) ∧
      (∀ v ∈ e.recoveryRate, v ≤ 254) ∧ (∀ v ∈ e.arrears, v ≤ maxArrears) ∧
      (e.tariffIndex.isSome || e.recoveryRate.isSome || e.arrears.isSome || e.lifelineEligible.isSome) = true) ∧
    meterInRange restored.meter = true ∧ restored.tariffIndex ≤ 15 ∧ restored.recoveryRate ≤ 255 ∧
    restored.arrears ≤ maxArrears ∧ restored.monthTag ≤ maxMonthTag ∧ restored.monthUnits ≤ maxMonthUnits ∧
    restored.residue ≤ maxResidue ∧ restored.lastToken ≤ 999 ∧ restored.enrolDay ≤ lastDay ∧ restored.recent = [] ∧
    restored.lastSeq = 0 := by decide

/-- The numbers of an office body at the ends of their ranges, and four entries that are valid where they are defined. -/
theorem witness_RequestBodiesReadBack_office :
    (30 ≤ 30 ∧ 3 ≤ 3 ∧ 4294967295 ≤ max32 ∧ 999999999 ≤ maxBudget ∧ 36524 ≤ lastDay ∧ inRange ⟨36524, 86399⟩ = true ∧
      inRange ⟨0, 0⟩ = true) ∧
    ∃ fields : List TariffEntry, fields.length = 4 ∧ (∃ tf, some tf ∈ fields) ∧
      ∀ tf, some tf ∈ fields → tf.valid := by
  refine ⟨by decide, [some entry2, some entry9, none, none], rfl, ⟨entry2, List.mem_cons_self⟩, fun tf h => ?_⟩
  have : tf = entry2 ∨ tf = entry9 := by simpa using h
  rcases this with rfl | rfl <;> decide

/-- The longest list of conditions and a site code of nines. -/
theorem witness_RequestBodiesReadBack_lists : (List.replicate 199 Condition.powerUp).length ≤ 199 ∧
    (List.replicate 32 9).length = 32 ∧ ∀ d ∈ List.replicate 32 9, d ≤ 9 := by decide +kernel

/-- The plain digits of 5.4 without their check. -/
def plain54 : Digits := [1, 0, 4, 2, 0, 0, 0, 9, 7, 2, 1, 3, 9, 5, 1, 2]

/-- Table 5-3: K is 69; the hypotheses of every clause are met at the ends of the digits. -/
theorem witness_TokenCheck : tokenCheck plain54 = 69 ∧ plain54.length = 16 ∧ (∀ d ∈ plain54, d ≤ 9) ∧
    9 ≠ plain54.getD 0 0 ∧ 9 ≠ plain54.getD 15 0 ∧ plain54.getD 0 0 ≠ plain54.getD 15 0 := by decide

theorem witness_FrameCheck : (quoteBody 4010022317 20000).length ≤ maxBody ∧ (0x17 : Byte) ≠ 0 := by decide

/-- Cases 1 and 2: arrears above the part that the rate gives, and below it. -/
theorem witness_Recovery :
    (∃ p, pricePaid recordA entry2 7 374 20000 = .ok p ∧ recordA.recoveryRate ≤ 50 ∧ 20000 ≤ maxTender ∧
      ¬recordA.arrears < (20000 - p.service) * recordA.recoveryRate / 100) ∧
    (∃ p, pricePaid record2 entry2 7 379 10000 = .ok p ∧ record2.recoveryRate ≤ 50 ∧
      record2.arrears < (10000 - p.service) * record2.recoveryRate / 100) ∧
    (∃ p, pricePaid record4 entry9 7 374 900000 = .ok p ∧ (record4.arrears = 0 ∨ record4.recoveryRate = 0)) :=
  ⟨⟨_, rfl, by decide⟩, ⟨_, rfl, by decide⟩, ⟨_, rfl, by decide⟩⟩

theorem witness_WalkConserves : entry2.valid ∧ entry9.valid ∧ record4.residue ≤ maxResidue ∧ 900000 ≤ maxTender ∧
    ∃ p, pricePaid record4 entry9 7 374 900000 = .ok p := ⟨by decide, by decide, by decide, by decide, _, rfl⟩

/-- Case 3 (a lifeline given, and none to give) and case 2 (a tender below the charges, at them and above). -/
theorem witness_PricedValues :
    (record3.lifelineEligible = true ∧ record3.lifelineGiven = false ∧ 0 < entry2.lifeline) ∧
    ({ record3 with lifelineGiven := true } : Record).lifelineGiven = true ∧
    (record2.monthTag ≠ 379 ∧ 0 < 2499 ∧ 2499 < entry2.serviceCharge) ∧ entry2.serviceCharge ≤ 2500 := by decide

/-! ### The ports: the hypotheses are met -/

theorem witness_BusyPortRefuses :
    let s := waitingOn (.till 1) kindQuote part
    Request.of (.reprint 1 6 (reprintBody meterA 2)) = some (.till 1, kindReprint, 6, reprintBody meterA 2) ∧
      s.receives (.till 1) = true ∧ (s.port (.till 1)).settingsWaiting = false ∧
      (s.port (.till 1)).outstanding = some ⟨5, kindQuote⟩ ∧ (6 : Byte) ≠ 0 ∧ (reprintBody meterA 2).length ≤ maxBody ∧
      s.holdAtRest ∧ (s.port (.till 1)).roomForImmediate = true := by decide

/-- Two immediate replies wait already. -/
theorem witness_BusyPortRefuses_third :
    let s := part.setPort (.till 1) { part.port (.till 1) with
      outstanding := some ⟨5, kindQuote⟩
      order := [.reply 6 (.cancelOk 1 .cancelled) true, .reply 7 (.cancelOk 1 .cancelled) true] }
    s.receives (.till 1) = true ∧ (s.port (.till 1)).roomForImmediate = false ∧ s.holdAtRest := by decide

theorem witness_ClosedPartTakesNothing :
    State.reset.running = false ∧ (Request.of (.clockRead 1 [])).isSome = true := by decide

theorem witness_BlankPartRefuses :
    Request.of (.totalsSnapshot 5 []) = some (.office, kindTotalsSnapshot, 5, []) ∧ blankPart.takes .office 5 [] ∧
      blankPart.commissioned = false ∧ Request.servedBlank.contains kindTotalsSnapshot = false ∧
      Request.fieldsOk kindTotalsSnapshot [] = true ∧ blankPart.holdAtRest := by decide

/-- The part with STORE_FAULT latched, within the office hold. -/
def suspendedPart : State := { part with
  conditions := { part.conditions with latches := part.conditions.latches.set 4 true }
  arbiter := { part.arbiter with hold := .held, lapse := some 120 } }

theorem witness_StoreFaultSuspends :
    Request.of (.meterPurge 5 (meterBody meterA)) = some (.office, kindMeterPurge, 5, meterBody meterA) ∧
      suspendedPart.takes .office 5 (meterBody meterA) ∧ suspendedPart.storeFaultLatched = true ∧
      Request.suspended.contains kindMeterPurge = true ∧ Request.fieldsOk kindMeterPurge (meterBody meterA) = true ∧
      Request.reachesStore kindMeterPurge suspendedPart = true ∧ suspendedPart.holdAtRest := by decide

/-- The part with STORE_FAULT latched, the calendar not set and no office hold. -/
def suspendedFree : State := { part with
  calendar := ⟨none, false⟩
  conditions := { part.conditions with latches := part.conditions.latches.set 4 true } }

/-- A METER_BLOCK asks for neither the calendar nor the hold, and a QUOTE for the calendar alone. -/
theorem witness_StoreFaultSuspends_free :
    (suspendedFree.takes .office 5 (meterBody meterA) ∧ suspendedFree.storeFaultLatched = true ∧
      Request.suspended.contains kindMeterBlock = true ∧ Request.fieldsOk kindMeterBlock (meterBody meterA) = true ∧
      Request.reachesStore kindMeterBlock suspendedFree = true ∧ suspendedFree.holdAtRest) ∧
    Request.reachesStore kindQuote { suspendedFree with calendar := part.calendar } = true ∧
    Request.reachesStore kindQuote suspendedFree = false ∧ Request.reachesStore kindMeterPurge suspendedFree = false ∧
    Request.reachesStore kindLinkSet { suspendedFree with site := { part.site with siteCode := none } } = true := by decide

theorem witness_BadBodyRefused :
    Request.of (.quote 1 5 []) = some (.till 1, kindQuote, 5, []) ∧ part.takes (.till 1) 5 [] ∧
      Request.fieldsOk kindQuote [] = false ∧ part.holdAtRest := by decide

/-! ### Till requests -/

theorem witness_QuoteTaken :
    part.takes (.till 1) 5 (quoteBody meterA 20000) ∧ parseQuote (quoteBody meterA 20000) = some (meterA, 20000) ∧
      part.editable ∧ part.calendar.valid = true ∧ (part.slot 1).state = .idle ∧ (part.slot 1).reprint = none ∧
      part.holdAtRest := by decide

theorem test_quote_asks_grant :
    let t := after (.quote 1 5 (quoteBody meterA 20000)) part
    (t.slot 1).state = .quoting ∧ t.arbiter.pending.get 1 = true ∧ t.nextQuoteId = 2 ∧ t.reserved = 0 := by decide

theorem witness_ConfirmTaken :
    openPart.takes (.till 1) 5 (confirmBody meterA 2118) ∧
      parseConfirm (confirmBody meterA 2118) = some (meterA, openQuote.id) ∧
      parseConfirm (confirmBody 1 2118) = some (1, openQuote.id) ∧ openPart.editable ∧
      openPart.calendar.valid = true ∧ (openPart.slot 1).state = .opened ∧ (openPart.slot 1).quote = some openQuote ∧
      openPart.holdAtRest ∧ openQuote.meter = meterA ∧ openQuote.meter ≠ 1 := by decide

theorem test_confirm_stops_timer :
    let t := after (.confirm 1 5 (confirmBody meterA 2118)) openPart
    (t.slot 1).state = .confirming ∧ (t.slot 1).timer = none ∧ t.arbiter.pending.get 1 = true := by decide

theorem witness_OpenQuoteCloses :
    (openPart.slot 1).state = .opened ∧ (openPart.slot 1).quote = some openQuote ∧ (openPart.slot 1).reprint = none ∧
      openPart.holdAtRest ∧ openPart.takes (.till 1) 5 (cancelBody 2118) ∧
      parseCancel (cancelBody 2118) = some openQuote.id ∧ parseCancel (cancelBody 0) = some 0 ∧
      openPart.commissioned = true := by decide

/-- The quote's hold timer has reached 0. -/
def expiredPart : State := openPart.modSlot 1 fun v => { v with timer := some 0 }

theorem witness_OpenQuoteCloses_expiry :
    (expiredPart.slot 1).state = .opened ∧ (expiredPart.slot 1).quote = some openQuote ∧
      (expiredPart.slot 1).reprint = none ∧ expiredPart.holdAtRest ∧ expiredPart.running = true ∧
      (expiredPart.slot 1).timer = some 0 := by decide

theorem test_cancel_gives_back :
    let t := after (.cancel 1 5 (cancelBody 0)) openPart
    t.reserved = 0 ∧ t.journal = ⟨6047, 0⟩ ∧ (t.slot 1).lastClosed = some (2118, .cancelled) ∧
      (t.line 0).pin = none := by decide

theorem test_expiry_closes_at_zero :
    ((after (.quoteHoldExpiry 1) expiredPart).slot 1).lastClosed = some (2118, .expired) ∧
      after (.quoteHoldExpiry 1) openPart = openPart := by decide

/-- The QUOTE of slot 1 is outstanding, its slot in the given state. -/
def quotePart (st : SlotState) : State :=
  waitingOn (.till 1) kindQuote (part.setSlot 1 ⟨st, some taken, none, none, none, none, none⟩)

theorem witness_CancelWhileOutstanding :
    ∀ st ∈ [SlotState.quoting, .fetching, .confirming, .posting],
      (quotePart st).receives (.till 1) = true ∧ ((quotePart st).port (.till 1)).settingsWaiting = false ∧
      ((quotePart st).port (.till 1)).outstanding = some ⟨5, kindQuote⟩ ∧
      ((quotePart st).port (.till 1)).roomForImmediate = true ∧ (6 : Byte) ≠ 0 ∧ (cancelBody 2118).length ≤ maxBody ∧
      parseCancel (cancelBody 2118) = some taken.id ∧ (quotePart st).commissioned = true ∧
      ((quotePart st).slot 1).quote = some taken ∧ (quotePart st).holdAtRest ∧ ((quotePart st).slot 1).state = st := by
  decide

theorem witness_ReprintBegun :
    part.takes (.till 1) 5 (reprintBody meterA 2) ∧ parseReprint (reprintBody meterA 2) = some (meterA, 2) ∧
      part.editable ∧ part.calendar.valid = true ∧ part.holdAtRest ∧ (part.slot 1).reprint = none ∧
      (part.slot 1).state = .idle := by decide

/-- Within an OPEN quote: on its meter, and on another. -/
theorem witness_ReprintBegun_open :
    openPart.takes (.till 1) 5 (reprintBody 1 0) ∧ parseReprint (reprintBody 1 0) = some (1, 0) ∧
      parseReprint (reprintBody meterA 0) = some (meterA, 0) ∧ openPart.editable ∧ openPart.calendar.valid = true ∧
      openPart.holdAtRest ∧ (openPart.slot 1).reprint = none ∧ (openPart.slot 1).state = .opened ∧
      (openPart.slot 1).quote = some openQuote ∧ openQuote.meter = meterA := by decide

theorem test_reprint_begins :
    ((after (.reprint 1 5 (reprintBody meterA 2)) part).slot 1).reprint =
      some ⟨meterA, .reprint 2, .lookup, some 5⟩ := by decide

theorem witness_TillStatusAnswered : part.takes (.till 3) 5 [] ∧ part.holdAtRest := by decide

theorem test_tillStatus_answers :
    ((after (.tillStatus 3 5 []) part).replies (.till 3)).map (·.tag) = [5] := by decide

/-! ### The engine -/

/-- The quote waits for its computing grant, its meter in line 0. -/
def quotingPart : State :=
  waitingOn (.till 1) kindQuote (withSlot ⟨.quoting, some taken, none, none, none, none, none⟩ (inLine recordA none part))

/-- The same with no line for the meter. -/
def missPart : State :=
  waitingOn (.till 1) kindQuote (withSlot ⟨.quoting, some taken, none, none, none, none, none⟩ part)

theorem witness_GrantLooksUp :
    missPart.running = true ∧ missPart.arbiter.hold = .none ∧
      (grantOrder missPart.arbiter.pointer).find? (fun j => missPart.arbiter.pending.get j) = some 1 ∧
      (missPart.slot 1).state = .quoting ∧ (missPart.slot 1).quote = some taken ∧ (missPart.slot 1).abandon = none ∧
      (missPart.slot 1).pin = none ∧ (missPart.slot 1).reprint = none ∧
      dirFind taken.meter missPart.directory = some ⟨meterA, 0, false⟩ ∧ findLine taken.meter missPart = none ∧
      victim missPart = 0 ∧ missPart.store.service = .idle ∧ missPart.buffer = [] ∧ missPart.store.queue = [] ∧
      missPart.store.retryWaiting = false := by decide

/-- The directory does not hold the number. -/
theorem witness_GrantLooksUp_unknown :
    let s : State := { missPart with directory := [] }
    dirFind taken.meter s.directory = none ∧ findPinned (.slot 1) s = none ∧ taken.replyTag = some 5 ∧
      s.receives (.till 1) = true ∧ taken.reservedBudget = none ∧ taken.journalReservation = false := by decide

theorem test_grant_fetches :
    let t := after .engineGrant missPart
    (t.slot 1).state = .fetching ∧ t.store.service = .reading (.record 0 meterA 0) ∧
      t.line 0 = ⟨.filling, some meterA, some (.slot 1), 0, none⟩ ∧ t.arbiter.pointer = 1 := by decide

theorem witness_GrantOpensQuote :
    quotingPart.running = true ∧ quotingPart.arbiter.hold = .none ∧
      (grantOrder quotingPart.arbiter.pointer).find? (fun j => quotingPart.arbiter.pending.get j) = some 1 ∧
      (quotingPart.slot 1).state = .quoting ∧ (quotingPart.slot 1).quote = some taken ∧
      (quotingPart.slot 1).abandon = none ∧ (quotingPart.slot 1).pin = none ∧ (quotingPart.slot 1).reprint = none ∧
      taken.replyTag = some 5 ∧ quotingPart.receives (.till 1) = true ∧
      dirFind taken.meter quotingPart.directory = some ⟨meterA, 0, false⟩ ∧
      quotingPart.hits (.slot 1) taken.meter 0 recordA ∧ recordA.account = .active ∧ quotingPart.now = some noon ∧
      quotingPart.site.active[recordA.tariffIndex]?.getD none = some entry2 ∧
      priceQuote recordA entry2 quotingPart.site.generation (monthTagOf noon.day) taken.tender = .ok priced1 ∧
      taken.tender ≤ quotingPart.site.budget - quotingPart.reserved ∧ quotingPart.roomForOffice = true := by
  decide +kernel

/-- The budget holds one cent less than the tender. -/
theorem witness_GrantBudgetShort :
    let s : State := { quotingPart with site := { quotingPart.site with budget := 19999 } }
    taken.reservedBudget = none ∧ taken.journalReservation = false ∧ s.receives (.till 1) = true ∧
      s.hits (.slot 1) taken.meter 0 recordA ∧ s.now = some noon ∧
      s.site.active[recordA.tariffIndex]?.getD none = some entry2 ∧
      priceQuote recordA entry2 s.site.generation (monthTagOf noon.day) taken.tender = .ok priced1 ∧
      s.site.budget - s.reserved < taken.tender := by decide +kernel

/-- Stage 9 of case 1: it reserves 20,000 of the budget and one journal entry; the expiry is 90 seconds on (R62). -/
theorem test_grant_opens_quote :
    let t := after .engineGrant quotingPart
    t.slot 1 = ⟨.opened, some openQuote, none, some 90, none, none, some meterA⟩ ∧ t.reserved = 20000 ∧
      t.journal = ⟨6047, 1⟩ ∧ (t.line 0).record = some recordA := by decide +kernel

/-- The CONFIRM of the OPEN quote waits for its grant. -/
def confirmPart : State :=
  waitingOn (.till 1) kindConfirm
    (withSlot ⟨.confirming, some { openQuote with replyTag := some 5 }, none, none, none, none, some meterA⟩ openPart)

theorem witness_GrantPostsSale :
    let q : QuoteRecord := { openQuote with replyTag := some 5 }
    confirmPart.running = true ∧ confirmPart.arbiter.hold = .none ∧
      (grantOrder confirmPart.arbiter.pointer).find? (fun j => confirmPart.arbiter.pending.get j) = some 1 ∧
      (confirmPart.slot 1).state = .confirming ∧ (confirmPart.slot 1).quote = some q ∧
      (confirmPart.slot 1).reprint = none ∧ q.priced = some priced1 ∧ q.reservedBudget = some q.tender ∧
      q.replyTag = some 5 ∧ confirmPart.receives (.till 1) = true ∧
      dirFind q.meter confirmPart.directory = some ⟨meterA, 0, false⟩ ∧ findLine q.meter confirmPart = some 0 ∧
      findPinned (.slot 1) confirmPart = some 0 ∧ (confirmPart.line 0).record = some recordA ∧
      recordA.meter = q.meter ∧ confirmPart.now = some noon ∧ confirmPart.postsAtOnce = true := by decide

/-- Table 5-6 and case 1: the record after the posting of 5.4's SALE. -/
theorem test_confirm_grant_posts_sale :
    let t := after .engineGrant confirmPart
    (t.line 0).record.map (fun r => (r.lastToken, r.arrears, r.monthUnits, r.residue, r.recent.head?)) =
      some (42, 28000, 1392, 4900, some ⟨[7, 8, 0, 2, 8, 0, 1, 8, 6, 4, 3, 2, 3, 9, 9, 0, 9, 2], 42, .credit, 972,
        11395, 2118, 6047⟩) ∧
    t.site.budget = 980000 ∧ t.reserved = 0 ∧ t.journal = ⟨6048, 0⟩ ∧
      (t.slot 1).lastClosed = some (2118, .committed) := by decide

/-- A REPRINT of index 0 waits for its grant, its meter in line 0. -/
def reprintPart : State :=
  waitingOn (.till 1) kindReprint
    (withSlot ⟨.idle, none, none, none, some ⟨meterA, .reprint 0, .lookup, some 5⟩, none, none⟩ (inLine recordA none part))

/-- The hypotheses on the slot and its grant, for one stage of a reprint. -/
def reprintAsked (req : ReprintRequest) (stage : ReprintStage) (s : State) : Prop :=
  s.running = true ∧ s.arbiter.hold = .none ∧
    (grantOrder s.arbiter.pointer).find? (fun j => s.arbiter.pending.get j) = some 1 ∧
    ((s.slot 1).state = .idle ∧ (s.slot 1).quote = none ∨
      (s.slot 1).state = .opened ∧ ∃ q, (s.slot 1).quote = some q ∧ q.meter = meterA) ∧
    (s.slot 1).reprint = some ⟨meterA, req, stage, some 5⟩ ∧ s.receives (.till 1) = true

theorem witness_GrantPostsReprint :
    reprintAsked (.reprint 0) .lookup reprintPart ∧ dirFind meterA reprintPart.directory = some ⟨meterA, 0, false⟩ ∧
      (reprintPart.slot 1).quote.isSome = false ∧ reprintPart.hits (.slot 1) meterA 0 recordA ∧
      recordA.account ≠ .retired ∧
      recordA.recent[0]? = some ⟨[1, 1, 1, 1, 1, 1, 1, 1, 1, 1, 1, 1, 1, 1, 1, 1, 1, 1], 41, .credit, 10, 11390, 9, 5000⟩ ∧
      reprintPart.ready :=
  ⟨⟨by decide, by decide, by decide, .inl (by decide), rfl, by decide⟩, by decide⟩

/-- The reprint of an OPEN slot: the quote's pin is on the meter's line. -/
def openReprintPart : State :=
  waitingOn (.till 1) kindReprint { (inLine recordA (some (.slot 1)) part).setSlot 1
    ⟨.opened, some openQuote, none, some 90, some ⟨meterA, .reprint 0, .lookup, some 5⟩, none, some meterA⟩ with
    arbiter := { part.arbiter with pending := part.arbiter.pending.set 1 true }, journal := ⟨6047, 1⟩, reserved := 20000 }

theorem witness_GrantPostsReprint_open :
    reprintAsked (.reprint 0) .lookup openReprintPart ∧
      dirFind meterA openReprintPart.directory = some ⟨meterA, 0, false⟩ ∧
      (openReprintPart.slot 1).quote.isSome = true ∧ openReprintPart.pins (.slot 1) meterA 0 recordA ∧
      openReprintPart.ready :=
  ⟨⟨by decide, by decide, by decide, .inr ⟨by decide, openQuote, rfl, rfl⟩, rfl, by decide⟩, by decide⟩

/-- The reprint shares the quote's pin, which stays when the reprint has ended; the quote stays OPEN. -/
theorem test_open_reprint_keeps_pin :
    let t := after .engineGrant openReprintPart
    (t.line 0).pin = some (.slot 1) ∧ (t.slot 1).pin = some meterA ∧ (t.slot 1).state = .opened ∧
      (t.slot 1).reprint = none ∧ t.buffer.length = 1 := by decide

/-- The reprint whose fetch has filled its line, and one whose meter is in no line. -/
def presentReprintPart : State :=
  waitingOn (.till 1) kindReprint (withSlot ⟨.idle, none, none, none, some ⟨meterA, .reprint 0, .present, some 5⟩, none,
    some meterA⟩ (inLine recordA (some (.slot 1)) part))

def missReprintPart : State :=
  waitingOn (.till 1) kindReprint
    (withSlot ⟨.idle, none, none, none, some ⟨meterA, .reprint 0, .lookup, some 5⟩, none, none⟩ part)

theorem witness_GrantPostsReprint_present :
    reprintAsked (.reprint 0) .present presentReprintPart ∧ (presentReprintPart.slot 1).pin = some meterA ∧
      presentReprintPart.pins (.slot 1) meterA 0 recordA ∧ presentReprintPart.ready :=
  ⟨⟨by decide, by decide, by decide, .inl (by decide), rfl, by decide⟩, by decide⟩

theorem witness_GrantPostsReprint_miss :
    reprintAsked (.reprint 0) .lookup missReprintPart ∧ findLine meterA missReprintPart = none ∧
      dirFind meterA missReprintPart.directory = some ⟨meterA, 0, false⟩ ∧ victim missReprintPart = 0 ∧
      missReprintPart.store.service = .idle ∧ missReprintPart.buffer = [] ∧ missReprintPart.store.queue = [] ∧
      missReprintPart.store.retryWaiting = false ∧
      ({ missReprintPart with store := { part.store with service := .writing } } : State).store.service ≠ .idle :=
  ⟨⟨by decide, by decide, by decide, .inl (by decide), rfl, by decide⟩, by decide⟩

/-- On a miss the fetch begins and the reprint waits for it; with the line filled, the next grant posts and unpins. -/
theorem test_reprint_miss_and_present :
    (after .engineGrant missReprintPart).store.service = .reading (.record 0 meterA 0) ∧
      ((after .engineGrant missReprintPart).slot 1).reprint = some ⟨meterA, .reprint 0, .fetching, some 5⟩ ∧
      ((after .engineGrant presentReprintPart).line 0).pin = none ∧
      (after .engineGrant presentReprintPart).buffer.length = 1 := by decide

theorem test_reprint_grant_posts :
    let t := after .engineGrant reprintPart
    (t.buffer.map (·.entry.map (·.body))) = [some (.reprint meterA 0 41 false 9)] ∧ (t.slot 1).reprint = none ∧
      t.site.dayTotals = Counts.zero := by decide

/-! ### Office record requests -/

theorem witness_EnrolPosts :
    part.takes .office 5 (enrolBody 7 2 true 60 100) ∧
      parseEnrol (enrolBody 7 2 true 60 100) = some (7, 2, true, 50, 100) ∧ part.editable ∧ part.now = some noon ∧
      part.holdAtRest ∧ dirFind 7 part.directory = none ∧ part.directory.length < recordSlots ∧
      findLine 7 part = none ∧ findPinned .office part = none ∧ victim part = 0 ∧ part.ready := by decide

theorem witness_RecencyLaw : RecencyLaw part := by unfold RecencyLaw; decide

/-- The number is enrolled already; and 8,192 records without it. -/
theorem witness_EnrolPosts_refused :
    parseEnrol (enrolBody meterA 2 true 60 100) = some (meterA, 2, true, 50, 100) ∧
      dirFind meterA part.directory = some ⟨meterA, 0, false⟩ ∧
      recordSlots ≤ (List.replicate 8192 (⟨meterA, 0, false⟩ : DirEntry)).length :=
  ⟨by decide, by decide, by rw [List.length_replicate]; decide⟩

theorem test_enrol_takes_lowest_slot :
    let t := after (.meterEnrol 5 (enrolBody 7 2 true 60 100)) part
    t.directory = [⟨7, 1, false⟩, ⟨meterA, 0, false⟩] ∧ (t.line 0).record.map (·.recoveryRate) = some 50 := by
  decide

/-- The meter in line 0 with the given account state, within the office hold. -/
def editPart (a : AccountState) : State :=
  { inLine { recordA with account := a } none part with
    arbiter := { part.arbiter with hold := .held, lapse := some 120 } }

theorem witness_RecordChangePosts :
    ∀ a ∈ [AccountState.active, .blocked, .retired],
      (editPart a).takes .office 5 (meterBody meterA) ∧ (editPart a).editable ∧
      dirFind meterA (editPart a).directory = some ⟨meterA, 0, false⟩ ∧
      (editPart a).hits .office meterA 0 { recordA with account := a } ∧ parseMeter (meterBody meterA) = some meterA ∧
      (editPart a).ready ∧ (editPart a).holdAtRest := by decide

theorem witness_RecordChangePosts_recency : RecencyLaw (editPart .active) := by unfold RecencyLaw; decide

/-- An edit that changes a field, and one that changes none. -/
theorem witness_RecordChangePosts_edit :
    (editPart .active).takes .office 5 (editBody ⟨meterA, some 9, none, none, none⟩) ∧
      parseEdit (editBody ⟨meterA, some 9, none, none, none⟩) = some ⟨meterA, some 9, none, none, none⟩ ∧
      ({ recordA with tariffIndex := 9 } : Record) ≠ recordA ∧
      parseEdit (editBody ⟨meterA, some 2, some 10, some 30000, some true⟩) =
        some ⟨meterA, some 2, some 10, some 30000, some true⟩ := by decide

theorem test_edit_changes_index :
    ((after (.meterEdit 5 (editBody ⟨meterA, some 9, none, none, none⟩)) (editPart .active)).line 0).record.map
      (fun r => (r.tariffIndex, r.lastSeq, r.arrears)) = some (9, 6047, 30000) := by decide

theorem test_block : ((after (.meterBlock 5 (meterBody meterA)) (editPart .active)).line 0).record.map (·.account) =
    some .blocked := by decide

theorem test_unblock : ((after (.meterUnblock 5 (meterBody meterA)) (editPart .blocked)).line 0).record.map (·.account) =
    some .active := by decide

theorem test_retire : ((after (.meterRetire 5 (meterBody meterA)) (editPart .blocked)).line 0).record.map (·.account) =
    some .retired := by decide

/-- A RETIRED meter whose last entry is released, and one whose last entry is not. -/
def purgePart (lastSeq : Nat) : State :=
  { editPart .retired with site := { site with releasePoint := 5000 } }.setLine 0
    ⟨.valid, some meterA, none, 0, some { recordA with account := .retired, lastSeq := lastSeq }⟩

theorem witness_PurgePosts :
    ∀ n ∈ [5000, 5001],
      (purgePart n).takes .office 5 (meterBody meterA) ∧ parseMeter (meterBody meterA) = some meterA ∧
      (purgePart n).editable ∧ (purgePart n).holdAtRest ∧ (purgePart n).arbiter.hold = .held ∧
      dirFind meterA (purgePart n).directory = some ⟨meterA, 0, false⟩ ∧
      (purgePart n).hits .office meterA 0 { recordA with account := .retired, lastSeq := n } ∧
      (purgePart n).ready ∧ (purgePart n).site.releasePoint = 5000 := by decide

theorem witness_PurgePosts_recency : RecencyLaw (purgePart 5000) ∧ part.arbiter.hold ≠ .held := by
  unfold RecencyLaw; decide

theorem test_purge_frees_line :
    let t := after (.meterPurge 5 (meterBody meterA)) (purgePart 5000)
    t.directory = [] ∧ t.line 0 = Line.freed ∧ t.working.recency.head? = some 0 := by decide

/-- The meter's entry is damaged; within the office hold. -/
def damagedPart : State := { part with
  directory := [⟨meterA, 0, true⟩], arbiter := { part.arbiter with hold := .held, lapse := some 120 } }

/-- The record as the office restores it. -/
def restoredA : Record := { recordA with recent := [], lastSeq := 0 }

theorem witness_RestorePosts :
    damagedPart.takes .office 5 (restoreBody restoredA) ∧ parseRestore (restoreBody restoredA) = some restoredA ∧
      damagedPart.editable ∧ damagedPart.arbiter.hold = .held ∧
      dirFind restoredA.meter damagedPart.directory = some ⟨meterA, 0, true⟩ ∧
      findLine restoredA.meter damagedPart = none ∧ findPinned .office damagedPart = none ∧ victim damagedPart = 0 ∧
      damagedPart.ready := by decide

theorem witness_RestorePosts_recency : RecencyLaw damagedPart := by unfold RecencyLaw; decide

/-- An entry that is not damaged. -/
theorem witness_RestorePosts_conflict :
    (editPart .active).takes .office 5 (restoreBody restoredA) ∧ (editPart .active).arbiter.hold = .held ∧
      dirFind restoredA.meter (editPart .active).directory = some ⟨meterA, 0, false⟩ := by decide

theorem test_restore_clears_damage :
    let t := after (.meterRestore 5 (restoreBody restoredA)) damagedPart
    t.directory = [⟨meterA, 0, false⟩] ∧ (t.line 0).record = some { restoredA with lastSeq := 6047 } := by decide

theorem witness_ReadsAnswered :
    (editPart .active).takes .office 5 (meterBody meterA) ∧ (editPart .active).holdAtRest ∧
      (editPart .active).commissioned = true ∧ findLine meterA (editPart .active) = some 0 ∧
      ((editPart .active).line 0).record = some recordA ∧ part.takes .office 5 [] ∧
      part.takes .office 5 (tariffReadBody .active 3) ∧
      parseTariffRead (tariffReadBody .active 3) = some (.active, 3) ∧
      parseTariffRead (tariffReadBody .pending 0) = some (.pending, 0) ∧ part.site.pendingSet = none := by decide

theorem test_reads_reply :
    (after (.meterRead 5 (meterBody meterA)) (editPart .active)).officePort.transmitting.map (·.frame.kind) = some 0xA8 ∧
    (after (.clockRead 5 []) part).officePort.transmitting.map (·.frame.body) =
      some [1, 31, 3, 14, 12, 0, 0, 0x2C, 0x83, 0x01, 0x76, 0x2C, 0x83] := by decide

/-! ### Tariff, budget and settings requests -/

/-- The office hold is held. -/
def heldPart : State := { part with arbiter := { part.arbiter with hold := .held, lapse := some 120 } }

/-- Quarters 0 to 2 of a STAGE for the next day, and of a LOAD, in the assembly area. -/
def stagingPart : State := { part with assembly := some ⟨.stage 11396, List.replicate 12 none⟩ }

def loadingPart : State := { heldPart with assembly := some ⟨.load, List.replicate 12 none⟩ }

/-- A quarter with one defined entry, and one whose entry 1 has a price of 0. -/
def quarter : List TariffEntry := [some entry9, none, none, none]

def badQuarter : List TariffEntry := [some entry9, some { entry9 with prices := [0] }, none, none]

/-- What a quarter's entries are read as. -/
def rawQuarter : List RawEntry :=
  [⟨true, 1000, 1000, 1, [16777215, 16777215, 16777215], [800, 16777215, 16777215, 16777215]⟩,
   ⟨false, 16777215, 65535, 255, [16777215, 16777215, 16777215], [16777215, 16777215, 16777215, 16777215]⟩,
   ⟨false, 16777215, 65535, 255, [16777215, 16777215, 16777215], [16777215, 16777215, 16777215, 16777215]⟩,
   ⟨false, 16777215, 65535, 255, [16777215, 16777215, 16777215], [16777215, 16777215, 16777215, 16777215]⟩]

def rawBadQuarter : List RawEntry :=
  rawQuarter.set 1 ⟨true, 1000, 1000, 1, [16777215, 16777215, 16777215], [0, 16777215, 16777215, 16777215]⟩

theorem witness_QuartersTaken_stage :
    part.takes .office 5 (stageBody 0 quarter 11396) ∧ part.holdAtRest ∧ part.storeFaultLatched = false ∧
      parseStage (stageBody 0 quarter 11396) = some (0, rawQuarter, 11396) ∧
      parseStage (stageBody 0 quarter 11395) = some (0, rawQuarter, 11395) ∧
      parseStage (stageBody 0 badQuarter 11396) = some (0, rawBadQuarter, 11396) ∧
      rawQuarter.all RawEntry.valid = true ∧ part.site.businessDay < 11396 ∧ 11395 ≤ part.site.businessDay ∧
      (1 < rawBadQuarter.length ∧ (rawBadQuarter.take 1).all RawEntry.valid = true ∧
        (rawBadQuarter.drop 1).head?.any RawEntry.valid = false) := by decide

/-- Quarter 0 begins a collection, quarter 3 ends one, and quarter 3 fits no empty area. -/
theorem witness_quarterFits :
    part.quarterFits (.stage 11396) 0 ∧ stagingPart.quarterFits (.stage 11396) 3 ∧ loadingPart.quarterFits .load 3 ∧
      ¬part.quarterFits (.stage 11396) 3 := by
  refine ⟨Or.inl rfl, Or.inr ⟨_, rfl, rfl, by decide⟩, Or.inr ⟨_, rfl, rfl, by decide⟩, ?_⟩
  rintro (h | ⟨a, h, _⟩) <;> cases h

theorem witness_QuartersTaken_load :
    heldPart.takes .office 5 (loadBody 0 quarter) ∧ heldPart.holdAtRest ∧ heldPart.storeFaultLatched = false ∧
      parseLoad (loadBody 0 quarter) = some (0, rawQuarter) ∧
      parseLoad (loadBody 0 badQuarter) = some (0, rawBadQuarter) ∧ heldPart.commissioned = true ∧
      heldPart.arbiter.hold = .held ∧ part.arbiter.hold ≠ .held := by decide

theorem test_stage_quarter_0 :
    (after (.tariffStage 5 (stageBody 0 quarter 11396)) part).assembly = some ⟨.stage 11396, quarter⟩ := by
  decide +kernel

theorem test_load_quarter_0_invalid :
    (after (.tariffLoadNow 5 (loadBody 0 badQuarter)) loadingPart).assembly = none := by decide +kernel

/-- The part with a pending set for the next day. -/
def stagedPart : State := { part with site := { site with pendingSet := some ⟨site.active, 11396⟩ } }

theorem witness_SetCompletes :
    stagingPart.takes .office 5 (stageBody 3 quarter 11396) ∧ stagingPart.storeFaultLatched = false ∧
      parseStage (stageBody 3 quarter 11396) = some (3, rawQuarter, 11396) ∧ stagingPart.site.businessDay < 11396 ∧
      stagingPart.commissioned = true ∧ stagingPart.ready ∧
      loadingPart.takes .office 5 (loadBody 3 quarter) ∧ loadingPart.storeFaultLatched = false ∧
      parseLoad (loadBody 3 quarter) = some (3, rawQuarter) ∧ loadingPart.commissioned = true ∧
      loadingPart.arbiter.hold = .held ∧ loadingPart.ready := by decide

theorem witness_SetCompletes_blank :
    let s : State := { blankPart with assembly := stagingPart.assembly }
    s.takes .office 5 (stageBody 3 quarter 11396) ∧ s.storeFaultLatched = false ∧ s.commissioned = false ∧
      s.postsAtOnce = true ∧ s.site.businessDay < 11396 := by decide

theorem witness_SetCompletes_unstage :
    stagedPart.takes .office 5 [] ∧ stagedPart.storeFaultLatched = false ∧ stagedPart.commissioned = true ∧
      stagedPart.site.pendingSet ≠ none ∧ stagedPart.ready ∧ part.site.pendingSet = none ∧ part.holdAtRest := by
  decide

theorem test_stage_completes :
    (after (.tariffStage 5 (stageBody 3 quarter 11396)) stagingPart).site.pendingSet.map
      (fun p => (p.effectiveDay, p.entries[11], p.entries[12], p.entries[13])) =
        some (11396, none, some entry9, none) := by decide +kernel

theorem test_load_completes :
    let t := after (.tariffLoadNow 5 (loadBody 3 quarter)) loadingPart
    t.site.generation = 8 ∧ t.site.active[12] = some entry9 ∧ t.site.active[2] = none ∧ t.assembly = none := by
  decide +kernel

theorem test_unstage :
    (after (.tariffUnstage 5 []) stagedPart).buffer.map (·.entry.map (·.body)) = [some (.tariffStaged 7 none)] := by
  decide

theorem test_tariffRead_pending_day :
    (after (.tariffRead 5 (tariffReadBody .pending 1)) stagedPart).officePort.transmitting.map
      (·.frame.body.take 8) = some [2, 1, 0, 0, 0, 7, 1, 0x2C] := by decide

/-- The last voucher was serial 4. -/
def voucherPart : State := { part with site := { site with lastVoucher := 4 } }

/-- Serial 5 up to the cap; serial 4; an amount past the cap. -/
theorem witness_VoucherPosts :
    voucherPart.takes .office 5 (voucherBody 5 998999999) ∧ voucherPart.editable ∧ voucherPart.ready ∧
      voucherPart.holdAtRest ∧ parseVoucher (voucherBody 5 998999999) = some (5, 998999999) ∧
      voucherPart.site.lastVoucher < 5 ∧ voucherPart.site.budget + 998999999 ≤ 999999999 ∧
      parseVoucher (voucherBody 4 1) = some (4, 1) ∧ 4 ≤ voucherPart.site.lastVoucher ∧
      parseVoucher (voucherBody 5 999000000) = some (5, 999000000) ∧
      999999999 < voucherPart.site.budget + 999000000 := by decide

/-- 8,176 open reservations leave sales-free at 16. -/
theorem witness_VoucherPosts_full :
    let s : State := { voucherPart with journal := ⟨6047, 8176⟩ }
    s.takes .office 5 (voucherBody 5 1) ∧ s.editable ∧ s.salesFree ≤ 16 ∧ s.holdAtRest := by decide

theorem test_voucher_adds :
    let t := after (.budgetVoucher 5 (voucherBody 5 500)) voucherPart
    t.site.budget = 1000500 ∧ t.site.lastVoucher = 5 ∧ t.journal.nextSeq = 6048 := by decide

theorem witness_SettingsAndTillClosePost :
    part.takes .office 5 (floorBody 5000) ∧ part.editable ∧ part.ready ∧ part.holdAtRest ∧
      parseFloor (floorBody 5000) = some 5000 ∧ 5000 ≠ part.site.floor ∧
      parseFloor (floorBody 100000) = some part.site.floor ∧
      parseQuoteTime (quoteTimeBody 601) = some 600 ∧ 600 ≠ part.site.quoteHoldTime ∧
      parseQuoteTime (quoteTimeBody 90) = some part.site.quoteHoldTime ∧
      parseConditions (conditionsBody [.budgetLow]) = some [.budgetLow] ∧
      (∀ c ∈ allConditions, conditionBit #v[false, false, true, false, false, false, false, false, false] c =
        decide (c ∈ [Condition.budgetLow])) ∧
      #v[false, false, true, false, false, false, false, false, false] ≠ part.site.mask ∧
      parseConditions (conditionsBody allConditions) = some allConditions ∧
      (∀ c ∈ allConditions, conditionBit part.site.mask c = decide (c ∈ allConditions)) := by decide

theorem test_settings_change :
    (after (.budgetFloorSet 5 (floorBody 5000)) part).site.floor = 5000 ∧
      (after (.quoteTimeSet 5 (quoteTimeBody 601)) part).site.quoteHoldTime = 600 ∧
      conditionBit (after (.noticeMaskSet 5 (conditionsBody [.budgetLow])) part).site.mask .powerUp = false := by
  decide

/-- Till 2's link is disabled and OFF. -/
def linkOffPart : State := { part with tillPorts := part.tillPorts.set 2 (LinkPort.quiet .off .r19200) }

theorem witness_LinkSetPosts :
    linkOffPart.takes .office 5 (linkSetBody 2 ⟨true, .r38400⟩) ∧
      parseLinkSet (linkSetBody 2 ⟨true, .r38400⟩) = some (2, ⟨true, .r38400⟩) ∧
      linkOffPart.storeFaultLatched = false ∧ ⟨true, .r38400⟩ ≠ linkOffPart.site.links.get 2 ∧
      (linkOffPart.port (.till 2)).settingsWaiting = false ∧ (linkOffPart.slot 2).state = .idle ∧
      linkOffPart.postsAtOnce = true ∧ linkOffPart.roomForOffice = true ∧ linkOffPart.commissioned = true ∧
      parseLinkSet (linkSetBody 2 ⟨false, .r19200⟩) = some (2, linkOffPart.site.links.get 2) ∧
      linkOffPart.holdAtRest := by decide

/-- A BLANK part. -/
theorem witness_LinkSetPosts_blank :
    blankPart.takes .office 5 (linkSetBody 2 ⟨true, .r38400⟩) ∧ blankPart.storeFaultLatched = false ∧
      blankPart.postsAtOnce = true ∧ blankPart.commissioned = false := by decide

theorem test_linkSet_makes_active :
    let t := after (.linkSet 5 (linkSetBody 2 ⟨true, .r38400⟩)) linkOffPart
    (t.port (.till 2)).link = .active ∧ (t.port (.till 2)).rate = .r38400 := by decide

theorem witness_SiteCodePosts :
    blankPart.takes .office 5 (siteCodeBody (List.replicate 32 9)) ∧
      parseSiteCode (siteCodeBody (List.replicate 32 9)) = some (List.replicate 32 9) ∧
      blankPart.commissioned = false ∧ blankPart.now = some noon ∧ blankPart.storeFaultLatched = false ∧
      blankPart.postsAtOnce = true ∧ part.commissioned = true ∧ part.holdAtRest := by decide

theorem witness_SiteCodePosts_no_clock :
    let s : State := { blankPart with calendar := ⟨none, false⟩ }
    s.takes .office 5 (siteCodeBody (List.replicate 32 9)) ∧ s.commissioned = false ∧ s.calendar.valid = false ∧
      s.holdAtRest := by decide

theorem test_siteCode_commissions :
    let t := after (.siteCodeLoad 5 (siteCodeBody (List.replicate 32 9))) blankPart
    t.commissioned = true ∧ t.buffer.map (·.entry.map (·.source)) = [some .part] := by decide

/-! ### Journal, summaries, clock, totals -/

/-- An entry of the journal area. -/
def entryAt (n : Nat) : JournalEntry := ⟨n, some noon, .office, none, .budgetVoucher n 1 n⟩

/-- Entries 6,044 to 6,046 are held, and one day summary. -/
def journalPart : State := { part with
  store := { part.store with
    journal := [entryAt 6044, entryAt 6045, entryAt 6046]
    summaries := [⟨11394, Counts.zero, some noon, some 6000⟩] } }

theorem witness_JournalAndSummaries :
    journalPart.holdAtRest ∧ journalPart.commissioned = true ∧ journalPart.takes .office 5 (journalReadBody 6045 4) ∧
      parseJournalRead (journalReadBody 6045 4) = some (6045, 4) ∧ journalPart.heldEntries ≠ [] ∧
      journalPart.site.releasePoint < 6045 ∧ 6045 ≤ journalPart.newestDurable.getD 0 ∧
      journalPart.store.service = .idle ∧ journalPart.store.queue = [] ∧ journalPart.store.retryWaiting = false ∧
      journalPart.buffer.length < 4 ∧ parseJournalRead (journalReadBody 6047 1) = some (6047, 1) ∧
      journalPart.newestDurable.getD 0 < 6047 ∧ parseSummary (summaryBody 30) = some 30 ∧
      parseRelease (releaseBody 6046) = some 6046 ∧ journalPart.newestDurable = some 6046 ∧
      parseRelease (releaseBody 6047) = some 6047 ∧ part.newestDurable = none := by decide

/-- The read of an area is under way. -/
def readingPart (f : Fetch) : State :=
  waitingOn .office kindJournalRead { journalPart with store := { journalPart.store with service := .reading f } }

theorem witness_JournalAndSummaries_read :
    ∀ f ∈ [Fetch.journal 6045 4, .summary 0, .summary 1],
      (readingPart f).holdAtRest ∧ (readingPart f).commissioned = true ∧ (readingPart f).receives .office = true ∧
      (readingPart f).officePort.outstanding = some ⟨5, kindJournalRead⟩ ∧ (readingPart f).store.service = .reading f ∧
      (readingPart f).store.summaries[0]?.isSome = true ∧ (readingPart f).store.summaries[1]? = none := by decide

theorem test_journalRead_queues :
    (after (.journalRead 5 (journalReadBody 6045 4)) journalPart).store.service = .reading (.journal 6045 4) := by
  decide

theorem test_areaRead_replies :
    (after .areaReadComplete (readingPart (.journal 6045 4))).officePort.transmitting.map (·.frame.body.take 6) =
      some [2, 24, 0, 0, 0x17, 0x9D] := by decide

theorem test_summaryRead_queues :
    (after (.summaryRead 5 (summaryBody 30)) journalPart).store.service = .reading (.summary 30) := by decide

theorem test_release_raises :
    let t := after (.journalRelease 5 (releaseBody 6045)) journalPart
    t.site.releasePoint = 6045 ∧ t.held = 1 := by decide

theorem witness_ClockSetPosts :
    part.takes .office 5 (dateTimeBytes ⟨11395, 86399⟩) ∧ parseClock (dateTimeBytes ⟨11395, 86399⟩) = some ⟨11395, 86399⟩ ∧
      part.storeFaultLatched = false ∧ (⟨11395, 86399⟩ : DateTime).day = part.site.businessDay ∧
      part.commissioned = true ∧ part.ready ∧ blankPart.commissioned = false ∧ blankPart.postsAtOnce = true ∧
      parseClock (dateTimeBytes ⟨11394, 86399⟩) = some ⟨11394, 86399⟩ ∧ 11394 < part.site.businessDay ∧
      part.holdAtRest := by decide

/-- A BLANK part takes a later day, with its rollover. -/
theorem witness_ClockSetPosts_later :
    blankPart.takes .office 5 (dateTimeBytes ⟨36524, 0⟩) ∧ parseClock (dateTimeBytes ⟨36524, 0⟩) = some ⟨36524, 0⟩ ∧
      blankPart.storeFaultLatched = false ∧ blankPart.site.businessDay < 36524 ∧ blankPart.commissioned = false ∧
      blankPart.waiters = [] ∧ blankPart.buffer.length < 3 ∧ blankPart.site.pendingSet = none ∧
      (∀ k, (blankPart.slot k).state = .idle) := by decide

theorem test_clockSet :
    let t := after (.clockSet 5 (dateTimeBytes ⟨11395, 86399⟩)) part
    t.calendar = ⟨some ⟨11395, 86399⟩, true⟩ ∧ t.cell = ⟨true, some ⟨11395, 86399⟩⟩ := by decide +kernel

/-- Till 1 has sold. -/
def soldPart : State := { part with site := { site with tillTotals := site.tillTotals.set 1 ⟨3, 1, 500, 60, 7⟩ } }

theorem witness_SettingsAndTillClosePost_till :
    soldPart.takes .office 5 (tillCloseBody 3) ∧ parseTillClose (tillCloseBody 3) = some 3 ∧ soldPart.editable ∧
      soldPart.ready := by decide

theorem test_tillClose_zeroes :
    let t := after (.tillClose 5 (tillCloseBody 1)) soldPart
    t.site.tillTotals.get 1 = Counts.zero ∧ t.buffer.map (·.entry.map (·.body)) =
      [some (.tillClose 1 ⟨3, 1, 500, 60, 7⟩)] := by decide

theorem test_totalsSnapshot_replies :
    (after (.totalsSnapshot 5 []) soldPart).officePort.transmitting.map (·.frame.kind) = some 0xD1 := by decide

/-! ### Office hold, conditions, store retry -/

/-- A unit in the buffer. -/
def unit1 : CommitUnit :=
  ⟨.edit, some (.image 0 recordA), some (entryAt 6047), none, { site with lastVoucher := 6047 }⟩

/-- One unit waits in the buffer, its record in line 0. -/
def bufferPart : State := { part.setLine 0 ⟨.valid, some meterA, none, 1, some recordA⟩ with
  buffer := [unit1], journal := ⟨6048, 0⟩ }

theorem witness_OfficeHold :
    bufferPart.holdAtRest ∧ bufferPart.takes .office 5 [] ∧ bufferPart.editable ∧ bufferPart.arbiter.hold ≠ .held ∧
      bufferPart.buffer ≠ [] ∧ bufferPart.commissioned = true ∧ part.holdAtRest ∧ part.takes .office 5 [] ∧
      part.editable ∧ part.arbiter.hold ≠ .held ∧ part.buffer = [] ∧ heldPart.holdAtRest ∧
      heldPart.takes .office 5 [] ∧ heldPart.editable ∧ heldPart.commissioned = true ∧ heldPart.arbiter.hold = .held := by
  decide

/-- The office hold's lapse has reached 0, with one waiter that is no hold-only unit and one that is. -/
def lapsePart (ws : List Waiter) : State :=
  { heldPart with arbiter := { heldPart.arbiter with lapse := some 0 }, waiters := ws }

theorem witness_OfficeHold_lapse :
    ∀ ws ∈ [[], [⟨.voucher 5 1, true⟩], [⟨.purge 0 meterA, true⟩]],
      (lapsePart ws).holdAtRest ∧ (lapsePart ws).running = true ∧ (lapsePart ws).arbiter.hold = .held ∧
      (lapsePart ws).arbiter.lapse = some 0 := by decide

theorem test_hold_granted_and_released :
    (after (.holdRequest 5 []) part).arbiter = { part.arbiter with hold := .held, lapse := some 120 } ∧
      (after (.holdRequest 5 []) bufferPart).arbiter.hold = .pending ∧
      (after (.holdRelease 5 []) heldPart).arbiter = part.arbiter := by decide

theorem test_hold_lapses :
    let t := after .officeHoldLapse (lapsePart [⟨.purge 0 meterA, true⟩])
    t.arbiter.hold = .none ∧ t.latched .holdLapsed = true ∧ t.waiters = [] := by decide

/-- LINE_FAULT and BUDGET_LOW are latched; the budget is above the floor again. -/
def latchedPart : State := { part with
  conditions := { part.conditions with
    latches := (part.conditions.latches.set 3 true).set 2 true, tillSet := #v[false, true, false, false] } }

theorem witness_ConditionClear :
    latchedPart.takes .office 5 (conditionsBody [.lineFault, .budgetLow]) ∧
      parseConditions (conditionsBody [.lineFault, .budgetLow]) = some [.lineFault, .budgetLow] ∧
      latchedPart.commissioned = true ∧ latchedPart.holdAtRest ∧ latchedPart.levelOf .budgetLow = false := by decide

theorem test_conditionClear :
    let t := after (.conditionClear 5 (conditionsBody [.lineFault])) latchedPart
    t.latched .lineFault = false ∧ t.latched .budgetLow = true ∧ t.conditions.tillSet.get 1 = false := by decide

theorem test_statusRead_replies :
    (after (.statusRead 5 []) latchedPart).officePort.transmitting.map (fun f => (f.frame.kind, f.frame.body.take 9)) =
      some (0xE4, [0, 0, 1, 1, 0, 0, 0, 0, 0]) := by decide

/-- The store is FAULTED with a unit at the head of the buffer. -/
def faultedPart (sv : Service) : State := { bufferPart with
  store := { bufferPart.store with faulted := true, service := sv } }

theorem witness_StoreRetry :
    (faultedPart .idle).holdAtRest ∧ (faultedPart .idle).commissioned = true ∧ (faultedPart .idle).takes .office 5 [] ∧
      (faultedPart .idle).store.faulted = true ∧ part.store.faulted = false ∧ part.takes .office 5 [] := by decide

theorem witness_StoreRetry_attempts :
    ∀ b ∈ [false, true], let s := waitingOn .office kindStoreRetry (faultedPart (.retrying b))
      s.holdAtRest ∧ s.commissioned = true ∧ s.receives .office = true ∧
      s.officePort.outstanding = some ⟨5, kindStoreRetry⟩ ∧ s.buffer = unit1 :: [] ∧ s.waiters = [] ∧
      s.arbiter.hold ≠ .pending ∧ s.store.service = .retrying b := by decide

theorem test_storeRetry_begins :
    (after (.storeRetry 5 []) (faultedPart .idle)).store.service = .retrying false := by decide

theorem test_retryAttempt :
    let s := waitingOn .office kindStoreRetry (faultedPart (.retrying false))
    (after (.retryAttemptComplete .verified) s).store.faulted = false ∧
      (after (.retryAttemptComplete .verified) s).buffer = [] ∧
      (after (.retryAttemptComplete (.failed true)) s).store.service = .retrying true := by decide

/-! ### Lines and links -/

/-- The characters of an empty frame with a wrong check. -/
def badFrame : List RxChar := [0xA5, 0, 0x64, 1, 0, 0].map fun b => ⟨b, true⟩

/-- Till 1's settings wait for the end of a frame. -/
def settingsPart (v : LinkSettings) : State :=
  { part.modPort (.till 1) fun q => { q with settingsWaiting := true, receiver := .receiving } with
    site := { site with links := site.links.set 1 v } }

theorem witness_LineFrames :
    part.holdAtRest ∧ part.takes (.till 1) 5 [] ∧ part.receives (.till 1) = true ∧
      (part.port (.till 1)).settingsWaiting = false ∧ (receive .hunt badFrame).2 = some .discarded ∧
      receive .hunt [⟨0xA5, true⟩] = (.receiving [0xA5], none) ∧ frameLimit [0xA5] ≤ 90 ∧
      (settingsPart ⟨true, .r57600⟩).receives (.till 1) = true ∧
      ((settingsPart ⟨true, .r57600⟩).port (.till 1)).settingsWaiting = true ∧
      ((settingsPart ⟨true, .r57600⟩).site.links.get 1).enabled = true ∧ (settingsPart ⟨true, .r57600⟩).holdAtRest := by
  decide

/-- A port sends, with a reply behind it. -/
def sendingPart : State := part.setPort .office { part.officePort with
  transmitting := some ⟨replyFrame 5 .releaseOk, .r19200⟩, order := [.reply 6 .releaseOk false] }

theorem witness_LineFrames_sending :
    sendingPart.holdAtRest ∧ (sendingPart.port .office).transmitting = some ⟨replyFrame 5 .releaseOk, .r19200⟩ ∧
      sendingPart.running = true ∧ (sendingPart.port .office).link = .active ∧
      (sendingPart.port .office).order = .reply 6 .releaseOk false :: [] := by decide

theorem test_unknownKind_refused :
    ((after (.unknownKind (.till 1) 0x7F 5 []) part).port (.till 1)).transmitting.map (·.frame) =
      some (replyFrame 5 (.refused .unknownKind 0x7F 0 0)) := by decide

theorem test_discarded_frame_leaves_nothing :
    after (.frameDiscarded (.till 1) badFrame) part = part ∧
      ((after (.frameDiscarded (.till 1) badFrame) (settingsPart ⟨true, .r57600⟩)).port (.till 1)).rate = .r57600 := by
  decide

theorem test_frameTimeLimit_leaves_nothing : after (.frameTimeLimit (.till 1) [⟨0xA5, true⟩] 90) part = part := by decide

theorem test_frameTransmitted_sends_next :
    (after (.frameTransmitted .office) sendingPart).officePort.transmitting.map (·.frame.tag) = some 6 := by decide

/-- Till 1's link is in FAULT. -/
def lineFaultPart : State := part.modPort (.till 1) fun q => { q with link := .fault }

theorem witness_LinkEvents :
    part.holdAtRest ∧ part.running = true ∧ (part.port (.till 1)).settingsWaiting = false ∧
      (part.port (.till 1)).link = .active ∧ (part.port .office).link = .active ∧
      sendingPart.officePort.transmitting ≠ none ∧ lineFaultPart.holdAtRest ∧
      (lineFaultPart.port (.till 1)).link = .fault ∧ (lineFaultPart.port (.till 1)).settingsWaiting = false := by decide

/-- Settings that wait on a till with an OPEN quote. -/
def settingsOpenPart : State :=
  { openPart.modPort (.till 1) fun q => { q with settingsWaiting := true, receiver := .receiving } with
    site := { site with links := site.links.set 1 ⟨false, .r9600⟩ } }

theorem witness_LinkEvents_settings :
    ((settingsPart ⟨true, .r57600⟩).port (.till 1)).settingsWaiting = true ∧ settingsOpenPart.holdAtRest ∧
      settingsOpenPart.running = true ∧ (settingsOpenPart.port (.till 1)).settingsWaiting = true ∧
      (settingsOpenPart.site.links.get 1).enabled = false ∧ (settingsOpenPart.port (.till 1)).link = .active ∧
      (settingsOpenPart.slot 1).state = .opened ∧ (settingsOpenPart.slot 1).quote = some openQuote ∧
      (settingsOpenPart.slot 1).reprint = none := by decide

theorem test_linkEntersFault_latches :
    let t := after (.linkEntersFault (.till 1)) part
    t.latched .lineFault = true ∧ t.conditions.tillSet = #v[false, true, false, false] ∧
      (t.port (.till 1)).link = .fault := by decide

theorem test_linkFaultEnd : ((after (.linkFaultEnd (.till 1)) lineFaultPart).port (.till 1)).link = .active := by decide

theorem test_linkSettingsTaken_off :
    let t := after (.linkSettingsTaken 1) settingsOpenPart
    (t.port (.till 1)).link = .off ∧ (t.slot 1).lastClosed = some (2118, .linkOff) ∧ t.reserved = 0 := by decide

/-! ### Calendar -/

theorem witness_CalendarEvents :
    inRange ⟨36524, 86399⟩ = true ∧ inRange ⟨11395, 86399⟩ = true ∧ part.holdAtRest ∧ part.running = true ∧
      State.reset.running = false ∧ State.reset.holdAtRest := by decide

/-- The range ends at its last second (R144), and 28 February 2000 is followed by the 29th. -/
theorem test_calendarSecond :
    (after .calendarSecond { part with calendar := ⟨some ⟨36524, 86399⟩, true⟩ }).calendar.dateTime =
        some ⟨36524, 86399⟩ ∧
      (after .calendarSecond { part with calendar := ⟨some ⟨58, 86399⟩, true⟩ }).calendar.dateTime = some ⟨59, 0⟩ ∧
      dateOfDay 59 = (0, 2, 29) := by decide

theorem test_backupCellFailed :
    (after .backupCellFailed part).cell = ⟨false, none⟩ ∧ (after .backupCellFailed part).calendar = part.calendar := by
  decide

/-- Midnight has passed. -/
def duePart (s : State) : State := { s with calendar := ⟨some ⟨11396, 0⟩, true⟩ }

theorem witness_DayRollover :
    (duePart part).holdAtRest ∧ (duePart part).running = true ∧ (duePart part).now = some ⟨11396, 0⟩ ∧
      (duePart part).site.businessDay < 11396 ∧ (duePart part).commissioned = true ∧
      (duePart part).site.pendingSet = none ∧ (duePart part).postsAtOnce = true ∧ 0 < (duePart part).salesFree ∧
      (∀ k, ((duePart part).slot k).state ≠ .opened ∧ ((duePart part).slot k).state ≠ .quoting ∧
        ((duePart part).slot k).state ≠ .fetching) ∧ part.rolloverDue = false ∧ part.holdAtRest ∧
      ((duePart openPart).slot 1).state = .opened ∧ ((duePart (quotePart .fetching)).slot 1).state = .fetching := by decide

/-- No place is left for the DAY_CLOSE entry; a pending set is due; one is not. -/
theorem witness_DayRollover_full :
    (duePart { part with journal := ⟨6047, 8192⟩ }).salesFree = 0 ∧
      (duePart { part with journal := ⟨6047, 8192⟩ }).now = some ⟨11396, 0⟩ ∧
      (duePart stagedPart).site.pendingSet.map (·.effectiveDay) = some 11396 ∧ (duePart stagedPart).commissioned = true := by
  decide

theorem test_rollover_closes_day :
    let t := after .dayRollover (duePart openPart)
    t.site.businessDay = 11396 ∧ (t.slot 1).lastClosed = some (2118, .rollover) ∧
      t.buffer.map (·.summary) = [some ⟨11395, Counts.zero, some ⟨11396, 0⟩, some 6047⟩] := by decide

theorem test_rollover_shifts_set :
    let t := after .dayRollover (duePart stagedPart)
    t.site.pendingSet = none ∧ t.site.generation = 8 ∧ t.latched .tariffShifted = true := by decide

/-! ### The Record Store -/

/-- The fetch of the meter's record for an owner, the store holding `v` in the record slot. -/
def fetchPart (o : Owner) (v : List (Nat × StoredRecord)) (s : State) : State :=
  { s.setLine 0 ⟨.filling, some meterA, some o, 0, none⟩ with
    store := { s.store with service := .reading (.record 0 meterA 0), slots := v } }

/-- Slot 1 waits for the fetch. -/
def slotFetchPart (v : List (Nat × StoredRecord)) : State :=
  waitingOn (.till 1) kindQuote
    (fetchPart (.slot 1) v (part.setSlot 1 ⟨.fetching, some taken, none, none, none, none, some meterA⟩))

theorem witness_FetchCompletes :
    ∀ v ∈ [[(0, ⟨recordA, some recordA⟩)], [(0, ⟨recordA, none⟩)], []],
      (slotFetchPart v).running = true ∧ (slotFetchPart v).holdAtRest ∧
      (slotFetchPart v).store.service = .reading (.record 0 meterA 0) ∧ findLine meterA (slotFetchPart v) = some 0 ∧
      (slotFetchPart v).line 0 = ⟨.filling, some meterA, some (.slot 1), 0, none⟩ ∧
      ((slotFetchPart v).slot 1).state = .fetching ∧ ((slotFetchPart v).slot 1).quote = some taken ∧
      ((slotFetchPart v).slot 1).abandon = none ∧ taken.replyTag = some 5 ∧
      (slotFetchPart v).receives (.till 1) = true ∧ taken.reservedBudget = none ∧ taken.journalReservation = false ∧
      ((slotFetchPart v).slot 1).reprint = none ∧ findPinned (.slot 1) (slotFetchPart v) = some 0 ∧
      (∀ j, j ≠ 0 → ((slotFetchPart v).line j).pin ≠ some (.slot 1)) := by decide

/-- A slot whose record's code is good, and slots that hold none. -/
theorem witness_FetchCompletes_good :
    (recordA.meter = meterA ∧ slotGet 0 (slotFetchPart [(0, ⟨recordA, some recordA⟩)]).store.slots =
      some ⟨recordA, some recordA⟩) ∧ slotGet 0 (slotFetchPart []).store.slots = none := by decide

/-- METER_READ waits for the fetch. -/
def readFetchPart : State :=
  { waitingOn .office kindMeterRead (fetchPart .office [(0, ⟨recordA, some recordA⟩)] part) with
    officeRequest := some (.read meterA) }

theorem witness_FetchCompletes_read :
    readFetchPart.running = true ∧ readFetchPart.holdAtRest ∧
      readFetchPart.store.service = .reading (.record 0 meterA 0) ∧ findLine meterA readFetchPart = some 0 ∧
      readFetchPart.line 0 = ⟨.filling, some meterA, some .office, 0, none⟩ ∧
      findPinned .office readFetchPart = some 0 ∧ readFetchPart.officeRequest = some (.read meterA) ∧
      readFetchPart.receives .office = true ∧ readFetchPart.officePort.outstanding = some ⟨5, kindMeterRead⟩ := by decide

theorem test_fetch_fills :
    let t := after (.recordFetchComplete false) (slotFetchPart [(0, ⟨recordA, some recordA⟩)])
    t.line 0 = ⟨.valid, some meterA, some (.slot 1), 0, some recordA⟩ ∧ (t.slot 1).state = .quoting := by decide

theorem test_fetch_finds_damage :
    let t := after (.recordFetchComplete true) (slotFetchPart [(0, ⟨recordA, some recordA⟩)])
    t.directory = [⟨meterA, 0, true⟩] ∧ t.line 0 = Line.freed ∧ (t.slot 1).lastClosed = some (2118, .refused) := by decide

/-- The head unit is being written. -/
def writingPart (sv : Service) : State := { bufferPart with store := { bufferPart.store with service := sv } }

theorem witness_UnitWrites :
    ∀ sv ∈ [Service.writing, .rewriting], (writingPart sv).running = true ∧ (writingPart sv).buffer = unit1 :: [] ∧
      (writingPart sv).waiters = [] ∧ (writingPart sv).arbiter.hold ≠ .pending ∧ (writingPart sv).store.service = sv ∧
      conditionBit (writingPart sv).conditions.levels .storeFault = false := by decide

theorem test_unit_stored :
    let t := after (.unitWriteComplete .verified) (writingPart .writing)
    t.buffer = [] ∧ t.store.image.image = some unit1.image ∧ (t.line 0).dirty = 0 ∧ t.newestDurable = some 6047 := by
  decide

theorem test_second_failure_faults :
    let t := after (.unitWriteComplete (.failed false)) (writingPart .rewriting)
    t.store.faulted = true ∧ t.buffer = [unit1] ∧ t.latched .storeFault = true := by decide

/-- A HOLD at its drain. -/
def drainPart (sv : Service) (stage : DrainStage) (buffer : List CommitUnit) : State := { bufferPart with
  supply := ⟨.hold, false, false, some ⟨none, .supply, some noon, 0, none, none, 0⟩, stage, false, .supply⟩
  store := { bufferPart.store with service := sv }, buffer := buffer }

theorem witness_DrainAndHoldCell :
    ∀ buffer ∈ [[unit1], [unit1, unit1]], ∀ stage ∈ [DrainStage.draining, .lastTry], ∀ sv ∈ [Service.writing, .rewriting],
      let s := drainPart sv stage buffer
      s.supply.state = .hold ∧ s.supply.holdRecord = some ⟨none, .supply, some noon, 0, none, none, 0⟩ ∧
        s.buffer = unit1 :: buffer.drop 1 ∧ s.store.service = sv ∧ s.supply.drain = stage := by decide

theorem witness_DrainAndHoldCell_cell :
    let s := drainPart .idle .cellWrite []
    s.supply.state = .hold ∧ s.supply.holdRecord = some ⟨none, .supply, some noon, 0, none, none, 0⟩ ∧
      s.supply.drain = .cellWrite := by decide

theorem test_drain_ends :
    (after (.drainWriteComplete .verified) (drainPart .writing .draining [unit1])).supply.holdRecord =
        some ⟨some 1, .supply, some noon, 0, none, none, 0⟩ ∧
      (after (.drainWriteComplete (.failed false)) (drainPart .rewriting .draining [unit1, unit1])).supply.holdRecord =
        some ⟨some 1, .supply, some noon, 2, some 6047, some 6047, 0⟩ := by decide

theorem test_hold_ends :
    let t := after (.holdCellWriteComplete .verified) (drainPart .idle .cellWrite [])
    t.supply.state = .down ∧ t.store.holdCell = some ⟨0, .supply, some noon, 0, none, none, 0, true⟩ := by decide

/-! ### Supply and start-up -/

/-- A part in a supply state. -/
def supplyPart (st : SupplyState) (reset : Bool) : State :=
  { part with supply := ⟨st, true, reset, none, .none, false, .supply⟩ }

theorem witness_SupplyEvents :
    (∀ st ∈ [SupplyState.run, .hold, .down, .resetWait, .start], ∀ r ∈ [false, true],
      (supplyPart st r).holdAtRest ∧ (supplyPart st r).supply.state = st ∧
        (supplyPart st r).supply.resetAsserted = r) ∧
    part.store.service = .idle ∧ part.buffer = [] ∧ bufferPart.store.service = .idle ∧ bufferPart.buffer ≠ [] ∧
    (writingPart .writing).store.service ≠ .idle := by decide

theorem test_supplyLow_enters_hold :
    let t := after .supplyLow openPart
    t.supply.state = .hold ∧ t.slot 1 = ⟨.idle, none, none, none, none, none, some meterA⟩ ∧
      (after .supplyLow (supplyPart .resetWait true)).supply.state = .down := by decide

theorem test_supplyOk :
    (after .supplyOk State.reset).supply.state = .start ∧
      (after .supplyOk (supplyPart .down true)).supply.state = .resetWait := by decide

theorem test_resetAsserted :
    (after .resetAsserted part).supply.holdRecord.map (·.cause) = some .resetLine ∧
      (after .resetAsserted (supplyPart .start false)).supply.state = .resetWait := by decide

theorem test_resetReleased :
    (after .resetReleased (supplyPart .resetWait true)).supply =
      ⟨.start, true, false, none, .none, false, .resetLine⟩ := by decide

/-- A COMMISSIONED part at start-up, its store holding one unit's image, with the given hold cell. -/
def bootPart (c : Option HoldCell) : State := { State.reset with
  supply := ⟨.start, true, false, none, .none, false, .supply⟩
  cell := ⟨true, some noon⟩
  store := { RecordStore.blank with
    slots := [(0, ⟨recordA, some recordA⟩)], journal := [entryAt 6046]
    image := ⟨some site, none, some .first⟩, holdCell := c } }

/-- The hold cell of the outage, and the one of an earlier outage. -/
def cell1 : HoldCell := ⟨1, .resetLine, some noon, 2, some 6047, some 6048, 0, true⟩

def cell0 : HoldCell := { cell1 with outageNumber := 0 }

theorem witness_StartUp :
    ∀ c ∈ [some cell1, some cell0, none],
      (bootPart c).supply.state = .start ∧ (bootPart c).supply.started = false ∧
      (bootPart c).store.image.image = some site ∧ site.siteCode = some (List.replicate 32 3) ∧
      (bootPart c).cell = ⟨true, some noon⟩ ∧ inRange noon = true ∧ site.businessDay = noon.day ∧
      ((bootPart c).store.journal.filter fun e => decide (site.releasePoint < e.seq)).length < 8192 ∧
      (bootPart c).store.holdCell = c ∧ (bootPart c).newestDurable.getD 0 + 1 < 4294967295 ∧
      site.unlogged ≤ 4294967295 ∧ cell1.checkGood = true ∧ cell1.outageNumber = site.outageNumber + 1 ∧
      cell0.outageNumber ≠ site.outageNumber + 1 := by decide

/-- A part that has never been powered, and one whose START_UP is done. -/
theorem witness_StartUp_blank :
    (after .supplyOk State.reset).supply.state = .start ∧ (after .supplyOk State.reset).supply.started = false ∧
      (after .supplyOk State.reset).store.image.image = none ∧ (after .supplyOk State.reset).cell.mark = false ∧
      (after .startUp (bootPart none)).supply.started = true ∧ (after .startUp (bootPart none)).holdAtRest := by decide

theorem test_startUp_posts_power_up :
    (after .startUp (bootPart (some cell1))).buffer.map (·.entry) =
      [some ⟨6049, some noon, .part, none, .powerUp ⟨1, some noon, some noon, .resetLine, some 2, some 6047⟩⟩] := by decide

theorem test_startUpComplete_runs :
    let t := after .startUpComplete (after .startUp (bootPart none))
    t.running = true ∧ t.latched .powerUp = true ∧ t.directory = [⟨meterA, 0, false⟩] := by decide +kernel

/-! ### Further clauses of the statements above: their hypotheses are met -/

/-- Slot 1's last quote closed with an outcome. -/
def closedPart (o : CloseOutcome) : State := part.setSlot 1 ⟨.idle, none, none, none, none, some (2118, o), none⟩

theorem witness_ReprintBegun_repeat :
    parseConfirm (confirmBody meterA 2118) = some (meterA, 2118) ∧ parseConfirm (confirmBody 1 7) = some (1, 7) ∧
      (∀ o ∈ [CloseOutcome.committed, .expired], (closedPart o).takes (.till 1) 5 (confirmBody meterA 2118) ∧
        (closedPart o).editable ∧ (closedPart o).calendar.valid = true ∧ (closedPart o).holdAtRest ∧
        ((closedPart o).slot 1).quote = none ∧ ((closedPart o).slot 1).reprint = none ∧
        ((closedPart o).slot 1).state = .idle ∧ ((closedPart o).slot 1).lastClosed = some (2118, o)) ∧
      (part.slot 1).lastClosed = none ∧ openPart.takes (.till 1) 5 (confirmBody 1 7) ∧
      (openPart.slot 1).quote = some openQuote ∧ openQuote.id ≠ 7 ∧ openQuote.meter ≠ 1 := by decide

/-- Slot 1 waits for the first grant of a quote of the tender, the meter's record in line 0 under the given pin. -/
def askingPart (tender : Nat) (r : Record) (pin : Option Owner) : State :=
  waitingOn (.till 1) kindQuote
    (withSlot ⟨.quoting, some { taken with tender := tender }, none, none, none, none, none⟩ (inLine r pin part))

/-- An account BLOCKED, one RETIRED, a tariff index with no entry, nothing to issue, a tender below the charges; and the
grant of a priced quote. -/
theorem witness_GrantLooksUp_hit :
    (∀ x ∈ [(20000, { recordA with account := .blocked }), (20000, { recordA with account := .retired }),
        (20000, { recordA with tariffIndex := 0 }), (0, recordA), (2000, record2), (20000, recordA)],
      let s := askingPart x.1 x.2 none
      s.running = true ∧ s.arbiter.hold = .none ∧
        (grantOrder s.arbiter.pointer).find? (fun j => s.arbiter.pending.get j) = some 1 ∧
        (s.slot 1).state = .quoting ∧ (s.slot 1).quote = some { taken with tender := x.1 } ∧
        (s.slot 1).reprint = none ∧ (s.slot 1).abandon = none ∧ (s.slot 1).pin = none ∧
        dirFind meterA s.directory = some ⟨meterA, 0, false⟩ ∧ s.hits (.slot 1) meterA 0 x.2 ∧
        s.receives (.till 1) = true ∧ s.now = some noon) ∧
    site.active[0]?.getD none = none ∧ site.active[2]?.getD none = some entry2 ∧
    priceQuote recordA entry2 7 374 0 = .error .nothingToIssue ∧
    priceQuote record2 entry2 7 374 2000 = .error (.belowCharges 2500) ∧
    priceQuote recordA entry2 7 374 20000 = .ok priced1 ∧ 20000 ≤ site.budget - part.reserved ∧
    ({ askingPart 20000 recordA none with journal := ⟨6047, 8176⟩ } : State).salesFree ≤ 16 := by decide

/-- A damaged entry; a line that the office pins; a store that is busy; a quote with an abandon cause and its pin. -/
theorem witness_GrantLooksUp_refused :
    dirFind meterA ({ missPart with directory := [⟨meterA, 0, true⟩] } : State).directory = some ⟨meterA, 0, true⟩ ∧
    (let s := askingPart 20000 recordA (some .office)
     findLine meterA s = some 0 ∧ (s.line 0).pin = some .office ∧ Owner.office ≠ .slot 1 ∧
       findPinned (.slot 1) s = none) ∧
    ({ missPart with store := { missPart.store with service := .writing } } : State).store.service ≠ .idle ∧
    let s := (askingPart 20000 recordA (some (.slot 1))).modSlot 1 fun v =>
      { v with abandon := some .cancelled, pin := some meterA }
    (s.slot 1).state = .quoting ∧ (s.slot 1).quote = some taken ∧ (s.slot 1).abandon = some .cancelled ∧
      (s.slot 1).reprint = none ∧ s.receives (.till 1) = true ∧ findPinned (.slot 1) s = some 0 := by decide

theorem test_grant_closes_abandoned :
    let t := after .engineGrant ((askingPart 20000 recordA (some (.slot 1))).modSlot 1 fun v =>
      { v with abandon := some .cancelled, pin := some meterA })
    (t.slot 1).lastClosed = some (2118, .cancelled) ∧ (t.line 0).pin = none ∧ t.reserved = 0 := by decide

/-- The grant after a fetch: the slot holds its pin on the VALID line. -/
theorem witness_GrantOpensQuote_continues :
    let s := (askingPart 20000 recordA (some (.slot 1))).modSlot 1 fun v => { v with pin := some meterA }
    s.running = true ∧ s.arbiter.hold = .none ∧
      (grantOrder s.arbiter.pointer).find? (fun j => s.arbiter.pending.get j) = some 1 ∧
      (s.slot 1).state = .quoting ∧ (s.slot 1).quote = some taken ∧ (s.slot 1).abandon = none ∧
      (s.slot 1).reprint = none ∧ s.receives (.till 1) = true ∧ s.now = some noon ∧ (s.slot 1).pin = some meterA ∧
      findLine meterA s = some 0 ∧ (s.line 0).state = .valid ∧ (s.line 0).pin = some (.slot 1) ∧
      (s.line 0).record = some recordA ∧ 20000 ≤ s.site.budget - s.reserved ∧ s.roomForOffice = true := by decide

/-- The Commit Buffer is full, its head unit in service. -/
def fullPart (sv : Service) (ws : List Waiter) (s : State) : State := { s with
  buffer := [unit1, unit1, unit1, unit1], waiters := ws, store := { s.store with service := sv }
  journal := ⟨6050, 1⟩ }

/-- A SALE that waits at the head of the list. -/
def salePart : State :=
  fullPart .writing [⟨.sale 1, true⟩] (confirmPart.modSlot 1 fun v => { v with
    state := .posting
    quote := some { openQuote with replyTag := some 5, built := some ⟨some ⟨List.replicate 18 1, 42⟩, 11395⟩ } })

theorem witness_GrantPostsSale_waits :
    (let s := fullPart .idle [] confirmPart
     s.postsAtOnce = false ∧ s.running = true ∧ s.arbiter.hold = .none ∧ (s.slot 1).state = .confirming ∧
       s.now = some noon) ∧
    salePart.running = true ∧ (salePart.slot 1).reprint = none ∧ (salePart.slot 1).state = .posting ∧
      (salePart.slot 1).quote.any (fun q => q.built == some ⟨some ⟨List.replicate 18 1, 42⟩, 11395⟩ &&
        q.priced == some priced1 && q.reservedBudget == some q.tender && q.replyTag == some 5) = true ∧
      salePart.receives (.till 1) = true ∧ findLine meterA salePart = some 0 ∧ findPinned (.slot 1) salePart = some 0 ∧
      (salePart.line 0).record = some recordA ∧ salePart.buffer = unit1 :: [unit1, unit1, unit1] ∧
      [unit1, unit1, unit1].length < 4 ∧ salePart.waiters = ⟨.sale 1, true⟩ :: [] ∧
      salePart.store.service = .writing := by decide

theorem test_sale_posts_from_list :
    let t := after (.unitWriteComplete .verified) salePart
    t.waiters = [] ∧ t.buffer.length = 4 ∧ (t.slot 1).lastClosed = some (2118, .committed) ∧ t.site.budget = 980000 := by
  decide

/-- Slot 1 asks for a grant of a reprint or a repeat search, the meter's record in line 0 under the given pin. -/
def searchPart (req : ReprintRequest) (r : Record) (pin : Option Owner) : State :=
  waitingOn (.till 1) kindConfirm
    (withSlot ⟨.idle, none, none, none, some ⟨meterA, req, .lookup, some 5⟩, none, none⟩ (inLine r pin part))

/-- A search of the stored id, of an id found COMMITTED that has no entry, of one unknown; an index without an entry; a
RETIRED record; all with their lines hit. -/
theorem witness_GrantPostsReprint_clauses :
    (∀ x ∈ [(.repeatConfirm 9 false, recordA), (.repeatConfirm 7 true, recordA), (.repeatConfirm 7 false, recordA),
        (.reprint 1, recordA), (.reprint 0, { recordA with account := .retired })],
      let s := searchPart x.1 x.2 none
      s.running = true ∧ s.arbiter.hold = .none ∧
        (grantOrder s.arbiter.pointer).find? (fun j => s.arbiter.pending.get j) = some 1 ∧
        (s.slot 1).state = .idle ∧ (s.slot 1).quote.isSome = false ∧
        (s.slot 1).reprint = some ⟨meterA, x.1, .lookup, some 5⟩ ∧ s.receives (.till 1) = true ∧
        s.hits (.slot 1) meterA 0 x.2) ∧
    (recordA.recent[0]?.map (·.quoteId)) = some 9 ∧ (∀ x ∈ recordA.recent, x.quoteId ≠ 7) ∧ recordA.recent[1]? = none ∧
    recordA.account ≠ .retired := by decide

/-- A damaged entry, a line pinned by the office; a buffer that is full, with STORE_FAULT latched or not; no room. -/
theorem witness_GrantPostsReprint_waits :
    (let s := searchPart (.repeatConfirm 9 true) recordA (some .office)
     dirFind meterA ({ s with directory := [⟨meterA, 0, true⟩] } : State).directory = some ⟨meterA, 0, true⟩ ∧
       findLine meterA s = some 0 ∧ (s.line 0).pin = some .office ∧ Owner.office ≠ .slot 1) ∧
    (let s := fullPart .writing [] (searchPart (.repeatConfirm 9 false) recordA none)
     s.postsAtOnce = false ∧ s.roomForOffice = true ∧ s.store.faulted = false ∧ s.storeFaultLatched = false ∧
       ({ s with conditions := suspendedPart.conditions } : State).storeFaultLatched = true) ∧
    ({ searchPart (.reprint 0) recordA none with journal := ⟨6047, 8176⟩ } : State).roomForOffice = false := by decide

/-- No entry, a damaged entry, a line that slot 1 pins. -/
theorem witness_RecordChangePosts_refused :
    (let s := editPart .active
     dirFind 7 s.directory = none ∧ parseMeter (meterBody 7) = some 7 ∧ s.takes .office 5 (meterBody 7) ∧
       parseEdit (editBody ⟨7, some 9, none, none, none⟩) = some ⟨7, some 9, none, none, none⟩) ∧
    dirFind meterA damagedPart.directory = some ⟨meterA, 0, true⟩ ∧ damagedPart.editable ∧ damagedPart.holdAtRest ∧
    (let s := inLine recordA (some (.slot 1)) part
     findLine meterA s = some 0 ∧ (s.line 0).pin = some (.slot 1) ∧ Owner.slot 1 ≠ .office ∧ s.editable ∧
       s.holdAtRest ∧ s.takes .office 5 (meterBody meterA)) := by decide

/-- A STAGE that waits, its day reached; an UNSTAGE that waits, with no pending set, before the part's POWER_UP. -/
def roomPart (ws : List Waiter) : State :=
  waitingOn .office kindTariffStage (fullPart .rewriting ws { part with site := { site with businessDay := 11395 } })

/-- The SYSTEM units that can stand behind an office request. -/
def behind : List Waiter :=
  [⟨.tariffShift 8 11395, true⟩, ⟨.dayClose ⟨11394, Counts.zero, none, none⟩, true⟩,
   ⟨.powerUp ⟨1, none, some noon, .supply, none, none⟩, true⟩]

theorem witness_SetCompletes_room :
    (∀ w ∈ behind, (w.systemUnit (roomPart [])).isSome = true) ∧
    ∀ w ∈ [(⟨.tariffStage site.active 11395, true⟩ : Waiter), ⟨.tariffUnstage, true⟩], ∀ ws ∈ [] :: behind.map ([·]),
      let s := roomPart (w :: ws)
      s.receives .office = true ∧ s.officePort.outstanding = some ⟨5, kindTariffStage⟩ ∧
        s.buffer = unit1 :: [unit1, unit1, unit1] ∧ s.store.service = .rewriting ∧ s.waiters = w :: ws ∧
        11395 ≤ s.site.businessDay ∧ s.arbiter.hold ≠ .pending ∧ s.site.pendingSet = none := by decide

theorem test_room_refuses_unstage :
    let t := after (.unitWriteComplete .verified) (roomPart [⟨.tariffUnstage, true⟩, ⟨.tariffShift 8 11395, true⟩])
    t.waiters = [] ∧ t.buffer.length = 4 ∧ t.buffer.getLast?.map (·.kind) = some .system := by decide

theorem test_room_refuses_stage :
    let t := after (.unitWriteComplete .verified) (roomPart [⟨.tariffStage site.active 11395, true⟩])
    t.waiters = [] ∧ t.buffer.length = 3 ∧ t.journal.reservations = 0 := by decide

/-- A voucher for which the buffer has no room; one that waits; a list with one unit that STORE_FAULT withdraws. -/
theorem witness_VoucherPosts_waits :
    (let s := fullPart .writing [] voucherPart
     s.takes .office 5 (voucherBody 5 1) ∧ s.editable ∧ s.postsAtOnce = false ∧ s.roomForOffice = true ∧
       s.store.faulted = false ∧ s.holdAtRest) ∧
    ∀ ws ∈ [[⟨.voucher 5 1, true⟩], [⟨.dayClose ⟨11394, Counts.zero, none, none⟩, true⟩, ⟨.voucher 5 1, true⟩]],
      let s := roomPart ws
      s.receives .office = true ∧ s.officePort.outstanding = some ⟨5, kindTariffStage⟩ ∧
        s.buffer = unit1 :: [unit1, unit1, unit1] ∧ s.store.service = .rewriting ∧ s.arbiter.hold ≠ .pending ∧
        s.waiters.filter (fun w => w.job.withdrawable) = [⟨.voucher 5 1, true⟩] := by decide

theorem test_voucher_withdrawn :
    let t := after (.unitWriteComplete (.failed false)) (roomPart [⟨.voucher 5 1, true⟩])
    t.waiters = [] ∧ t.journal.reservations = 0 ∧ t.store.faulted = true ∧ t.site.budget = 1000000 := by decide

/-- A later day set on a COMMISSIONED part: with a quote OPEN, one FETCHING, a pending set reached and one not. -/
theorem witness_ClockSetPosts_rolls :
    (∀ s ∈ [part, openPart, quotePart .fetching, stagedPart],
      s.takes .office 5 (dateTimeBytes ⟨11396, 5⟩) ∧ s.storeFaultLatched = false ∧ s.site.businessDay < 11396 ∧
        s.commissioned = true ∧ s.ready) ∧
    parseClock (dateTimeBytes ⟨11396, 5⟩) = some ⟨11396, 5⟩ ∧
    stagedPart.site.pendingSet.map (·.effectiveDay) = some 11396 ∧ part.buffer.length < 3 ∧ part.site.pendingSet = none ∧
    (∀ k, (part.slot k).state ≠ .opened ∧ (part.slot k).state ≠ .quoting ∧ (part.slot k).state ≠ .fetching) := by decide

/-- A CLOCK_SET for which the buffer has no room. -/
theorem witness_ClockSetPosts_waits :
    let s := fullPart .writing [] part
    s.takes .office 5 (dateTimeBytes ⟨11396, 5⟩) ∧ s.storeFaultLatched = false ∧ s.site.businessDay ≤ 11396 ∧
      s.commissioned = true ∧ s.postsAtOnce = false ∧ s.roomForOffice = true ∧ s.store.faulted = false ∧
      s.holdAtRest := by decide

/-- A CLOCK_SET that is offered room, alone and before a SYSTEM unit: its seconds leave the day, pass midnight, or stay
before the business day; the rewrite that fails. -/
theorem witness_ClockSetPosts_room :
    ∀ ws ∈ [] :: behind.map ([·]), ∀ v ∈ [(⟨11395, 86389⟩ : DateTime), ⟨11395, 86390⟩, ⟨11394, 86389⟩],
      let s := roomPart (⟨.clockSet (some noon) v 10, true⟩ :: ws)
      s.receives .office = true ∧ s.officePort.outstanding = some ⟨5, kindTariffStage⟩ ∧
        s.buffer = unit1 :: [unit1, unit1, unit1] ∧ s.waiters = ⟨.clockSet (some noon) v 10, true⟩ :: ws ∧
        s.store.service = .rewriting ∧ s.arbiter.hold ≠ .pending ∧ s.commissioned = true ∧ s.site.businessDay = 11395 ∧
        ws.all (fun w => !w.job.withdrawable) = true := by decide

theorem test_clockSet_posts_later :
    let t := after (.unitWriteComplete .verified) (roomPart [⟨.clockSet (some noon) ⟨11395, 86390⟩ 10, true⟩])
    t.calendar = ⟨some ⟨11396, 0⟩, true⟩ ∧ t.site.businessDay = 11396 ∧ t.waiters.length = 1 := by decide +kernel

theorem test_clockSet_backward_at_room :
    let t := after (.unitWriteComplete .verified) (roomPart [⟨.clockSet (some noon) ⟨11394, 86389⟩ 10, true⟩])
    t.calendar = part.calendar ∧ t.waiters = [] ∧ t.journal.reservations = 0 := by decide

/-- The TARIFF_SHIFT unit of a rollover carries the new business day with totals of 0 (R152, R155). -/
theorem test_rollover_shift_image :
    let s := duePart stagedPart
    let t := after .dayRollover { s with site := { s.site with dayTotals := ⟨3, 1, 500, 60, 7⟩ } }
    t.buffer.map (fun u => (u.image.businessDay, u.image.dayTotals)) =
      List.replicate 2 (11396, ⟨0, 0, 0, 0, 0⟩) := by decide

/-- A PENDING hold whose request waits, one unit in the buffer; the same when the store fails its rewrite. -/
def pendingHoldPart (sv : Service) : State :=
  waitingOn .office kindHoldRequest { writingPart sv with arbiter := { part.arbiter with hold := .pending } }

theorem witness_OfficeHold_granted :
    ∀ sv ∈ [Service.writing, .rewriting],
      let s := pendingHoldPart sv
      s.holdAtRest ∧ s.receives .office = true ∧ s.officePort.outstanding = some ⟨5, kindHoldRequest⟩ ∧
        s.arbiter.hold = .pending ∧ s.buffer = unit1 :: [] ∧ s.waiters = [] ∧ s.store.service = sv := by decide

theorem test_hold_at_last_unit :
    (after (.unitWriteComplete .verified) (pendingHoldPart .writing)).arbiter.hold = .held ∧
      (after (.unitWriteComplete (.failed true)) (pendingHoldPart .rewriting)).arbiter.hold = .none := by decide

theorem witness_LineFrames_kind : isRequestKind (.till 1) 0x7F = false ∧ isRequestKind .office 0x7F = false := by decide

/-- No room for the DAY_CLOSE unit, with a place for its entry; a DAY_CLOSE unit at the head of the list. -/
theorem witness_DayRollover_waits :
    (let s := duePart (fullPart .writing [] part)
     s.holdAtRest ∧ s.running = true ∧ s.now = some ⟨11396, 0⟩ ∧ s.commissioned = true ∧ s.site.pendingSet = none ∧
       s.postsAtOnce = false ∧ 0 < s.salesFree) ∧
    (let s := roomPart [⟨.dayClose ⟨11394, Counts.zero, none, none⟩, true⟩]
     s.holdAtRest ∧ s.running = true ∧ s.buffer = unit1 :: [unit1, unit1, unit1] ∧ s.store.service = .rewriting) := by
  decide

/-- A FETCHING quote with an abandon cause, its record good, and damaged. -/
theorem witness_FetchCompletes_abandoned :
    ∀ v ∈ [[(0, ⟨recordA, some recordA⟩)], [(0, ⟨recordA, none⟩)]],
      let s := (slotFetchPart v).modSlot 1 fun v => { v with abandon := some .cancelled }
      s.running = true ∧ s.holdAtRest ∧ s.store.service = .reading (.record 0 meterA 0) ∧ findLine meterA s = some 0 ∧
        s.line 0 = ⟨.filling, some meterA, some (.slot 1), 0, none⟩ ∧ findPinned (.slot 1) s = some 0 ∧
        (s.slot 1).state = .fetching ∧ (s.slot 1).quote = some taken ∧ (s.slot 1).abandon = some .cancelled ∧
        (s.slot 1).reprint = none ∧ s.receives (.till 1) = true := by decide

theorem test_fetch_closes_abandoned :
    let t := after (.recordFetchComplete false) ((slotFetchPart [(0, ⟨recordA, some recordA⟩)]).modSlot 1 fun v =>
      { v with abandon := some .cancelled })
    (t.slot 1).lastClosed = some (2118, .cancelled) ∧ t.line 0 = ⟨.valid, some meterA, none, 0, some recordA⟩ := by decide

/-- A reprint waits for the fetch. -/
theorem witness_FetchCompletes_reprint :
    let s := (slotFetchPart [(0, ⟨recordA, some recordA⟩)]).setSlot 1
      ⟨.idle, none, none, none, some ⟨meterA, .reprint 0, .fetching, some 5⟩, none, some meterA⟩
    s.running = true ∧ s.holdAtRest ∧ s.store.service = .reading (.record 0 meterA 0) ∧
      s.line 0 = ⟨.filling, some meterA, some (.slot 1), 0, none⟩ ∧ findPinned (.slot 1) s = some 0 ∧
      (s.slot 1).state = .idle ∧ (s.slot 1).quote = none ∧
      (s.slot 1).reprint = some ⟨meterA, .reprint 0, .fetching, some 5⟩ ∧ s.receives (.till 1) = true := by decide

/-- An office request waits for the fetch of an account's record, its lastSeq below the release point or not. -/
def officeFetchPart (req : RecordRequest) (a : AccountState) (s : State) : State :=
  { waitingOn .office kindMeterEdit (fetchPart .office [(0, ⟨{ recordA with account := a }, some { recordA with account := a }⟩)] s)
    with officeRequest := some req }

/-- The hold is held, and every entry of the journal is released. -/
def releasedPart : State := { heldPart with site := { site with releasePoint := 5000 } }

/-- Each record request, each state: posting at once, without room in the buffer or the journal, with STORE_FAULT. -/
theorem witness_FetchCompletes_office :
    (∀ req ∈ [RecordRequest.edit ⟨meterA, some 9, none, none, none⟩,
        .edit ⟨meterA, some recordA.tariffIndex, none, none, none⟩, .block meterA, .unblock meterA, .retire meterA,
        .purge meterA, .read meterA], ∀ a ∈ [AccountState.active, .blocked, .retired], ∀ y ∈ [part, heldPart, releasedPart],
      let s := officeFetchPart req a y
      s.running = true ∧ s.holdAtRest ∧ s.store.service = .reading (.record 0 meterA 0) ∧ findLine meterA s = some 0 ∧
        s.line 0 = ⟨.filling, some meterA, some .office, 0, none⟩ ∧ findPinned .office s = some 0 ∧
        s.officeRequest = some req ∧ req.meter = meterA ∧ s.receives .office = true ∧
        s.officePort.outstanding = some ⟨5, kindMeterEdit⟩ ∧
        slotGet 0 s.store.slots = some ⟨{ recordA with account := a }, some { recordA with account := a }⟩ ∧
        s.ready ∧ s.working.recency.Perm allLines) ∧
    heldPart.site.releasePoint < recordA.lastSeq ∧ recordA.lastSeq ≤ releasedPart.site.releasePoint ∧
    (let s := officeFetchPart (.block meterA) .active (fullPart .writing [] part)
     s.roomForOffice = true ∧ s.postsAtOnce = false ∧ s.storeFaultLatched = false ∧ s.store.faulted = false) ∧
    (let s := officeFetchPart (.block meterA) .active { fullPart .writing [] part with conditions := suspendedPart.conditions }
     s.roomForOffice = true ∧ s.postsAtOnce = false ∧ s.storeFaultLatched = true) ∧
    (officeFetchPart (.block meterA) .active { part with journal := ⟨6047, 8176⟩ }).roomForOffice = false := by decide

theorem test_fetch_blocks :
    let t := after (.recordFetchComplete false) (officeFetchPart (.block meterA) .active part)
    ((t.line 0).record.map (·.account), t.officeRequest, t.buffer.length) = (some .blocked, none, 1) := by decide

theorem test_fetch_purge_not_held :
    let t := after (.recordFetchComplete false) (officeFetchPart (.purge meterA) .retired part)
    (t.line 0).pin = none ∧ t.buffer = [] ∧ t.officeRequest = none := by decide

/-- An operation in progress at the entry to HOLD: a fetch, an area read, a unit's write, a retry; no unit, and one. -/
theorem witness_DrainAndHoldCell_settling :
    ∀ sv ∈ [Service.reading (.record 0 meterA 0), .reading (.summary 0), .writing, .rewriting, .retrying false,
        .retrying true], ∀ b ∈ [[], [unit1]],
      let s := drainPart sv .settling b
      s.supply.state = .hold ∧ s.supply.holdRecord = some ⟨none, .supply, some noon, 0, none, none, 0⟩ ∧
        s.supply.drain = .settling ∧ s.store.service = sv ∧ s.buffer = b := by decide

theorem test_settling_write_begins_drain :
    let t := after (.unitWriteComplete (.failed true)) (drainPart .rewriting .settling [unit1])
    t.supply.drain = .lastTry ∧ t.store.faulted = true ∧ t.store.service = .writing ∧ t.buffer = [unit1] := by decide

/-- A part whose kept image is BLANK, with the hold cell of its outage. -/
def bootBlankPart : State := { bootPart (some { cell1 with unloggedRaise := 3 }) with
  store := { (bootPart (some { cell1 with unloggedRaise := 3 })).store with
    image := ⟨some { SiteState.blank with businessDay := 11395 }, none, some .first⟩ } }

theorem witness_StartUp_blank_image :
    bootBlankPart.supply.state = .start ∧ bootBlankPart.supply.started = false ∧
      bootBlankPart.store.image.image = some { SiteState.blank with businessDay := 11395 } ∧
      SiteState.blank.siteCode = none ∧ SiteState.blank.unlogged = 0 ∧ bootBlankPart.cell = ⟨true, some noon⟩ ∧
      inRange noon = true := by decide

/-- R137, R191: the hold cell's raise leaves a BLANK part's count of unlogged entries at 0. -/
theorem test_blank_image_raises_nothing :
    let t := after .startUp bootBlankPart
    t.site.unlogged = 0 ∧ t.site.outageNumber = 1 ∧ t.commissioned = false ∧ t.buffer = [] := by decide

/-- A later day at start-up; with a pending set reached; with no place for POWER_UP; and a BLANK part's. -/
theorem witness_StartUp_rollover :
    (∀ c ∈ [some cell1, none], ∀ v ∈ [site, { site with pendingSet := some ⟨site.active, 11396⟩ }],
      let s : State := { bootPart c with
        cell := ⟨true, some ⟨11396, 0⟩⟩, store := { (bootPart c).store with image := ⟨some v, none, some .first⟩ } }
      s.store.image.image = some v ∧ v.siteCode = some (List.replicate 32 3) ∧ v.businessDay < 11396 ∧
        inRange ⟨11396, 0⟩ = true ∧ s.newestDurable.getD 0 + 3 < 4294967295 ∧ (s.store.journal.filter fun e =>
          decide (v.releasePoint < e.seq)).length + 2 < 8192) ∧
    (let s : State := { bootPart none with
      store := { (bootPart none).store with journal := [entryAt 4294967294] } }
     4294967295 ≤ s.newestDurable.getD 0 + 1) ∧
    SiteState.blank.businessDay < 11396 ∧ SiteState.blank.pendingSet = none := by decide

/-! ### Refusals and outcomes of the till requests: their hypotheses are met -/

/-- The calendar is not set. -/
def unsetPart : State := { part with calendar := ⟨none, false⟩ }

/-- Each request that needs the calendar, without it; a QUOTE at a slot that is OPEN, and at one with a reprint. -/
theorem witness_QuoteTaken_refused :
    unsetPart.takes (.till 1) 5 (quoteBody meterA 20000) ∧ unsetPart.takes (.till 1) 5 (confirmBody meterA 2118) ∧
      unsetPart.takes (.till 1) 5 (reprintBody meterA 0) ∧ unsetPart.takes .office 5 (enrolBody 7 2 true 60 100) ∧
      unsetPart.calendar.valid = false ∧ unsetPart.commissioned = true ∧ unsetPart.holdAtRest ∧
      (openPart.slot 1).state ≠ .idle ∧ openPart.takes (.till 1) 5 (quoteBody meterA 20000) ∧
      (let s := part.setSlot 1 ⟨.idle, none, none, none, some ⟨meterA, .reprint 0, .posting, none⟩, none, some meterA⟩
       s.takes (.till 1) 5 (quoteBody meterA 20000) ∧ (s.slot 1).state = .idle ∧ (s.slot 1).reprint ≠ none) := by decide

/-- The QUOTE of slot 1 was ended by its link made OFF, and the link is ACTIVE again; the slot in the given state. -/
def endedPart (st : SlotState) : State := part.setSlot 1 ⟨st, some taken, none, none, none, none, none⟩

theorem witness_ConfirmTaken_states :
    ∀ st ∈ [SlotState.quoting, .fetching, .confirming, .posting],
      (endedPart st).takes (.till 1) 5 (confirmBody meterA 2118) ∧ (endedPart st).takes (.till 1) 5 (cancelBody 2118) ∧
      (endedPart st).commissioned = true ∧ (endedPart st).holdAtRest ∧ (endedPart st).calendar.valid = true ∧
      (endedPart st).storeFaultLatched = false ∧ ((endedPart st).slot 1).quote = some taken ∧ taken.id = 2118 ∧
      ((endedPart st).slot 1).state = st := by decide

/-- A CANCEL of a last-closed id, and of one that the slot knows nothing of; the same beside an outstanding request. -/
theorem witness_OpenQuoteCloses_none :
    (∀ o ∈ [CloseOutcome.committed, .expired, .linkOff], (closedPart o).takes (.till 1) 5 (cancelBody 2118) ∧
      (closedPart o).commissioned = true ∧ (closedPart o).holdAtRest ∧ ((closedPart o).slot 1).quote = none ∧
      ((closedPart o).slot 1).lastClosed = some (2118, o)) ∧
    (part.slot 1).lastClosed = none ∧ openPart.takes (.till 1) 5 (cancelBody 7) ∧ openQuote.id ≠ 7 ∧ (7 : Nat) ≠ 0 ∧
    (openPart.slot 1).lastClosed = none ∧ parseCancel (cancelBody 7) = some 7 ∧
    (let s := waitingOn (.till 1) kindReprint (closedPart .expired)
     s.receives (.till 1) = true ∧ (s.port (.till 1)).outstanding = some ⟨5, kindReprint⟩ ∧
       (s.port (.till 1)).roomForImmediate = true ∧ (s.slot 1).quote = none ∧ s.commissioned = true ∧ s.holdAtRest) := by
  decide

/-- An OPEN quote beside a reprint that holds the pin. -/
theorem witness_CancelWhileOutstanding_open :
    openReprintPart.receives (.till 1) = true ∧ (openReprintPart.port (.till 1)).settingsWaiting = false ∧
      (openReprintPart.port (.till 1)).outstanding = some ⟨5, kindReprint⟩ ∧
      (openReprintPart.port (.till 1)).roomForImmediate = true ∧ openReprintPart.commissioned = true ∧
      (openReprintPart.slot 1).quote = some openQuote ∧ (openReprintPart.slot 1).state = .opened ∧
      openReprintPart.holdAtRest := by decide

theorem test_cancel_last_closed :
    ((after (.cancel 1 5 (cancelBody 2118)) (closedPart .expired)).replies (.till 1)) =
      [replyFrame 5 (.refused .quoteExpired kindCancel 2118 3)] := by decide

/-! ### The continuation of a quote after its fetch, and replies that are discarded -/

/-- Slot 1 goes on with a quote of the tender after its fetch, the meter's record under its pin. -/
def continuedPart (tender : Nat) (r : Record) : State :=
  (askingPart tender r (some (.slot 1))).modSlot 1 fun v => { v with pin := some meterA }

/-- The refusals of the continuation, as those of a hit. -/
theorem witness_GrantLooksUp_continues :
    ∀ x ∈ [(20000, { recordA with account := .blocked }), (20000, { recordA with account := .retired }),
        (20000, { recordA with tariffIndex := 0 }), (0, recordA), (2000, record2), (20000, recordA)],
      let s := continuedPart x.1 x.2
      s.running = true ∧ s.arbiter.hold = .none ∧
        (grantOrder s.arbiter.pointer).find? (fun j => s.arbiter.pending.get j) = some 1 ∧
        (s.slot 1).state = .quoting ∧ (s.slot 1).quote = some { taken with tender := x.1 } ∧
        (s.slot 1).reprint = none ∧ (s.slot 1).abandon = none ∧ (s.slot 1).pin = some meterA ∧
        s.pins (.slot 1) meterA 0 x.2 ∧ s.now = some noon ∧ taken.reservedBudget = none ∧
        taken.journalReservation = false := by decide

/-- The budget holds one cent less than the tender at the continuation. -/
theorem witness_GrantBudgetShort_continues :
    let s : State := { continuedPart 20000 recordA with site := { site with budget := 19999 } }
    (s.slot 1).pin = some meterA ∧ s.pins (.slot 1) meterA 0 recordA ∧
      priceQuote recordA entry2 s.site.generation (monthTagOf noon.day) 20000 = .ok priced1 ∧
      s.site.budget - s.reserved < 20000 := by decide +kernel

/-- A quote, a confirmed quote and a reprint whose request a link made OFF has ended; one whose link is in FAULT. -/
theorem witness_tillReplied :
    (let s := (askingPart 20000 recordA none).modSlot 1 fun v => { v with quote := some { taken with replyTag := none } }
     (s.slot 1).quote = some { taken with replyTag := none } ∧ s.hits (.slot 1) meterA 0 recordA) ∧
    (confirmPart.modSlot 1 fun v => { v with quote := some openQuote }).slot 1 =
      ⟨.confirming, some openQuote, none, none, none, none, some meterA⟩ ∧ openQuote.replyTag = none ∧
    (let s := reprintPart.modSlot 1 fun v => { v with reprint := some ⟨meterA, .reprint 0, .lookup, none⟩ }
     (s.slot 1).reprint = some ⟨meterA, .reprint 0, .lookup, none⟩ ∧ s.hits (.slot 1) meterA 0 recordA) ∧
    (quotingPart.modPort (.till 1) fun q => { q with link := .fault }).receives (.till 1) = false := by decide

/-! ### Office record requests that miss -/

/-- No line for the meter, the store idle and the store busy, within the office hold. -/
theorem witness_missesFor :
    ∀ sv ∈ [Service.idle, .reading (.summary 0)],
      let s : State := { heldPart with store := { part.store with service := sv } }
      s.takes .office 5 (meterBody meterA) ∧ s.editable ∧ s.holdAtRest ∧ s.arbiter.hold = .held ∧
        dirFind meterA s.directory = some ⟨meterA, 0, false⟩ ∧ findLine meterA s = none ∧ victim s = 0 ∧
        parseMeter (meterBody meterA) = some meterA ∧ s.takes .office 5 (editBody ⟨meterA, some 9, none, none, none⟩) ∧
        s.buffer = [] ∧ s.store.queue = [] ∧ s.store.retryWaiting = false := by decide

theorem test_meterRead_misses :
    let t := after (.meterRead 5 (meterBody meterA)) part
    t.line 0 = ⟨.filling, some meterA, some .office, 0, none⟩ ∧ t.store.service = .reading (.record 0 meterA 0) ∧
      t.officeRequest = some (.read meterA) := by decide

/-- METER_READ of a meter whose line is FILLING, of a damaged entry and of an absent number. -/
theorem witness_ReadsAnswered_refused :
    (let s := part.setLine 0 ⟨.filling, some meterA, some (.slot 1), 0, none⟩
     s.takes .office 5 (meterBody meterA) ∧ s.commissioned = true ∧ s.holdAtRest ∧ findLine meterA s = some 0 ∧
       (s.line 0).record = none ∧ dirFind meterA s.directory = some ⟨meterA, 0, false⟩) ∧
    dirFind meterA damagedPart.directory = some ⟨meterA, 0, true⟩ ∧ damagedPart.takes .office 5 (meterBody meterA) ∧
    dirFind 7 part.directory = none ∧ part.takes .office 5 (meterBody 7) := by decide

/-! ### A till link made OFF -/

/-- Till 1's link is ACTIVE and enabled, its slot in the given state; and the same with settings that disable it waiting. -/
def enabledPart (st : SlotState) : State :=
  { quotePart st with site := { site with links := site.links.set 1 ⟨true, .r19200⟩ } }

def cutPart (st : SlotState) : State :=
  { (quotePart st).modPort (.till 1) fun q => { q with settingsWaiting := true, receiver := .receiving } with
    site := { site with links := site.links.set 1 ⟨false, .r9600⟩ } }

theorem witness_LinkSetPosts_off :
    ∀ st ∈ [SlotState.idle, .quoting, .fetching, .opened, .confirming, .posting],
      (enabledPart st).takes .office 5 (linkSetBody 1 ⟨false, .r9600⟩) ∧
      parseLinkSet (linkSetBody 1 ⟨false, .r9600⟩) = some (1, ⟨false, .r9600⟩) ∧
      (enabledPart st).storeFaultLatched = false ∧ ⟨false, .r9600⟩ ≠ (enabledPart st).site.links.get 1 ∧
      ((enabledPart st).port (.till 1)).settingsWaiting = false ∧ ((enabledPart st).port (.till 1)).link ≠ .off ∧
      (enabledPart st).postsAtOnce = true ∧ (enabledPart st).roomForOffice = true ∧
      ((enabledPart st).slot 1).state = st := by decide

/-- A link in FAULT takes its settings at once. -/
theorem witness_LinkSetPosts_fault :
    (((enabledPart .quoting).modPort (.till 1) fun q => { q with link := .fault }).port (.till 1)).link = .fault := by decide

theorem witness_LinkEvents_cut :
    (∀ st ∈ [SlotState.quoting, .fetching, .confirming, .posting],
      (cutPart st).holdAtRest ∧ (cutPart st).running = true ∧ ((cutPart st).port (.till 1)).settingsWaiting = true ∧
      ((cutPart st).site.links.get 1).enabled = false ∧ ((cutPart st).port (.till 1)).link ≠ .off ∧
      ((cutPart st).slot 1).state = st ∧ ((cutPart st).slot 1).openQuote? = none) ∧
    (settingsOpenPart.slot 1).openQuote? = some openQuote ∧
    (let s := (cutPart .idle).modPort (.till 1) fun q => { q with link := .off }
     (s.port (.till 1)).link = .off ∧ (s.port (.till 1)).settingsWaiting = true) := by decide

/-- R77: a QUOTING quote is abandoned, its request ended; a CONFIRMING one goes on, its reply discarded. -/
theorem test_linkSettingsTaken_cuts :
    (after (.linkSettingsTaken 1) (cutPart .quoting)).slot 1 =
        ⟨.quoting, some { taken with replyTag := none }, some .linkOff, none, none, none, none⟩ ∧
      (after (.linkSettingsTaken 1) (cutPart .confirming)).slot 1 =
        ⟨.confirming, some { taken with replyTag := none }, none, none, none, none, none⟩ ∧
      ((after (.linkSettingsTaken 1) (cutPart .quoting)).port (.till 1)).outstanding = none := by decide

/-! ### The hold, the supply and the rollover -/

/-- A grant within a HELD hold, and within a PENDING one, its slot waiting. -/
theorem witness_OfficeHold_grant :
    ∀ h ∈ [HoldState.pending, .held],
      let s : State := { bufferPart with arbiter := { part.arbiter with hold := h, pending := #v[false, true, false, false] } }
      s.holdAtRest ∧ s.arbiter.hold ≠ .none ∧ s.arbiter.pending.get 1 = true := by decide

/-- A notice is pending behind a frame in transmission at the entry to HOLD. -/
def noticePart : State := part.setPort .office { part.officePort with
  transmitting := some ⟨replyFrame 5 .releaseOk, .r19200⟩, order := [.notice .budgetLow] }

theorem witness_SupplyEvents_notices :
    noticePart.holdAtRest ∧ noticePart.supply.state = .run ∧ noticePart.noticePending .budgetLow = true := by decide

theorem test_hold_drops_notices :
    let t := after .resetAsserted noticePart
    t.noticePending .budgetLow = false ∧ t.officePort.transmitting = some ⟨replyFrame 5 .releaseOk, .r19200⟩ := by decide

/-- START after its own comparison, on a COMMISSIONED and on a BLANK part. -/
def startPart (s : State) : State := { s with supply := ⟨.start, true, false, none, .none, true, .supply⟩ }

/-- In START; a BLANK part with room, without room, and with a pending set reached; START before its comparison. -/
theorem witness_DayRollover_start :
    (∀ s ∈ [duePart part, duePart openPart, startPart (duePart part), duePart blankPart, startPart (duePart blankPart)],
      s.holdAtRest ∧ s.takesArisings = true ∧ s.now = some ⟨11396, 0⟩ ∧ s.site.businessDay < 11396) ∧
    blankPart.commissioned = false ∧ blankPart.postsAtOnce = true ∧ blankPart.site.pendingSet = none ∧
    (fullPart .writing [] blankPart).postsAtOnce = false ∧ (∀ k, (blankPart.slot k).state = .idle) ∧
    (∀ k, ((startPart (duePart part)).slot k).state = .idle) ∧
    (let s := duePart { blankPart with site := { blankPart.site with pendingSet := some ⟨site.active, 11396⟩ } }
     s.site.pendingSet.map (·.effectiveDay) = some 11396 ∧ s.waiters = [] ∧ s.buffer.length < 3) ∧
    (supplyPart .start false).takesArisings = false ∧ (supplyPart .hold false).takesArisings = false := by decide

theorem witness_DayRollover_image_only :
    let s := roomPart [⟨.imageOnly, false⟩]
    s.running = true ∧ s.buffer = unit1 :: [unit1, unit1, unit1] ∧ s.waiters = ⟨.imageOnly, false⟩ :: [] ∧
      s.store.service = .rewriting := by decide

/-! ### The end of a step, and the levels -/

/-- The Record Store's choices of R109: a STORE_RETRY, a full buffer, the oldest fetch, a unit, no write while FAULTED. -/
theorem test_choice_of_R109 :
    let q : List Fetch := [.summary 0, .summary 1]
    RecordStore.choice true 4 true q = (.retrying false, false, q) ∧
      RecordStore.choice false 4 false q = (.writing, false, q) ∧
      RecordStore.choice false 3 false q = (.reading (.summary 0), false, [.summary 1]) ∧
      RecordStore.choice true 4 false q = (.reading (.summary 0), false, [.summary 1]) ∧
      RecordStore.choice false 1 false [] = (.writing, false, []) ∧ RecordStore.choice true 4 false [] = (.idle, false, []) := by
  decide

/-- A completing command, a first failure and a command that only waits; a retry that waits, an idle store. -/
theorem witness_StepEndsSettled_service :
    (writingPart .writing).completes (.unitWriteComplete .verified) ∧
      (writingPart .rewriting).completes (.unitWriteComplete (.failed true)) ∧
      (writingPart .writing).tryAgain (.unitWriteComplete (.failed true)) = some .rewriting ∧
      ¬(writingPart .writing).completes (.unitWriteComplete (.failed true)) ∧ ¬part.completes .engineGrant ∧
      (after (.unitWriteComplete .verified) (writingPart .writing)).running = true ∧
      (∃ f, (readingPart (.summary 0)).store.service = .reading f ∧ f.isArea = true) ∧
      (readingPart (.summary 0)).completes .areaReadComplete := by
  refine ⟨⟨by decide, rfl⟩, ⟨by decide, _, rfl⟩, rfl, ?_, ?_, by decide, ⟨_, rfl, rfl⟩, rfl⟩
  · rintro ⟨_, h⟩; cases h
  · intro h; exact h

/-- A fetch ends with a full buffer, and the unit goes before the fetch that waits; R109. -/
theorem test_full_buffer_before_fetch :
    let s := fullPart (.reading (.summary 0)) [] journalPart
    (after .areaReadComplete { s with store := { s.store with queue := [.summary 1] } }).store.work =
      (.writing, false, [.summary 1]) := by decide

/-- The part's levels told as they stand; BUDGET_LOW is absent, and its enable is on. -/
theorem witness_LevelsReported :
    part.takesArisings = true ∧ part.levelOf .budgetLow = false ∧ conditionBit part.site.mask .budgetLow = true ∧
      (let t := after (.budgetFloorSet 5 (floorBody 1000001)) part
       t.takesArisings = true ∧ t.levelOf .budgetLow = true ∧ conditionBit t.site.mask .budgetLow = true ∧
         (∀ c ∈ allConditions, c.isLevel = true →
           conditionBit part.conditions.levels c = part.levelOf c ∧ (part.levelOf c = true → part.latched c = true))) := by
  decide

theorem witness_LevelsReported_law : LevelLaw queued ∧ queued.noticesOnce := by
  refine ⟨fun _ c hc => ?_, fun c => ?_⟩ <;> cases c <;> first | (cases hc; done) | decide

/-- R171: a floor above B − R makes BUDGET_LOW arise, and its notice is sent. -/
theorem test_floor_raises_budgetLow :
    let t := after (.budgetFloorSet 5 (floorBody 1000001)) part
    t.latched .budgetLow = true ∧ t.officePort.transmitting.map (fun f => (f.frame.kind, f.frame.body.take 1)) =
      some (kindNotice, [3]) := by decide

/-- An event that latches: a till link's FAULT, the lapse of the hold, a shift, the end of start-up. -/
theorem witness_LevelsReported_events :
    (∃ t, exec (.linkEntersFault (.till 1)) part = .next t ∧ part.latched .lineFault = false ∧ t.latched .lineFault = true) ∧
      (∃ t, exec .dayRollover (duePart stagedPart) = .next t ∧ (duePart stagedPart).latched .tariffShifted = false ∧
        t.latched .tariffShifted = true) :=
  ⟨⟨_, rfl, by decide⟩, ⟨_, rfl, by decide⟩⟩

/-! ### The queue's front from outside -/

/-- No row of the table has bits: no word spells a command. -/
theorem test_no_word_spells_a_command : decodeTableWord 8 0 = none ∧ State.reset.withFetchWord 8 0 = State.reset := by
  decide

end Sys2Proof.Machine.Tests
end

section
/-! SUPPORT. The record slots: what every operation keeps of the directory, the store's slot list and the slots named
(R9, R10). -/

namespace Sys2Proof.Machine

/-- The record slots of the METER_ENROL units that wait (R10). -/
def State.enrolling (s : State) : List Nat := s.waiters.filterMap fun w => w.job.enrolSlot

/-- The directory and the store in their order and, where `p` holds, the law of the record slots. The order is kept
without that law (`p` false), the law with the order beside it (`p` true): one lemma for an operation gives both. -/
structure SlotLaws (p : Prop) (s : State) : Prop where
  sorted : DirectoryLaw s
  distinct : p → s.takenSlots.Nodup
  bounded : p → ∀ n ∈ s.namedSlots, n < recordSlots

/-- A step from `s` to `t` that orders nothing anew and names no record slot that was not named. -/
structure Narrows (s t : State) : Prop where
  directory : (t.directory.map fun e => (e.meter, e.slot)).Sublist (s.directory.map fun e => (e.meter, e.slot))
  enrolling : t.enrolling.Sublist s.enrolling
  stored : (t.store.slots.map (·.1)).Sublist (s.store.slots.map (·.1))
  named : t.namedSlots ⊆ s.namedSlots

section

variable {p : Prop} {s t : State}

theorem takenSlots_eq (s : State) : s.takenSlots = s.directory.map (·.slot) ++ s.enrolling := rfl

theorem mem_namedSlots {n : Nat} : n ∈ s.namedSlots ↔ n ∈ s.takenSlots ∨ n ∈ s.store.slots.map (·.1) ∨
    n ∈ s.waiters.filterMap (·.job.recordSlot) ∨ n ∈ s.buffer.filterMap (fun u => u.part.map (·.slot)) ∨
    n ∈ s.store.fetches.filterMap Fetch.recordSlot := by
  simp only [State.namedSlots, List.mem_append, or_assoc]

theorem directorySlots_sublist (h : (t.directory.map fun e => (e.meter, e.slot)).Sublist
    (s.directory.map fun e => (e.meter, e.slot))) : (t.directory.map (·.slot)).Sublist (s.directory.map (·.slot)) := by
  have := h.map Prod.snd
  rwa [List.map_map, List.map_map] at this

/-- A step narrows the slots where each part that names some narrows them. -/
theorem Narrows.of_parts
    (hd : (t.directory.map fun e => (e.meter, e.slot)).Sublist (s.directory.map fun e => (e.meter, e.slot)))
    (he : t.enrolling.Sublist s.enrolling) (hs : (t.store.slots.map (·.1)).Sublist (s.store.slots.map (·.1)))
    (hw : t.waiters.filterMap (·.job.recordSlot) ⊆ s.waiters.filterMap (·.job.recordSlot))
    (hb : t.buffer.filterMap (fun u => u.part.map (·.slot)) ⊆ s.buffer.filterMap (fun u => u.part.map (·.slot)))
    (hf : t.store.fetches.filterMap Fetch.recordSlot ⊆ s.store.fetches.filterMap Fetch.recordSlot) : Narrows s t := by
  refine ⟨hd, he, hs, fun n hn => ?_⟩
  have ht : t.takenSlots ⊆ s.takenSlots := ((directorySlots_sublist hd).append he).subset
  rw [mem_namedSlots] at hn ⊢
  exact hn.imp (@ht n) (.imp (fun k => hs.subset k) (.imp (@hw n) (.imp (@hb n) (@hf n))))

/-- The laws depend on the directory, the store, the waiters and the buffer alone. -/
theorem Narrows.of_same (hd : t.directory = s.directory) (hs : t.store = s.store) (hw : t.waiters = s.waiters)
    (hb : t.buffer = s.buffer) : Narrows s t := by
  refine .of_parts ?_ ?_ ?_ ?_ ?_ ?_ <;> simp [State.enrolling, hd, hs, hw, hb]

theorem SlotLaws.narrow (h : SlotLaws p s) (k : Narrows s t) : SlotLaws p t where
  sorted := by
    obtain ⟨h1, h2⟩ := h.sorted
    have e1 : (s.directory.map fun e => (e.meter, e.slot)).Pairwise (fun a b => a.1 < b.1) := List.pairwise_map.mpr h1
    have e2 : (s.store.slots.map (·.1)).Pairwise (· < ·) := List.pairwise_map.mpr h2
    have k1 := e1.sublist k.directory
    have k2 := e2.sublist k.stored
    rw [List.pairwise_map] at k1 k2
    exact ⟨k1, k2⟩
  distinct hp := (h.distinct hp).sublist ((directorySlots_sublist k.directory).append k.enrolling)
  bounded hp n hn := h.bounded hp n (k.named hn)

/-- A step that leaves the four parts that name record slots. -/
theorem SlotLaws.same (h : SlotLaws p s) (k : t.directory = s.directory ∧ t.store = s.store ∧ t.waiters = s.waiters ∧
    t.buffer = s.buffer) : SlotLaws p t :=
  h.narrow (.of_same k.1 k.2.1 k.2.2.1 k.2.2.2)

/-- A step that leaves all but the store, whose slot list stands and which names no more fetches. -/
theorem SlotLaws.serviced (h : SlotLaws p s) (hs : t.store.slots = s.store.slots)
    (hf : t.store.fetches ⊆ s.store.fetches)
    (k : t.directory = s.directory ∧ t.waiters = s.waiters ∧ t.buffer = s.buffer) : SlotLaws p t := by
  obtain ⟨hd, hw, hb⟩ := k
  refine h.narrow (.of_parts ?_ ?_ ?_ ?_ ?_ (List.filterMap_subset _ hf)) <;> simp [State.enrolling, hd, hs, hw, hb]

/-! ### The end of a step -/

theorem chooseOperation_fetches (s : State) : (chooseOperation s).store.fetches = s.store.fetches := by
  unfold chooseOperation setService
  split
  · rename_i h
    obtain ⟨-, hi⟩ := (Bool.and_eq_true _ _).mp h
    rw [beq_iff_eq] at hi
    repeat' split
    all_goals simp_all [RecordStore.fetches]
  · rfl

theorem SlotLaws.settle (h : SlotLaws p s) : SlotLaws p (settle s) := by
  refine h.serviced ?_ ?_ (by simp)
  · exact (areas_same (settle_areas s)).1
  · have : (Machine.settle s).store = (chooseOperation (grantHold s)).store := by simp [Machine.settle]
    rw [this, chooseOperation_fetches]; simp

/-! ### Posting -/

/-- Units that name record slots of the part enter the buffer. -/
theorem SlotLaws.addUnit (h : SlotLaws p s) (kind : UnitKind) (part : Option RecordPart)
    (entry : Option (Source × EntryBody)) (sm : Option DaySummary)
    (hq : p → ∀ q, part = some q → q.slot < recordSlots) : SlotLaws p (addUnit kind part entry sm s) := by
  have hb : (Machine.addUnit kind part entry sm s).buffer.filterMap (fun u => u.part.map (·.slot)) =
      s.buffer.filterMap (fun u => u.part.map (·.slot)) ++ (part.map (·.slot)).toList := by
    unfold Machine.addUnit
    split <;> simp [List.filterMap_append, List.filterMap_cons] <;> cases part <;> simp
  have hd : (Machine.addUnit kind part entry sm s).directory = s.directory := by simp
  have hs : (Machine.addUnit kind part entry sm s).store = s.store := by simp
  have hw : (Machine.addUnit kind part entry sm s).waiters = s.waiters := by simp
  refine ⟨by simpa [DirectoryLaw] using h.sorted, by simpa [State.takenSlots] using h.distinct, fun hp n hn => ?_⟩
  have hb' := h.bounded hp n
  simp only [mem_namedSlots, State.takenSlots, hd, hs, hw, hb, List.mem_append] at hn hb'
  cases part with
  | none => exact hb' (by simpa using hn)
  | some q =>
    by_cases e : n = q.slot
    · exact e ▸ hq hp q rfl
    · exact hb' (by simpa [e] using hn)

/-- A unit without a record part enters the buffer. -/
theorem SlotLaws.plainUnit (h : SlotLaws p s) (kind : UnitKind) (entry : Option (Source × EntryBody))
    (sm : Option DaySummary) : SlotLaws p (Machine.addUnit kind none entry sm s) :=
  h.addUnit kind none entry sm fun _ _ hq => by cases hq

theorem SlotLaws.settled (h : SlotLaws p s) (ht : finish s = .next t) : SlotLaws p t := by
  cases ht; exact h.settle

theorem runSystemJob_laws (h : SlotLaws p s) (w : Waiter) : SlotLaws p (runSystemJob w s) := by
  unfold runSystemJob
  split <;> exact h.plainUnit ..

/-- A poster's unit may be built: the record slot it names is one of the part's, and one it takes newly is free
(R10). -/
structure Job.Allowed (j : Job) (s : State) : Prop where
  bounded : ∀ n, j.recordSlot = some n → n < recordSlots
  free : ∀ n, j.enrolSlot = some n → n ∉ s.takenSlots

/-- A slot that a job takes newly is the one that its unit names. -/
theorem Job.recordSlot_of_enrolSlot {j : Job} {n : Nat} (h : j.enrolSlot = some n) : j.recordSlot = some n := by
  cases j <;> simp_all [Job.enrolSlot, Job.recordSlot]

/-- A job that names no record slot may always be built. -/
theorem Job.allowed_of_none {j : Job} (h : j.recordSlot = none) (s : State) : j.Allowed s where
  bounded n hn := by simp [h] at hn
  free n hn := by rw [Job.recordSlot_of_enrolSlot hn] at h; cases h

/-- A poster joins the post wait list (R122). -/
theorem SlotLaws.wait (h : SlotLaws p s) (w : Waiter) (ha : p → w.job.Allowed s) :
    SlotLaws p { s with waiters := s.waiters ++ [w] } := by
  refine ⟨h.sorted, fun hp => ?_, fun hp n hn => ?_⟩
  · have hd := h.distinct hp
    have hf := (ha hp).free
    simp only [takenSlots_eq, State.enrolling, List.filterMap_append, ← List.append_assoc] at hd ⊢
    rw [List.nodup_append]
    refine ⟨hd, ?_, ?_⟩
    · cases he : w.job.enrolSlot <;> simp [he]
    · intro a ha' b hb hab
      simp only [List.filterMap_cons, List.filterMap_nil] at hb
      cases he : w.job.enrolSlot <;> simp [he] at hb
      subst hb hab
      exact hf _ he (by simpa [takenSlots_eq, State.enrolling] using ha')
  · have hb := h.bounded hp n
    have ha := ha hp
    rw [mem_namedSlots] at hn hb
    simp only [State.takenSlots, List.filterMap_append, List.mem_append, List.filterMap_cons,
      List.filterMap_nil] at hn hb
    by_cases hr : w.job.recordSlot = some n
    · exact ha.bounded n hr
    · have h1 : w.job.enrolSlot ≠ some n := fun e => hr (Job.recordSlot_of_enrolSlot e)
      refine hb ?_
      cases e1 : w.job.enrolSlot <;> cases e2 : w.job.recordSlot <;> simp_all <;> grind

theorem postSystem_laws (h : SlotLaws p s) (w : Waiter) (hw : w.job.recordSlot = none) :
    SlotLaws p (postSystem w s) := by
  unfold postSystem
  split
  · exact runSystemJob_laws h w
  · exact h.wait w fun _ => Job.allowed_of_none hw s

theorem postSystemEntry_laws (h : SlotLaws p s) (j : Job) (b : Bool) (hj : j.recordSlot = none) :
    SlotLaws p (postSystemEntry j b s) := by
  unfold postSystemEntry
  split
  · exact postSystem_laws h _ rfl
  · split
    · exact postSystem_laws (h.same (by simp)) _ hj
    · split
      · exact postSystem_laws (h.same (by simp)) _ hj
      · exact h.same (by simp)

/-! ### The day rollover -/

theorem tariffRollover_laws (h : SlotLaws p s) : SlotLaws p (tariffRollover s) := by
  unfold tariffRollover
  repeat' split
  · exact h
  · exact h
  · exact postSystemEntry_laws (h.same (by simp)) _ _ rfl

theorem rollover_laws (h : SlotLaws p s) : SlotLaws p (rollover s) := by
  unfold rollover
  split
  · exact h
  · exact postSystemEntry_laws (tariffRollover_laws (h.same (by simp))) _ _ rfl

/-! ### The posting of each poster's unit -/

theorem SlotLaws.officeReply (h : SlotLaws p s) (r : Reply) : SlotLaws p (officeReply r s) := h.same (by simp)

theorem SlotLaws.officeRefuse (h : SlotLaws p s) (c : RefusalCode) : SlotLaws p (officeRefuse c s) := h.same (by simp)

theorem SlotLaws.endReprint (h : SlotLaws p s) (k : Till) : SlotLaws p (endReprint k s) := h.same (by simp)

theorem SlotLaws.withdrawDisabled (h : SlotLaws p s) (m : ConditionSet) : SlotLaws p (withdrawDisabled m s) :=
  h.same (by simp)

theorem SlotLaws.offerSettings (h : SlotLaws p s) (k : Till) : SlotLaws p (offerSettings k s) := h.same (by simp)

theorem SlotLaws.modSlot (h : SlotLaws p s) (k : Till) (f : VendSlot → VendSlot) : SlotLaws p (s.modSlot k f) :=
  h.same (by simp)

theorem SlotLaws.settlePending (h : SlotLaws p s) (k : Till) : SlotLaws p (settlePending k s) := h.same (by simp)

theorem SlotLaws.officeRequest (h : SlotLaws p s) (r : Option RecordRequest) :
    SlotLaws p { s with officeRequest := r } := h.same (by simp)

theorem SlotLaws.lowerDirty (h : SlotLaws p s) (u : CommitUnit) : SlotLaws p (lowerDirty u s) := h.same (by simp)

theorem SlotLaws.endDrain (h : SlotLaws p s) : SlotLaws p (endDrain s) := h.same (by simp)

theorem SlotLaws.setDrain (h : SlotLaws p s) (d : DrainStage) : SlotLaws p (setDrain d s) := h.same (by simp)

theorem SlotLaws.setSupply (h : SlotLaws p s) (v : SupplyState) : SlotLaws p (setSupply v s) := h.same (by simp)

theorem SlotLaws.endHoldState (h : SlotLaws p s) (r : HoldRecord) : SlotLaws p (endHoldState r s) := h.same (by simp)

theorem SlotLaws.ownerFetchFailed (h : SlotLaws p s) (o : Option Owner) : SlotLaws p (ownerFetchFailed o s) :=
  h.same (by simp)

theorem SlotLaws.areaReply (h : SlotLaws p s) (f : Fetch) : SlotLaws p (areaReply f s) := h.same (by simp)

theorem SlotLaws.refusePendingHold (h : SlotLaws p s) : SlotLaws p (refusePendingHold s) := h.same (by simp)

theorem SlotLaws.startLinks (h : SlotLaws p s) : SlotLaws p (startLinks s) := h.same (by simp)

theorem SlotLaws.reportLevels (h : SlotLaws p s) : SlotLaws p (reportLevels s) := h.same (by simp)

theorem SlotLaws.tillReply (h : SlotLaws p s) (k : Till) (g : Option Byte) (r : Reply) :
    SlotLaws p (tillReply k g r s) := h.same (by simp)

/-- The slots of a directory with an entry put in: the entry's, and some of those before. -/
theorem dirInsert_slots (e : DirEntry) : ∀ d : List DirEntry, ∃ l, l.Sublist (d.map (·.slot)) ∧
    ((dirInsert e d).map (·.slot)).Perm (e.slot :: l)
  | [] => ⟨[], List.Sublist.refl _, List.Perm.refl _⟩
  | x :: d => by
    unfold dirInsert
    split
    · exact ⟨_, List.Sublist.refl _, List.Perm.refl _⟩
    · split
      · exact ⟨d.map (·.slot), by simp, List.Perm.refl _⟩
      · obtain ⟨l, h1, h2⟩ := dirInsert_slots e d
        exact ⟨x.slot :: l, by simpa using h1, (h2.cons x.slot).trans (.swap _ _ _)⟩

/-- An entry put into the directory at a free record slot (R10, R14). -/
theorem SlotLaws.insert (h : SlotLaws p s) (e : DirEntry) (hb : p → e.slot < recordSlots)
    (hf : p → e.slot ∉ s.takenSlots) : SlotLaws p { s with directory := dirInsert e s.directory } := by
  obtain ⟨l, hl, hp⟩ := dirInsert_slots e s.directory
  have ht : (State.takenSlots { s with directory := dirInsert e s.directory }).Perm (e.slot :: (l ++ s.enrolling)) :=
    hp.append_right s.enrolling
  have hs : (l ++ s.enrolling).Sublist s.takenSlots := hl.append_right _
  refine ⟨⟨(dirInsert_sorted h.sorted.1).1, h.sorted.2⟩, fun k => ?_, fun k n hn => ?_⟩
  · rw [ht.nodup_iff, List.nodup_cons]
    exact ⟨fun x => hf k (hs.subset x), (h.distinct k).sublist hs⟩
  · rw [mem_namedSlots, ht.mem_iff, List.mem_cons, or_assoc] at hn
    rcases hn with rfl | hn
    · exact hb k
    · exact h.bounded k n (mem_namedSlots.mpr (hn.imp_left fun x => hs.subset x))

/-- The directory loses entries or changes marks alone. -/
theorem SlotLaws.mark (h : SlotLaws p s) {d : List DirEntry}
    (hd : (d.map fun e => (e.meter, e.slot)).Sublist (s.directory.map fun e => (e.meter, e.slot))) :
    SlotLaws p { s with directory := d } :=
  h.narrow (.of_parts hd (List.Sublist.refl _) (List.Sublist.refl _) (List.Subset.refl _) (List.Subset.refl _)
    (List.Subset.refl _))

theorem dirErase_keys (m : Nat) (d : List DirEntry) :
    ((dirErase m d).map fun e => (e.meter, e.slot)).Sublist (d.map fun e => (e.meter, e.slot)) :=
  List.filter_sublist.map _

theorem dirMark_keys (m : Nat) (b : Bool) (d : List DirEntry) :
    (dirMark m b d).map (fun e => (e.meter, e.slot)) = d.map fun e => (e.meter, e.slot) := by
  rw [dirMark, List.map_map]
  refine List.map_congr_left fun e _ => ?_
  dsimp only [Function.comp]
  split <;> rfl

/-- The slot of a directory's entry is one of the part's. -/
theorem SlotLaws.entry_bounded (h : SlotLaws p s) {m : Nat} {e : DirEntry} (he : dirFind m s.directory = some e)
    (hp : p) : e.slot < recordSlots := by
  refine h.bounded hp _ (mem_namedSlots.mpr (.inl ?_))
  rw [takenSlots_eq, List.mem_append]
  exact .inl (List.mem_map_of_mem (List.mem_of_find?_eq_some he))

theorem postImage_laws (h : SlotLaws p s) (slot : Nat) (r : Record) (b : EntryBody) (hb : p → slot < recordSlots) :
    SlotLaws p (postImage slot r b s) := by
  unfold postImage
  refine (h.addUnit .edit (some (.image slot r)) (some (.office, b)) none ?_).same (by simp)
  rintro hp q ⟨⟩
  exact hb hp

theorem postSale_laws (h : SlotLaws p s) (k : Till) : SlotLaws p (postSale k s) := by
  unfold postSale
  split
  · exact h
  · split
    · rename_i q _ _ _ _ _ pr b r e _ _ _ hd
      have ht : SlotLaws p (takeSale k q.tender pr s) := h.same (by simp)
      refine (ht.addUnit .sale (some (.image e.slot (saleImage r q pr b s.journal.nextSeq)))
        (some (.till k, .sale (saleFields q pr b))) none ?_).same (by simp)
      rintro hp q ⟨⟩
      exact h.entry_bounded hd hp
    · exact h

theorem postEnrol_laws (h : SlotLaws p s) (slot : Nat) (r : Record) (hb : p → slot < recordSlots)
    (hf : p → slot ∉ s.takenSlots) : SlotLaws p (postEnrol slot r s) := by
  unfold postEnrol
  have hi := postImage_laws h slot { r with lastSeq := s.journal.nextSeq }
    (.meterEnrol r.meter (enrolItems { r with lastSeq := s.journal.nextSeq })) hb
  exact (hi.insert ⟨r.meter, slot, false⟩ hb (by simpa [State.takenSlots] using hf)).same (by simp)

theorem postPurge_laws (h : SlotLaws p s) (slot meter : Nat) (hb : p → slot < recordSlots) :
    SlotLaws p (postPurge slot meter s) := by
  unfold postPurge
  have hu := h.addUnit .edit (some (.erase slot meter)) (some (.office, .meterState meter .retired .purged)) none
    (by rintro hp q ⟨⟩; exact hb hp)
  exact (hu.mark (dirErase_keys meter _)).same (by simp)

theorem postRestore_laws (h : SlotLaws p s) (slot : Nat) (r : Record) (hb : p → slot < recordSlots) :
    SlotLaws p (postRestore slot r s) := by
  unfold postRestore
  have hi := postImage_laws h slot { r with lastSeq := s.journal.nextSeq }
    (.meterEdit r.meter (restoreItems { r with lastSeq := s.journal.nextSeq })) hb
  exact (hi.mark (by rw [dirMark_keys r.meter false])).same (by simp)

theorem postSetting_laws (h : SlotLaws p s) (b : Bool) (e : EntryBody) : SlotLaws p (postSetting b e s) :=
  h.plainUnit ..

theorem postClockSet_laws (h : SlotLaws p s) (b : Bool) (old : Option DateTime) (v : DateTime) (n : Nat) :
    SlotLaws p (postClockSet b old v n s) := by
  unfold postClockSet
  dsimp only
  have hs : SlotLaws p (reportLevels (postSetting b (.clockSet old (addSeconds v n))
      { s with calendar := ⟨some (addSeconds v n), true⟩, cell := ⟨true, some (addSeconds v n)⟩ })) :=
    .reportLevels (postSetting_laws (h.same (by simp)) _ _)
  split
  · exact (rollover_laws hs).same (by simp)
  · exact hs.same (by simp)

/-- A poster's unit posts (R121). -/
theorem runJob_laws (h : SlotLaws p s) (w : Waiter) (ha : p → w.job.Allowed s) : SlotLaws p (runJob w s) := by
  have hb : ∀ n, w.job.recordSlot = some n → p → n < recordSlots := fun n hn hp => (ha hp).bounded n hn
  have hf : ∀ n, w.job.enrolSlot = some n → p → n ∉ s.takenSlots := fun n hn hp => (ha hp).free n hn
  unfold runJob
  cases hj : w.job with
  | sale k => exact postSale_laws h k
  | reprint k m i t rep =>
    dsimp only
    unfold postReprint
    split
    · exact h
    · exact .tillReply (.endReprint (h.plainUnit ..) k) ..
  | enrol n r => exact postEnrol_laws h n r (hb n (by simp [hj, Job.recordSlot])) (hf n (by simp [hj, Job.enrolSlot]))
  | edit n r items => exact (postImage_laws h n _ _ (hb n (by simp [hj, Job.recordSlot]))).officeReply _
  | accountState n r old => exact (postImage_laws h n _ _ (hb n (by simp [hj, Job.recordSlot]))).officeReply _
  | purge n m => exact postPurge_laws h n m (hb n (by simp [hj, Job.recordSlot]))
  | restore n r => exact postRestore_laws h n r (hb n (by simp [hj, Job.recordSlot]))
  | tariffStage es d => exact (postSetting_laws (h.same (by simp)) _ _).officeReply _
  | tariffUnstage => exact (postSetting_laws (h.same (by simp)) _ _).officeReply _
  | tariffLoad es => exact (postSetting_laws (h.same (by simp)) _ _).officeReply _
  | voucher a b => exact (postSetting_laws (h.same (by simp)) _ _).officeReply _
  | floorSet v => exact (postSetting_laws (h.same (by simp)) _ _).officeReply _
  | quoteTimeSet v => exact (postSetting_laws (h.same (by simp)) _ _).officeReply _
  | maskSet v => exact .officeReply (.withdrawDisabled (postSetting_laws (h.same (by simp)) ..) v) _
  | linkSet k v => exact .officeReply (.offerSettings (postSetting_laws (h.same (by simp)) ..) k) _
  | clockSet old v n => exact postClockSet_laws h _ _ _ _
  | tillClose k c => exact (postSetting_laws (h.same (by simp)) _ _).officeReply _
  | siteCode c => exact (SlotLaws.plainUnit (h.same (by simp)) ..).officeReply _
  | dayClose d => exact runSystemJob_laws h w
  | tariffShift g d => exact runSystemJob_laws h w
  | imageOnly => exact runSystemJob_laws h w
  | powerUp f => exact runSystemJob_laws h w

/-! ### The post wait list -/

/-- A poster posts at once, waits, or is refused (R121, R122, R124). -/
theorem postOrWait_laws (h : SlotLaws p s) (w : Waiter) (ha : p → w.job.Allowed s) : SlotLaws p (postOrWait w s) := by
  unfold postOrWait
  split
  · exact runJob_laws h w ha
  · split
    · exact h.same (by simp)
    · exact (h.wait w ha).same (by simp)

theorem Job.Allowed.congr {j : Job} (h : j.Allowed s) (ht : t.takenSlots = s.takenSlots) : j.Allowed t :=
  ⟨h.bounded, by rw [ht]; exact h.free⟩

theorem reserveAndPost_laws (h : SlotLaws p s) (j : Job) (ha : p → j.Allowed s) : SlotLaws p (reserveAndPost j s) :=
  postOrWait_laws (h.same (by simp)) _ fun hp => (ha hp).congr (by simp [State.takenSlots])

/-- Every waiter of a lawful state may post (R10, R122). -/
theorem SlotLaws.allowed_head (h : SlotLaws p s) {w : Waiter} {rest : List Waiter} (hw : s.waiters = w :: rest)
    (hp : p) :
    w.job.Allowed { s with waiters := rest } where
  bounded n hn := by
    refine h.bounded hp n (mem_namedSlots.mpr (.inr (.inr (.inl ?_))))
    simp [hw, hn]
  free n hn := by
    have hd := h.distinct hp
    simp only [State.takenSlots, hw, List.filterMap_cons, hn] at hd ⊢
    exact (List.nodup_middle.mp hd).notMem

/-- Waiters leave the post wait list. -/
theorem SlotLaws.dropWaiters (h : SlotLaws p s) {l : List Waiter} (hl : l.Sublist s.waiters) :
    SlotLaws p { s with waiters := l } :=
  h.narrow (.of_parts (List.Sublist.refl _) (hl.filterMap _) (List.Sublist.refl _) (hl.filterMap _).subset
    (List.Subset.refl _) (List.Subset.refl _))

theorem offerRoomTo_laws : ∀ (n : Nat) {s : State}, SlotLaws p s → SlotLaws p (offerRoomTo n s)
  | 0, _, h => h
  | n + 1, s, h => by
    unfold offerRoomTo
    split
    · exact h
    · rename_i w rest hw
      have hr : SlotLaws p { s with waiters := rest } := h.dropWaiters (by simp [hw])
      dsimp only
      repeat' split
      · exact runJob_laws hr w (h.allowed_head hw)
      · exact offerRoomTo_laws n (hr.same (by simp))
      · exact h

theorem withdrawWaiters_laws (h : SlotLaws p s) (f : Job → Bool) (c : RefusalCode) :
    SlotLaws p (withdrawWaiters f c s) := by
  have hl := h.dropWaiters (l := s.waiters.filter fun w => !f w.job) List.filter_sublist
  refine hl.same ⟨by simp, by simp, ?_, by simp⟩
  unfold withdrawWaiters
  exact foldl_keeps State.waiters _ (by simp) _ _

/-! ### The requests at a port -/

theorem portTake_laws (h : SlotLaws p s) (q : PortId) (kind tag : Byte) (body : List Byte) {busy serve : State → State}
    (hb : SlotLaws p (busy s)) (hs : ∀ x : State, SlotLaws p x → SlotLaws p (serve x)) :
    SlotLaws p (portTake q kind tag body busy serve s) := by
  unfold portTake
  repeat' split
  · exact h
  · exact h.same (by simp)
  · exact h
  · exact hb
  · exact h
  · exact hs _ (h.same (by simp))

/-- An office request keeps the laws if its service does (R199). -/
theorem takeOffice_laws (h : SlotLaws p s) (kind tag : Byte) (body : List Byte) {serve : State → State}
    (hs : ∀ x : State, SlotLaws p x → SlotLaws p (serve x)) (ht : finish (takeOffice kind tag body serve s) = .next t) :
    SlotLaws p t :=
  (portTake_laws h .office kind tag body (h.same (by simp)) hs).settled ht

/-- A till request keeps the laws if its service does (R199). -/
theorem takeTill_laws (h : SlotLaws p s) (q : PortId) (kind tag : Byte) (body : List Byte) {serve : State → State}
    (hs : ∀ x : State, SlotLaws p x → SlotLaws p (serve x))
    (ht : finish (takeRequest q kind tag body serve s) = .next t) :
    SlotLaws p t :=
  (portTake_laws h q kind tag body (h.same (by simp)) hs).settled ht

/-- A request whose unit names no record slot. -/
theorem postOffice_laws (h : SlotLaws p s) (j : Job) (hj : j.recordSlot = none) : SlotLaws p (postOffice j s) := by
  unfold postOffice
  split
  · exact reserveAndPost_laws h j fun _ => Job.allowed_of_none hj s
  · exact h.same (by simp)

/-! ### The engine -/

/-- A miss queues the fetch of a record slot of the part (R98, R108). -/
theorem startFetch_laws (h : SlotLaws p s) (o : Owner) (m slot : Nat) (hb : p → slot < recordSlots) :
    SlotLaws p (startFetch o m slot s) := by
  have hd : (startFetch o m slot s).directory = s.directory := by simp
  have hw : (startFetch o m slot s).waiters = s.waiters := by simp
  have hbf : (startFetch o m slot s).buffer = s.buffer := by simp
  have hs : (startFetch o m slot s).store = { s.store with queue := s.store.queue ++ [.record (victim s) m slot] } := by
    simp [startFetch]
  refine ⟨by simpa [DirectoryLaw, hd, hs] using h.sorted, by simpa [State.takenSlots, hd, hw] using h.distinct,
    fun hp n hn => ?_⟩
  have hb' := h.bounded hp n
  rw [mem_namedSlots] at hn hb'
  simp only [State.takenSlots, hd, hw, hbf, hs, RecordStore.fetches] at hn hb'
  by_cases e : n = slot
  · exact e ▸ hb hp
  · refine hb' ?_
    simpa [Fetch.recordSlot, e, Ne.symm e, eq_comm] using hn

theorem lookupQuote_laws (h : SlotLaws p s) (k : Till) (q : QuoteRecord) : SlotLaws p (lookupQuote k q s) := by
  unfold lookupQuote
  repeat' split
  · exact h.same (by simp)
  · exact h.same (by simp)
  · exact h.same (by simp)
  · exact h.same (by simp)
  · rename_i e he _ _ _
    exact .modSlot (startFetch_laws h (.slot k) q.meter e.slot (h.entry_bounded he)) ..

theorem quoteStage_laws (h : SlotLaws p s) (k : Till) : SlotLaws p (quoteStage k s) := by
  unfold quoteStage
  repeat' split
  · exact h
  · exact h.same (by simp)
  · exact h.same (by simp)
  · exact lookupQuote_laws h k _

theorem confirmStage_laws (h : SlotLaws p s) (k : Till) : SlotLaws p (confirmStage k s) := by
  unfold confirmStage
  repeat' split
  · exact h
  · exact postOrWait_laws (h.same (by simp)) _ fun _ => Job.allowed_of_none rfl _
  · exact h

theorem presentFromLine_laws (h : SlotLaws p s) (k : Till) (w : ReprintWork) : SlotLaws p (presentFromLine k w s) := by
  have hi : ∀ i t b, SlotLaws p (issueReprint k w i t b s) := fun i t b => by
    unfold issueReprint
    split
    · exact reserveAndPost_laws h _ fun _ => Job.allowed_of_none rfl s
    · exact h.same (by simp)
  unfold presentFromLine presentReprint
  repeat' split
  · exact h
  · exact h.same (by simp)
  · exact h.same (by simp)
  · exact hi ..
  · exact hi ..
  · exact h.same (by simp)
  · exact h.same (by simp)

theorem lookupReprint_laws (h : SlotLaws p s) (k : Till) (w : ReprintWork) : SlotLaws p (lookupReprint k w s) := by
  unfold lookupReprint
  repeat' split
  · exact h.same (by simp)
  · exact h.same (by simp)
  · exact h.same (by simp)
  · exact presentFromLine_laws (h.same (by simp)) k w
  · rename_i e he _ _ _
    exact .modSlot (startFetch_laws h (.slot k) w.meter e.slot (h.entry_bounded he)) ..

/-- A grant to a slot serves one stage of its work (R80). -/
theorem slotStage_laws (h : SlotLaws p s) (k : Till) : SlotLaws p (slotStage k s) := by
  unfold slotStage
  split
  · exact quoteStage_laws h k
  · exact confirmStage_laws h k
  · unfold reprintStage
    repeat' split
    · exact h
    · exact lookupReprint_laws h k _
    · exact presentFromLine_laws h k _
    · exact h

theorem engineGrant_laws (h : SlotLaws p s) (ht : execEngineGrant s = .next t) : SlotLaws p t := by
  refine SlotLaws.settled ?_ ht
  split
  · exact h
  · exact .settlePending (slotStage_laws (h.same (by simp)) _) _

/-! ### The record requests -/

theorem postRecord_laws (h : SlotLaws p s) (j : Job) (ha : p → j.Allowed s) : SlotLaws p (postRecord j s) := by
  unfold postRecord
  split
  · exact reserveAndPost_laws h j ha
  · exact h.same (by simp)

/-- A job for the record slot of a record that is present names that slot and takes none newly. -/
theorem Job.allowed_of_slot {j : Job} {n : Nat} (hj : j.recordSlot = some n) (hn : j.enrolSlot = none)
    (hb : n < recordSlots)
    (s : State) : j.Allowed s where
  bounded m hm := by rw [hj] at hm; cases hm; exact hb
  free m hm := by rw [hn] at hm; cases hm

theorem continueState_laws (h : SlotLaws p s) (f : AccountState → Option AccountState) (slot : Nat) (r : Record)
    (hb : p → slot < recordSlots) : SlotLaws p (continueState f slot r s) := by
  unfold continueState
  split
  · exact h.same (by simp)
  · exact postRecord_laws h _ fun hp => Job.allowed_of_slot rfl rfl (hb hp) s

/-- A record request goes on with the record in its line (R12). -/
theorem continueFromLine_laws (h : SlotLaws p s) (req : RecordRequest) (slot : Nat) (hb : p → slot < recordSlots) :
    SlotLaws p (continueFromLine req slot s) := by
  unfold continueFromLine continueRecord
  split
  · exact h
  · cases req with
    | edit e =>
      dsimp only
      unfold continueEdit
      repeat' split
      · exact h.same (by simp)
      · exact h.same (by simp)
      · exact postRecord_laws h _ fun hp => Job.allowed_of_slot rfl rfl (hb hp) s
    | block m => exact continueState_laws h _ _ _ hb
    | unblock m => exact continueState_laws h _ _ _ hb
    | retire m => exact continueState_laws h _ _ _ hb
    | purge m =>
      dsimp only
      unfold continuePurge
      repeat' split
      · exact h.same (by simp)
      · exact h.same (by simp)
      · exact h.same (by simp)
      · exact postRecord_laws h _ fun hp => Job.allowed_of_slot rfl rfl (hb hp) s
    | read m => exact h.same (by simp)

theorem serveChange_laws (h : SlotLaws p s) (b : Bool) (req : RecordRequest) : SlotLaws p (serveChange b req s) := by
  unfold serveChange lookupRecord
  repeat' split
  · exact h.same (by simp)
  · exact h.same (by simp)
  · exact h.same (by simp)
  · exact h.same (by simp)
  · rename_i e he _ _ _ _
    exact continueFromLine_laws (h.same (by simp)) req e.slot (h.entry_bounded he)
  · rename_i e he _ _ _
    exact .officeRequest (startFetch_laws h .office req.meter e.slot (h.entry_bounded he)) _

theorem serveMeter_laws (h : SlotLaws p s) (body : List Byte) {serve : Nat → State → State}
    (hs : ∀ m, SlotLaws p (serve m s)) : SlotLaws p (serveMeter body serve s) := by
  unfold serveMeter
  split
  · exact h.same (by simp)
  · exact hs _

theorem serveRead_laws (h : SlotLaws p s) (m : Nat) : SlotLaws p (serveRead m s) := by
  unfold serveRead
  repeat' split
  · exact h.same (by simp)
  · exact h.same (by simp)
  · exact h.same (by simp)
  · rename_i e he _ _ _
    exact .officeRequest (startFetch_laws h .office m e.slot (h.entry_bounded he)) _
  · exact h.same (by simp)
  · exact h.same (by simp)

theorem postTaken_laws (h : SlotLaws p s) (j : Job) (ha : p → j.Allowed s) : SlotLaws p (postTaken j s) := by
  unfold postTaken
  split
  · exact reserveAndPost_laws h j ha
  · exact h.same (by simp)

/-- METER_ENROL takes the lowest record slot that is named by no entry and no waiting METER_ENROL (R10, R14). -/
theorem serveEnrol_laws (h : SlotLaws p s) (body : List Byte) : SlotLaws p (serveEnrol body s) := by
  unfold serveEnrol enrolMeter
  repeat' split
  · exact h.same (by simp)
  · exact h.same (by simp)
  · exact h.same (by simp)
  · exact h.same (by simp)
  · rename_i hn
    obtain ⟨hb, hf⟩ := lowestFree_free (Nat.lt_of_not_le hn)
    refine postTaken_laws (h.same (by simp)) _ fun _ => ⟨?_, ?_⟩
    · rintro n ⟨⟩; exact hb
    · rintro n ⟨⟩; simpa [State.takenSlots] using hf

theorem serveRestore_laws (h : SlotLaws p s) (body : List Byte) : SlotLaws p (serveRestore body s) := by
  unfold serveRestore restoreMeter
  repeat' split
  · exact h.same (by simp)
  · exact h.same (by simp)
  · exact h.same (by simp)
  · rename_i e he _
    exact postTaken_laws (h.same (by simp)) _ fun hp => Job.allowed_of_slot rfl rfl (h.entry_bounded he hp) _
  · exact h.same (by simp)

/-! ### The other office requests -/

/-- A completing STAGE asks to post; its unit names no record slot (R28). -/
theorem takeStage_laws (h : SlotLaws p s) (q : Nat) (es : List RawEntry) (d : Nat) :
    SlotLaws p (takeStage q es d s) := by
  unfold takeStage completeStage
  dsimp only
  repeat' split
  · exact reserveAndPost_laws (h.same (by simp)) _ fun _ => Job.allowed_of_none rfl _
  · exact postOrWait_laws (h.same (by simp)) _ fun _ => Job.allowed_of_none rfl _
  · exact h.same (by simp)

theorem serveStage_laws (h : SlotLaws p s) (body : List Byte) : SlotLaws p (serveStage body s) := by
  unfold serveStage
  repeat' split
  · exact h.same (by simp)
  · exact h.same (by simp)
  · exact h.same (by simp)
  · exact takeStage_laws h ..

theorem takeLoad_laws (h : SlotLaws p s) (q : Nat) (es : List RawEntry) : SlotLaws p (takeLoad q es s) := by
  unfold takeLoad
  dsimp only
  split
  · exact reserveAndPost_laws (h.same (by simp)) _ fun _ => Job.allowed_of_none rfl _
  · exact h.same (by simp)

theorem serveLoad_laws (h : SlotLaws p s) (body : List Byte) : SlotLaws p (serveLoad body s) := by
  unfold serveLoad
  repeat' split
  · exact h.same (by simp)
  · exact h.same (by simp)
  · exact h.same (by simp)
  · exact h.same (by simp)
  · exact h.same (by simp)
  · exact takeLoad_laws h ..

theorem serveUnstage_laws (h : SlotLaws p s) (body : List Byte) : SlotLaws p (serveUnstage body s) := by
  unfold serveUnstage
  repeat' split
  · exact h.same (by simp)
  · exact h.same (by simp)
  · exact h.same (by simp)
  · exact h.same (by simp)
  · exact reserveAndPost_laws h _ fun _ => Job.allowed_of_none rfl _
  · exact h.same (by simp)

/-- A setting is refused, answered as it stands, or posted by a unit that names no record slot. -/
theorem serveVoucher_laws (h : SlotLaws p s) (body : List Byte) : SlotLaws p (serveVoucher body s) := by
  unfold serveVoucher
  repeat' split
  · exact h.same (by simp)
  · exact h.same (by simp)
  · exact h.same (by simp)
  · exact h.same (by simp)
  · exact postOffice_laws h _ rfl

theorem serveFloor_laws (h : SlotLaws p s) (body : List Byte) : SlotLaws p (serveFloor body s) := by
  unfold serveFloor
  repeat' split
  · exact h.same (by simp)
  · exact h.same (by simp)
  · exact h.same (by simp)
  · exact postOffice_laws h _ rfl

theorem serveQuoteTime_laws (h : SlotLaws p s) (body : List Byte) : SlotLaws p (serveQuoteTime body s) := by
  unfold serveQuoteTime
  repeat' split
  · exact h.same (by simp)
  · exact h.same (by simp)
  · exact h.same (by simp)
  · exact postOffice_laws h _ rfl

theorem serveMask_laws (h : SlotLaws p s) (body : List Byte) : SlotLaws p (serveMask body s) := by
  unfold serveMask
  dsimp only
  repeat' split
  · exact h.same (by simp)
  · exact h.same (by simp)
  · exact h.same (by simp)
  · exact postOffice_laws h _ rfl

theorem serveTillClose_laws (h : SlotLaws p s) (body : List Byte) : SlotLaws p (serveTillClose body s) := by
  unfold serveTillClose
  repeat' split
  · exact h.same (by simp)
  · exact h.same (by simp)
  · exact postOffice_laws h _ rfl

theorem serveLinkSet_laws (h : SlotLaws p s) (body : List Byte) : SlotLaws p (serveLinkSet body s) := by
  unfold serveLinkSet changeLink
  repeat' split
  · exact h.same (by simp)
  · exact h.same (by simp)
  · exact h.same (by simp)
  · exact postOffice_laws h _ rfl
  · exact postOrWait_laws h _ fun _ => Job.allowed_of_none rfl _

theorem serveSiteCode_laws (h : SlotLaws p s) (body : List Byte) : SlotLaws p (serveSiteCode body s) := by
  unfold serveSiteCode
  repeat' split
  · exact h.same (by simp)
  · exact h.same (by simp)
  · exact h.same (by simp)
  · exact h.same (by simp)
  · exact reserveAndPost_laws h _ fun _ => Job.allowed_of_none rfl _

theorem serveClockSet_laws (h : SlotLaws p s) (body : List Byte) : SlotLaws p (serveClockSet body s) := by
  unfold serveClockSet buildClockSet
  repeat' split
  · exact h.same (by simp)
  · exact h.same (by simp)
  · exact h.same (by simp)
  · exact postOffice_laws h _ rfl
  · exact postOrWait_laws h _ fun _ => Job.allowed_of_none rfl _

/-- An area read is queued; it names no record slot (R139, R156). -/
theorem SlotLaws.queueArea (h : SlotLaws p s) {f : Fetch} (hf : f.recordSlot = none) :
    SlotLaws p { s with store := { s.store with queue := s.store.queue ++ [f] } } := by
  refine h.narrow (.of_parts (List.Sublist.refl _) (List.Sublist.refl _) (List.Sublist.refl _) (List.Subset.refl _)
    (List.Subset.refl _) ?_)
  simp [RecordStore.fetches, List.filterMap_append, hf]

theorem serveSummaryRead_laws (h : SlotLaws p s) (body : List Byte) : SlotLaws p (serveSummaryRead body s) := by
  unfold serveSummaryRead
  repeat' split
  · exact h.same (by simp)
  · exact h.queueArea rfl
  · exact h.same (by simp)

theorem serveJournalRead_laws (h : SlotLaws p s) (body : List Byte) : SlotLaws p (serveJournalRead body s) := by
  unfold serveJournalRead
  repeat' split
  · exact h.same (by simp)
  · exact h.same (by simp)
  · exact h.queueArea rfl

theorem serveRetry_laws (h : SlotLaws p s) (body : List Byte) : SlotLaws p (serveRetry body s) := by
  unfold serveRetry
  repeat' split
  · exact h.same (by simp)
  · exact h.same (by simp)
  · exact h.serviced rfl (List.Subset.refl _) (by simp)
  · exact h.same (by simp)

/-! ### The Record Store's completions -/

/-- A write puts record slots of the part into the store's list, in their order (R106). -/
theorem SlotLaws.writes (h : SlotLaws p s) {st : RecordStore} (ho : st.slots.Pairwise (fun a b => a.1 < b.1))
    (hs : p → ∀ x ∈ st.slots, x.1 < recordSlots) (hf : st.fetches = s.store.fetches) :
    SlotLaws p { s with store := st } := by
  refine ⟨⟨h.sorted.1, ho⟩, h.distinct, fun hp n hn => ?_⟩
  have hb := h.bounded hp n
  simp only [mem_namedSlots, hf] at hn hb
  rcases hn with hn | hn | hn
  · exact hb (.inl hn)
  · obtain ⟨x, hx, rfl⟩ := List.mem_map.mp hn
    exact hs hp x hx
  · exact hb (.inr (.inr hn))

/-- The slot of a unit in the buffer is one of the part's. -/
theorem SlotLaws.unit_bounded (h : SlotLaws p s) {u : CommitUnit} {q : RecordPart} (hu : u ∈ s.buffer)
    (hq : u.part = some q) (hp : p) : q.slot < recordSlots :=
  h.bounded hp _ (mem_namedSlots.mpr (.inr (.inr (.inr (.inl (List.mem_filterMap.mpr ⟨u, hu, by simp [hq]⟩))))))

/-- The slots that the store holds are the part's. -/
theorem SlotLaws.stored_bounded (h : SlotLaws p s) {x : Nat × StoredRecord} (hx : x ∈ s.store.slots) (hp : p) :
    x.1 < recordSlots :=
  h.bounded hp _ (mem_namedSlots.mpr (.inr (.inl (List.mem_map_of_mem hx))))

/-- A verified unit is written into the slot it names (R110). -/
theorem written_laws (h : SlotLaws p s) {u : CommitUnit} (hu : u ∈ s.buffer) :
    SlotLaws p { s with store := s.store.written u } := by
  refine h.writes ?_ ?_ rfl
  · simp only [RecordStore.written]
    split
    · exact h.sorted.2
    · exact (slotPut_sorted h.sorted.2).1
    · exact slotErase_sorted h.sorted.2
  · intro hp x hx
    simp only [RecordStore.written] at hx
    split at hx
    · exact h.stored_bounded hx hp
    · rename_i hq
      rcases (slotPut_sorted h.sorted.2).2 x hx with rfl | hx
      · exact h.unit_bounded hu hq hp
      · exact h.stored_bounded hx hp
    · exact h.stored_bounded (List.mem_of_mem_filter hx) hp

/-- The buffer loses units. -/
theorem SlotLaws.dropUnits (h : SlotLaws p s) {l : List CommitUnit} (hl : l ⊆ s.buffer) :
    SlotLaws p { s with buffer := l } :=
  h.narrow (.of_parts (List.Sublist.refl _) (List.Sublist.refl _) (List.Sublist.refl _) (List.Subset.refl _)
    (List.filterMap_subset _ hl) (List.Subset.refl _))

/-- The head unit is verified and leaves the buffer (R110). -/
theorem completeUnit_laws (h : SlotLaws p s) {u : CommitUnit} (hu : u ∈ s.buffer) : SlotLaws p (completeUnit u s) := by
  have hw := (written_laws h hu).dropUnits (List.tail_subset s.buffer)
  unfold completeUnit
  exact .reportLevels (.lowerDirty hw u)

theorem slotAlter_keys (n : Nat) (m : List (Nat × StoredRecord)) : (slotAlter n m).map (·.1) = m.map (·.1) := by
  rw [slotAlter, List.map_map]
  refine List.map_congr_left fun e _ => ?_
  dsimp only [Function.comp]
  split <;> rfl

/-- An altered slot keeps its place (R107, R184). -/
theorem SlotLaws.restored (h : SlotLaws p s) {st : RecordStore} (hk : st.slots.map (·.1) = s.store.slots.map (·.1))
    (hf : st.fetches = s.store.fetches) : SlotLaws p { s with store := st } :=
  h.narrow (.of_parts (List.Sublist.refl _) (List.Sublist.refl _) (by rw [hk]) (List.Subset.refl _) (List.Subset.refl _)
    (by rw [hf]; exact List.Subset.refl _))

theorem failUnit_laws (h : SlotLaws p s) (u : CommitUnit) (a : Bool) : SlotLaws p (failUnit u a s) := by
  refine h.restored ?_ rfl
  simp only [RecordStore.failed]
  split
  · exact slotAlter_keys ..
  · exact slotAlter_keys ..
  · rfl

theorem alterSlot_laws (h : SlotLaws p s) (d : Bool) (n : Nat) : SlotLaws p (alterSlot d n s) := by
  unfold alterSlot
  split
  · exact h.restored (slotAlter_keys ..) rfl
  · exact h

/-- The store's service changes to one that names no record slot. -/
theorem setService_laws (h : SlotLaws p s) {v : Service} (hv : ∀ f, v ≠ .reading f) : SlotLaws p (setService v s) := by
  refine h.serviced rfl ?_ (by simp)
  simp only [setService, RecordStore.fetches]
  cases v with
  | reading f => exact absurd rfl (hv f)
  | _ => simp

theorem drainNext_laws (h : SlotLaws p s) : SlotLaws p (drainNext s) := by
  unfold drainNext
  split
  · exact .endDrain (setService_laws h (v := .idle) nofun)
  · exact .setDrain (setService_laws h (v := .writing) nofun) _

theorem startDrain_laws (h : SlotLaws p s) : SlotLaws p (startDrain s) := by
  unfold startDrain
  split
  · exact .setDrain (setService_laws h (v := .writing) nofun) _
  · exact drainNext_laws h

theorem dropAll_laws (h : SlotLaws p s) : SlotLaws p (dropAll s) := by
  unfold dropAll
  exact .endDrain (setService_laws ((h.dropUnits (List.nil_subset _)).same (by simp)) nofun)

theorem afterOperation_laws (h : SlotLaws p s) : SlotLaws p (afterOperation s) := by
  unfold afterOperation
  split
  · exact startDrain_laws h
  · exact h

theorem setFaulted_laws (h : SlotLaws p s) (b : Bool) : SlotLaws p (setFaulted b s) :=
  h.serviced rfl (List.Subset.refl _) (by simp)

theorem drainWrite_laws (h : SlotLaws p s) {u : CommitUnit} (hu : u ∈ s.buffer) (r : ReadBack) :
    SlotLaws p (drainWrite u r s) := by
  unfold drainWrite
  split
  · exact drainNext_laws (setFaulted_laws (completeUnit_laws h hu) _)
  · exact drainNext_laws (completeUnit_laws h hu)
  · exact setService_laws (failUnit_laws h ..) nofun
  · exact dropAll_laws (failUnit_laws h ..)

theorem drainWriteComplete_laws (h : SlotLaws p s) (r : ReadBack) (ht : execDrainWriteComplete r s = .next t) :
    SlotLaws p t := by
  refine SlotLaws.settled ?_ ht
  split
  · exact h
  · rename_i hb
    split
    · exact drainWrite_laws h (by simp [hb]) r
    · exact h

theorem holdCellWriteComplete_laws (h : SlotLaws p s) (r : CellReadBack)
    (ht : execHoldCellWriteComplete r s = .next t) :
    SlotLaws p t := by
  refine SlotLaws.settled ?_ ht
  repeat' split
  · exact h
  · refine .endHoldState ?_ _
    exact h.restored rfl rfl
  · exact h

theorem ownerFetched_laws (h : SlotLaws p s) (o : Option Owner) (slot : Nat) (hb : p → slot < recordSlots) :
    SlotLaws p (ownerFetched o slot s) := by
  unfold ownerFetched
  split
  · exact h
  · exact h.same (by simp)
  · split
    · exact h
    · exact continueFromLine_laws (h.same (by simp)) _ slot hb

theorem fillLine_laws (h : SlotLaws p s) (l : LineNo) (m slot : Nat) (r : Option Record) (hb : p → slot < recordSlots) :
    SlotLaws p (fillLine l m slot r s) := by
  unfold fillLine
  dsimp only
  split
  · exact ownerFetched_laws (h.same (by simp)) _ slot hb
  · exact .ownerFetchFailed ((h.same (t := freeLine l s) (by simp)).mark (by rw [dirMark_keys])) _

/-- The record slot of the fetch in service is one of the part's. -/
theorem SlotLaws.reading_bounded (h : SlotLaws p s) {f : Fetch} {n : Nat} (hv : s.store.service = .reading f)
    (hf : f.recordSlot = some n) (hp : p) : n < recordSlots := by
  refine h.bounded hp n (mem_namedSlots.mpr (.inr (.inr (.inr (.inr ?_)))))
  simp [RecordStore.fetches, hv, hf]

theorem recordFetchComplete_laws (h : SlotLaws p s) (d : Bool) (ht : execRecordFetchComplete d s = .next t) :
    SlotLaws p t := by
  refine SlotLaws.settled ?_ ht
  split
  · rename_i l m slot hv
    have hx := setService_laws (alterSlot_laws h d slot) (v := .idle) nofun
    dsimp only
    split
    · exact fillLine_laws hx l m slot _ (h.reading_bounded hv rfl)
    · exact afterOperation_laws hx
  · exact h

theorem areaReadComplete_laws (h : SlotLaws p s) (ht : execAreaReadComplete s = .next t) : SlotLaws p t := by
  refine SlotLaws.settled ?_ ht
  repeat' split
  · exact .areaReply (setService_laws h (v := .idle) nofun) _
  · exact afterOperation_laws (setService_laws h nofun)
  · exact h
  · exact h

theorem storeFault_laws (h : SlotLaws p s) : SlotLaws p (storeFault s) := by
  have hx := (setService_laws (setFaulted_laws h true) (v := .idle) nofun).reportLevels
  unfold storeFault
  dsimp only
  split
  · exact .refusePendingHold (withdrawWaiters_laws hx _ _)
  · exact afterOperation_laws hx

theorem offerRoom_laws (h : SlotLaws p s) : SlotLaws p (offerRoom s) := offerRoomTo_laws _ h

theorem writeVerified_laws (h : SlotLaws p s) {u : CommitUnit} (hu : u ∈ s.buffer) :
    SlotLaws p (writeVerified u s) := by
  have hx := setService_laws (completeUnit_laws h hu) (v := .idle) nofun
  unfold writeVerified
  dsimp only
  split
  · exact offerRoom_laws hx
  · exact afterOperation_laws hx

theorem unitWriteComplete_laws (h : SlotLaws p s) (r : ReadBack) (ht : execUnitWriteComplete r s = .next t) :
    SlotLaws p t := by
  refine SlotLaws.settled ?_ ht
  split
  · exact h
  · rename_i u _ hb
    have hu : u ∈ s.buffer := by simp [hb]
    split
    · exact h
    · unfold unitWrite
      split
      · exact writeVerified_laws h hu
      · exact writeVerified_laws h hu
      · exact setService_laws (failUnit_laws h ..) nofun
      · exact storeFault_laws (failUnit_laws h ..)
      · exact h

theorem retryVerified_laws (h : SlotLaws p s) {u : CommitUnit} (hu : u ∈ s.buffer) :
    SlotLaws p (retryVerified u s) := by
  have hx := (setService_laws (setFaulted_laws (completeUnit_laws h hu) false) (v := .idle) nofun).reportLevels
  unfold retryVerified
  dsimp only
  split
  · exact offerRoom_laws (hx.officeReply _)
  · exact afterOperation_laws hx

theorem retryFailed_laws (h : SlotLaws p s) : SlotLaws p (retryFailed s) := by
  have hx := setService_laws h (v := .idle) nofun
  unfold retryFailed
  dsimp only
  split
  · exact hx.officeReply _
  · exact afterOperation_laws hx

theorem retryAttemptComplete_laws (h : SlotLaws p s) (r : ReadBack) (ht : execRetryAttemptComplete r s = .next t) :
    SlotLaws p t := by
  refine SlotLaws.settled ?_ ht
  split
  · exact h
  · rename_i u _ hb
    unfold retryAttempt
    split
    · exact retryVerified_laws h (by simp [hb])
    · exact setService_laws (failUnit_laws h ..) nofun
    · exact retryFailed_laws (failUnit_laws h ..)
    · exact h

/-! ### The supply and start-up -/

theorem enterHold_laws (h : SlotLaws p s) (c : OutageCause) : SlotLaws p (enterHold c s) := by
  have ha : SlotLaws p (abandonWork s) := by
    refine h.narrow (.of_parts ?_ ?_ ?_ ?_ ?_ ?_) <;> simp [abandonWork, State.enrolling]
    simp [RecordStore.fetches]
  have hr : SlotLaws p (raiseUnlogged (s.waiters.filter Waiter.countsUnlogged).length (abandonWork s)) :=
    ha.same (by simp)
  unfold enterHold
  dsimp only
  split
  · exact startDrain_laws (hr.same (by simp))
  · exact hr.same (by simp)

theorem abandonStart_laws (h : SlotLaws p s) : SlotLaws p (abandonStart s) :=
  ((h.dropUnits (List.nil_subset _)).dropWaiters (List.nil_sublist _)).same (by simp [abandonStart])

theorem supplyLow_laws (h : SlotLaws p s) (ht : execSupplyLow s = .next t) : SlotLaws p t := by
  have hx : SlotLaws p { s with supply := { s.supply with levelOk := false } } := h.same (by simp)
  refine SlotLaws.settled ?_ ht
  split
  · exact enterHold_laws hx _
  · exact hx.same (by simp)
  · exact .setSupply (abandonStart_laws hx) _
  · exact hx
  · exact hx

theorem supplyOk_laws (h : SlotLaws p s) (ht : execSupplyOk s = .next t) : SlotLaws p t := by
  refine SlotLaws.settled ?_ ht
  repeat' split
  all_goals exact h.same (by simp)

theorem resetAsserted_laws (h : SlotLaws p s) (ht : execResetAsserted s = .next t) : SlotLaws p t := by
  have hx : SlotLaws p { s with supply := { s.supply with resetAsserted := true } } := h.same (by simp)
  refine SlotLaws.settled ?_ ht
  split
  · exact enterHold_laws hx _
  · exact .setSupply (abandonStart_laws hx) _
  · exact hx

theorem resetReleased_laws (h : SlotLaws p s) (ht : execResetReleased s = .next t) : SlotLaws p t := by
  refine SlotLaws.settled ?_ ht
  split
  all_goals exact h.same (by simp)

/-- The directory rebuilt from the store names the store's slots, each once (R11). -/
theorem rebuildDirectory_slots (m : List (Nat × StoredRecord)) (hm : (m.map (·.1)).Nodup) :
    ((rebuildDirectory m).map (·.slot)).Nodup ∧ (rebuildDirectory m).map (·.slot) ⊆ m.map (·.1) := by
  have key : ∀ (l : List (Nat × StoredRecord)) (d : List DirEntry), (l.map (·.1) ++ d.map (·.slot)).Nodup →
      ((l.foldl (fun d e => dirInsert ⟨e.2.record.meter, e.1, false⟩ d) d).map (·.slot)).Nodup ∧
        (l.foldl (fun d e => dirInsert ⟨e.2.record.meter, e.1, false⟩ d) d).map (·.slot) ⊆
          l.map (·.1) ++ d.map (·.slot) := by
    intro l
    induction l with
    | nil => exact fun d h => ⟨by simpa using h, by simp⟩
    | cons x l ih =>
      intro d h
      obtain ⟨k, hk, hp⟩ := dirInsert_slots ⟨x.2.record.meter, x.1, false⟩ d
      have hs : (l.map (·.1) ++ x.1 :: k).Perm (x.1 :: (l.map (·.1) ++ k)) := List.perm_middle
      have hq := (hp.append_left (l.map (·.1))).trans hs
      have hsub : (x.1 :: (l.map (·.1) ++ k)).Sublist ((x :: l).map (·.1) ++ d.map (·.slot)) :=
        ((List.Sublist.refl _).append hk).cons_cons x.1
      obtain ⟨h1, h2⟩ := ih (dirInsert ⟨x.2.record.meter, x.1, false⟩ d) (hq.nodup_iff.mpr (h.sublist hsub))
      exact ⟨h1, fun n hn => hsub.subset (hq.subset (h2 hn))⟩
  simpa [rebuildDirectory] using key m [] (by simpa using hm)

/-- Start-up reads the directory from the store and begins with nothing waiting (R11, R188). -/
theorem readStore_laws (h : SlotLaws p s) : SlotLaws p (resetVolatile (readStore s)) := by
  have hd : (resetVolatile (readStore s)).directory = rebuildDirectory s.store.slots := rfl
  have hs : (resetVolatile (readStore s)).store.slots = s.store.slots := rfl
  have hk : (s.store.slots.map (·.1)).Nodup :=
    (List.pairwise_map.mpr h.sorted.2).imp fun h => Nat.ne_of_lt h
  obtain ⟨h1, h2⟩ := rebuildDirectory_slots s.store.slots hk
  have ht : (resetVolatile (readStore s)).takenSlots = (rebuildDirectory s.store.slots).map (·.slot) := by
    have hw : (resetVolatile (readStore s)).waiters = [] := rfl
    rw [takenSlots_eq, State.enrolling, hd, hw, List.filterMap_nil, List.append_nil]
  refine ⟨⟨by rw [hd]; exact rebuildDirectory_sorted _, by rw [hs]; exact h.sorted.2⟩, fun _ => by rw [ht]; exact h1,
    fun hp n hn => h.bounded hp n (mem_namedSlots.mpr (.inr (.inl ?_)))⟩
  rw [mem_namedSlots, ht, hs] at hn
  rcases hn with hn | hn | hn
  · exact h2 hn
  · exact hn
  · simp [resetVolatile, RecordStore.fetches] at hn

theorem startUp_laws (h : SlotLaws p s) : SlotLaws p (startUp s) := by
  have hx : SlotLaws p (reportLevels (testCalendar (resetVolatile (readStore s)))) := (readStore_laws h).same (by simp)
  have hl : SlotLaws p (startLinks (postPowerUp s.describingCell
      (reportLevels (testCalendar (resetVolatile (readStore s)))))) := by
    refine .startLinks ?_
    unfold postPowerUp
    split
    · exact postSystemEntry_laws hx _ _ rfl
    · exact hx
  unfold startUp startRollover
  dsimp only
  split
  · exact rollover_laws hl
  · exact hl

/-! ### Every command -/

/-- A waiter that counts a second keeps its record slot (R149). -/
theorem tick_recordSlot (w : Waiter) :
    w.tick.job.recordSlot = w.job.recordSlot ∧ w.tick.job.enrolSlot = w.job.enrolSlot := by
  unfold Waiter.tick
  split
  · rename_i h
    exact ⟨by rw [h]; rfl, by rw [h]; rfl⟩
  · exact ⟨rfl, rfl⟩

theorem calendarSecond_laws (h : SlotLaws p s) : SlotLaws p { s with
    calendar := { s.calendar with dateTime := s.calendar.dateTime.map nextSecond }
    cell := { s.cell with dateTime := s.cell.dateTime.map nextSecond }
    slots := #v[(s.slot 0).tick, (s.slot 1).tick, (s.slot 2).tick, (s.slot 3).tick]
    arbiter := { s.arbiter with lapse := s.arbiter.lapse.map (· - 1) }
    waiters := s.waiters.map Waiter.tick } := by
  refine h.narrow (.of_parts (List.Sublist.refl _) ?_ (List.Sublist.refl _) ?_ (List.Subset.refl _)
    (List.Subset.refl _))
  · simp [State.enrolling, List.filterMap_map, tick_recordSlot]
  · simp [List.filterMap_map, tick_recordSlot]

/-- Every command keeps the laws. -/
theorem exec_laws (h : SlotLaws p s) (c : Instr) (ht : exec c s = .next t) : SlotLaws p t := by
  cases c with
  | quote k g b => exact takeTill_laws h _ _ _ _ (fun x hx => hx.same (by simp)) ht
  | confirm k g b => exact takeTill_laws h _ _ _ _ (fun x hx => hx.same (by simp)) ht
  | cancel k g b =>
    exact (portTake_laws h _ _ _ _ (h.same (by simp)) fun x hx => hx.same (by simp)).settled ht
  | reprint k g b => exact takeTill_laws h _ _ _ _ (fun x hx => hx.same (by simp)) ht
  | tillStatus k g b => exact takeTill_laws h _ _ _ _ (fun x hx => hx.same (by simp)) ht
  | meterEnrol g b => exact takeOffice_laws h _ _ _ (fun x hx => serveEnrol_laws hx b) ht
  | meterEdit g b =>
    refine takeOffice_laws h _ _ _ (fun x hx => ?_) ht
    unfold serveEdit
    split
    · exact hx.same (by simp)
    · exact serveChange_laws hx ..
  | meterBlock g b =>
    exact takeOffice_laws h _ _ _ (fun x hx => serveMeter_laws hx b fun m => serveChange_laws hx ..) ht
  | meterUnblock g b =>
    exact takeOffice_laws h _ _ _ (fun x hx => serveMeter_laws hx b fun m => serveChange_laws hx ..) ht
  | meterRetire g b =>
    exact takeOffice_laws h _ _ _ (fun x hx => serveMeter_laws hx b fun m => serveChange_laws hx ..) ht
  | meterPurge g b =>
    exact takeOffice_laws h _ _ _ (fun x hx => serveMeter_laws hx b fun m => serveChange_laws hx ..) ht
  | meterRestore g b => exact takeOffice_laws h _ _ _ (fun x hx => serveRestore_laws hx b) ht
  | meterRead g b => exact takeOffice_laws h _ _ _ (fun x hx => serveMeter_laws hx b fun m => serveRead_laws hx m) ht
  | tariffStage g b => exact takeOffice_laws h _ _ _ (fun x hx => serveStage_laws hx b) ht
  | tariffUnstage g b => exact takeOffice_laws h _ _ _ (fun x hx => serveUnstage_laws hx b) ht
  | tariffLoadNow g b => exact takeOffice_laws h _ _ _ (fun x hx => serveLoad_laws hx b) ht
  | tariffRead g b => exact takeOffice_laws h _ _ _ (fun x hx => hx.same (by simp)) ht
  | budgetVoucher g b => exact takeOffice_laws h _ _ _ (fun x hx => serveVoucher_laws hx b) ht
  | budgetFloorSet g b => exact takeOffice_laws h _ _ _ (fun x hx => serveFloor_laws hx b) ht
  | journalRead g b => exact takeOffice_laws h _ _ _ (fun x hx => serveJournalRead_laws hx b) ht
  | journalRelease g b => exact takeOffice_laws h _ _ _ (fun x hx => hx.same (by simp)) ht
  | clockSet g b => exact takeOffice_laws h _ _ _ (fun x hx => serveClockSet_laws hx b) ht
  | clockRead g b => exact takeOffice_laws h _ _ _ (fun x hx => hx.same (by simp)) ht
  | summaryRead g b => exact takeOffice_laws h _ _ _ (fun x hx => serveSummaryRead_laws hx b) ht
  | totalsSnapshot g b => exact takeOffice_laws h _ _ _ (fun x hx => hx.same (by simp)) ht
  | tillClose g b => exact takeOffice_laws h _ _ _ (fun x hx => serveTillClose_laws hx b) ht
  | holdRequest g b => exact takeOffice_laws h _ _ _ (fun x hx => hx.same (by simp)) ht
  | holdRelease g b => exact takeOffice_laws h _ _ _ (fun x hx => hx.same (by simp)) ht
  | linkSet g b => exact takeOffice_laws h _ _ _ (fun x hx => serveLinkSet_laws hx b) ht
  | quoteTimeSet g b => exact takeOffice_laws h _ _ _ (fun x hx => serveQuoteTime_laws hx b) ht
  | noticeMaskSet g b => exact takeOffice_laws h _ _ _ (fun x hx => serveMask_laws hx b) ht
  | conditionClear g b => exact takeOffice_laws h _ _ _ (fun x hx => hx.same (by simp)) ht
  | statusRead g b => exact takeOffice_laws h _ _ _ (fun x hx => hx.same (by simp)) ht
  | siteCodeLoad g b => exact takeOffice_laws h _ _ _ (fun x hx => serveSiteCode_laws hx b) ht
  | storeRetry g b => exact takeOffice_laws h _ _ _ (fun x hx => serveRetry_laws hx b) ht
  | unknownKind q kind g b => exact takeTill_laws h _ _ _ _ (fun x hx => hx.same (by simp)) ht
  | frameDiscarded q cs =>
    refine SlotLaws.settled ?_ ht
    split
    · exact h.same (by simp)
    · exact h
  | frameTimeLimit q cs n =>
    refine SlotLaws.settled ?_ ht
    split
    · exact h.same (by simp)
    · exact h
  | frameTransmitted q => exact SlotLaws.settled (h.same (by simp)) ht
  | linkEntersFault q =>
    refine SlotLaws.settled ?_ ht
    split
    · exact h.same (by simp)
    · exact h
  | linkFaultEnd q =>
    refine SlotLaws.settled ?_ ht
    split
    · exact h.same (by simp)
    · exact h
  | linkSettingsTaken k =>
    refine SlotLaws.settled ?_ ht
    split
    · exact h.same (by simp)
    · exact h
  | engineGrant => exact engineGrant_laws h ht
  | quoteHoldExpiry k =>
    refine SlotLaws.settled ?_ ht
    split
    · exact h.same (by simp)
    · exact h
  | officeHoldLapse =>
    refine SlotLaws.settled ?_ ht
    split
    · exact withdrawWaiters_laws (h.same (by simp)) _ _
    · exact h
  | dayRollover =>
    refine SlotLaws.settled ?_ ht
    split
    · exact rollover_laws h
    · exact h
  | recordFetchComplete d => exact recordFetchComplete_laws h d ht
  | areaReadComplete => exact areaReadComplete_laws h ht
  | unitWriteComplete r => exact unitWriteComplete_laws h r ht
  | retryAttemptComplete r => exact retryAttemptComplete_laws h r ht
  | supplyLow => exact supplyLow_laws h ht
  | supplyOk => exact supplyOk_laws h ht
  | resetAsserted => exact resetAsserted_laws h ht
  | resetReleased => exact resetReleased_laws h ht
  | drainWriteComplete r => exact drainWriteComplete_laws h r ht
  | holdCellWriteComplete r => exact holdCellWriteComplete_laws h r ht
  | startUp =>
    refine SlotLaws.settled ?_ ht
    split
    · exact startUp_laws h
    · exact h
  | startUpComplete =>
    refine SlotLaws.settled ?_ ht
    split
    · exact h.same (by simp)
    · exact h
  | calendarSecond => exact (calendarSecond_laws h).settled ht
  | backupCellFailed =>
    refine SlotLaws.settled ?_ ht
    split
    · exact h.same (by simp)
    · exact h.same (by simp)

/-- Every step keeps the laws: the queue's front names no record slot. -/
theorem step_laws (h : SlotLaws p s) (ht : step s = .next t) : SlotLaws p t := by
  unfold step at ht
  split at ht
  · cases ht; exact h
  · exact exec_laws (h.same (by simp)) _ ht

/-- Distinct record slots of the part are at most 8,192 (R9). -/
theorem SlotLaws.directory_bounded (h : SlotLaws True s) : DirectorySlots s.directory ∧ s.directory.length ≤ 8192 := by
  have hd : (s.directory.map (·.slot)).Nodup := (h.distinct trivial).sublist (List.sublist_append_left _ _)
  have hb : ∀ e ∈ s.directory, e.slot < recordSlots := fun e he =>
    h.bounded trivial _ (mem_namedSlots.mpr (.inl (List.mem_append_left _ (List.mem_map_of_mem he))))
  refine ⟨⟨hd, hb⟩, ?_⟩
  have hs : s.directory.map (·.slot) ⊆ List.range 8192 := fun n hn => by
    obtain ⟨e, he, rfl⟩ := List.mem_map.mp hn
    exact List.mem_range.mpr (hb e he)
  simpa using (hd.subperm hs).length_le

end

/-- Settles O8: every command keeps the order alone, and the law of the record slots beside it. -/
theorem stepKeepsDirectoryLaw : Obligations.StepKeepsDirectoryLaw := by
  refine ⟨fun s t hd ht => ?_, fun s t hd hs ht => ?_⟩
  · exact (step_laws (p := False) ⟨hd, nofun, nofun⟩ ht).sorted
  · have h := step_laws (p := True) ⟨hd, fun _ => hs.1, fun _ => hs.2⟩ ht
    exact ⟨⟨h.distinct trivial, h.bounded trivial⟩, h.directory_bounded⟩

end Sys2Proof.Machine
end

section
/-! SUPPORT. The office's reads and its misses: a request that waits for a fetch, and those answered as they stand. -/

namespace Sys2Proof.Machine

/-- All that beginning a fetch for the office does (R99, R108). -/
theorem startOfficeFetch_spec (m slot : Nat) (s : State) :
    let t := startFetch .office m slot s
    lineBecomes (victim s) ⟨.filling, some m, some .office, 0, none⟩ s t ∧
      t = { s with
        working := t.working
        store := { s.store with queue := s.store.queue ++ [.record (victim s) m slot] } } := by
  intro t
  have lines : ∀ j, t.line j = if victim s = j then ⟨.filling, some m, some .office, 0, none⟩ else s.line j :=
    fun j => by rw [← line_setLine]; rfl
  exact ⟨⟨by rw [lines, if_pos rfl], fun j hj => by rw [lines, if_neg (Ne.symm hj)], rfl⟩, rfl⟩

/-- The state of an office record request that missed, its step not yet ended (R98). -/
def missed (req : RecordRequest) (slot : Nat) (s : State) : State :=
  { startFetch .office req.meter slot s with officeRequest := some req }

@[simp] theorem missed_outside (req : RecordRequest) (slot : Nat) (s : State) :
    (missed req slot s).arbiter = s.arbiter ∧ (missed req slot s).buffer = s.buffer ∧
      (missed req slot s).supply = s.supply ∧ (missed req slot s).officeRequest = some req ∧
      (missed req slot s).officePort = s.officePort ∧
      (missed req slot s).store = { s.store with queue := s.store.queue ++ [.record (victim s) req.meter slot] } := by
  refine ⟨rfl, rfl, rfl, rfl, rfl, rfl⟩

theorem missed_keeps (req : RecordRequest) (slot : Nat) (s : State) :
    keepsAllBut [.lines, .officeRequest] s (missed req slot s) := by
  intro p hp
  cases p with
  | lines => simp at hp
  | officeRequest => simp at hp
  | link q => cases q <;> rfl
  | outstanding q => cases q <;> rfl
  | replies q => cases q <;> rfl
  | grants => exact ⟨rfl, rfl⟩
  | hold => exact ⟨rfl, rfl⟩
  | clock => exact ⟨rfl, rfl⟩
  | _ => rfl

theorem lineBecomes_congr {l : LineNo} {v : Line} {s t s' t' : State} (h : lineBecomes l v s t)
    (hs : s'.working = s.working) (ht : t'.working = t.working) : lineBecomes l v s' t' := by
  simpa only [lineBecomes, State.line, hs, ht] using h

theorem victim_congr {s t : State} (h : t.working = s.working) : victim t = victim s := by
  simp only [victim, State.line, h]

/-- An office record request that misses stays outstanding, its fetch queued or begun (R98, R99, R109). -/
theorem missed_end {s : State} {tag : Byte} {body : List Byte} (h : s.takes .office tag body) (hr : s.holdAtRest)
    (kind : Byte) (req : RecordRequest) (slot : Nat) {l : LineNo} (hv : victim s = l) :
    missesFor req slot tag kind l s (settle (missed req slot (s.serving .office kind tag))) := by
  generalize hS : s.serving .office kind tag = S
  have working : S.working = s.working := by rw [← hS]; simp
  have hvS : victim S = l := by rw [victim_congr working, hv]
  have store : S.store = s.store := by rw [← hS]; simp
  have running : S.running = true := by rw [← hS, serving_running]; exact takes_running h
  have rest : (missed req slot S).holdAtRest := holdAtRest_congr hr (by simp [← hS]) (by simp [← hS])
  have queue : (missed req slot S).store = { s.store with queue := s.store.queue ++ [.record l req.meter slot] } := by
    simp [store, hvS]
  have kept : keepsAllBut [.lines, .officeRequest, .outstanding .office] s (missed req slot S) :=
    keepsAllBut_trans (keepsAllBut_mono (hS ▸ serving_keeps s .office kind tag) (by simp))
      (keepsAllBut_mono (missed_keeps req slot S) (by simp))
  refine ⟨?_, by simp, ?_, fun hs => ?_, fun hs hb hq hw => ?_, keepsAllBut_settle rest kept⟩
  · have := (startOfficeFetch_spec req.meter slot S).1
    rw [hvS] at this
    exact lineBecomes_congr this working.symm (by simp [missed])
  · rw [settle_outstanding rest, ← hS]
    simp
  · rw [settle_busy rest (by rw [queue]; exact hs), queue]
    exact ⟨rfl, rfl⟩
  · refine settle_idle_store rest ?_ (by rw [queue]; exact hs) (by rw [queue, hq]; rfl) (by rw [queue]; exact hw) ?_
    · simpa [State.running] using running
    · simp [← hS, hb]

/-- The answer of METER_READ as the directory and the Working Set stand (R17). -/
theorem serveRead_cases {m : Nat} {S : State} (hc : S.commissioned = true) :
    (dirFind m S.directory = none → serveRead m S = officeRefuse .meterUnknown S) ∧
      ∀ e, dirFind m S.directory = some e →
        (e.damaged = true → serveRead m S = officeRefuse .meterDamaged S) ∧
        (e.damaged = false →
          (findLine m S = none → serveRead m S = missed (.read m) e.slot S) ∧
          ∀ l, findLine m S = some l →
            ((S.line l).record = none → serveRead m S = officeRefuse .meterBusy S) ∧
            ∀ r, (S.line l).record = some r → serveRead m S = officeReply (readReply r S) S) := by
  have refusal : recordRefusal false false false S = none := by simp [recordRefusal, hc]
  refine ⟨fun hd => by simp [serveRead, refusal, hd], fun e hd => ⟨fun hx => by simp [serveRead, refusal, hd, hx],
    fun hx => ⟨fun hf => ?_, fun l hf => ⟨fun hn => ?_, fun r hn => ?_⟩⟩⟩⟩
  · simp [serveRead, refusal, hd, hx, hf, missed, RecordRequest.meter]
  · simp [serveRead, refusal, hd, hx, hf, hn]
  · simp [serveRead, refusal, hd, hx, hf, hn]

theorem serving_statusOf {s : State} (hrun : s.running = true) (kind tag : Byte) :
    statusOf (s.serving .office kind tag) = { statusOf s with supply := .run } := by
  have supply : s.supply.state = .run := by simpa [State.running] using hrun
  have links : ∀ t, (s.serving .office kind tag).linkStatus t = s.linkStatus t := fun t => by
    simp [State.linkStatus, serving_link]
  have slots : ∀ t, (s.serving .office kind tag).slotStatus t = s.slotStatus t := fun t => by
    simp [State.slotStatus]
  have held : (s.serving .office kind tag).held = s.held := by simp [State.held]
  simp [statusOf, links, slots, held, supply]

theorem quarterOf_eq (v : TariffSet) (q : Nat) :
    quarterOf v q = (List.range 4).map fun i => v[4 * q + i]?.getD none := rfl

/-- Settles O40: every read is one answer that leaves the rest as it stands, but the METER_READ that misses. -/
theorem readsAnswered : Obligations.ReadsAnswered := by
  intro s tag body h hr
  dsimp only
  have answered {kind : Byte} {serve : State → State} {reply : Reply}
      (hs : serve (s.serving .office kind tag) = officeReply reply (s.serving .office kind tag)) :=
    takeOffice_answered h hr serve reply hs
  have refused {kind : Byte} {serve : State → State} {code : RefusalCode}
      (hs : serve (s.serving .office kind tag) = officeRefuse code (s.serving .office kind tag)) :=
    answered (hs.trans ((officeRefuse_eq (serving_outstanding s kind tag) code).trans
      (officeReply_eq (serving_outstanding s kind tag) _).symm))
  refine ⟨fun m e l r hp hc hd hdm hf hl => ?_, fun m hp hc => ?_, fun hb => ?_, fun hb hc => ?_, fun q hp => ?_,
    fun q hp => ⟨fun hn => ?_, fun v hn => ?_⟩, fun hb => ?_⟩
  · obtain ⟨-, cases⟩ := serveRead_cases (m := m) (S := s.serving .office kindMeterRead tag) (by simpa using hc)
    have reads := ((cases e (by simpa using hd)).2 hdm).2 l (by simpa using hf) |>.2 r (by simpa using hl)
    have reply : readReply r (s.serving .office kindMeterRead tag) =
        .meterData r (s.now.map fun d => decide (r.monthTag = monthTagOf d.day)) := by
      simp only [readReply, monthCurrentOf, serving_now]; rfl
    exact answered (kind := kindMeterRead) (by simp only [serveMeter, hp, reads, reply])
  · obtain ⟨absent, cases⟩ := serveRead_cases (m := m) (S := s.serving .office kindMeterRead tag) (by simpa using hc)
    refine ⟨fun hd => refused (kind := kindMeterRead) ?_, fun e hd => ?_⟩
    · simp only [serveMeter, hp, absent (by simpa using hd)]
    obtain ⟨damaged, good⟩ := cases e (by simpa using hd)
    refine ⟨fun hx => refused (kind := kindMeterRead) (by simp only [serveMeter, hp, damaged hx]), fun l hx => ?_⟩
    obtain ⟨misses, held⟩ := good hx
    refine ⟨fun hf hn => refused (kind := kindMeterRead) ?_, fun hf hv => ⟨_, takeOffice_exec h _, ?_⟩⟩
    · simp only [serveMeter, hp, (held l (by simpa using hf)).1 (by simpa using hn)]
    · simp only [serveMeter, hp, misses (by simpa using hf)]
      exact missed_end h hr kindMeterRead (.read m) e.slot hv
  · exact answered (kind := kindClockRead) (by simp [serveClockRead, hb, parseNone_nil])
  · exact answered (kind := kindTotalsSnapshot) (by simp [serveTotals, hb, parseNone_nil, hc])
  · exact answered (kind := kindTariffRead) (by simp [serveTariffRead, hp, tariffReply, quarterOf_eq])
  · exact answered (kind := kindTariffRead) (by simp [serveTariffRead, hp, tariffReply, hn])
  · exact answered (kind := kindTariffRead) (by simp [serveTariffRead, hp, tariffReply, hn, quarterOf_eq])
  · exact answered (kind := kindStatusRead)
      (by simp only [serveStatus, hb, parseNone_nil, serving_statusOf (takes_running h)]; rfl)

end Sys2Proof.Machine
end

section
/-! SUPPORT. The office record requests that change a record, from their lookup to their end. -/

namespace Sys2Proof.Machine

/-- Where steps 6 and 7 of Table 1-5 lead when the lookup is no hit (R12, R98). -/
theorem lookupRecord_noHit {req : RecordRequest} {S : State} :
    (dirFind req.meter S.directory = none → lookupRecord req S = officeRefuse .meterUnknown S) ∧
      ∀ e, dirFind req.meter S.directory = some e →
        (e.damaged = true → lookupRecord req S = officeRefuse .meterDamaged S) ∧
        (e.damaged = false →
          (findLine req.meter S = none → lookupRecord req S = missed req e.slot S) ∧
          ∀ l o, findLine req.meter S = some l → (S.line l).pin = some o → o ≠ .office →
            lookupRecord req S = officeRefuse .meterBusy S) := by
  refine ⟨fun hd => by simp [lookupRecord, hd], fun e hd => ⟨fun hx => by simp [lookupRecord, hd, hx],
    fun hx => ⟨fun hf => ?_, fun l o hf hp ho => ?_⟩⟩⟩
  · simp [lookupRecord, hd, hx, lookup, hf, missed]
  · simp [lookupRecord, hd, hx, lookup, hf, hp, ho]

/-- METER_EDIT comes to its lookup (R12, R18). -/
theorem serveEdit_lookup {s : State} (he : s.editable) {body : List Byte} {g : EditRequest}
    (hp : parseEdit body = some g) (kind tag : Byte) :
    serveEdit body (s.serving .office kind tag) = lookupRecord (.edit g) (s.serving .office kind tag) := by
  simp only [serveEdit, hp, serveChange, refusal_editable he]

/-- A state request comes to its lookup (R12, R19). -/
theorem serveMeter_lookup {s : State} (he : s.editable) {body : List Byte} {m : Nat} (hp : parseMeter body = some m)
    (req : Nat → RecordRequest) (kind tag : Byte) :
    serveMeter body (fun m => serveChange false (req m)) (s.serving .office kind tag) =
      lookupRecord (req m) (s.serving .office kind tag) := by
  simp only [serveMeter, hp, serveChange, refusal_editable he]

/-- What holds of the end of every record request for a meter holds of METER_EDIT, METER_BLOCK, METER_UNBLOCK and
METER_RETIRE of it. -/
theorem changes_exec {s : State} {tag : Byte} {body : List Byte} {m : Nat} (h : s.takes .office tag body)
    (he : s.editable) (Q : Byte → RecordRequest → State → Prop)
    (hQ : ∀ kind req, req.meter = m → Request.isQuarter kind = false →
      Q kind req (settle (lookupRecord req (s.serving .office kind tag)))) :
    (∀ g : EditRequest, parseEdit body = some g → g.meter = m →
      ∃ t, exec (.meterEdit tag body) s = .next t ∧ Q kindMeterEdit (.edit g) t) ∧
    (parseMeter body = some m →
      (∃ t, exec (.meterBlock tag body) s = .next t ∧ Q kindMeterBlock (.block m) t) ∧
      (∃ t, exec (.meterUnblock tag body) s = .next t ∧ Q kindMeterUnblock (.unblock m) t) ∧
      ∃ t, exec (.meterRetire tag body) s = .next t ∧ Q kindMeterRetire (.retire m) t) := by
  refine ⟨fun g hp hg => ⟨_, takeOffice_exec h _, ?_⟩, fun hp => ⟨⟨_, takeOffice_exec h _, ?_⟩,
    ⟨_, takeOffice_exec h _, ?_⟩, ⟨_, takeOffice_exec h _, ?_⟩⟩⟩
  · rw [serveEdit_lookup he hp]; exact hQ kindMeterEdit (.edit g) hg rfl
  · rw [serveMeter_lookup he hp]; exact hQ kindMeterBlock (.block m) rfl rfl
  · rw [serveMeter_lookup he hp]; exact hQ kindMeterUnblock (.unblock m) rfl rfl
  · rw [serveMeter_lookup he hp]; exact hQ kindMeterRetire (.retire m) rfl rfl

/-- The end of an office request that is refused as it stands. -/
theorem refused_end {s : State} {tag : Byte} {body : List Byte} (h : s.takes .office tag body) (hr : s.holdAtRest)
    {kind : Byte} (hq : Request.isQuarter kind = false) (code : RefusalCode) :
    refusedWith .office kind tag code 0 0 s (settle (officeRefuse code (s.serving .office kind tag))) := by
  obtain ⟨replies, kept⟩ := answered_end h hr kind (.refused code kind 0 0)
  rw [officeRefuse_eq (serving_outstanding s kind tag)]
  exact ⟨replies, by rw [hq]; exact kept⟩

/-- METER_EDIT whose meter is a hit continues at once. -/
theorem meterEdit_hit {s : State} {tag : Byte} {body : List Byte} {g : EditRequest} {e : DirEntry} {l : LineNo}
    {r : Record} (h : s.takes .office tag body) (he : s.editable) (hp : parseEdit body = some g)
    (hd : dirFind g.meter s.directory = some e) (hdm : e.damaged = false) (hh : s.hits .office g.meter l r) :
    exec (.meterEdit tag body) s = .next
      (settle (continueEdit g e.slot r (pinLine .office l g.meter (s.serving .office kindMeterEdit tag)))) :=
  (takeOffice_exec h _).trans
    (by rw [serveEdit_lookup he hp, lookupRecord_officeHit (req := .edit g) hd hdm hh]; rfl)

/-- A request for a meter whose line is a hit continues at once. -/
theorem meterRequest_hit {s : State} {tag kind : Byte} {body : List Byte} {m : Nat} {e : DirEntry} {l : LineNo}
    {r : Record} (req : Nat → RecordRequest) (hm : (req m).meter = m)
    (h : s.takes .office tag body) (he : s.editable) (hp : parseMeter body = some m)
    (hd : dirFind m s.directory = some e) (hdm : e.damaged = false) (hh : s.hits .office m l r) :
    finish (takeOffice kind tag body (serveMeter body fun m => serveChange false (req m)) s) = .next
      (settle (continueRecord (req m) e.slot r (pinLine .office l m (s.serving .office kind tag)))) := by
  rw [takeOffice_exec h, serveMeter_lookup he hp,
    lookupRecord_officeHit (req := req m) (by rwa [hm]) hdm (by rwa [hm]), hm]

/-- A state request on a hit, where the state changes, posts its change (R19). -/
theorem accountState_posts {s : State} {tag kind : Byte} {body : List Byte} {m slot : Nat} {l : LineNo} {r : Record}
    (h : s.takes .office tag body) (hh : s.hits .office m l r) (hr : s.ready) (hlaw : RecencyLaw s)
    {next : AccountState → Option AccountState} {a : AccountState} (ha : next r.account = some a) :
    let t := settle (continueState next slot r (pinLine .office l m (s.serving .office kind tag)))
    let n := s.journal.nextSeq
    let r' := { r with account := a, lastSeq := n }
    officePosts .edit (some (.image slot r')) (.meterState m r.account (.account a)) s.site s t ∧
      lineBecomes l { s.line l with dirty := (s.line l).dirty + 1, record := some r' } s t ∧
      replied .office tag (.stateOk m a n) s t ∧ onlyLevels s t ∧
      keepsAllBut [.site, .buffer, .journal, .lines, .conditions, .replies .office] s t := by
  obtain rfl : r.meter = m := hh.2.2.1
  simp only [continueState, ha, officeHit_postRecord hh hr, runJob, postAccountState, officeHit_nextSeq hh]
  exact officeHit_posts (kind := kind) (r' := { r with account := a, lastSeq := s.journal.nextSeq }) h hh rfl hlaw
    slot _ _

/-- METER_EDIT on a hit, where a value changes, posts its change (R18). -/
theorem edit_posts {s : State} {tag kind : Byte} {body : List Byte} {m slot : Nat} {l : LineNo} {r : Record}
    {g : EditRequest} (h : s.takes .office tag body) (hh : s.hits .office m l r) (hr : s.ready) (hlaw : RecencyLaw s)
    (ha : r.account ≠ .retired) (hc : editRecord r g ≠ r) :
    let t := settle (continueEdit g slot r (pinLine .office l m (s.serving .office kind tag)))
    let n := s.journal.nextSeq
    let r' := editRecord r g
    officePosts .edit (some (.image slot { r' with lastSeq := n })) (.meterEdit m (editItems r g)) s.site s t ∧
      lineBecomes l { s.line l with dirty := (s.line l).dirty + 1, record := some { r' with lastSeq := n } } s t ∧
      replied .office tag (.editOk r'.tariffIndex r'.recoveryRate r'.arrears r'.lifelineEligible (some n)) s t ∧
      onlyLevels s t ∧ keepsAllBut [.site, .buffer, .journal, .lines, .conditions, .replies .office] s t := by
  obtain rfl : r.meter = m := hh.2.2.1
  have items : ¬(editItems r g).isEmpty = true := mt (editItems_nil r g).mp hc
  simp only [continueEdit, ha, items, if_false, officeHit_postRecord hh hr, runJob, postEdit, officeHit_nextSeq hh]
  exact officeHit_posts (kind := kind) (r' := { editRecord r g with lastSeq := s.journal.nextSeq }) h hh rfl hlaw
    slot _ _

/-- Settles O37: a refused lookup, a miss, and on a hit the posting, the unchanged edit and the refusal. -/
theorem recordChangePosts : Obligations.RecordChangePosts := by
  intro s tag body m h he
  refine ⟨?_, fun e l hrest hd hdm hf hv => ?_, fun e l r hd hdm hh hlaw => ?_⟩
  · intro refused hrest
    have all {code : RefusalCode}
        (hl : ∀ kind req, RecordRequest.meter req = m →
          lookupRecord req (s.serving .office kind tag) = officeRefuse code (s.serving .office kind tag)) :
        refused code :=
      changes_exec h he (fun kind _ t => refusedWith .office kind tag code 0 0 s t) fun kind req hm hq => by
        rw [hl kind req hm]; exact refused_end h hrest hq code
    refine ⟨fun hd => all fun kind req hm => ?_, fun e hd hx => all fun kind req hm => ?_,
      fun e l o hd hx hf hp ho => all fun kind req hm => ?_⟩
    · exact lookupRecord_noHit.1 (by simpa [hm] using hd)
    · exact (lookupRecord_noHit.2 e (by simpa [hm] using hd)).1 hx
    · exact ((lookupRecord_noHit.2 e (by simpa [hm] using hd)).2 hx).2 l o (by simpa [hm] using hf)
        (by simpa using hp) ho
  · refine changes_exec h he (fun kind req t => missesFor req e.slot tag kind l s t) fun kind req hm hq => ?_
    rw [((lookupRecord_noHit.2 e (by simpa [hm] using hd)).2 hdm).1 (by simpa [hm] using hf)]
    exact missed_end h hrest kind req e.slot hv
  · refine ⟨fun g hp hg ha => ?_, fun hp hr => ⟨fun ha => ?_, fun ha => ?_, fun ha => ?_⟩, fun hp ha hrest => ?_⟩
    · subst hg
      have runs := meterEdit_hit (g := g) (l := l) h he hp hd hdm hh
      exact ⟨fun hc hr => ⟨_, runs, edit_posts h hh hr hlaw ha hc⟩, fun hc hrest => ⟨_, runs, by
        have items : (editItems r g).isEmpty = true := (editItems_nil r g).mpr hc
        rw [continueEdit, if_neg ha, if_pos items]
        exact officeHit_answered h hh hrest _⟩⟩
    · exact ⟨_, meterRequest_hit .block rfl h he hp hd hdm hh, accountState_posts h hh hr hlaw (by rw [ha]; rfl)⟩
    · exact ⟨_, meterRequest_hit .unblock rfl h he hp hd hdm hh, accountState_posts h hh hr hlaw (by rw [ha]; rfl)⟩
    · have next : retireState r.account = some .retired := by cases hx : r.account <;> simp_all [retireState]
      exact ⟨_, meterRequest_hit .retire rfl h he hp hd hdm hh, accountState_posts h hh hr hlaw next⟩
    · refine ⟨_, meterRequest_hit .block rfl h he hp hd hdm hh, ?_⟩
      simp only [continueRecord, continueState, ha, blockState]
      exact officeHit_refused h hh hrest .stateConflict rfl

end Sys2Proof.Machine
end

section
/-! SUPPORT. METER_ENROL and METER_RESTORE: the requests that take a line without a fetch (R100). -/

namespace Sys2Proof.Machine

/-- What a line taken without a fetch gives: the line of the meter, pinned to the office (R100). -/
theorem takeLineValid_finds {S : State} {m : Nat} {r : Record} {l : LineNo} (hf : findLine m S = none)
    (hp : findPinned .office S = none) (hv : victim S = l) :
    findLine m (takeLineValid m r S) = some l ∧ findPinned .office (takeLineValid m r S) = some l := by
  obtain ⟨taken, others, -, -⟩ := takeLineValid_spec m r S l hv
  refine ⟨findLine_of_unique (by rw [taken]) fun j hj => ?_, findPinned_of_unique (by rw [taken]) fun j hj => ?_⟩
  · by_contra hne
    rw [others j hne] at hj
    exact findLine_none hf j hj
  · by_contra hne
    rw [others j hne] at hj
    exact findPinned_none hp j hj

/-- The end of a request that took a line without a fetch and posts its record at once; `y` is the state in which it
posts, and the directory changes with the posting (R14, R16). -/
theorem taken_posts {s : State} {tag kind : Byte} {body : List Byte} {m slot : Nat} {l : LineNo} {r0 r : Record}
    (h : s.takes .office tag body) (hf : findLine m s = none) (hp : findPinned .office s = none) (hv : victim s = l)
    (hlaw : RecencyLaw s) (hm : r.meter = m) (eb : EntryBody) (reply : Reply) (d : List DirEntry → List DirEntry) :
    let y := takeReservation (takeLineValid m r0 (s.serving .office kind tag))
    let z := postImage slot r eb y
    let t := settle (officeReply reply { z with directory := d z.directory })
    officePosts .edit (some (.image slot r)) eb s.site s t ∧ t.directory = d s.directory ∧
      lineBecomes l ⟨.valid, some m, none, 1, some r⟩ s t ∧ replied .office tag reply s t ∧ onlyLevels s t ∧
      keepsAllBut [.site, .buffer, .journal, .directory, .lines, .conditions, .replies .office] s t := by
  generalize hS : s.serving .office kind tag = S
  intro y z t
  have working : S.working = s.working := by rw [← hS]; simp
  have hvS : victim S = l := (victim_congr working).trans hv
  obtain ⟨taken, others, recency, only⟩ := takeLineValid_spec m r0 S l hvS
  obtain ⟨finds, pinned⟩ := takeLineValid_finds (r := r0) ((findLine_congr working m).trans hf)
    ((findPinned_congr working _).trans hp) hvS
  have yw : y.working = (takeLineValid m r0 S).working := takeReservation_working _
  have yl : ∀ j, y.line j = (takeLineValid m r0 S).line j := fun j => by simp only [State.line, yw]
  obtain ⟨unit, replies, levels, line, rest, order, dir, kept⟩ := recordRequest_end (s := s) (y := y)
    (z := { z with directory := d z.directory }) (tag := tag) (kind := kind) (r := r) (l := l) [.directory] reply slot
    eb h
    (by rw [hm, findLine_congr yw]; exact finds) (by rw [findPinned_congr yw]; exact pinned)
    ⟨_, by rw [hS]; exact only, rfl⟩ (by simp) (dir_keeps _ _) rfl rfl rfl rfl rfl
  refine ⟨unit, ?_, ⟨?_, fun j hj => ?_, ?_⟩, replies, levels, keepsAllBut_mono kept (by simp +contextual)⟩
  · have : z.directory = s.directory := by simp [z, y, ← hS]
    rw [dir, this]
  · rw [line, yl, taken]
  · rw [rest j hj, yl, others j hj]; simp only [State.line, working]
  · rw [order, yw, recency, touch_twice (recency_nodup (by simpa [RecencyLaw, working] using hlaw)), working]

/-- A request that took a line without a fetch posts at once where there is room (R100, R121). -/
theorem postTaken_ready {s : State} {kind tag : Byte} (hr : s.ready) (m : Nat) (r : Record) (j : Job) :
    postTaken j (takeLineValid m r (s.serving .office kind tag)) =
      runJob ⟨j, true⟩ (takeReservation (takeLineValid m r (s.serving .office kind tag))) := by
  obtain ⟨room, runs⟩ := record_posts (s := s) (kind := kind) (tag := tag)
    (Y := takeLineValid m r (s.serving .office kind tag)) rfl hr j
  rw [postTaken, if_pos room, runs]

theorem taken_nextSeq (s : State) (kind tag : Byte) (m : Nat) (r : Record) :
    (takeReservation (takeLineValid m r (s.serving .office kind tag))).journal.nextSeq = s.journal.nextSeq := by
  rw [takeReservation_journal]; simp [takeLineValid]

theorem ready_waiters {s : State} (h : s.ready) : s.waiters = [] := by
  have := h.1
  simp only [State.postsAtOnce, Bool.and_eq_true, List.isEmpty_iff] at this
  exact this.2

/-- The record that METER_ENROL builds on the day (R14). -/
theorem enrolRecord_today {s : State} {d : DateTime} (hn : s.now = some d) (kind tag : Byte) (m tariff : Nat)
    (eligible : Bool) (rate arrears : Nat) :
    enrolRecord m tariff eligible rate arrears (s.serving .office kind tag) =
      ⟨m, .active, tariff, eligible, rate, arrears, monthTagOf d.day, 0, false, false, 0, 0, [], 0, d.day⟩ := by
  simp only [enrolRecord, State.currentMonth, State.today, serving_now, hn]
  rfl

/-- Settles O36: METER_ENROL posts, or is refused by the calendar, the directory's entry or its length. -/
theorem enrolPosts : Obligations.EnrolPosts := by
  intro s tag body m tariff rate arrears eligible d h hp hc hrest
  have serves {code : RefusalCode}
      (hs : serveEnrol body (s.serving .office kindMeterEnrol tag) =
        officeRefuseWith code 0 (s.serving .office kindMeterEnrol tag)) :=
    takeOffice_refused h hrest _ code 0 rfl hs
  refine ⟨fun hv => serves ?_, fun hl hn => ?_⟩
  · simp [serveEnrol, hp, recordRefusal, hc, hv, officeRefuse]
  have valid : s.calendar.valid = true := by by_contra hv; simp [State.now, hv] at hn
  have begins : serveEnrol body (s.serving .office kindMeterEnrol tag) =
      enrolMeter m tariff eligible rate arrears (s.serving .office kindMeterEnrol tag) := by
    simp [serveEnrol, hp, recordRefusal, hc, hl, valid]
  refine ⟨fun l hd hroom hf hpin hv hr hlaw => ?_, fun e hd => serves ?_, fun hd hfull => serves ?_⟩
  · intro r slot
    have taken : (s.serving .office kindMeterEnrol tag).takenSlots = s.directory.map (·.slot) := by
      rw [takenSlots_directory (by simpa using ready_waiters hr), serving_directory]
    have free : ¬recordSlots ≤ (s.directory.map (·.slot)).length := by simpa using hroom
    refine ⟨_, takeOffice_exec h _, ?_⟩
    simp only [begins, enrolMeter, serving_directory, hd, Option.isSome_none, Bool.false_eq_true, if_false, taken, free,
      enrolRecord_today hn, postTaken_ready hr, runJob, postEnrol, taken_nextSeq]
    obtain ⟨unit, dir, line, replies, levels, kept⟩ := taken_posts (kind := kindMeterEnrol) (r := r) (m := m)
      h hf hpin hv hlaw rfl _ _ _
    exact ⟨unit, dir, line, replies, levels, kept⟩
  · simp [begins, enrolMeter, hd, officeRefuse]
  · have full : recordSlots ≤ (s.serving .office kindMeterEnrol tag).takenSlots.length := by
      simp only [State.takenSlots, serving_directory, List.length_append, List.length_map]
      omega
    simp [begins, enrolMeter, hd, full, officeRefuse]

/-- Settles O39: METER_RESTORE posts over a damaged entry and is refused over any other. -/
theorem restorePosts : Obligations.RestorePosts := by
  intro s tag body r e h hp he hh hd
  have begins : serveRestore body (s.serving .office kindMeterRestore tag) =
      restoreMeter r (s.serving .office kindMeterRestore tag) := by
    simp [serveRestore, hp, recordRefusal, he.1, he.2, hh]
  refine ⟨fun l hx hf hpin hv hr hlaw => ?_, fun hx => ?_⟩
  · intro r'
    refine ⟨_, takeOffice_exec h _, ?_⟩
    simp only [begins, restoreMeter, serving_directory, hd, hx, if_true, postTaken_ready hr, runJob, postRestore,
      taken_nextSeq]
    obtain ⟨unit, dir, line, replies, levels, kept⟩ := taken_posts (kind := kindMeterRestore) (r := r') (m := r.meter)
      h hf hpin hv hlaw rfl _ _ _
    exact ⟨unit, (parseRestore_recent hp : r.recent = []), dir, line, replies, levels, kept⟩
  · refine takeOffice_refused h (fun hold => ?_) _ .stateConflict 0 rfl ?_
    · rw [hh] at hold; cases hold
    · simp [begins, restoreMeter, hd, hx, officeRefuse]

end Sys2Proof.Machine
end

section
/-! SUPPORT. An office record request from step 8 of Table 1-5 on, in any state that has its record's line pinned. -/

namespace Sys2Proof.Machine

/-- The office port has this request outstanding and can be answered. -/
structure OfficeServed (x : State) (o : Outstanding) : Prop where
  receives : x.receives .office = true
  outstanding : x.officePort.outstanding = some o

theorem OfficeServed.of_kept {x y : State} {o : Outstanding} {l : List Part} (h : OfficeServed x o)
    (k : keepsAllBut l x y) (hl : Part.outstanding .office ∉ l) (hl2 : Part.link .office ∉ l) (hl3 : Part.supply ∉ l) :
    OfficeServed y o :=
  ⟨receives_of h.receives (k .supply hl3) (standing_link (k (.link .office) hl2)),
    (k (.outstanding .office) hl).trans h.outstanding⟩

theorem OfficeServed.reply {x : State} {o : Outstanding} (h : OfficeServed x o) (r : Reply) :
    officeReply r x = answer .office o.tag r x := officeReply_eq h.outstanding r

theorem OfficeServed.refuse {x : State} {o : Outstanding} (h : OfficeServed x o) (c : RefusalCode) :
    officeRefuse c x = answer .office o.tag (.refused c o.kind 0 0) x := officeRefuse_eq h.outstanding c

theorem answer_working (p : PortId) (tag : Byte) (r : Reply) (s : State) :
    (settle (answer p tag r s)).working = s.working := by simp

/-- An outstanding office request that is answered: what it changed before, its reply, and nothing else. -/
theorem OfficeServed.answered {x y : State} {o : Outstanding} {l : List Part} (h : OfficeServed x o) (r : Reply)
    (k : keepsAllBut l x y) (hl : Part.outstanding .office ∉ l) (hl1 : Part.replies .office ∉ l)
    (hl2 : Part.link .office ∉ l) (hl3 : Part.supply ∉ l) (hy : y.holdAtRest) :
    let t := settle (officeReply r y)
    replied .office o.tag r x t ∧ keepsAllBut (l ++ [.outstanding .office, .replies .office]) x t := by
  have served := h.of_kept k hl hl2 hl3
  intro t
  have ht : t = settle (answer .office o.tag r y) := congrArg settle (served.reply r)
  rw [ht]
  exact event_reply o.tag r l h.receives k hl1 hl2 hl3 hy

/-- An outstanding office request whose unit is posted: `z` is the state after the unit's other changes (R121). -/
theorem OfficeServed.posted {x z : State} {o : Outstanding} {more : List Part} (h : OfficeServed x o) (reply : Reply)
    (kind : UnitKind) (part : Option RecordPart) (eb : EntryBody)
    (k : keepsAllBut more (addUnit kind part (some (.office, eb)) none (takeReservation x)) z)
    (hm : Part.outstanding .office ∉ more ∧ Part.replies .office ∉ more ∧ Part.link .office ∉ more ∧
      Part.supply ∉ more ∧ Part.site ∉ more ∧ Part.buffer ∉ more ∧ Part.journal ∉ more ∧ Part.conditions ∉ more) :
    let t := settle (officeReply reply z)
    officePosts kind part eb x.site x t ∧ replied .office o.tag reply x t ∧ onlyLevels x t ∧
      keepsAllBut (more ++ [.site, .buffer, .journal, .conditions, .outstanding .office, .replies .office]) x t := by
  obtain ⟨mo, mr, ml, ms, msite, mbuf, mj, mc⟩ := hm
  intro t
  generalize hA : takeReservation x = A at k
  have kA : keepsAllBut [.journal, .conditions] x A := hA ▸ takeReservation_keeps x
  have jA : A.journal = ⟨x.journal.nextSeq, x.journal.reservations + 1⟩ := hA ▸ takeReservation_journal x
  have nA : A.now = x.now := hA ▸ takeReservation_now x
  have sA : A.site = x.site := kA .site (by simp)
  have bA : A.buffer = x.buffer := kA .buffer (by simp)
  obtain ⟨buffer, site, journal⟩ := addUnit_entry kind part .office eb A
  have kz : keepsAllBut (more ++ [.site, .buffer, .journal, .conditions]) x z :=
    keepsAllBut_trans (keepsAllBut_mono kA (by simp +contextual)) (keepsAllBut_trans
      (keepsAllBut_mono (addUnit_keeps kind part (some (.office, eb)) none A) (by simp +contextual))
      (keepsAllBut_mono k (by simp +contextual)))
  have zb : z.buffer = x.buffer ++ [postedUnit x kind part x.now .office eb x.site] := by
    have unit : postedUnit A kind part A.now .office eb A.site = postedUnit x kind part x.now .office eb x.site := by
      simp only [postedUnit, jA, nA, sA]
    rw [k .buffer mbuf, buffer, bA, unit]
  have rest : z.holdAtRest := fun _ => by rw [zb]; simp
  obtain ⟨replies, kept⟩ := h.answered reply kz (by simp [mo]) (by simp [mr]) (by simp [ml]) (by simp [ms]) rest
  have same {p : Part} (hp : p ≠ .outstanding .office ∧ p ≠ .replies .office) : p.same z t := by
    have served := h.of_kept kz (by simp [mo]) (by simp [ml]) (by simp [ms])
    have ht : t = settle (answer .office o.tag reply z) := congrArg settle (served.reply reply)
    rw [ht]
    exact keepsAllBut_settle (holdAtRest_congr rest (by simp) (by simp)) (answer_keeps .office o.tag reply z) p
      (by simpa using hp)
  refine ⟨⟨(same (p := .buffer) (by simp)).trans zb, ?_, ?_⟩, replies, ?_, keepsAllBut_mono kept (by simp +contextual)⟩
  · exact (same (p := .site) (by simp)).trans ((k .site msite).trans (site.trans (by simp [postedUnit, sA])))
  · refine (same (p := .journal) (by simp)).trans ((k .journal mj).trans (journal.trans ?_))
    simp [jA]
  · have levels : onlyLevels x (addUnit kind part (some (.office, eb)) none A) :=
      onlyLevels_trans (hA ▸ takeReservation_levels x) (addUnit_levels ..)
    exact onlyLevels_trans levels
      (onlyLevels_of_conditions ((same (p := .conditions) (by simp)).trans (k .conditions mc)))

/-! ### What it ends with -/

/-- A pinned record request posts its record's image (R12, R103). -/
theorem OfficeServed.posts_image {x : State} {o : Outstanding} {m : Nat} {l : LineNo} {r r' : Record}
    (h : OfficeServed x o) (hp : x.pins .office m l r) (hm : r'.meter = m) (slot : Nat) (eb : EntryBody)
    (reply : Reply) :
    let t := settle (officeReply reply (postImage slot r' eb (takeReservation x)))
    officePosts .edit (some (.image slot r')) eb x.site x t ∧ replied .office o.tag reply x t ∧ onlyLevels x t ∧
      lineBecomes l ⟨.valid, some m, none, (x.line l).dirty + 1, some r'⟩ x t ∧
      keepsAllBut [.lines, .site, .buffer, .journal, .conditions, .outstanding .office, .replies .office] x t := by
  obtain ⟨hf, hl, -, hpin⟩ := hp
  have working : (takeReservation x).working = x.working := takeReservation_working x
  obtain ⟨image, line, others, recency⟩ := postImage_spec (y := takeReservation x) (r := r') (l := l) slot eb
    (by rw [hm, findLine_congr working, hf]) (by rw [findPinned_congr working, hpin])
  intro t
  obtain ⟨unit, replies, levels, kept⟩ := h.posted (z := postImage slot r' eb (takeReservation x)) (more := [.lines])
    reply .edit (some (.image slot r')) eb (lines_keeps image) (by simp)
  have ends : t.working = (postImage slot r' eb (takeReservation x)).working := by simp [t]
  refine ⟨unit, replies, levels, lineBecomes_congr (t := postImage slot r' eb (takeReservation x))
    ⟨?_, others, recency⟩ working.symm ends, kept⟩
  rw [line]
  simp only [State.line, working] at hl ⊢
  rw [hl]

/-- A pinned METER_PURGE posts: the entry is removed and the line becomes FREE (R15). -/
theorem OfficeServed.posts_purge {x : State} {o : Outstanding} {m : Nat} {l : LineNo} {r : Record}
    (h : OfficeServed x o) (hp : x.pins .office m l r) (slot : Nat) :
    let t := settle (postPurge slot m (takeReservation x))
    officePosts .edit (some (.erase slot m)) (.meterState m .retired .purged) x.site x t ∧
      t.directory = dirErase m x.directory ∧ t.line l = Line.freed ∧ (∀ j, j ≠ l → t.line j = x.line j) ∧
      t.working.recency = l :: x.working.recency.erase l ∧
      replied .office o.tag (.purgeOk m x.journal.nextSeq) x t ∧ onlyLevels x t ∧
      keepsAllBut [.directory, .lines, .site, .buffer, .journal, .conditions, .outstanding .office, .replies .office]
        x t := by
  obtain ⟨-, -, -, hpin⟩ := hp
  generalize hB : addUnit .edit (some (.erase slot m)) (some (.office, .meterState m .retired .purged)) none
    (takeReservation x) = B
  have working : B.working = x.working := by simp [← hB]
  have directory : B.directory = x.directory := by simp [← hB]
  generalize hC : ({ B with directory := dirErase m B.directory } : State) = C
  have frees : freeOfficeLine C = freeLine l C := by
    have : findPinned .office C = some l := by rw [← hC]; exact (findPinned_congr working _).trans hpin
    simp only [freeOfficeLine, this]
  obtain ⟨line, others, recency, only⟩ := freeLine_spec l C
  have wC : C.working = x.working := by rw [← hC]; exact working
  intro t
  have ht : t = settle (officeReply (.purgeOk m x.journal.nextSeq) (freeLine l C)) := by
    simp only [t, postPurge, hB, hC, frees, takeReservation_journal]
  have kC : keepsAllBut [.directory] B C := hC ▸ dir_keeps B _
  obtain ⟨unit, replies, levels, kept⟩ := h.posted (z := freeLine l C) (more := [.directory, .lines])
    (.purgeOk m x.journal.nextSeq) .edit (some (.erase slot m)) (.meterState m .retired .purged)
    (hB ▸ keepsAllBut_trans (keepsAllBut_mono kC (by simp)) (keepsAllBut_mono (lines_keeps only) (by simp))) (by simp)
  rw [← ht] at unit replies levels kept
  have tw : t.working = (freeLine l C).working := by simp [ht]
  have lines : ∀ j, t.line j = (freeLine l C).line j := fun j => by simp only [State.line, tw]
  refine ⟨unit, ?_, (lines l).trans line, fun j hj => ?_, ?_, replies, levels, kept⟩
  · have : t.directory = C.directory := by rw [ht, only]; simp
    rw [this, ← hC, ← directory]
  · rw [lines, others j hj]; simp only [State.line, wC]
  · rw [tw, recency, wC]

/-- A pinned record request that posts nothing is answered and its line unpinned (R12). -/
theorem OfficeServed.released {x : State} {o : Outstanding} {m : Nat} {l : LineNo} {r : Record}
    (h : OfficeServed x o) (hp : x.pins .office m l r) (hrest : x.holdAtRest) (reply : Reply) :
    let t := settle (officeReply reply (releasePin .office x))
    replied .office o.tag reply x t ∧ lineIs l ⟨.valid, some m, none, (x.line l).dirty, some r⟩ x.working.recency x t ∧
      keepsAllBut [.lines, .outstanding .office, .replies .office] x t := by
  obtain ⟨-, hl, -, hpin⟩ := hp
  obtain ⟨lines, recency, only⟩ := releaseOfficePin_spec x
  intro t
  obtain ⟨replies, kept⟩ := h.answered reply (lines_keeps only) (by simp) (by simp) (by simp) (by simp)
    (holdAtRest_congr hrest (by rw [only]) (by rw [only]))
  have tw : t.working = (releasePin .office x).working := by simp [t]
  have same : ∀ j, t.line j = (releasePin .office x).line j := fun j => by simp only [State.line, tw]
  refine ⟨replies, ⟨?_, fun j hj => ?_, by rw [tw, recency]⟩, kept⟩
  · rw [same, lines, if_pos hpin, hl]
  · rw [same, lines, hpin, if_neg (by simpa using Ne.symm hj)]

/-- A pinned record request that is refused is unpinned (R12). -/
theorem OfficeServed.refused {x : State} {o : Outstanding} {m : Nat} {l : LineNo} {r : Record}
    (h : OfficeServed x o) (hp : x.pins .office m l r) (hrest : x.holdAtRest) (code : RefusalCode) :
    let t := settle (refuseRecord code x)
    replied .office o.tag (.refused code o.kind 0 0) x t ∧
      lineIs l ⟨.valid, some m, none, (x.line l).dirty, some r⟩ x.working.recency x t ∧
      keepsAllBut [.lines, .outstanding .office, .replies .office] x t := by
  have served : OfficeServed (releasePin .office x) o :=
    h.of_kept (lines_keeps (releaseOfficePin_spec x).2.2) (by simp) (by simp) (by simp)
  have := h.released hp hrest (.refused code o.kind 0 0)
  rwa [served.reply, ← served.refuse] at this

/-! ### Its unit: posted at once, waiting, or refused -/

/-- A unit of an office record request whose line stays pinned while it waits (R12, R122). -/
def Job.keepsPin : Job → Bool
  | .edit _ _ _ => true
  | .accountState _ _ _ => true
  | .purge _ _ => true
  | _ => false

theorem keepsPin_waits {j : Job} (h : j.keepsPin = true) (s : State) : markWaiting j s = s := by
  cases j <;> simp [Job.keepsPin] at h <;> rfl

theorem keepsPin_withdrawable {j : Job} (h : j.keepsPin = true) : j.withdrawable = true := by
  cases j <;> simp [Job.keepsPin] at h <;> rfl

theorem keepsPin_refuse {j : Job} (h : j.keepsPin = true) (c : RefusalCode) (s : State) :
    refuseJob ⟨j, true⟩ c s = refuseRecord c (giveReservation s) := by
  cases j <;> simp [Job.keepsPin] at h <;> rfl

/-- Where there is no room in the Journal the request is refused (R12, R135). -/
theorem postRecord_full {x : State} (hr : x.roomForOffice = false) (j : Job) :
    postRecord j x = refuseRecord .journalFull x := by simp [postRecord, hr]

/-- Where the unit posts at once it takes its reservation and is posted (R121, R134). -/
theorem postRecord_ready {x : State} (hr : x.ready) (j : Job) :
    postRecord j x = runJob ⟨j, true⟩ (takeReservation x) := by
  have posts : (takeReservation x).postsAtOnce = true := by simpa [State.postsAtOnce] using hr.1
  simp [postRecord, hr.2, reserveAndPost, postOrWait, posts]

/-- A level report sets no latch but that of a level that has become present (R170). -/
theorem reportLevel_latched (c d : Condition) (s : State) (h : s.latched d = false)
    (hd : c = d → s.levelOf c = false) : (reportLevel c s).latched d = false := by
  have same : (reportLevel c s).latched d =
      (if (s.levelOf c && !conditionBit s.conditions.levels c) = true then arise c s else s).latched d := rfl
  rw [same]
  split
  · rename_i present
    rw [arise_latched, if_neg, h]
    rintro ⟨rfl, -⟩
    simp [hd rfl] at present
  · exact h

/-- The level report latches STORE_FAULT only where the store is FAULTED (R170). -/
theorem reportLevels_storeFault {s : State} (hf : s.store.faulted = false) (h : s.storeFaultLatched = false) :
    (reportLevels s).storeFaultLatched = false := by
  have other (c : Condition) (u : State) (hc : c ≠ .storeFault) (hu : u.latched .storeFault = false) :
      (reportLevel c u).latched .storeFault = false := reportLevel_latched c _ u hu fun e => absurd e hc
  unfold reportLevels
  split
  · refine other .clockInvalid _ (by decide) (reportLevel_latched _ _ _ ?_ fun _ => ?_)
    · exact other _ _ (by decide) (other _ _ (by decide) (other _ _ (by decide) h))
    · simpa [State.levelOf] using hf
  · exact h

/-- Where the buffer is full or others wait, the unit joins the post wait list with its reservation and its line stays
pinned (R122, R134). -/
theorem postRecord_waits {x : State} (hrest : x.holdAtRest) {j : Job} (hj : j.keepsPin = true)
    (hroom : x.roomForOffice = true) (hfull : x.postsAtOnce = false)
    (hlatch : x.storeFaultLatched = false) (hf : x.store.faulted = false) :
    let t := settle (postRecord j x)
    t.waiters = x.waiters ++ [⟨j, true⟩] ∧ t.journal = ⟨x.journal.nextSeq, x.journal.reservations + 1⟩ ∧
      onlyLevels x t ∧ t.working = x.working ∧ keepsAllBut [.waiters, .journal, .conditions] x t := by
  have full : (takeReservation x).postsAtOnce = false := by simpa [State.postsAtOnce] using hfull
  have latch : (takeReservation x).storeFaultLatched = false := reportLevels_storeFault hf hlatch
  generalize hW : ({ takeReservation x with waiters := (takeReservation x).waiters ++ [⟨j, true⟩] } : State) = W
  have joins : postRecord j x = W := by
    simp [postRecord, hroom, reserveAndPost, postOrWait, full, latch, keepsPin_waits hj, ← hW]
  have rest : W.holdAtRest := holdAtRest_congr hrest (by simp [← hW]) (by simp [← hW])
  have kW : keepsAllBut [.waiters, .journal, .conditions] x W := by
    have added : keepsAllBut [.waiters] (takeReservation x) W := by
      subst hW
      intro p hp
      cases p with
      | waiters => simp at hp
      | clock => exact ⟨rfl, rfl⟩
      | grants => exact ⟨rfl, rfl⟩
      | hold => exact ⟨rfl, rfl⟩
      | _ => rfl
    exact keepsAllBut_trans (keepsAllBut_mono (takeReservation_keeps x) (by simp)) (keepsAllBut_mono added (by simp))
  intro t
  have ht : t = settle W := congrArg settle joins
  rw [ht]
  refine ⟨by simp [← hW], ?_, settle_onlyLevels ?_, by simp [← hW], keepsAllBut_settle rest kW⟩
  · rw [show (settle W).journal = (takeReservation x).journal by simp [← hW], takeReservation_journal]
  · exact onlyLevels_congr (takeReservation_levels x) rfl (by simp [← hW])

theorem giveReservation_keeps (s : State) : keepsAllBut [.journal, .conditions] s (giveReservation s) := by
  have given : keepsAllBut [.journal] s
      { s with journal := { s.journal with reservations := s.journal.reservations - 1 } } := by
    intro p hp
    cases p with
    | journal => simp at hp
    | clock => exact ⟨rfl, rfl⟩
    | grants => exact ⟨rfl, rfl⟩
    | hold => exact ⟨rfl, rfl⟩
    | _ => rfl
  exact keepsAllBut_trans (keepsAllBut_mono given (by simp)) (keepsAllBut_mono (reportLevels_keeps _) (by simp))

/-- With the STORE_FAULT latch set a unit that would wait is refused SUSPENDED, its reservation released (R13, R124). -/
theorem OfficeServed.suspended {x : State} {o : Outstanding} {m : Nat} {l : LineNo} {r : Record}
    (h : OfficeServed x o) (hp : x.pins .office m l r) (hrest : x.holdAtRest) {j : Job}
    (hj : j.keepsPin = true) (hroom : x.roomForOffice = true) (hfull : x.postsAtOnce = false)
    (hlatch : x.storeFaultLatched = true) :
    let t := settle (postRecord j x)
    replied .office o.tag (.refused .suspended o.kind 0 0) x t ∧ onlyLevels x t ∧
      lineIs l ⟨.valid, some m, none, (x.line l).dirty, some r⟩ x.working.recency x t ∧
      keepsAllBut [.lines, .conditions, .outstanding .office, .replies .office] x t := by
  have full : (takeReservation x).postsAtOnce = false := by simpa [State.postsAtOnce] using hfull
  have latch : (takeReservation x).storeFaultLatched = true := (takeReservation_levels x).2 .storeFault hlatch
  generalize hG : giveReservation (takeReservation x) = G
  have journal : G.journal = x.journal := by
    rw [← hG]
    simp [giveReservation, takeReservation_journal]
  have kG : keepsAllBut [.conditions] x G := by
    intro p hp
    by_cases hj : p = .journal
    · subst hj; exact journal
    · exact (hG ▸ keepsAllBut_trans (takeReservation_keeps x) (giveReservation_keeps _)) p (by simpa [hj] using hp)
  have levels : onlyLevels x G := hG ▸ onlyLevels_trans (takeReservation_levels x) (giveReservation_levels _)
  have working : G.working = x.working := kG .lines (by simp)
  have lines : ∀ j, G.line j = x.line j := fun j => by simp only [State.line, working]
  have pins : G.pins .office m l r := by
    simpa only [State.pins, findLine_congr working, findPinned_congr working, lines] using hp
  have withdrawn : postRecord j x = refuseRecord .suspended G := by
    simp [postRecord, hroom, reserveAndPost, postOrWait, full, latch, keepsPin_withdrawable hj, keepsPin_refuse hj, hG]
  intro t
  have ht : t = settle (refuseRecord .suspended G) := congrArg settle withdrawn
  obtain ⟨replies, line, kept⟩ := (h.of_kept kG (by simp) (by simp) (by simp)).refused pins
    (holdAtRest_congr hrest (by simp [← hG]) (by simp [← hG])) .suspended
  rw [← ht] at replies line kept
  have conditions : t.conditions = G.conditions := kept .conditions (by simp)
  have before : G.replies .office = x.replies .office := kG (.replies .office) (by simp)
  refine ⟨⟨by rw [replies.1, before], replies.2⟩, onlyLevels_trans levels (onlyLevels_of_conditions conditions), ?_,
    keepsAllBut_trans (keepsAllBut_mono kG (by simp)) (keepsAllBut_mono kept (by simp))⟩
  simpa only [lineIs, lines, working] using line

end Sys2Proof.Machine
end

section
/-! SUPPORT. METER_PURGE. -/

namespace Sys2Proof.Machine

theorem officePosts_of_kept {s x t : State} {l : List Part} {kind : UnitKind} {part : Option RecordPart}
    {eb : EntryBody} (k : keepsAllBut l s x)
    (hl : Part.journal ∉ l ∧ Part.clock ∉ l ∧ Part.buffer ∉ l ∧ Part.site ∉ l)
    (h : officePosts kind part eb x.site x t) : officePosts kind part eb s.site s t := by
  obtain ⟨lj, lc, lb, ls⟩ := hl
  have journal : x.journal = s.journal := k .journal lj
  have calendar : x.calendar = s.calendar := (k .clock lc).1
  have buffer : x.buffer = s.buffer := k .buffer lb
  have site : x.site = s.site := k .site ls
  simpa only [officePosts, posts, postedUnit, State.now, journal, calendar, buffer, site] using h

theorem replied_of_kept {p : PortId} {tag : Byte} {r : Reply} {s x t : State} {l : List Part}
    (k : keepsAllBut l s x) (hl : Part.replies p ∉ l) (h : replied p tag r x t) : replied p tag r s t :=
  ⟨h.1.trans (congrArg (· ++ _) (k (.replies p) hl)), h.2⟩

/-- Whether an office unit posts at once depends on the areas, the site state, the buffer, the waiters and the
counts. -/
theorem posting_of_kept {s x : State} {l : List Part} (k : keepsAllBut l s x)
    (hl : Part.areas ∉ l ∧ Part.site ∉ l ∧ Part.buffer ∉ l ∧ Part.waiters ∉ l ∧ Part.journal ∉ l) :
    x.roomForOffice = s.roomForOffice ∧ x.postsAtOnce = s.postsAtOnce := by
  obtain ⟨la, ls, lb, lw, lj⟩ := hl
  obtain ⟨-, entries, -⟩ := areas_same (k .areas la)
  have site : x.site = s.site := k .site ls
  have buffer : x.buffer = s.buffer := k .buffer lb
  have waiters : x.waiters = s.waiters := k .waiters lw
  have journal : x.journal = s.journal := k .journal lj
  have free : x.salesFree = s.salesFree := by
    simp only [State.salesFree, State.free, State.held, State.heldEntries, State.buffered, entries, site, buffer,
      journal]
  exact ⟨by simp only [State.roomForOffice, free], by simp only [State.postsAtOnce, buffer, waiters]⟩

/-- A request taken and answered leaves its port with nothing outstanding, as it was. -/
theorem keepsAllBut_taken {s t : State} {tag : Byte} {body : List Byte} {r : Reply} {l : List Part}
    (h : s.takes .office tag body) (hr : replied .office tag r s t)
    (k : keepsAllBut (.outstanding .office :: l) s t) : keepsAllBut l s t := by
  intro p hp
  by_cases ho : p = .outstanding .office
  · subst ho; exact hr.2.trans h.2.2.1.symm
  · exact k p (by simp [ho, hp])

/-- A hit of the office leaves the request served, its line pinned and the rest as it was (R98). -/
theorem officeHit_pinned {s : State} {tag kind : Byte} {body : List Byte} {m : Nat} {l : LineNo} {r : Record}
    (h : s.takes .office tag body) (hh : s.hits .office m l r) :
    let x := pinLine .office l m (s.serving .office kind tag)
    OfficeServed x ⟨tag, kind⟩ ∧ x.pins .office m l r ∧ keepsAllBut [.lines, .outstanding .office] s x ∧
      x.working.recency = s.working.recency.erase l ++ [l] ∧ (∀ j, j ≠ l → x.line j = s.line j) := by
  obtain ⟨-, -, hf, hp, only, line, others, recency⟩ := officeHit (kind := kind) (tag := tag) hh
  intro x
  have kept : keepsAllBut [.lines] (s.serving .office kind tag) x := lines_keeps only
  have served : OfficeServed (s.serving .office kind tag) ⟨tag, kind⟩ :=
    ⟨receives_of h.1 (by simp) (serving_link ..), serving_outstanding s kind tag⟩
  refine ⟨served.of_kept kept (by simp) (by simp) (by simp), ⟨hf, ?_, hh.2.2.1, hp⟩, ?_, recency, others⟩
  · rw [line, hh.2.1]
  · exact keepsAllBut_trans (keepsAllBut_mono (serving_keeps s .office kind tag) (by simp))
      (keepsAllBut_mono kept (by simp))

/-- METER_PURGE within the hold comes to its lookup (R12, R15). -/
theorem servePurge_lookup {s : State} (he : s.editable) (hh : s.arbiter.hold = .held) {body : List Byte} {m : Nat}
    (hp : parseMeter body = some m) (kind tag : Byte) :
    serveMeter body (fun m => serveChange true (.purge m)) (s.serving .office kind tag) =
      lookupRecord (.purge m) (s.serving .office kind tag) := by
  simp [serveMeter, hp, serveChange, recordRefusal, he.1, he.2, hh]

theorem erase_touched {rec : List LineNo} (h : rec.Nodup) (l : LineNo) :
    (rec.erase l ++ [l]).erase l = rec.erase l := by
  have : l ∉ rec.erase l := by simp [h.mem_erase_iff]
  rw [List.erase_append_right _ this]; simp

/-- METER_PURGE on a hit, past its tests, posts at once where there is room (R15); `x` is the state with the line
pinned. -/
theorem purge_posts {s x : State} {tag kind : Byte} {body : List Byte} {m : Nat} {l : LineNo} {r : Record}
    (h : s.takes .office tag body) (served : OfficeServed x ⟨tag, kind⟩) (pins : x.pins .office m l r)
    (kept : keepsAllBut [.lines, .outstanding .office] s x)
    (recency : x.working.recency = s.working.recency.erase l ++ [l]) (others : ∀ j, j ≠ l → x.line j = s.line j)
    (hlaw : RecencyLaw s) (slot : Nat) :
    let t := settle (postPurge slot m (takeReservation x))
    officePosts .edit (some (.erase slot m)) (.meterState m .retired .purged) s.site s t ∧
      t.directory = dirErase m s.directory ∧ t.line l = Line.freed ∧ (∀ j, j ≠ l → t.line j = s.line j) ∧
      t.working.recency = l :: s.working.recency.erase l ∧
      replied .office tag (.purgeOk m s.journal.nextSeq) s t ∧ onlyLevels s t ∧
      keepsAllBut [.site, .buffer, .journal, .directory, .lines, .conditions, .replies .office] s t := by
  obtain ⟨unit, dir, line, rest, order, replies, levels, changed⟩ := served.posts_purge pins slot
  have journal : x.journal = s.journal := kept .journal (by simp)
  have conditions : x.conditions = s.conditions := kept .conditions (by simp)
  have directory : x.directory = s.directory := kept .directory (by simp)
  rw [journal] at replies
  rw [directory] at dir
  have answer := replied_of_kept kept (by simp) replies
  refine ⟨officePosts_of_kept kept (by simp) unit, dir, line, fun j hj => (rest j hj).trans (others j hj), ?_,
    answer, onlyLevels_congr levels conditions.symm rfl, keepsAllBut_taken h answer ?_⟩
  · rw [order, recency, erase_touched (recency_nodup hlaw)]
  · exact keepsAllBut_trans (keepsAllBut_mono kept (by simp)) (keepsAllBut_mono changed (by simp +contextual))

/-- Settles O38: METER_PURGE posts, is refused by the release point or the hold, or misses. -/
theorem purgePosts : Obligations.PurgePosts := by
  intro s tag body m h hp he hrest
  have runs (hh : s.arbiter.hold = .held) : exec (.meterPurge tag body) s =
      .next (settle (lookupRecord (.purge m) (s.serving .office kindMeterPurge tag))) :=
    (takeOffice_exec h _).trans (by rw [servePurge_lookup he hh hp])
  refine ⟨fun e l r hh hd hdm hits ha hlaw => ?_, fun e l hh hd hdm hf hv => ⟨_, runs hh, ?_⟩, fun hh => ?_⟩
  · have hit : exec (.meterPurge tag body) s = .next
        (settle (continuePurge e.slot r (pinLine .office l m (s.serving .office kindMeterPurge tag)))) :=
      (runs hh).trans (by rw [lookupRecord_officeHit (req := .purge m) hd hdm hits]; rfl)
    have meter : r.meter = m := hits.2.2.1
    have held : (pinLine .office l m (s.serving .office kindMeterPurge tag)).arbiter.hold = .held := by simpa using hh
    have site : (pinLine .office l m (s.serving .office kindMeterPurge tag)).site = s.site := by simp
    refine ⟨fun hrel hr => ⟨_, hit, ?_⟩, fun hrel => ⟨_, hit, ?_⟩⟩
    · simp only [continuePurge, held, ha, site, Nat.not_lt.mpr hrel, officeHit_postRecord hits hr, runJob, meter,
        bne_self_eq_false, Bool.false_eq_true, if_false, ne_eq, not_true]
      obtain ⟨served, pins, kept, recency, others⟩ := officeHit_pinned (kind := kindMeterPurge) h hits
      exact purge_posts h served pins kept recency others hlaw e.slot
    · simp only [continuePurge, held, ha, site, hrel, bne_self_eq_false, Bool.false_eq_true, if_false, ne_eq, not_true,
        if_true]
      exact officeHit_refused h hits hrest .purgeRefused rfl
  · obtain ⟨misses, -⟩ := (lookupRecord_noHit (req := .purge m) (S := s.serving .office kindMeterPurge tag)).2 e
      (by simpa [RecordRequest.meter] using hd) |>.2 hdm
    rw [misses (by simpa [RecordRequest.meter] using hf)]
    exact missed_end h hrest kindMeterPurge (.purge m) e.slot hv
  · refine takeOffice_refused h hrest _ .notHeld 0 rfl ?_
    simp [serveMeter, hp, serveChange, recordRefusal, he.1, hh, officeRefuse]

end Sys2Proof.Machine
end

section
/-! SUPPORT. The request bodies read back: a field at its place, and one lemma per body (R205). -/

namespace Sys2Proof.Machine

/-! ### Fields at their places -/

/-- A number written at its place is read there. -/
theorem fieldAt_eq {body : List Byte} {off n v : Nat} (h : (body.drop off).take n = beBytes n v) (hv : v < 256 ^ n) :
    fieldAt body off n = v := (congrArg ofBe h).trans (ofBe_of_lt hv)

theorem fieldAt_meter {body : List Byte} {m : Nat} (h : (body.drop 0).take 5 = beBytes 5 m)
    (hm : meterInRange m = true) : fieldAt body 0 5 = m := fieldAt_eq h (meter_lt_five_bytes hm)

/-- A yes/no written at its place is read there. -/
theorem boolAt_eq {body : List Byte} {off : Nat} {b : Bool} (h : (body.drop off).take 1 = boolByte b) :
    boolOf (fieldAt body off 1) = some b := by
  rw [fieldAt, h, ofBe_boolByte, boolOf_if]

theorem boolNumber_bind (o : Option Bool) : (o.map fun b => if b = true then 1 else 0).bind boolOf = o := by
  cases o with
  | none => rfl
  | some b => exact boolOf_if b

theorem boolNumber_le {o : Option Bool} {v : Nat} (h : (o.map fun b => if b = true then 1 else 0) = some v) :
    v ≤ 1 := by
  obtain ⟨b, -, rfl⟩ := Option.map_eq_some_iff.mp h
  split <;> simp

theorem boolNumber_known (o : Option Bool) :
    (match o.map fun b => if b = true then 1 else 0 with
      | none => true
      | some n => (boolOf n).isSome) = true := by
  cases o with
  | none => rfl
  | some b => cases b <;> rfl

theorem accountOf_number (a : AccountState) : accountOf (accountNumber a) = some a := by cases a <;> rfl

theorem rateOf_number (r : LinkRate) : rateOf (rateNumber r) = some r := by cases r <;> rfl

theorem conditionOf_number (c : Condition) : conditionOf (BitVec.ofNat 8 (conditionNumber c)).toNat = some c := by
  cases c <;> rfl

theorem tillOf_val (k : Till) : tillOf k.val = some k := by simp [tillOf]

theorem dateTime_join (s : Nat) : s / 3600 * 3600 + s / 60 % 60 * 60 + s % 60 = s := by omega

/-! ### The till requests -/

theorem parseQuote_body {meter tender : Nat} (hm : meterInRange meter = true) (ht : tender ≤ maxTender) :
    parseQuote (quoteBody meter tender) = some (meter, tender) := by
  have number : fieldAt (quoteBody meter tender) 0 5 = meter := fieldAt_meter rfl hm
  have money : fieldAt (quoteBody meter tender) 5 3 = tender := fieldAt_eq rfl (ht.trans_lt (by decide))
  simp only [parseQuote, number, money]
  exact if_pos ⟨rfl, hm, ht⟩

theorem parseConfirm_body {meter id : Nat} (hm : meterInRange meter = true) (h1 : 1 ≤ id) (h2 : id ≤ 65535) :
    parseConfirm (confirmBody meter id) = some (meter, id) := by
  have number : fieldAt (confirmBody meter id) 0 5 = meter := fieldAt_meter rfl hm
  have name : fieldAt (confirmBody meter id) 5 2 = id := fieldAt_eq rfl (h2.trans_lt (by decide))
  simp only [parseConfirm, number, name]
  exact if_pos ⟨rfl, hm, h1⟩

theorem parseCancel_body {id : Nat} (h : id ≤ 65535) : parseCancel (cancelBody id) = some id := by
  have name : fieldAt (cancelBody id) 0 2 = id := fieldAt_eq rfl (h.trans_lt (by decide))
  simp only [parseCancel, name]
  exact if_pos rfl

theorem parseReprint_body {meter index : Nat} (hm : meterInRange meter = true) (hi : index ≤ 2) :
    parseReprint (reprintBody meter index) = some (meter, index) := by
  have number : fieldAt (reprintBody meter index) 0 5 = meter := fieldAt_meter rfl hm
  have place : fieldAt (reprintBody meter index) 5 1 = index := fieldAt_eq rfl (hi.trans_lt (by decide))
  simp only [parseReprint, number, place]
  exact if_pos ⟨rfl, hm, hi⟩

/-! ### The record requests -/

theorem parseMeter_body {meter : Nat} (hm : meterInRange meter = true) : parseMeter (meterBody meter) = some meter := by
  have number : fieldAt (meterBody meter) 0 5 = meter := fieldAt_meter rfl hm
  simp only [parseMeter, number]
  exact if_pos ⟨rfl, hm⟩

theorem parseEnrol_body {meter tariff rate arrears : Nat} (eligible : Bool) (hm : meterInRange meter = true)
    (ht : tariff ≤ 15) (hr : rate ≤ 255) (ha : arrears ≤ maxArrears) :
    parseEnrol (enrolBody meter tariff eligible rate arrears) =
      some (meter, tariff, eligible, min rate 50, arrears) := by
  generalize hb : enrolBody meter tariff eligible rate arrears = body
  have number : fieldAt body 0 5 = meter := fieldAt_meter (by rw [← hb]; rfl) hm
  have index : fieldAt body 5 1 = tariff := fieldAt_eq (by rw [← hb]; rfl) (ht.trans_lt (by decide))
  have life : boolOf (fieldAt body 6 1) = some eligible := boolAt_eq (by rw [← hb]; rfl)
  have percent : fieldAt body 7 1 = rate := fieldAt_eq (by rw [← hb]; rfl) (hr.trans_lt (by decide))
  have owed : fieldAt body 8 4 = arrears := fieldAt_eq (by rw [← hb]; rfl) (ha.trans_lt (by decide))
  simp only [parseEnrol, number, index, life, percent, owed]
  exact if_pos ⟨by rw [← hb]; rfl, hm, ht, ha⟩

theorem parseEdit_body {e : EditRequest} (hm : meterInRange e.meter = true) (ht : ∀ v, e.tariffIndex = some v → v ≤ 15)
    (hr : ∀ v, e.recoveryRate = some v → v ≤ 254) (ha : ∀ v, e.arrears = some v → v ≤ maxArrears)
    (hg : (e.tariffIndex.isSome || e.recoveryRate.isSome || e.arrears.isSome || e.lifelineEligible.isSome) = true) :
    parseEdit (editBody e) = some { e with recoveryRate := e.recoveryRate.map fun v => min v 50 } := by
  obtain ⟨t0, t1⟩ := optBytes_one e.tariffIndex
  obtain ⟨r0, r1⟩ := optBytes_one e.recoveryRate
  obtain ⟨a0, a1, a2, a3, a4⟩ := optBytes_four e.arrears
  obtain ⟨l0, l1⟩ := optBytes_one (e.lifelineEligible.map fun b => if b = true then 1 else 0)
  generalize hb : editBody e = body
  have bytes : body = beBytes 5 e.meter ++ [t0] ++ [r0] ++ [a0, a1, a2, a3] ++ [l0] := by
    rw [← hb, editBody, t1, r1, a4, l1]
  have number : fieldAt body 0 5 = e.meter := fieldAt_meter (by rw [bytes]; rfl) hm
  have index : optFieldAt body 5 1 = e.tariffIndex :=
    optFieldAt_opt (by rw [bytes, t1]; rfl) (fun v hv => (ht v hv).trans_lt (by decide)) (by decide)
  have percent : optFieldAt body 6 1 = e.recoveryRate :=
    optFieldAt_opt (by rw [bytes, r1]; rfl) (fun v hv => (hr v hv).trans_lt (by decide)) (by decide)
  have owed : optFieldAt body 7 4 = e.arrears :=
    optFieldAt_opt (by rw [bytes, a4]; rfl) (fun v hv => (ha v hv).trans_lt (by decide)) (by decide)
  have life : optFieldAt body 11 1 = e.lifelineEligible.map fun b => if b = true then 1 else 0 :=
    optFieldAt_opt (by rw [bytes, l1]; rfl) (fun v hv => (boolNumber_le hv).trans_lt (by decide)) (by decide)
  have tariffs : e.tariffIndex.getD 0 ≤ 15 := by
    cases hx : e.tariffIndex with
    | none => decide
    | some v => exact ht v hx
  have cents : e.arrears.getD 0 ≤ maxArrears := by
    cases hx : e.arrears with
    | none => decide
    | some v => exact ha v hx
  have given : (e.tariffIndex.isSome || e.recoveryRate.isSome || e.arrears.isSome ||
      (e.lifelineEligible.map fun b => if b = true then 1 else 0).isSome) = true := by simpa using hg
  simp only [parseEdit, number, index, percent, owed, life]
  rw [boolNumber_bind]
  exact if_pos ⟨by rw [bytes]; rfl, hm, given, boolNumber_known _, tariffs, cents⟩

theorem parseRestore_body {r : Record} (hm : meterInRange r.meter = true) (ht : r.tariffIndex ≤ 15)
    (hr : r.recoveryRate ≤ 255) (ha : r.arrears ≤ maxArrears) (hg : r.monthTag ≤ maxMonthTag)
    (hu : r.monthUnits ≤ maxMonthUnits) (hx : r.residue ≤ maxResidue) (hl : r.lastToken ≤ 999)
    (hd : r.enrolDay ≤ lastDay)
    (hn : r.recent = []) (hq : r.lastSeq = 0) :
    parseRestore (restoreBody r) = some { r with recoveryRate := min r.recoveryRate 50 } := by
  have number : fieldAt (restoreBody r) 0 5 = r.meter := fieldAt_meter (by simp [restoreBody, beBytes]) hm
  have account : accountOf (fieldAt (restoreBody r) 5 1) = some r.account := by
    have : fieldAt (restoreBody r) 5 1 = accountNumber r.account :=
      fieldAt_eq (by simp [restoreBody, beBytes]) (by cases r.account <;> decide)
    rw [this, accountOf_number]
  have index : fieldAt (restoreBody r) 6 1 = r.tariffIndex :=
    fieldAt_eq (by simp [restoreBody, beBytes]) (ht.trans_lt (by decide))
  have eligible : boolOf (fieldAt (restoreBody r) 7 1) = some r.lifelineEligible :=
    boolAt_eq (by simp [restoreBody, beBytes, boolByte])
  have percent : fieldAt (restoreBody r) 8 1 = r.recoveryRate :=
    fieldAt_eq (by simp [restoreBody, beBytes, boolByte]) (hr.trans_lt (by decide))
  have owed : fieldAt (restoreBody r) 9 4 = r.arrears :=
    fieldAt_eq (by simp [restoreBody, beBytes, boolByte]) (ha.trans_lt (by decide))
  have month : fieldAt (restoreBody r) 13 2 = r.monthTag :=
    fieldAt_eq (by simp [restoreBody, beBytes, boolByte]) (hg.trans_lt (by decide))
  have units : fieldAt (restoreBody r) 15 3 = r.monthUnits :=
    fieldAt_eq (by simp [restoreBody, beBytes, boolByte]) (hu.trans_lt (by decide))
  have paid : boolOf (fieldAt (restoreBody r) 18 1) = some r.servicePaid :=
    boolAt_eq (by simp [restoreBody, beBytes, boolByte])
  have given : boolOf (fieldAt (restoreBody r) 19 1) = some r.lifelineGiven :=
    boolAt_eq (by simp [restoreBody, beBytes, boolByte])
  have residue : fieldAt (restoreBody r) 20 4 = r.residue :=
    fieldAt_eq (by simp [restoreBody, beBytes, boolByte]) (hx.trans_lt (by decide))
  have last : fieldAt (restoreBody r) 24 2 = r.lastToken :=
    fieldAt_eq (by simp [restoreBody, beBytes, boolByte]) (hl.trans_lt (by decide))
  have enrol : dateAt (restoreBody r) 26 = some r.enrolDay :=
    fieldAt_date hd (restoreBody r) 26
      (congrArg ofBe (by simp [restoreBody, beBytes, boolByte, dateBytes_eq]))
      (congrArg ofBe (by simp [restoreBody, beBytes, boolByte, dateBytes_eq]))
      (congrArg ofBe (by simp [restoreBody, beBytes, boolByte, dateBytes_eq]))
  have length : (restoreBody r).length = 29 := by simp [restoreBody, beBytes, boolByte, dateBytes_eq]
  simp only [parseRestore, number, account, index, eligible, percent, owed, month, units, paid, given, residue, last,
    enrol, length, hm, ht, ha, hg, hu, hx, hl, and_self, if_true]
  cases r
  simp_all [clampRate]

/-! ### The other requests -/

theorem parseClock_body {d : DateTime} (h : inRange d = true) : parseClock (dateTimeBytes d) = some d := by
  obtain ⟨hd, hs⟩ := (inRange_iff d).mp h
  generalize hb : dateTimeBytes d = body
  have day : dateAt body 0 = some d.day :=
    fieldAt_date hd body 0 (by rw [← hb]; rfl) (by rw [← hb]; rfl) (by rw [← hb]; rfl)
  have hour : fieldAt body 3 1 = d.second / 3600 := fieldAt_eq (by rw [← hb]; rfl) (by omega)
  have minute : fieldAt body 4 1 = d.second / 60 % 60 := fieldAt_eq (by rw [← hb]; rfl) (by omega)
  have second : fieldAt body 5 1 = d.second % 60 := fieldAt_eq (by rw [← hb]; rfl) (by omega)
  have times : d.second / 3600 ≤ 23 ∧ d.second / 60 % 60 ≤ 59 ∧ d.second % 60 ≤ 59 := by omega
  have length : body.length = 6 := by rw [← hb]; rfl
  simp only [parseClock, length, if_true, dateTimeAt, day, Nat.zero_add, hour, minute, second, times, and_self,
    dateTime_join]

theorem parseVoucher_body {serial amount : Nat} (h1 : 1 ≤ serial) (h2 : serial ≤ max32) (h3 : 1 ≤ amount)
    (h4 : amount ≤ maxBudget) : parseVoucher (voucherBody serial amount) = some (serial, amount) := by
  have number : fieldAt (voucherBody serial amount) 0 4 = serial := fieldAt_eq rfl (h2.trans_lt (by decide))
  have money : fieldAt (voucherBody serial amount) 4 4 = amount := fieldAt_eq rfl (h4.trans_lt (by decide))
  simp only [parseVoucher, number, money]
  exact if_pos ⟨rfl, h1, h3, h4⟩

theorem parseFloor_body {v : Nat} (h : v ≤ maxBudget) : parseFloor (floorBody v) = some v := by
  have floor : fieldAt (floorBody v) 0 4 = v := fieldAt_eq rfl (h.trans_lt (by decide))
  simp only [parseFloor, floor]
  exact if_pos ⟨rfl, h⟩

theorem parseJournalRead_body {start count : Nat} (h1 : 1 ≤ start) (h2 : start ≤ max32) (h3 : 1 ≤ count)
    (h4 : count ≤ 4) : parseJournalRead (journalReadBody start count) = some (start, count) := by
  have first : fieldAt (journalReadBody start count) 0 4 = start := fieldAt_eq rfl (h2.trans_lt (by decide))
  have entries : fieldAt (journalReadBody start count) 4 1 = count := fieldAt_eq rfl (h4.trans_lt (by decide))
  simp only [parseJournalRead, first, entries]
  exact if_pos ⟨rfl, h1, h3, h4⟩

theorem parseRelease_body {upto : Nat} (h : upto ≤ max32) : parseRelease (releaseBody upto) = some upto := by
  have last : fieldAt (releaseBody upto) 0 4 = upto := fieldAt_eq rfl (h.trans_lt (by decide))
  simp only [parseRelease, last]
  exact if_pos rfl

theorem parseSummary_body {i : Nat} (h : i ≤ 30) : parseSummary (summaryBody i) = some i := by
  have index : fieldAt (summaryBody i) 0 1 = i := fieldAt_eq rfl (h.trans_lt (by decide))
  simp only [parseSummary, index]
  exact if_pos ⟨rfl, h⟩

theorem parseTillClose_body (k : Till) : parseTillClose (tillCloseBody k) = some k := by
  have till : fieldAt (tillCloseBody k) 0 1 = k.val := fieldAt_eq rfl (k.isLt.trans (by decide))
  simp only [parseTillClose, till, tillOf_val]
  exact if_pos rfl

theorem parseLinkSet_body (k : Till) (v : LinkSettings) : parseLinkSet (linkSetBody k v) = some (k, v) := by
  have till : fieldAt (linkSetBody k v) 0 1 = k.val := fieldAt_eq rfl (k.isLt.trans (by decide))
  have enabled : boolOf (fieldAt (linkSetBody k v) 1 1) = some v.enabled := boolAt_eq rfl
  have rate : fieldAt (linkSetBody k v) 2 1 = rateNumber v.rate := fieldAt_eq rfl (by cases v.rate <;> decide)
  simp only [parseLinkSet, till, tillOf_val, enabled, rate, rateOf_number]
  exact if_pos rfl

theorem parseQuoteTime_body {v : Nat} (h : v ≤ 65535) :
    parseQuoteTime (quoteTimeBody v) = some (max 15 (min v 600)) := by
  have seconds : fieldAt (quoteTimeBody v) 0 2 = v := fieldAt_eq rfl (h.trans_lt (by decide))
  simp only [parseQuoteTime, seconds]
  exact if_pos rfl

theorem parseSiteCode_body {ds : Digits} (hl : ds.length = 32) (hd : ∀ d ∈ ds, d ≤ 9) :
    parseSiteCode (siteCodeBody ds) = some ds := by
  obtain ⟨digits, length⟩ := digitsOfPairs_digitPairs ds (by rw [hl]) hd
  simp only [parseSiteCode, siteCodeBody, digits]
  exact if_pos ⟨by omega, by simpa using hd⟩

theorem parseTariffRead_body {q : Nat} (sel : SetSelector) (h : q ≤ 3) :
    parseTariffRead (tariffReadBody sel q) = some (sel, q) := by
  have quarter : fieldAt (tariffReadBody sel q) 1 1 = q := fieldAt_eq rfl (h.trans_lt (by decide))
  simp only [parseTariffRead, quarter]
  rw [if_pos ⟨rfl, h⟩]
  cases sel <;> rfl

/-- The four entries of a quarter are read back as they were written (R23, R26). -/
theorem quarterEntries_body {q : Nat} {a b c d : TariffEntry} (tail : List Byte)
    (hv : ∀ tf, some tf ∈ [a, b, c, d] → tf.valid) :
    quarterEntries (loadBody q [a, b, c, d] ++ tail) = some [rawOf a, rawOf b, rawOf c, rawOf d] := by
  have valid {e : TariffEntry} (he : e ∈ [a, b, c, d]) : ∀ tf, e = some tf → tf.valid := fun tf h => hv tf (h ▸ he)
  have body : loadBody q [a, b, c, d] ++ tail =
      beBytes 1 q ++ (entryBytes a ++ (entryBytes b ++ (entryBytes c ++ (entryBytes d ++ tail)))) := by
    simp [loadBody]
  have e1 := rawEntryAt_shift (beBytes 1 q) a (entryBytes b ++ (entryBytes c ++ (entryBytes d ++ tail))) 1
    (by simp [beBytes_length]) (valid (by simp))
  have e2 := rawEntryAt_shift (beBytes 1 q ++ entryBytes a) b (entryBytes c ++ (entryBytes d ++ tail)) 29
    (by simp [beBytes_length, entryBytes_length]) (valid (by simp))
  have e3 := rawEntryAt_shift (beBytes 1 q ++ entryBytes a ++ entryBytes b) c (entryBytes d ++ tail) 57
    (by simp [beBytes_length, entryBytes_length]) (valid (by simp))
  have e4 := rawEntryAt_shift (beBytes 1 q ++ entryBytes a ++ entryBytes b ++ entryBytes c) d tail 85
    (by simp [beBytes_length, entryBytes_length]) (valid (by simp))
  simp only [List.append_assoc] at e1 e2 e3 e4
  simp only [quarterEntries, body, e1, e2, e3, e4]

/-- Valid entries are valid as read, and are the entries written (R23). -/
theorem rawOf_entries {es : List TariffEntry} (hv : ∀ tf, some tf ∈ es → tf.valid) :
    (es.map rawOf).all RawEntry.valid = true ∧ (es.map rawOf).map RawEntry.entry = es := by
  have each {e : TariffEntry} (he : e ∈ es) := rawOf_entry e fun tf h => hv tf (h ▸ he)
  refine ⟨by simpa using fun e he => (each he).1, ?_⟩
  rw [List.map_map]
  exact (List.map_congr_left fun e he => (each he).2).trans (List.map_id' es)

theorem loadBody_length {q : Nat} {a b c d : TariffEntry} : (loadBody q [a, b, c, d]).length = 113 := by
  simp [loadBody, beBytes_length, entryBytes_length]

theorem parseLoad_body {q : Nat} {es : List TariffEntry} (hq : q ≤ 3) (hl : es.length = 4)
    (hv : ∀ tf, some tf ∈ es → tf.valid) : parseLoad (loadBody q es) = some (q, es.map rawOf) := by
  obtain ⟨a, b, c, d, rfl⟩ := List.length_eq_four.mp hl
  have quarter : fieldAt (loadBody q [a, b, c, d]) 0 1 = q := fieldAt_eq rfl (hq.trans_lt (by decide))
  have entries := quarterEntries_body (q := q) [] hv
  rw [List.append_nil] at entries
  simp only [parseLoad, quarter, entries]
  exact if_pos ⟨loadBody_length, hq⟩

theorem parseStage_body {q day : Nat} {es : List TariffEntry} (hq : q ≤ 3) (hd : day ≤ lastDay) (hl : es.length = 4)
    (hv : ∀ tf, some tf ∈ es → tf.valid) : parseStage (stageBody q es day) = some (q, es.map rawOf, day) := by
  obtain ⟨a, b, c, d, rfl⟩ := List.length_eq_four.mp hl
  have quarter : fieldAt (stageBody q [a, b, c, d] day) 0 1 = q := fieldAt_eq rfl (hq.trans_lt (by decide))
  have effective : fieldAt (stageBody q [a, b, c, d] day) 113 2 = day :=
    fieldAt_eq (by rw [stageBody, List.drop_left' loadBody_length]; rfl) (hd.trans_lt (by decide))
  have entries := quarterEntries_body (q := q) (beBytes 2 day) hv
  simp only [parseStage, quarter, effective]
  rw [stageBody, entries]
  exact if_pos ⟨by rw [List.length_append, loadBody_length, beBytes_length], hq, hd⟩

theorem parseConditions_body {cs : List Condition} (h : cs.length ≤ 199) :
    parseConditions (conditionsBody cs) = some cs := by
  have count : (BitVec.ofNat 8 cs.length).toNat = cs.length := by simp; omega
  have names : (cs.map fun c => BitVec.ofNat 8 (conditionNumber c)).filterMap (fun b => conditionOf b.toNat) = cs := by
    rw [List.filterMap_map]
    exact (List.filterMap_congr fun c _ => conditionOf_number c).trans List.filterMap_some
  show (if (cs.map _).length = (BitVec.ofNat 8 cs.length).toNat then some _ else none) = some cs
  rw [if_pos (by rw [List.length_map, count])]
  exact congrArg some names

/-- Settles O13, body by body. -/
theorem requestBodiesReadBack : Obligations.RequestBodiesReadBack :=
  ⟨fun _ _ => parseQuote_body, fun _ _ => parseConfirm_body, fun _ => parseCancel_body, fun _ _ => parseReprint_body,
    fun _ => parseMeter_body, fun _ _ eligible _ _ => parseEnrol_body eligible, fun _ => parseEdit_body,
    fun _ => parseRestore_body, fun _ _ => parseVoucher_body, fun _ => parseFloor_body,
    fun _ _ => parseJournalRead_body,
    fun _ => parseRelease_body, fun _ => parseClock_body, fun _ => parseSummary_body, parseTillClose_body,
    parseLinkSet_body, fun _ => parseQuoteTime_body, fun _ => parseConditions_body, fun _ => parseSiteCode_body,
    fun sel _ => parseTariffRead_body sel,
    fun _ _ es hq hd hl hv => ⟨es.map rawOf, parseStage_body hq hd hl hv, rawOf_entries hv⟩,
    fun _ es hq hl hv => ⟨es.map rawOf, parseLoad_body hq hl hv, rawOf_entries hv⟩⟩

end Sys2Proof.Machine
end

section
/-! SUPPORT. RECORD_FETCH_COMPLETE: the line filled or freed, and its owner going on (R101, R107). -/

namespace Sys2Proof.Machine

theorem line_congr {s t : State} (h : t.working = s.working) (j : LineNo) : t.line j = s.line j := by
  simp only [State.line, h]

/-! ### The fetch's result -/

/-- The slot holds the meter's record with its check, and the fetch finds it undamaged (R107). -/
abbrev State.fetchGood (s : State) (damaged : Bool) (meter slot : Nat) (r : Record) : Prop :=
  damaged = false ∧ r.meter = meter ∧ slotGet slot s.store.slots = some ⟨r, some r⟩

/-- The line takes the fetched record; its owner has not gone on yet (R101). -/
def fetched (l : LineNo) (r : Record) (s : State) : State :=
  touchLine l ((setService .idle s).modLine l fun v => { v with state := .valid, record := some r })

/-- The line is FREE and the entry marked damaged; the owner is not refused yet (R8, R101). -/
def unfetched (l : LineNo) (meter slot : Nat) (damaged : Bool) (s : State) : State :=
  let x := freeLine l (setService .idle (alterSlot damaged slot s))
  { x with directory := dirMark meter true x.directory }

/-- A fetch with a good check fills its line, and its owner goes on (R101). -/
theorem recordFetch_good {s : State} {l : LineNo} {meter slot : Nat} {damaged : Bool} {r : Record} {o : Owner}
    (hrun : s.running = true) (hsv : s.store.service = .reading (.record l meter slot))
    (hg : s.fetchGood damaged meter slot r) (hp : (s.line l).pin = some o) :
    exec (.recordFetchComplete damaged) s = .next (settle (ownerFetched (some o) slot (fetched l r s))) := by
  obtain ⟨result, same⟩ := fetchResult_good hg
  rw [same] at result
  have found : fetchResult meter (slotGet slot (setService .idle s).store.slots) = some r := result
  have owner : ((setService .idle s).line l).pin = some o := hp
  simp only [exec, execRecordFetchComplete, finish_eq, hsv, hrun, if_true, same, found, fillLine, owner]
  rfl

/-- Any other fetch frees its line and marks the entry, and its owner is refused (R101). -/
theorem recordFetch_bad {s : State} {l : LineNo} {meter slot : Nat} {damaged : Bool} {o : Owner}
    (hrun : s.running = true) (hsv : s.store.service = .reading (.record l meter slot))
    (hb : ¬∃ r, s.fetchGood damaged meter slot r) (hp : (s.line l).pin = some o) :
    exec (.recordFetchComplete damaged) s =
      .next (settle (ownerFetchFailed (some o) (unfetched l meter slot damaged s))) := by
  have found : fetchResult meter (slotGet slot (setService .idle (alterSlot damaged slot s)).store.slots) = none :=
    fetchResult_bad hb
  have owner : ((setService .idle (alterSlot damaged slot s)).line l).pin = some o := by
    rw [← hp]; unfold alterSlot; split <;> rfl
  simp only [exec, execRecordFetchComplete, finish_eq, hsv, hrun, if_true, found, fillLine, owner]
  rfl

/-- All that filling a line does: it keeps its pin and its meter (R101). -/
theorem fetched_spec {s : State} {l : LineNo} {meter : Nat} {o : Owner} (r : Record)
    (hl : s.line l = ⟨.filling, some meter, some o, 0, none⟩) :
    lineBecomes l ⟨.valid, some meter, some o, 0, some r⟩ s (fetched l r s) ∧
      keepsAllBut [.lines] s (fetched l r s) ∧ (∀ m, findLine m (fetched l r s) = findLine m s) ∧
      ∀ o', findPinned o' (fetched l r s) = findPinned o' s := by
  obtain ⟨line, others, recency, only⟩ := fillLine_valid l r (setService .idle s)
  have filled : (fetched l r s).line l = ⟨.valid, some meter, some o, 0, some r⟩ := by
    show State.line (touchLine l _) l = _
    rw [line]
    show { s.line l with state := .valid, record := some r } = _
    rw [hl]
  refine ⟨⟨filled, others, recency⟩, ?_, fun m => findLine_of_meters (fun j => ?_) m,
    fun o' => findPinned_of_pins (fun j => ?_) o'⟩
  · exact keepsAllBut_trans (keepsAllBut_mono (setService_keeps .idle s) (by simp)) (lines_keeps only)
  · by_cases hj : j = l
    · subst hj; rw [filled, hl]
    · exact congrArg Line.meter (others j hj)
  · by_cases hj : j = l
    · subst hj; rw [filled, hl]
    · exact congrArg Line.pin (others j hj)

/-- What a fetch without a good check does to the line, the directory and the areas, whatever its owner (R101, R107). -/
structure Damages (l : LineNo) (meter slot : Nat) (damaged : Bool) (s t : State) : Prop where
  line : t.line l = ⟨.free, none, none, 0, none⟩
  others : ∀ j, j ≠ l → t.line j = s.line j
  recency : t.working.recency = l :: s.working.recency.erase l
  directory : t.directory = s.directory.map fun x => if x.meter = meter then { x with damaged := true } else x
  areas : fetchLeaves damaged slot s t

/-- What a fetch leaves in the areas depends on them alone. -/
theorem fetchLeaves_congr {damaged : Bool} {slot : Nat} {s t t' : State} (h : fetchLeaves damaged slot s t)
    (k : t'.store.areas = t.store.areas) : fetchLeaves damaged slot s t' := by
  obtain ⟨slots, journal, summaries, image, cell, faulted⟩ := areas_same k
  simpa only [fetchLeaves, slots, journal, summaries, image, cell, faulted, k] using h

/-- The fetch alters its own slot at most (R107). -/
theorem alterSlot_leaves (damaged : Bool) (slot : Nat) (s : State) :
    fetchLeaves damaged slot s (alterSlot damaged slot s) := by
  cases damaged with
  | false => exact ⟨fun n => by simp [alterSlot], rfl, rfl, rfl, rfl, rfl, fun _ => rfl⟩
  | true =>
    refine ⟨fun n => ?_, rfl, rfl, rfl, rfl, rfl, nofun⟩
    simp only [alterSlot, if_true, slotGet_alter, and_true]
    split <;> simp

/-- All that freeing a line with its entry marked does (R101). -/
theorem unfetched_spec (l : LineNo) (meter slot : Nat) (damaged : Bool) (s : State) :
    Damages l meter slot damaged s (unfetched l meter slot damaged s) ∧
      keepsAllBut [.areas, .lines, .directory] s (unfetched l meter slot damaged s) := by
  generalize hy : setService .idle (alterSlot damaged slot s) = y
  have ky : keepsAllBut [.areas] s y := hy ▸ keepsAllBut_trans (alterSlot_keeps damaged slot s)
    (keepsAllBut_mono (setService_keeps .idle _) (by simp))
  have working : y.working = s.working := ky .lines (by simp)
  have directory : y.directory = s.directory := ky .directory (by simp)
  obtain ⟨line, others, recency, only⟩ := freeLine_spec l y
  have kept : keepsAllBut [.lines, .directory] y (unfetched l meter slot damaged s) := by
    simp only [unfetched, hy]
    exact keepsAllBut_trans (keepsAllBut_mono (lines_keeps only) (by simp))
      (keepsAllBut_mono (dir_keeps _ _) (by simp))
  have lines : (unfetched l meter slot damaged s).working = (freeLine l y).working := by simp only [unfetched, hy]
  have same : ∀ j, (unfetched l meter slot damaged s).line j = (freeLine l y).line j := line_congr lines
  refine ⟨⟨(same l).trans line, fun j hj => ?_, ?_, ?_, ?_⟩,
    keepsAllBut_trans (keepsAllBut_mono ky (by simp)) (keepsAllBut_mono kept (by simp))⟩
  · rw [same, others j hj]; simp only [State.line, working]
  · rw [lines, recency, working]
  · have : (unfetched l meter slot damaged s).directory = dirMark meter true (freeLine l y).directory := by
      simp only [unfetched, hy]
    rw [this, only]
    show dirMark meter true y.directory = _
    rw [directory]; rfl
  · have areas : (unfetched l meter slot damaged s).store.areas = (alterSlot damaged slot s).store.areas :=
      (kept .areas (by simp)).trans (hy ▸ setService_keeps .idle (alterSlot damaged slot s) .areas (by simp))
    exact fetchLeaves_congr (alterSlot_leaves damaged slot s) areas

/-- What the fetch damaged stays so while the lines, the directory and the areas do. -/
theorem Damages.of_same {l : LineNo} {meter slot : Nat} {damaged : Bool} {s x t : State}
    (h : Damages l meter slot damaged s x) (lines : ∀ j, t.line j = x.line j)
    (recency : t.working.recency = x.working.recency) (directory : t.directory = x.directory)
    (areas : t.store.areas = x.store.areas) : Damages l meter slot damaged s t :=
  ⟨(lines l).trans h.line, fun j hj => (lines j).trans (h.others j hj), recency.trans h.recency,
    directory.trans h.directory, fetchLeaves_congr h.areas areas⟩

/-! ### A slot that goes on or is refused -/

/-- The end of an event in which a slot changes and asks for a grant (R79). -/
theorem asks_end {x : State} (hr : x.holdAtRest) (k : Till) (f : VendSlot → VendSlot) :
    let t := settle (askGrant k (x.modSlot k f))
    t.slot k = f (x.slot k) ∧ t.working = x.working ∧ t.arbiter.pending.get k = true ∧
      (∀ j, j ≠ k → t.arbiter.pending.get j = x.arbiter.pending.get j) ∧ t.arbiter.pointer = x.arbiter.pointer ∧
      keepsAllBut [.slot k, .grants] x t := by
  have rest : (askGrant k (x.modSlot k f)).holdAtRest := hr
  have kept : keepsAllBut [.slot k, .grants] x (askGrant k (x.modSlot k f)) :=
    keepsAllBut_trans (keepsAllBut_mono (modSlot_keeps x k f) (by simp))
      (keepsAllBut_mono (askGrant_keeps k _) (by simp))
  intro t
  have arbiter : t.arbiter = (askGrant k (x.modSlot k f)).arbiter := settle_arbiter rest
  have pending : t.arbiter.pending = x.arbiter.pending.set k.val true k.isLt := by rw [arbiter]; rfl
  refine ⟨?_, by simp [t, askGrant], ?_, fun j hj => ?_, by rw [arbiter]; rfl, keepsAllBut_settle rest kept⟩
  · rw [settle_slot, ← State.slot_modSlot_same x k f]; rfl
  · rw [pending, get_set_four, if_pos rfl]
  · rw [pending, get_set_four, if_neg (Ne.symm hj)]

/-- A slot's answer at the end of an event; one whose link no longer waits for it is discarded (R77, R199). -/
theorem tillReply_end {x y : State} {k : Till} {l : List Part} (tag : Option Byte) (r : Reply)
    (kept : keepsAllBut l x y) (hl : Part.outstanding (.till k) ∉ l ∧ Part.replies (.till k) ∉ l ∧
      Part.link (.till k) ∉ l ∧ Part.supply ∉ l) (hy : y.holdAtRest) :
    let t := settle (tillReply k tag r y)
    tillReplied k tag r x t ∧ t.working = y.working ∧ t.slot k = y.slot k ∧ t.conditions = y.conditions ∧
      keepsAllBut (l ++ [.outstanding (.till k), .replies (.till k)]) x t := by
  obtain ⟨lo, lr, ll, ls⟩ := hl
  intro t
  have replies : y.replies (.till k) = x.replies (.till k) := kept (.replies (.till k)) lr
  cases tag with
  | none =>
    refine ⟨⟨(settle_replies hy _).trans replies, ?_⟩, by simp [t, tillReply], settle_slot k, by simp [t, tillReply],
      keepsAllBut_mono (keepsAllBut_settle hy kept) (by simp +contextual)⟩
    exact (settle_outstanding hy _).trans (kept (.outstanding (.till k)) lo)
  | some g =>
    have rest : (answer (.till k) g r y).holdAtRest := holdAtRest_congr hy (by simp) (by simp)
    have receives : y.receives (.till k) = x.receives (.till k) := by
      have link := standing_link (kept (.link (.till k)) ll)
      have supply : y.supply = x.supply := kept .supply ls
      simp only [State.receives, State.running, link, supply]
    refine ⟨⟨?_, ?_⟩, by simp [t, tillReply], by simp [t, tillReply, State.slot], by simp [t, tillReply],
      keepsAllBut_settle rest (keepsAllBut_trans (keepsAllBut_mono kept (by simp +contextual))
        (keepsAllBut_mono (answer_keeps _ _ _ _) (by simp)))⟩
    · rw [show t.replies (.till k) = _ from settle_replies rest _, answer_replies, replies, receives]
      simp
    · exact (settle_outstanding rest _).trans (by simp [answer_outstanding])

/-- A slot whose FETCHING quote closed with nothing reserved (R65). -/
def VendSlot.closedBare (v : VendSlot) (id : Nat) (o : CloseOutcome) : VendSlot :=
  { v with state := .idle, quote := none, abandon := none, timer := none, pin := none, lastClosed := some (id, o) }

/-- The closing of a quote that has reserved nothing, and its answer (R65, R66). -/
theorem quoteCloses_end {x : State} {k : Till} {q : QuoteRecord} (hr : x.holdAtRest) (hq : (x.slot k).quote = some q)
    (hb : q.reservedBudget = none) (hj : q.journalReservation = false) (hw : (x.slot k).reprint = none)
    (outcome : CloseOutcome) (r : Reply) :
    let t := settle (tillReply k q.replyTag r (closeQuote k outcome x))
    t.slot k = (x.slot k).closedBare q.id outcome ∧ tillReplied k q.replyTag r x t ∧ onlyLevels x t ∧
      (∀ j, t.line j = if findPinned (.slot k) x = some j then { x.line j with pin := none } else x.line j) ∧
      t.working.recency = x.working.recency ∧
      keepsAllBut [.lines, .slot k, .conditions, .outstanding (.till k), .replies (.till k)] x t := by
  obtain ⟨slot, reserved, journal, lines, recency, levels, -, -, arbiter, buffer⟩ := closeQuote_spec outcome hq hw
  have kept : keepsAllBut [.slot k, .lines, .conditions] x (closeQuote k outcome x) := by
    intro p hp
    by_cases h1 : p = .reserved
    · subst h1; exact reserved.trans (by simp [hb])
    by_cases h2 : p = .journal
    · subst h2; exact journal.trans (by simp [hj])
    · exact closeQuote_keeps outcome hq hw p (by simp only [List.mem_cons] at hp ⊢; tauto)
  intro t
  obtain ⟨replies, working, same, conditions, changed⟩ := tillReply_end (k := k) q.replyTag r kept (by simp)
    (holdAtRest_congr hr arbiter buffer)
  refine ⟨?_, replies, onlyLevels_trans levels (onlyLevels_of_conditions conditions),
    fun j => (line_congr working j).trans (lines j), ?_, keepsAllBut_mono changed (by simp +contextual)⟩
  · rw [same, slot, VendSlot.closedBare, hw]
  · rw [working, recency]

theorem releasePin_keeps (k : Till) (s : State) : keepsAllBut [.lines, .slot k] s (releasePin (.slot k) s) := by
  intro p hp
  cases p with
  | lines => simp at hp
  | slot j =>
    have : j ≠ k := by simpa using hp
    rw [Part.same, releasePin_slot, if_neg this]
  | link p => rw [Part.same, releasePin_port]
  | outstanding p => rw [Part.same, releasePin_port]
  | replies p => simp only [Part.same, State.replies, releasePin_port]
  | _ => simp [Part.same]

/-- A refused reprint whose slot holds no quote ends, its pin released (R73). -/
theorem reprintRefused_end {x : State} {k : Till} {w : ReprintWork} (hr : x.holdAtRest) (hq : (x.slot k).quote = none)
    (hw : (x.slot k).reprint = some w) (hs : w.stage = .fetching) (code : RefusalCode) :
    let t := settle (refuseReprint k w code 0 x)
    t.slot k = { x.slot k with reprint := none, pin := none } ∧
      tillReplied k w.replyTag (.refused code w.request.kind w.request.quoteId 0) x t ∧
      (∀ j, t.line j = if findPinned (.slot k) x = some j then { x.line j with pin := none } else x.line j) ∧
      t.working.recency = x.working.recency ∧
      keepsAllBut [.lines, .slot k, .outstanding (.till k), .replies (.till k)] x t := by
  have ends : endReprint k x = (releasePin (.slot k) x).modSlot k fun v => { v with reprint := none } := by
    simp [endReprint, hq, VendSlot.reprintHoldsPin, hw, hs]
  have kept : keepsAllBut [.lines, .slot k] x (endReprint k x) := by
    rw [ends]
    exact keepsAllBut_trans (releasePin_keeps k x) (keepsAllBut_mono (modSlot_keeps _ k _) (by simp))
  intro t
  obtain ⟨replies, working, same, -, changed⟩ := tillReply_end (k := k) w.replyTag
    (.refused code w.request.kind w.request.quoteId 0) kept (by simp)
    (holdAtRest_congr hr (by simp [ends]) (by simp [ends]))
  have released : t.working = (releasePin (.slot k) x).working := by rw [show t.working = _ from working, ends]; rfl
  refine ⟨?_, replies, fun j => (line_congr released j).trans (releasePin_lines _ _ j), ?_, changed⟩
  · rw [show t.slot k = _ from same, ends, State.slot_modSlot_same, releasePin_slot, if_pos rfl]
  · rw [released, releasePin_recency]

end Sys2Proof.Machine
end

section
/-! SUPPORT. RECORD_FETCH_COMPLETE, owner by owner. -/

namespace Sys2Proof.Machine

/-- A record fetch in progress for an owner that pins the line. -/
structure Fetching (s : State) (l : LineNo) (meter slot : Nat) (o : Owner) : Prop where
  running : s.running = true
  rest : s.holdAtRest
  service : s.store.service = .reading (.record l meter slot)
  line : s.line l = ⟨.filling, some meter, some o, 0, none⟩
  found : findLine meter s = some l
  pinned : findPinned o s = some l

section
variable {s : State} {l : LineNo} {meter slot : Nat} {o : Owner} {damaged : Bool}

theorem Fetching.exec_good (h : Fetching s l meter slot o) {r : Record} (hg : s.fetchGood damaged meter slot r) :
    exec (.recordFetchComplete damaged) s = .next (settle (ownerFetched (some o) slot (fetched l r s))) :=
  recordFetch_good h.running h.service hg (by rw [h.line])

theorem Fetching.exec_bad (h : Fetching s l meter slot o) (hb : ¬∃ r, s.fetchGood damaged meter slot r) :
    exec (.recordFetchComplete damaged) s =
      .next (settle (ownerFetchFailed (some o) (unfetched l meter slot damaged s))) :=
  recordFetch_bad h.running h.service hb (by rw [h.line])

theorem Fetching.fetched_rest (h : Fetching s l meter slot o) (r : Record) : (fetched l r s).holdAtRest := h.rest

theorem Fetching.unfetched_rest (h : Fetching s l meter slot o) :
    (unfetched l meter slot damaged s).holdAtRest := by
  obtain ⟨-, kept⟩ := unfetched_spec l meter slot damaged s
  intro hp
  rw [kept .buffer (by simp)]
  exact h.rest ((kept .hold (by simp)).1.symm.trans hp)

/-- An owner that pinned the freed line alone pins none. -/
theorem Fetching.unpinned (h : Fetching s l meter slot o) (hu : ∀ j, j ≠ l → (s.line j).pin ≠ some o) :
    findPinned o (unfetched l meter slot damaged s) = none := by
  obtain ⟨damages, -⟩ := unfetched_spec l meter slot damaged s
  refine List.find?_eq_none.mpr fun j _ => ?_
  by_cases hj : j = l
  · subst hj; simp [damages.line]
  · simpa [damages.others j hj] using hu j hj

end

/-! ### A slot -/

theorem tillReplied_of_kept {s x t : State} {k : Till} {tag : Option Byte} {r : Reply} {l : List Part}
    (kept : keepsAllBut l s x) (hl : Part.outstanding (.till k) ∉ l ∧ Part.replies (.till k) ∉ l ∧
      Part.link (.till k) ∉ l ∧ Part.supply ∉ l) (h : tillReplied k tag r x t) : tillReplied k tag r s t := by
  obtain ⟨lo, lr, ll, ls⟩ := hl
  have replies : x.replies (.till k) = s.replies (.till k) := kept (.replies (.till k)) lr
  have outstanding : (x.port (.till k)).outstanding = (s.port (.till k)).outstanding := kept (.outstanding (.till k)) lo
  have link := standing_link (kept (.link (.till k)) ll)
  have supply : x.supply = s.supply := kept .supply ls
  have receives : x.receives (.till k) = s.receives (.till k) := by
    simp only [State.receives, State.running, link, supply]
  simpa only [tillReplied, replies, outstanding, receives] using h

/-- The closing of a quote over a freed line, which its slot no longer pins. -/
theorem Damages.quote_closes {s x : State} {l : LineNo} {meter slot : Nat} {damaged : Bool} {k : Till}
    {q : QuoteRecord} (damages : Damages l meter slot damaged s x)
    (kept : keepsAllBut [.areas, .lines, .directory] s x) (hr : x.holdAtRest)
    (unpinned : findPinned (.slot k) x = none) (hq : (s.slot k).quote = some q)
    (hb : q.reservedBudget = none) (hj : q.journalReservation = false) (hw : (s.slot k).reprint = none)
    (outcome : CloseOutcome) (r : Reply) :
    let t := settle (tillReply k q.replyTag r (closeQuote k outcome x))
    Damages l meter slot damaged s t ∧
      (t.slot k = (s.slot k).closedBare q.id outcome ∧ tillReplied k q.replyTag r s t) ∧ onlyLevels s t ∧
      keepsAllBut [.areas, .lines, .directory, .slot k, .conditions, .outstanding (.till k), .replies (.till k)]
        s t := by
  have same : x.slot k = s.slot k := kept (.slot k) (by simp)
  obtain ⟨slotIs, replies, levels, lines, order, changed⟩ := quoteCloses_end hr (by rw [same, hq]) hb hj
    (by rw [same, hw]) outcome r
  rw [same] at slotIs
  refine ⟨damages.of_same (fun j => ?_) order (changed .directory (by simp)) (changed .areas (by simp)),
    ⟨slotIs, tillReplied_of_kept kept (by simp) replies⟩, onlyLevels_trans ?_ levels,
    keepsAllBut_trans (keepsAllBut_mono kept (by simp)) (keepsAllBut_mono changed (by simp +contextual))⟩
  · rw [lines, unpinned, if_neg nofun]
  · exact onlyLevels_of_conditions (kept .conditions (by simp))

section
variable {s : State} {l : LineNo} {meter slot : Nat} {k : Till} {damaged : Bool}

/-- The end of a good fetch whose owning slot changes and asks for its next grant. -/
theorem Fetching.slot_asks (h : Fetching s l meter slot (.slot k)) (r : Record) (f : VendSlot → VendSlot) :
    let t := settle (askGrant k ((fetched l r s).modSlot k f))
    lineBecomes l ⟨.valid, some meter, some (.slot k), 0, some r⟩ s t ∧ t.slot k = f (s.slot k) ∧
      (t.arbiter.pending.get k = true ∧ (∀ j, j ≠ k → t.arbiter.pending.get j = s.arbiter.pending.get j) ∧
        t.arbiter.pointer = s.arbiter.pointer) ∧ keepsAllBut [.lines, .slot k, .grants] s t := by
  obtain ⟨line, kept, -, -⟩ := fetched_spec r h.line
  obtain ⟨slotIs, working, asks, others, pointer, changed⟩ := asks_end (h.fetched_rest r) k f
  exact ⟨lineBecomes_congr line rfl working, slotIs, ⟨asks, others, pointer⟩,
    keepsAllBut_trans (keepsAllBut_mono kept (by simp)) (keepsAllBut_mono changed (by simp))⟩

/-- A FETCHING quote goes on: it asks for the grant that computes it (R61). -/
theorem Fetching.quote_goesOn (h : Fetching s l meter slot (.slot k)) {r : Record}
    (hg : s.fetchGood damaged meter slot r) (hs : (s.slot k).state = .fetching) (ha : (s.slot k).abandon = none) :
    ∃ t, exec (.recordFetchComplete damaged) s = .next t ∧
      lineBecomes l ⟨.valid, some meter, some (.slot k), 0, some r⟩ s t ∧
      t.slot k = { s.slot k with state := .quoting } ∧
      (t.arbiter.pending.get k = true ∧ (∀ j, j ≠ k → t.arbiter.pending.get j = s.arbiter.pending.get j) ∧
        t.arbiter.pointer = s.arbiter.pointer) ∧ keepsAllBut [.lines, .slot k, .grants] s t := by
  have goes : slotFetched k (fetched l r s) =
      askGrant k ((fetched l r s).modSlot k fun v => { v with state := .quoting }) := by
    have same : (fetched l r s).slot k = s.slot k := rfl
    simp [slotFetched, same, hs, ha]
  exact ⟨_, h.exec_good hg, by rw [ownerFetched, goes]; exact h.slot_asks r _⟩

/-- A reprint goes on: it asks for the grant that reads the record (R74). -/
theorem Fetching.reprint_goesOn (h : Fetching s l meter slot (.slot k)) {r : Record} {req : ReprintRequest}
    {tag : Option Byte} (hg : s.fetchGood damaged meter slot r) (hs : (s.slot k).state = .idle)
    (hw : (s.slot k).reprint = some ⟨meter, req, .fetching, tag⟩) :
    ∃ t, exec (.recordFetchComplete damaged) s = .next t ∧
      lineBecomes l ⟨.valid, some meter, some (.slot k), 0, some r⟩ s t ∧
      t.slot k = { s.slot k with reprint := some ⟨meter, req, .present, tag⟩ } ∧
      (t.arbiter.pending.get k = true ∧ (∀ j, j ≠ k → t.arbiter.pending.get j = s.arbiter.pending.get j) ∧
        t.arbiter.pointer = s.arbiter.pointer) ∧ keepsAllBut [.lines, .slot k, .grants] s t := by
  have goes : slotFetched k (fetched l r s) = askGrant k ((fetched l r s).modSlot k fun v =>
      { v with reprint := v.reprint.map fun w => { w with stage := .present } }) := by
    have same : (fetched l r s).slot k = s.slot k := rfl
    simp [slotFetched, same, hs, hw, setReprintStage]
  obtain ⟨line, slotIs, asks, kept⟩ := h.slot_asks r fun v =>
    { v with reprint := v.reprint.map fun w => { w with stage := .present } }
  exact ⟨_, h.exec_good hg, by rw [ownerFetched, goes]; exact ⟨line, by rw [slotIs, hw]; rfl, asks, kept⟩⟩

/-- A FETCHING quote with an abandon cause closes with it (R66). -/
theorem Fetching.quote_abandoned (h : Fetching s l meter slot (.slot k)) {q : QuoteRecord} {r : Record}
    {c : AbandonCause} (hg : s.fetchGood damaged meter slot r) (hs : (s.slot k).state = .fetching)
    (hq : (s.slot k).quote = some q) (hb : q.reservedBudget = none) (hj : q.journalReservation = false)
    (hw : (s.slot k).reprint = none) (ha : (s.slot k).abandon = some c) :
    ∃ t, exec (.recordFetchComplete damaged) s = .next t ∧
      lineBecomes l ⟨.valid, some meter, none, 0, some r⟩ s t ∧ t.slot k = (s.slot k).closedBare q.id c.outcome ∧
      tillReplied k q.replyTag (.refused .quoteExpired kindQuote q.id (outcomeNumber c.outcome)) s t ∧
      onlyLevels s t ∧ keepsAllBut [.lines, .slot k, .conditions, .outstanding (.till k), .replies (.till k)] s t := by
  have same : (fetched l r s).slot k = s.slot k := rfl
  have goes : slotFetched k (fetched l r s) = tillReply k q.replyTag
      (.refused .quoteExpired kindQuote q.id (outcomeNumber c.outcome)) (closeQuote k c.outcome (fetched l r s)) := by
    simp [slotFetched, same, hs, hq, ha, abandonQuote]
  obtain ⟨⟨line, others, recency⟩, kept, -, pins⟩ := fetched_spec r h.line
  obtain ⟨slotIs, replies, levels, lines, order, changed⟩ := quoteCloses_end (x := fetched l r s) (h.fetched_rest r)
    (by rw [same, hq]) hb hj (by rw [same, hw]) c.outcome
    (.refused .quoteExpired kindQuote q.id (outcomeNumber c.outcome))
  have pinned : findPinned (.slot k) (fetched l r s) = some l := (pins _).trans h.pinned
  refine ⟨_, (h.exec_good hg).trans (by rw [ownerFetched, goes]), ⟨?_, fun j hj => ?_, order.trans recency⟩, slotIs,
    replies, levels, keepsAllBut_trans (keepsAllBut_mono kept (by simp)) changed⟩
  · rw [lines, if_pos pinned, line]
  · rw [lines, pinned, if_neg (by simpa using Ne.symm hj), others j hj]

/-- A FETCHING quote whose fetch fails closes REFUSED, or with its abandon cause (R61, R66, R101). -/
theorem Fetching.quote_refused (h : Fetching s l meter slot (.slot k)) {q : QuoteRecord}
    (hu : ∀ j, j ≠ l → (s.line j).pin ≠ some (.slot k)) (hn : ¬∃ r, s.fetchGood damaged meter slot r)
    (hs : (s.slot k).state = .fetching) (hq : (s.slot k).quote = some q) (hb : q.reservedBudget = none)
    (hj : q.journalReservation = false) (hw : (s.slot k).reprint = none) :
    ∃ t, exec (.recordFetchComplete damaged) s = .next t ∧ Damages l meter slot damaged s t ∧
      (match (s.slot k).abandon with
        | none => t.slot k = (s.slot k).closedBare q.id .refused ∧
          tillReplied k q.replyTag (.refused .meterDamaged kindQuote q.id 0) s t
        | some c => t.slot k = (s.slot k).closedBare q.id c.outcome ∧
          tillReplied k q.replyTag (.refused .quoteExpired kindQuote q.id (outcomeNumber c.outcome)) s t) ∧
      onlyLevels s t ∧
      keepsAllBut [.areas, .lines, .directory, .slot k, .conditions, .outstanding (.till k), .replies (.till k)]
        s t := by
  obtain ⟨damages, kept⟩ := unfetched_spec l meter slot damaged s
  have rest := h.unfetched_rest (damaged := damaged)
  have runs := h.exec_bad hn
  have unpinned := h.unpinned (damaged := damaged) hu
  generalize unfetched l meter slot damaged s = x at *
  have same : x.slot k = s.slot k := kept (.slot k) (by simp)
  have refuses : ownerFetchFailed (some (.slot k)) x = refuseQuote k q .meterDamaged 0 x := by
    simp [ownerFetchFailed, slotFetchFailed, same, hs, hq]
  refine ⟨_, runs, ?_⟩
  rw [refuses, refuseQuote, same]
  cases ha : (s.slot k).abandon with
  | none => exact damages.quote_closes kept rest unpinned hq hb hj hw .refused _
  | some c => exact damages.quote_closes kept rest unpinned hq hb hj hw c.outcome _

/-- A reprint whose fetch fails is refused (R73, R101). -/
theorem Fetching.reprint_refused (h : Fetching s l meter slot (.slot k)) {req : ReprintRequest} {tag : Option Byte}
    (hu : ∀ j, j ≠ l → (s.line j).pin ≠ some (.slot k)) (hn : ¬∃ r, s.fetchGood damaged meter slot r)
    (hs : (s.slot k).state = .idle) (hq : (s.slot k).quote = none)
    (hw : (s.slot k).reprint = some ⟨meter, req, .fetching, tag⟩) :
    ∃ t, exec (.recordFetchComplete damaged) s = .next t ∧ Damages l meter slot damaged s t ∧
      t.slot k = { s.slot k with reprint := none, pin := none } ∧
      tillReplied k tag (.refused .meterDamaged req.kind req.quoteId 0) s t ∧
      keepsAllBut [.areas, .lines, .directory, .slot k, .outstanding (.till k), .replies (.till k)] s t := by
  obtain ⟨damages, kept⟩ := unfetched_spec l meter slot damaged s
  have rest := h.unfetched_rest (damaged := damaged)
  have runs := h.exec_bad hn
  have unpinned := h.unpinned (damaged := damaged) hu
  generalize unfetched l meter slot damaged s = x at *
  have same : x.slot k = s.slot k := kept (.slot k) (by simp)
  have refuses : ownerFetchFailed (some (.slot k)) x =
      refuseReprint k ⟨meter, req, .fetching, tag⟩ .meterDamaged 0 x := by
    simp [ownerFetchFailed, slotFetchFailed, same, hs, hw]
  obtain ⟨slotIs, replies, lines, order, changed⟩ := reprintRefused_end rest (by rw [same, hq]) (by rw [same, hw]) rfl
    .meterDamaged
  rw [same] at slotIs
  refine ⟨_, runs.trans (by rw [refuses]),
    damages.of_same (fun j => ?_) order (changed .directory (by simp)) (changed .areas (by simp)), slotIs,
    tillReplied_of_kept kept (by simp) replies,
    keepsAllBut_trans (keepsAllBut_mono kept (by simp)) (keepsAllBut_mono changed (by simp +contextual))⟩
  rw [lines, unpinned, if_neg nofun]

end

/-! ### The office -/

theorem officeRequest_keeps (s : State) (req : Option RecordRequest) :
    keepsAllBut [.officeRequest] s { s with officeRequest := req } := by
  intro p hp
  cases p with
  | officeRequest => simp at hp
  | link q => cases q <;> rfl
  | outstanding q => cases q <;> rfl
  | replies q => cases q <;> rfl
  | grants => exact ⟨rfl, rfl⟩
  | hold => exact ⟨rfl, rfl⟩
  | clock => exact ⟨rfl, rfl⟩
  | _ => rfl

/-- The office's record request goes on in `x`: served, its line pinned and filled, the rest as in `s` (R12, R101). -/
structure OfficeGoesOn (s x : State) (l : LineNo) (meter : Nat) (r : Record) (o : Outstanding) : Prop where
  served : OfficeServed x o
  pins : x.pins .office meter l r
  rest : x.holdAtRest
  kept : keepsAllBut [.lines, .officeRequest] s x
  ended : x.officeRequest = none
  clean : (x.line l).dirty = 0
  recency : x.working.recency = s.working.recency.erase l ++ [l]
  others : ∀ j, j ≠ l → x.line j = s.line j

section
variable {s x : State} {l : LineNo} {meter slot : Nat} {r : Record} {o : Outstanding} {damaged : Bool}

theorem Fetching.office_goesOn (h : Fetching s l meter slot .office) (hg : s.fetchGood damaged meter slot r)
    {req : RecordRequest} (hreq : s.officeRequest = some req) (hm : req.meter = meter)
    (hrec : s.receives .office = true) (hout : s.officePort.outstanding = some o) :
    ∃ x, OfficeGoesOn s x l meter r o ∧
      exec (.recordFetchComplete damaged) s = .next (settle (continueRecord req slot r x)) := by
  obtain ⟨⟨line, others, recency⟩, kept, finds, pins⟩ := fetched_spec r h.line
  have kx : keepsAllBut [.lines, .officeRequest] s { fetched l r s with officeRequest := none } :=
    keepsAllBut_trans (keepsAllBut_mono kept (by simp)) (keepsAllBut_mono (officeRequest_keeps _ none) (by simp))
  have found : findLine meter { fetched l r s with officeRequest := none } = some l := (finds meter).trans h.found
  have record : lineRecord req.meter { fetched l r s with officeRequest := none } = some r := by
    rw [lineRecord, hm, found]
    exact congrArg Line.record line
  have served : OfficeServed s o := ⟨hrec, hout⟩
  refine ⟨_, ⟨served.of_kept kx (by simp) (by simp) (by simp), ⟨found, ?_, hg.2.1, (pins _).trans h.pinned⟩,
    h.rest, kx, rfl, ?_, recency, others⟩, (h.exec_good hg).trans ?_⟩
  · exact line.trans (by rw [show State.line { fetched l r s with officeRequest := none } l = _ from line])
  · exact congrArg Line.dirty line
  · have waiting : (fetched l r s).officeRequest = some req := hreq
    simp only [ownerFetched, waiting, continueFromLine, record]

/-- The request's step ended: the line, the parts named beside it, and nothing else changed. -/
abbrev WentOn (s : State) (l : LineNo) (v : Line) (more : List Part) (also : State → Prop) (t : State) : Prop :=
  lineBecomes l v s t ∧ t.officeRequest = none ∧ also t ∧ keepsAllBut (more ++ [.lines, .officeRequest]) s t

theorem OfficeGoesOn.wentOn (h : OfficeGoesOn s x l meter r o) {t : State} {v : Line} {more changed : List Part}
    {also : State → Prop} (line : lineIs l v x.working.recency x t) (kept : keepsAllBut changed x t)
    (hl : ∀ p ∈ changed, p ∈ more ++ [.lines, .officeRequest]) (hm : Part.officeRequest ∉ changed) (ha : also t) :
    WentOn s l v more also t := by
  obtain ⟨here, rest, order⟩ := line
  exact ⟨⟨here, fun j hj => (rest j hj).trans (h.others j hj), order.trans h.recency⟩,
    (kept .officeRequest hm).trans h.ended, ha,
    keepsAllBut_trans (keepsAllBut_mono h.kept (by simp)) (keepsAllBut_mono kept hl)⟩

theorem OfficeGoesOn.journal (h : OfficeGoesOn s x l meter r o) : x.journal = s.journal := h.kept .journal (by simp)

theorem OfficeGoesOn.levels (h : OfficeGoesOn s x l meter r o) {t : State} (k : onlyLevels x t) : onlyLevels s t :=
  onlyLevels_congr k (h.kept .conditions (by simp)).symm rfl

/-- The request is answered and its line unpinned (R12, R17). -/
theorem OfficeGoesOn.answered (h : OfficeGoesOn s x l meter r o) (reply : Reply) :
    WentOn s l ⟨.valid, some meter, none, 0, some r⟩ [.outstanding .office, .replies .office]
      (replied .office o.tag reply s) (settle (officeReply reply (releasePin .office x))) := by
  obtain ⟨replies, line, kept⟩ := h.served.released h.pins h.rest reply
  rw [h.clean] at line
  exact h.wentOn line kept (by simp) (by simp) (replied_of_kept h.kept (by simp) replies)

/-- The request is refused and its line unpinned (R12). -/
theorem OfficeGoesOn.refused (h : OfficeGoesOn s x l meter r o) (code : RefusalCode) :
    WentOn s l ⟨.valid, some meter, none, 0, some r⟩ [.outstanding .office, .replies .office]
      (replied .office o.tag (.refused code o.kind 0 0) s) (settle (refuseRecord code x)) := by
  obtain ⟨replies, line, kept⟩ := h.served.refused h.pins h.rest code
  rw [h.clean] at line
  exact h.wentOn line kept (by simp) (by simp) (replied_of_kept h.kept (by simp) replies)

/-- Its unit joins the post wait list and its line stays pinned (R122). -/
theorem OfficeGoesOn.waits (h : OfficeGoesOn s x l meter r o) {j : Job} (hj : j.keepsPin = true)
    (hroom : s.roomForOffice = true) (hfull : s.postsAtOnce = false) (hlatch : s.storeFaultLatched = false)
    (hf : s.store.faulted = false) :
    WentOn s l ⟨.valid, some meter, some .office, 0, some r⟩ [.waiters, .journal, .conditions]
      (fun t => t.waiters = s.waiters ++ [⟨j, true⟩] ∧ t.journal = ⟨s.journal.nextSeq, s.journal.reservations + 1⟩ ∧
        onlyLevels s t) (settle (postRecord j x)) := by
  obtain ⟨room, posts⟩ := posting_of_kept h.kept (by simp)
  have latched : x.storeFaultLatched = s.storeFaultLatched := by
    simp only [State.storeFaultLatched, show x.conditions = s.conditions from h.kept .conditions (by simp)]
  have faulted : x.store.faulted = s.store.faulted := (areas_same (h.kept .areas (by simp))).2.2.2.2.2
  have waiters : x.waiters = s.waiters := h.kept .waiters (by simp)
  obtain ⟨joined, journal, levels, working, kept⟩ := postRecord_waits h.rest hj (room.trans hroom) (posts.trans hfull)
    (latched.trans hlatch) (faulted.trans hf)
  have line := h.pins.2.1
  rw [h.clean] at line
  refine h.wentOn ⟨(line_congr working l).trans line, fun j _ => line_congr working j, by rw [working]⟩ kept (by simp)
    (by simp) ⟨by rw [joined, waiters], by rw [journal, h.journal], h.levels levels⟩

/-- With the STORE_FAULT latch set its unit cannot wait, and the request is refused SUSPENDED (R13, R124). -/
theorem OfficeGoesOn.suspended (h : OfficeGoesOn s x l meter r o) {j : Job} (hj : j.keepsPin = true)
    (hroom : s.roomForOffice = true) (hfull : s.postsAtOnce = false) (hlatch : s.storeFaultLatched = true) :
    WentOn s l ⟨.valid, some meter, none, 0, some r⟩ [.conditions, .outstanding .office, .replies .office]
      (fun t => replied .office o.tag (.refused .suspended o.kind 0 0) s t ∧ onlyLevels s t)
      (settle (postRecord j x)) := by
  obtain ⟨room, posts⟩ := posting_of_kept h.kept (by simp)
  have latched : x.storeFaultLatched = s.storeFaultLatched := by
    simp only [State.storeFaultLatched, show x.conditions = s.conditions from h.kept .conditions (by simp)]
  obtain ⟨replies, levels, line, kept⟩ := h.served.suspended h.pins h.rest hj (room.trans hroom) (posts.trans hfull)
    (latched.trans hlatch)
  rw [h.clean] at line
  exact h.wentOn line kept (by simp) (by simp) ⟨replied_of_kept h.kept (by simp) replies, h.levels levels⟩

theorem OfficeGoesOn.full (h : OfficeGoesOn s x l meter r o) (hroom : s.roomForOffice = false) (j : Job) :
    postRecord j x = refuseRecord .journalFull x :=
  postRecord_full ((posting_of_kept h.kept (by simp)).1.trans hroom) j

theorem OfficeGoesOn.ready (h : OfficeGoesOn s x l meter r o) (hr : s.ready) (j : Job) :
    postRecord j x = runJob ⟨j, true⟩ (takeReservation x) :=
  postRecord_ready ⟨(posting_of_kept h.kept (by simp)).2.trans hr.1, (posting_of_kept h.kept (by simp)).1.trans hr.2⟩ j

theorem OfficeGoesOn.nextSeq (h : OfficeGoesOn s x l meter r o) :
    (takeReservation x).journal.nextSeq = s.journal.nextSeq := by rw [takeReservation_journal, h.journal]

/-- Its unit with a record image is posted at once (R12, R103, R121). -/
theorem OfficeGoesOn.posts_image (h : OfficeGoesOn s x l meter r o) (hlaw : RecencyLaw s) {r' : Record}
    (hm : r'.meter = meter) (eb : EntryBody) (reply : Reply) :
    WentOn s l ⟨.valid, some meter, none, 1, some r'⟩
      [.site, .buffer, .journal, .conditions, .outstanding .office, .replies .office]
      (fun t => officePosts .edit (some (.image slot r')) eb s.site s t ∧ replied .office o.tag reply s t ∧
        onlyLevels s t) (settle (officeReply reply (postImage slot r' eb (takeReservation x)))) := by
  obtain ⟨unit, replies, levels, line, kept⟩ := h.served.posts_image h.pins hm slot eb reply
  obtain ⟨here, rest, order⟩ := line
  rw [h.clean] at here
  refine h.wentOn ⟨here, rest, ?_⟩ kept (by simp) (by simp)
    ⟨officePosts_of_kept h.kept (by simp) unit, replied_of_kept h.kept (by simp) replies, h.levels levels⟩
  rw [order, h.recency, touch_twice (recency_nodup hlaw)]

/-- A unit that cannot post at once: no room in the Journal, a place in the list, or the STORE_FAULT latch (R12,
R13). -/
theorem OfficeGoesOn.held (h : OfficeGoesOn s x l meter r o) {j : Job} (hj : j.keepsPin = true) {c : Instr}
    (hx : exec c s = .next (settle (postRecord j x))) :
    (s.roomForOffice = false → ∃ t, exec c s = .next t ∧
      WentOn s l ⟨.valid, some meter, none, 0, some r⟩ [.outstanding .office, .replies .office]
        (replied .office o.tag (.refused .journalFull o.kind 0 0) s) t) ∧
    (s.roomForOffice = true → s.postsAtOnce = false → s.storeFaultLatched = false → s.store.faulted = false →
      ∃ t, exec c s = .next t ∧
        WentOn s l ⟨.valid, some meter, some .office, 0, some r⟩ [.waiters, .journal, .conditions]
          (fun t => t.waiters = s.waiters ++ [⟨j, true⟩] ∧
            t.journal = ⟨s.journal.nextSeq, s.journal.reservations + 1⟩ ∧ onlyLevels s t) t) ∧
    (s.roomForOffice = true → s.postsAtOnce = false → s.storeFaultLatched = true → ∃ t, exec c s = .next t ∧
      WentOn s l ⟨.valid, some meter, none, 0, some r⟩ [.conditions, .outstanding .office, .replies .office]
        (fun t => replied .office o.tag (.refused .suspended o.kind 0 0) s t ∧ onlyLevels s t) t) :=
  ⟨fun room => ⟨_, hx, by rw [h.full room]; exact h.refused .journalFull⟩,
    fun room posts latch faulted => ⟨_, hx, h.waits hj room posts latch faulted⟩,
    fun room posts latch => ⟨_, hx, h.suspended hj room posts latch⟩⟩

/-- A state request that changes the state (R6, R19). -/
theorem OfficeGoesOn.becomes (h : OfficeGoesOn s x l meter r o) {next : AccountState → Option AccountState}
    {a : AccountState} (ha : next r.account = some a) {c : Instr}
    (hx : exec c s = .next (settle (continueState next slot r x))) :
    exec c s = .next (settle (postRecord (.accountState slot { r with account := a } r.account) x)) ∧
    (s.ready → RecencyLaw s → ∃ t, exec c s = .next t ∧
      WentOn s l ⟨.valid, some meter, none, 1, some { r with account := a, lastSeq := s.journal.nextSeq }⟩
        [.site, .buffer, .journal, .conditions, .outstanding .office, .replies .office]
        (fun t => officePosts .edit (some (.image slot { r with account := a, lastSeq := s.journal.nextSeq }))
          (.meterState meter r.account (.account a)) s.site s t ∧
          replied .office o.tag (.stateOk meter a s.journal.nextSeq) s t ∧ onlyLevels s t) t) := by
  obtain rfl : r.meter = meter := h.pins.2.2.1
  have posts : continueState next slot r x = postRecord (.accountState slot { r with account := a } r.account) x := by
    simp only [continueState, ha]
  refine ⟨hx.trans (by rw [posts]), fun hr hlaw => ?_⟩
  have runs : postRecord (.accountState slot { r with account := a } r.account) x =
      officeReply (.stateOk r.meter a s.journal.nextSeq)
        (postImage slot { r with account := a, lastSeq := s.journal.nextSeq }
          (.meterState r.meter r.account (.account a))
          (takeReservation x)) := by
    rw [h.ready hr, ← h.nextSeq]; rfl
  exact ⟨_, hx.trans (by rw [posts, runs]),
    h.posts_image (r' := { r with account := a, lastSeq := s.journal.nextSeq }) hlaw rfl _ _⟩

/-- A METER_EDIT that changes a value (R18). -/
theorem OfficeGoesOn.edits (h : OfficeGoesOn s x l meter r o) {g : EditRequest} (ha : r.account ≠ .retired)
    (hc : editRecord r g ≠ r) {c : Instr} (hx : exec c s = .next (settle (continueEdit g slot r x))) :
    exec c s = .next (settle (postRecord (.edit slot (editRecord r g) (editItems r g)) x)) ∧
    (s.ready → RecencyLaw s → ∃ t, exec c s = .next t ∧
      WentOn s l ⟨.valid, some meter, none, 1, some { editRecord r g with lastSeq := s.journal.nextSeq }⟩
        [.site, .buffer, .journal, .conditions, .outstanding .office, .replies .office]
        (fun t => officePosts .edit (some (.image slot { editRecord r g with lastSeq := s.journal.nextSeq }))
          (.meterEdit meter (editItems r g)) s.site s t ∧
          replied .office o.tag (.editOk (editRecord r g).tariffIndex (editRecord r g).recoveryRate
            (editRecord r g).arrears (editRecord r g).lifelineEligible (some s.journal.nextSeq)) s t ∧
          onlyLevels s t) t) := by
  obtain rfl : r.meter = meter := h.pins.2.2.1
  have items : ¬(editItems r g).isEmpty = true := mt (editItems_nil r g).mp hc
  have posts : continueEdit g slot r x = postRecord (.edit slot (editRecord r g) (editItems r g)) x := by
    rw [continueEdit, if_neg ha, if_neg items]
  refine ⟨hx.trans (by rw [posts]), fun hr hlaw => ?_⟩
  have runs : postRecord (.edit slot (editRecord r g) (editItems r g)) x =
      officeReply (.editOk (editRecord r g).tariffIndex (editRecord r g).recoveryRate (editRecord r g).arrears
          (editRecord r g).lifelineEligible (some s.journal.nextSeq))
        (postImage slot { editRecord r g with lastSeq := s.journal.nextSeq } (.meterEdit r.meter (editItems r g))
          (takeReservation x)) := by
    rw [h.ready hr, ← h.nextSeq]; rfl
  exact ⟨_, hx.trans (by rw [posts, runs]),
    h.posts_image (r' := { editRecord r g with lastSeq := s.journal.nextSeq }) hlaw rfl _ _⟩

/-- A METER_EDIT that changes nothing (R18). -/
theorem continueEdit_nothing {g : EditRequest} (ha : r.account ≠ .retired) (hc : editRecord r g = r) :
    continueEdit g slot r x =
      officeReply (.editOk r.tariffIndex r.recoveryRate r.arrears r.lifelineEligible none) (releasePin .office x) := by
  have items : (editItems r g).isEmpty = true := (editItems_nil r g).mpr hc
  rw [continueEdit, if_neg ha, if_pos items]

/-- A METER_PURGE past its tests is posted at once (R15). -/
theorem OfficeGoesOn.posts_purge (h : OfficeGoesOn s x l meter r o) (hlaw : RecencyLaw s) :
    let t := settle (postPurge slot meter (takeReservation x))
    officePosts .edit (some (.erase slot meter)) (.meterState meter .retired .purged) s.site s t ∧
      t.directory = dirErase meter s.directory ∧ t.line l = Line.freed ∧ (∀ j, j ≠ l → t.line j = s.line j) ∧
      t.working.recency = l :: s.working.recency.erase l ∧ t.officeRequest = none ∧
      replied .office o.tag (.purgeOk meter s.journal.nextSeq) s t ∧ onlyLevels s t ∧
      keepsAllBut [.site, .buffer, .journal, .directory, .lines, .conditions, .officeRequest, .outstanding .office,
        .replies .office] s t := by
  obtain ⟨unit, dir, line, rest, order, replies, levels, changed⟩ := h.served.posts_purge h.pins slot
  rw [h.journal] at replies
  rw [show x.directory = s.directory from h.kept .directory (by simp)] at dir
  refine ⟨officePosts_of_kept h.kept (by simp) unit, dir, line, fun j hj => (rest j hj).trans (h.others j hj), ?_,
    (changed .officeRequest (by simp)).trans h.ended, replied_of_kept h.kept (by simp) replies, h.levels levels,
    keepsAllBut_trans (keepsAllBut_mono h.kept (by simp)) (keepsAllBut_mono changed (by simp +contextual))⟩
  rw [order, h.recency, erase_touched (recency_nodup hlaw)]

end

/-- The office's record request whose fetch fails is refused (R101). -/
theorem Fetching.office_refused {s : State} {l : LineNo} {meter slot : Nat} {damaged : Bool} {o : Outstanding}
    (h : Fetching s l meter slot .office) (hn : ¬∃ r, s.fetchGood damaged meter slot r)
    (hrec : s.receives .office = true) (hout : s.officePort.outstanding = some o) :
    ∃ t, exec (.recordFetchComplete damaged) s = .next t ∧ Damages l meter slot damaged s t ∧ t.officeRequest = none ∧
      replied .office o.tag (.refused .meterDamaged o.kind 0 0) s t ∧
      keepsAllBut [.areas, .lines, .directory, .officeRequest, .outstanding .office, .replies .office] s t := by
  obtain ⟨damages, kept⟩ := unfetched_spec l meter slot damaged s
  have rest := h.unfetched_rest (damaged := damaged)
  have runs := h.exec_bad hn
  generalize unfetched l meter slot damaged s = x at *
  have kx : keepsAllBut [.areas, .lines, .directory, .officeRequest] s { x with officeRequest := none } :=
    keepsAllBut_trans (keepsAllBut_mono kept (by simp)) (keepsAllBut_mono (officeRequest_keeps x none) (by simp))
  have served : OfficeServed s o := ⟨hrec, hout⟩
  have refuses : ownerFetchFailed (some .office) x =
      officeReply (.refused .meterDamaged o.kind 0 0) { x with officeRequest := none } := by
    have here := served.of_kept kx (by simp) (by simp) (by simp)
    rw [here.reply, ← here.refuse]; rfl
  obtain ⟨replies, changed⟩ := served.answered (.refused .meterDamaged o.kind 0 0) kx (by simp) (by simp) (by simp)
    (by simp) (y := { x with officeRequest := none }) rest
  refine ⟨_, runs.trans (by rw [refuses]),
    damages.of_same (fun j => line_congr (by simp) j) (by simp) (by simp) ((settle_areas _).trans (by simp)), by simp,
    replies, changed⟩

/-- Settles O56, owner by owner: a slot's quote, a slot's reprint, and the office's request by its kind. -/
theorem fetchCompletes : Obligations.FetchCompletes := by
  intro s l meter slot damaged hrun hrest hsv hfound
  refine ⟨fun k hl hpin hu => ?_, fun o req hl hpin hreq hm hrec hout => ?_⟩
  · have h : Fetching s l meter slot (.slot k) := ⟨hrun, hrest, hsv, hl, hfound, hpin⟩
    refine ⟨fun q hs hq => ⟨fun r ha hg => h.quote_goesOn hg hs ha,
        fun hb hj hw => ⟨fun r c ha hg => ?_, fun hn => ?_⟩⟩,
      fun req tag hs hq hw => ⟨fun r hg => h.reprint_goesOn hg hs hw, fun hn => ?_⟩⟩
    · exact h.quote_abandoned hg hs hq hb hj hw ha
    · obtain ⟨t, runs, d, rest⟩ := h.quote_refused hu hn hs hq hb hj hw
      exact ⟨t, runs, ⟨d.line, d.others, d.recency, d.directory, d.areas⟩, rest⟩
    · obtain ⟨t, runs, d, rest⟩ := h.reprint_refused hu hn hs hq hw
      exact ⟨t, runs, ⟨d.line, d.others, d.recency, d.directory, d.areas⟩, rest⟩
  · have h : Fetching s l meter slot .office := ⟨hrun, hrest, hsv, hl, hfound, hpin⟩
    refine ⟨fun hn => ?_, fun r hg => ?_⟩
    · obtain ⟨t, runs, d, rest⟩ := h.office_refused hn hrec hout
      exact ⟨t, runs, ⟨d.line, d.others, d.recency, d.directory, d.areas⟩, rest⟩
    obtain ⟨x, go, runs⟩ := h.office_goesOn hg hreq hm hrec hout
    intro n goesOn answered refused held changes becomes
    have refuses {code : RefusalCode} (hc : continueRecord req slot r x = refuseRecord code x) : refused code :=
      ⟨_, runs, by rw [hc]; exact go.refused code⟩
    have states {next : AccountState → Option AccountState}
        (hc : continueRecord req slot r x = continueState next slot r x) :
        (∀ a, next r.account = some a → becomes a) ∧ (next r.account = none → refused .stateConflict) := by
      refine ⟨fun a ha => ?_, fun ha => refuses (hc.trans (by rw [continueState, ha]))⟩
      obtain ⟨waiting, posts⟩ := go.becomes ha (runs.trans (by rw [hc]))
      exact ⟨go.held rfl waiting, posts⟩
    refine ⟨?_, ?_, ?_, ?_, ?_, ?_⟩
    · rintro rfl
      have now : x.now = s.now := by simp only [State.now, (go.kept .clock (by simp)).1]
      have reply : readReply r x = .meterData r (s.now.map fun d => decide (r.monthTag = monthTagOf d.day)) := by
        rw [readReply, monthCurrentOf, now]; rfl
      exact ⟨_, runs, by rw [continueRecord, reply]; exact go.answered _⟩
    · rintro g rfl
      refine ⟨fun ha => refuses (by rw [continueRecord, continueEdit, if_pos ha]), fun ha => ?_⟩
      intro r' editOk
      refine ⟨fun hc => ⟨_, runs, ?_⟩, fun hc => ?_⟩
      · have reply : editOk none = .editOk r.tariffIndex r.recoveryRate r.arrears r.lifelineEligible none := by
          simp only [editOk, hc]
        rw [continueRecord, continueEdit_nothing ha hc, reply]
        exact go.answered _
      · obtain ⟨waiting, posts⟩ := go.edits ha hc runs
        exact ⟨go.held rfl waiting, posts⟩
    · rintro rfl
      obtain ⟨changed, kept⟩ := states (next := blockState) rfl
      exact ⟨fun ha => changed _ (by rw [ha]; rfl), fun ha => kept (by cases hx : r.account <;> simp_all [blockState])⟩
    · rintro rfl
      obtain ⟨changed, kept⟩ := states (next := unblockState) rfl
      exact ⟨fun ha => changed _ (by rw [ha]; rfl),
        fun ha => kept (by cases hx : r.account <;> simp_all [unblockState])⟩
    · rintro rfl
      obtain ⟨changed, kept⟩ := states (next := retireState) rfl
      exact ⟨fun ha => changed _ (by cases hx : r.account <;> simp_all [retireState]), fun ha => kept (by rw [ha]; rfl)⟩
    · rintro rfl
      have number : r.meter = meter := go.pins.2.2.1
      have hold : x.arbiter.hold = s.arbiter.hold := (go.kept .hold (by simp)).1
      have site : x.site = s.site := go.kept .site (by simp)
      refine ⟨fun hh => refuses (by simp [continueRecord, continuePurge, hold, hh]), fun hh =>
        ⟨fun ha => refuses (by simp [continueRecord, continuePurge, hold, hh, ha]), fun ha =>
          ⟨fun hrel => refuses (by simp [continueRecord, continuePurge, hold, hh, ha, site, hrel]), fun hrel => ?_⟩⟩⟩
      have posts : continueRecord (.purge meter) slot r x = postRecord (.purge slot meter) x := by
        simp [continueRecord, continuePurge, hold, hh, ha, site, Nat.not_lt.mpr hrel, number]
      refine ⟨go.held rfl (runs.trans (by rw [posts])), fun hr hlaw => ?_⟩
      have purges : continueRecord (.purge meter) slot r x = postPurge slot meter (takeReservation x) := by
        rw [posts, go.ready hr]; rfl
      exact ⟨_, runs.trans (by rw [purges]), go.posts_purge hlaw⟩

end Sys2Proof.Machine
end

section
/-! SUPPORT. The law of R25: what every operation keeps of the pending set's effective day in working state, in the units
of the buffer and in the stored images. -/

namespace Sys2Proof.Machine

/-- A poster's unit may post under the law of R25: a STAGE names a day still to come (R29). -/
def Job.timely (j : Job) (s : State) : Prop := ∀ es d, j = .tariffStage es d → s.site.businessDay < d

/-- Both places of an image area hold images that obey R25. -/
def ImageArea.stagedLater (a : ImageArea) : Prop :=
  (∀ v, a.first = some v → v.stagedLater) ∧ ∀ v, a.second = some v → v.stagedLater

section

variable {s t : State}

theorem stagedLater_congr {v w : SiteState} (h : v.stagedLater) (hp : w.pendingSet = v.pendingSet)
    (hb : w.businessDay = v.businessDay) : w.stagedLater := by
  simpa only [SiteState.stagedLater, hp, hb] using h

theorem stagedLater_none {v : SiteState} (h : v.pendingSet = none) : v.stagedLater := fun p hp => by
  rw [h] at hp; cases hp

theorem stagedLater_some {v : SiteState} {p : PendingSet} (h : v.pendingSet = some p)
    (hd : v.businessDay < p.effectiveDay) : v.stagedLater := fun q hq => by
  rw [h] at hq; cases hq; exact hd

/-! ### What the law depends on -/

/-- A step that leaves the pending set, the business day, the buffer and the image area. -/
theorem PendingSetLaw.same (h : PendingSetLaw s) (k : t.site.pendingSet = s.site.pendingSet ∧
    t.site.businessDay = s.site.businessDay ∧ t.buffer = s.buffer ∧ t.store.image = s.store.image) :
    PendingSetLaw t := by
  obtain ⟨site, units, images⟩ := h
  obtain ⟨kp, kd, kb, ki⟩ := k
  exact ⟨stagedLater_congr site kp kd, by rw [kb]; exact units, by rw [ki]; exact images⟩

/-- The working site state is replaced by one that obeys R25. -/
theorem PendingSetLaw.withSite (h : PendingSetLaw s) {v : SiteState} (hv : v.stagedLater) :
    PendingSetLaw { s with site := v } := ⟨hv, h.2⟩

/-- The buffer loses units. -/
theorem PendingSetLaw.dropsUnits (h : PendingSetLaw s) {l : List CommitUnit} (hl : l ⊆ s.buffer) :
    PendingSetLaw { s with buffer := l } := ⟨h.1, fun u hu => h.2.1 u (hl hu), h.2.2⟩

/-- The store takes an image area that obeys R25. -/
theorem PendingSetLaw.withStore (h : PendingSetLaw s) {st : RecordStore} (hi : st.image.stagedLater) :
    PendingSetLaw { s with store := st } := ⟨h.1, h.2.1, hi⟩

theorem PendingSetLaw.images (h : PendingSetLaw s) : s.store.image.stagedLater := h.2.2

/-- The head unit's image obeys R25. -/
theorem PendingSetLaw.head (h : PendingSetLaw s) {u : CommitUnit} {rest : List CommitUnit} (hb : s.buffer = u :: rest) :
    u.image.stagedLater := h.2.1 u (by simp [hb])

/-! ### The image area -/

@[simp] theorem startFetch_image (o : Owner) (meter slot : Nat) (s : State) :
    (startFetch o meter slot s).store.image = s.store.image := by simp [startFetch]

@[simp] theorem setService_image (v : Service) (s : State) : (setService v s).store.image = s.store.image := rfl

@[simp] theorem setFaulted_image (b : Bool) (s : State) : (setFaulted b s).store.image = s.store.image := rfl

@[simp] theorem alterSlot_image (d : Bool) (slot : Nat) (s : State) :
    (alterSlot d slot s).store.image = s.store.image := by
  unfold alterSlot; split <;> rfl

@[simp] theorem settle_image (s : State) : (settle s).store.image = s.store.image := (areas_same (settle_areas s)).2.2.2.1

/-- An image is written into one of the two places (R184). -/
theorem ImageArea.write_stagedLater {a : ImageArea} {v : SiteState} (h : a.stagedLater) (hv : v.stagedLater) :
    (a.write v).stagedLater := by
  obtain ⟨first, second⟩ := h
  unfold ImageArea.write
  split
  · exact ⟨fun w hw => by cases hw; exact hv, second⟩
  · exact ⟨first, fun w hw => by cases hw; exact hv⟩

/-- The kept image is one of the two. -/
theorem ImageArea.image_stagedLater {a : ImageArea} {v : SiteState} (h : a.stagedLater) (hv : a.image = some v) :
    v.stagedLater := by
  unfold ImageArea.image at hv
  split at hv
  · cases hv
  · exact h.1 v hv
  · exact h.2 v hv

/-! ### Operations that leave all that the law reads -/

theorem PendingSetLaw.reportLevels (h : PendingSetLaw s) : PendingSetLaw (reportLevels s) := h.same (by simp)

theorem PendingSetLaw.officeReply (h : PendingSetLaw s) (r : Reply) : PendingSetLaw (officeReply r s) := h.same (by simp)

theorem PendingSetLaw.tillReply (h : PendingSetLaw s) (k : Till) (g : Option Byte) (r : Reply) :
    PendingSetLaw (tillReply k g r s) := h.same (by simp)

theorem PendingSetLaw.modSlot (h : PendingSetLaw s) (k : Till) (f : VendSlot → VendSlot) :
    PendingSetLaw (s.modSlot k f) := h.same (by simp)

theorem PendingSetLaw.closeQuote (h : PendingSetLaw s) (k : Till) (o : CloseOutcome) :
    PendingSetLaw (closeQuote k o s) := h.same (by simp)

theorem PendingSetLaw.endReprint (h : PendingSetLaw s) (k : Till) : PendingSetLaw (endReprint k s) := h.same (by simp)

theorem PendingSetLaw.lineTakesImage (h : PendingSetLaw s) (m : Nat) (r : Record) :
    PendingSetLaw (lineTakesImage m r s) := h.same (by simp)

theorem PendingSetLaw.releasePin (h : PendingSetLaw s) (o : Owner) : PendingSetLaw (releasePin o s) := h.same (by simp)

theorem PendingSetLaw.freeOfficeLine (h : PendingSetLaw s) : PendingSetLaw (freeOfficeLine s) := h.same (by simp)

theorem PendingSetLaw.withDirectory (h : PendingSetLaw s) (d : List DirEntry) :
    PendingSetLaw { s with directory := d } := h.same (by simp)

theorem PendingSetLaw.withdrawDisabled (h : PendingSetLaw s) (m : ConditionSet) :
    PendingSetLaw (withdrawDisabled m s) := h.same (by simp)

theorem PendingSetLaw.offerSettings (h : PendingSetLaw s) (k : Till) : PendingSetLaw (offerSettings k s) :=
  h.same (by simp)

/-! ### The end of a step and the posting of units -/

theorem PendingSetLaw.settled (h : PendingSetLaw s) (ht : finish s = .next t) : PendingSetLaw t := by
  cases ht; exact h.same (by simp)

/-- A unit that enters the buffer takes the working site state as its image (R120). -/
theorem PendingSetLaw.addUnit (h : PendingSetLaw s) (kind : UnitKind) (part : Option RecordPart)
    (entry : Option (Source × EntryBody)) (sm : Option DaySummary) : PendingSetLaw (addUnit kind part entry sm s) := by
  obtain ⟨site, units, images⟩ := h
  have joins (u : CommitUnit) (hu : u.image.stagedLater) : ∀ x ∈ s.buffer ++ [u], x.image.stagedLater := by
    simpa [or_imp, forall_and, hu] using units
  unfold Machine.addUnit
  split
  · exact ⟨site, joins _ site, images⟩
  · have fresh : { s.site with unlogged := 0 }.stagedLater := stagedLater_congr site rfl rfl
    exact .reportLevels ⟨fresh, joins _ fresh, images⟩

theorem runSystemJob_staged (h : PendingSetLaw s) (w : Waiter) : PendingSetLaw (runSystemJob w s) := by
  unfold runSystemJob
  split <;> exact h.addUnit ..

theorem postSystem_staged (h : PendingSetLaw s) (w : Waiter) : PendingSetLaw (postSystem w s) := by
  unfold postSystem
  split
  · exact runSystemJob_staged h w
  · exact h

theorem raiseUnlogged_staged (h : PendingSetLaw s) (n : Nat) : PendingSetLaw (raiseUnlogged n s) :=
  h.withSite (stagedLater_congr h.1 rfl rfl)

theorem postSystemEntry_staged (h : PendingSetLaw s) (j : Job) (b : Bool) : PendingSetLaw (postSystemEntry j b s) := by
  unfold postSystemEntry
  repeat' split
  · exact postSystem_staged h _
  · exact postSystem_staged (h.same (by simp)) _
  · exact postSystem_staged (raiseUnlogged_staged h 1) _
  · exact raiseUnlogged_staged h 1

/-! ### The day rollover -/

/-- The shift takes a pending set whose day is reached, so of the working state nothing is asked before it (R33). -/
theorem tariffRollover_staged (h : PendingSetLaw { s with site := { s.site with pendingSet := none } }) :
    PendingSetLaw (tariffRollover s) := by
  unfold tariffRollover
  split
  · rename_i hp
    exact h.withSite (stagedLater_none hp)
  · rename_i p hp
    split
    · rename_i hd
      exact h.withSite (stagedLater_some hp hd)
    · exact postSystemEntry_staged (h.same (by simp)) _ _

theorem rollover_staged (h : PendingSetLaw s) : PendingSetLaw (rollover s) := by
  unfold rollover
  split
  · exact h
  · rename_i d _
    have hx : PendingSetLaw { s with site := { (beginDay d.day s).site with pendingSet := none } } :=
      h.withSite (stagedLater_none rfl)
    exact postSystemEntry_staged (tariffRollover_staged (hx.same (by simp [beginDay]))) _ _

/-! ### The posting of each poster's unit -/

theorem postSale_staged (h : PendingSetLaw s) (k : Till) : PendingSetLaw (postSale k s) := by
  unfold postSale
  repeat' split
  · exact h
  · exact .tillReply (.closeQuote (.modSlot (.lineTakesImage (.addUnit (h.same (by simp [takeSale])) ..) ..) ..) ..) ..
  · exact h

theorem postImage_staged (h : PendingSetLaw s) (slot : Nat) (r : Record) (e : EntryBody) :
    PendingSetLaw (postImage slot r e s) := .releasePin (.lineTakesImage (h.addUnit ..) ..) _

theorem postSetting_staged (h : PendingSetLaw s) (b : Bool) (e : EntryBody) : PendingSetLaw (postSetting b e s) :=
  h.addUnit ..

theorem postClockSet_staged (h : PendingSetLaw s) (b : Bool) (old : Option DateTime) (v : DateTime) (n : Nat) :
    PendingSetLaw (postClockSet b old v n s) := by
  have hs : PendingSetLaw (reportLevels (postSetting b (.clockSet old (addSeconds v n))
      { s with calendar := ⟨some (addSeconds v n), true⟩, cell := ⟨true, some (addSeconds v n)⟩ })) :=
    .reportLevels (postSetting_staged (h.same (by simp)) ..)
  unfold postClockSet
  dsimp only
  split
  · exact (rollover_staged hs).officeReply _
  · exact hs.officeReply _

/-- A poster's unit posts (R121): a set is staged for a day still to come, and no other unit stages one. -/
theorem runJob_staged (h : PendingSetLaw s) (w : Waiter) (hw : w.job.timely s) : PendingSetLaw (runJob w s) := by
  unfold runJob
  cases hj : w.job with
  | sale k => exact postSale_staged h k
  | reprint k m i t rep =>
    dsimp only
    unfold postReprint
    split
    · exact h
    · exact .tillReply (.endReprint (h.addUnit ..) k) ..
  | enrol n r => exact .officeReply (.withDirectory (postImage_staged h ..) _) _
  | edit n r items => exact .officeReply (postImage_staged h ..) _
  | accountState n r old => exact .officeReply (postImage_staged h ..) _
  | purge n m => exact .officeReply (.freeOfficeLine (.withDirectory (h.addUnit ..) _)) _
  | restore n r => exact .officeReply (.withDirectory (postImage_staged h ..) _) _
  | tariffStage es d =>
    have hv : { s.site with pendingSet := some ⟨es, d⟩ }.stagedLater := stagedLater_some rfl (hw es d hj)
    exact .officeReply (postSetting_staged ((h.withSite hv).same (by simp)) ..) _
  | tariffUnstage => exact .officeReply (postSetting_staged (h.withSite (stagedLater_none rfl)) ..) _
  | tariffLoad es => exact .officeReply (postSetting_staged (h.same (by simp)) ..) _
  | voucher a b => exact .officeReply (postSetting_staged (h.same (by simp)) ..) _
  | floorSet v => exact .officeReply (postSetting_staged (h.same (by simp)) ..) _
  | quoteTimeSet v => exact .officeReply (postSetting_staged (h.same (by simp)) ..) _
  | maskSet v => exact .officeReply (.withdrawDisabled (postSetting_staged (h.same (by simp)) ..) _) _
  | linkSet k v => exact .officeReply (.offerSettings (postSetting_staged (h.same (by simp)) ..) k) _
  | clockSet old v n => exact postClockSet_staged h ..
  | tillClose k c => exact .officeReply (postSetting_staged (h.same (by simp)) ..) _
  | siteCode c => exact .officeReply (.addUnit (h.same (by simp)) ..) _
  | dayClose d => exact runSystemJob_staged h w
  | tariffShift g d => exact runSystemJob_staged h w
  | imageOnly => exact runSystemJob_staged h w
  | powerUp f => exact runSystemJob_staged h w

/-! ### The post wait list -/

/-- A unit that passes the test made at the room may post (R29, R123). -/
theorem Job.timely_of_test {j : Job} (h : postingTest j s = none) : j.timely s := by
  rintro es d rfl
  by_contra hd
  simp [postingTest, hd] at h

theorem refuseJob_staged (h : PendingSetLaw s) (w : Waiter) (c : RefusalCode) : PendingSetLaw (refuseJob w c s) :=
  h.same (by simp)

/-- A poster posts at once, waits, or is refused (R121, R122, R124). -/
theorem postOrWait_staged (h : PendingSetLaw s) (w : Waiter) (hw : w.job.timely s) : PendingSetLaw (postOrWait w s) := by
  unfold postOrWait
  repeat' split
  · exact runJob_staged h w hw
  · exact refuseJob_staged h ..
  · exact h.same (by simp)

theorem reserveAndPost_staged (h : PendingSetLaw s) (j : Job) (hj : j.timely s) :
    PendingSetLaw (reserveAndPost j s) :=
  postOrWait_staged (h.same (by simp)) _ fun es d he => by simpa using hj es d he

theorem offerRoomTo_staged : ∀ (n : Nat) {s : State}, PendingSetLaw s → PendingSetLaw (offerRoomTo n s)
  | 0, _, h => h
  | n + 1, s, h => by
    unfold offerRoomTo
    split
    · exact h
    · rename_i w rest _
      have hr : PendingSetLaw { s with waiters := rest } := h
      dsimp only
      repeat' split
      · rename_i ht
        exact runJob_staged hr w (Job.timely_of_test ht)
      · exact offerRoomTo_staged n (refuseJob_staged hr ..)
      · exact h

theorem offerRoom_staged (h : PendingSetLaw s) : PendingSetLaw (offerRoom s) := offerRoomTo_staged _ h

/-! ### The requests at a port -/

theorem portTake_staged (h : PendingSetLaw s) (q : PortId) (kind tag : Byte) (body : List Byte)
    {busy serve : State → State} (hb : PendingSetLaw (busy s)) (hs : ∀ x, PendingSetLaw x → PendingSetLaw (serve x)) :
    PendingSetLaw (portTake q kind tag body busy serve s) := by
  unfold portTake
  repeat' split
  · exact h
  · exact h.same (by simp)
  · exact h
  · exact hb
  · exact h
  · exact hs _ (h.same (by simp))

/-- A request keeps the law if its service does (R199). -/
theorem takeRequest_staged (h : PendingSetLaw s) (q : PortId) (kind tag : Byte) (body : List Byte)
    {serve : State → State} (hs : ∀ x, PendingSetLaw x → PendingSetLaw (serve x))
    (ht : finish (takeRequest q kind tag body serve s) = .next t) : PendingSetLaw t :=
  (portTake_staged h q kind tag body (h.same (by simp)) hs).settled ht

theorem postOffice_staged (h : PendingSetLaw s) (j : Job) (hj : j.timely s) : PendingSetLaw (postOffice j s) := by
  unfold postOffice
  split
  · exact reserveAndPost_staged h j hj
  · exact h.same (by simp)

/-! ### The engine -/

@[simp] theorem lookupQuote_image (k : Till) (q : QuoteRecord) (s : State) :
    (lookupQuote k q s).store.image = s.store.image := by
  unfold lookupQuote
  repeat' split
  all_goals simp

@[simp] theorem quoteStage_image (k : Till) (s : State) : (quoteStage k s).store.image = s.store.image := by
  unfold quoteStage
  repeat' split
  all_goals simp

theorem confirmStage_staged (h : PendingSetLaw s) (k : Till) : PendingSetLaw (confirmStage k s) := by
  unfold confirmStage
  repeat' split
  · exact h
  · exact postOrWait_staged (h.same (by simp)) _ nofun
  · exact h

theorem issueReprint_staged (h : PendingSetLaw s) (k : Till) (w : ReprintWork) (i : Nat) (x : RecentToken) (b : Bool) :
    PendingSetLaw (issueReprint k w i x b s) := by
  unfold issueReprint
  split
  · exact reserveAndPost_staged h _ nofun
  · exact h.same (by simp)

/-- A reprint on its record is refused, or posts its entry (R71, R74). -/
theorem presentFromLine_staged (h : PendingSetLaw s) (k : Till) (w : ReprintWork) :
    PendingSetLaw (presentFromLine k w s) := by
  unfold presentFromLine presentReprint
  repeat' split
  · exact h
  · exact h.same (by simp)
  · exact h.same (by simp)
  · exact issueReprint_staged h ..
  · exact issueReprint_staged h ..
  · exact h.same (by simp)
  · exact h.same (by simp)

theorem lookupReprint_staged (h : PendingSetLaw s) (k : Till) (w : ReprintWork) :
    PendingSetLaw (lookupReprint k w s) := by
  unfold lookupReprint
  repeat' split
  on_goal 4 => exact presentFromLine_staged (h.same (by simp)) k w
  all_goals exact h.same (by simp)

/-- A grant to a slot serves one stage of its work (R80). -/
theorem slotStage_staged (h : PendingSetLaw s) (k : Till) : PendingSetLaw (slotStage k s) := by
  unfold slotStage
  split
  · exact h.same (by simp)
  · exact confirmStage_staged h k
  · unfold reprintStage
    repeat' split
    · exact h
    · exact lookupReprint_staged h k _
    · exact presentFromLine_staged h k _
    · exact h

theorem engineGrant_staged (h : PendingSetLaw s) (ht : execEngineGrant s = .next t) : PendingSetLaw t := by
  refine PendingSetLaw.settled ?_ ht
  split
  · exact h
  · rename_i k _
    have hx := slotStage_staged (s := { s with arbiter := { s.arbiter with pointer := k } }) h k
    exact hx.same (by simp)

/-! ### The record requests -/

theorem postRecord_staged (h : PendingSetLaw s) (j : Job) (hj : j.timely s) : PendingSetLaw (postRecord j s) := by
  unfold postRecord
  split
  · exact reserveAndPost_staged h j hj
  · exact h.same (by simp)

theorem postTaken_staged (h : PendingSetLaw s) (j : Job) (hj : j.timely s) : PendingSetLaw (postTaken j s) := by
  unfold postTaken
  split
  · exact reserveAndPost_staged h j hj
  · exact h.same (by simp)

theorem continueState_staged (h : PendingSetLaw s) (f : AccountState → Option AccountState) (slot : Nat) (r : Record) :
    PendingSetLaw (continueState f slot r s) := by
  unfold continueState
  split
  · exact h.same (by simp)
  · exact postRecord_staged h _ nofun

/-- A record request goes on with the record in its line (R12). -/
theorem continueFromLine_staged (h : PendingSetLaw s) (req : RecordRequest) (slot : Nat) :
    PendingSetLaw (continueFromLine req slot s) := by
  unfold continueFromLine continueRecord
  split
  · exact h
  · cases req with
    | edit e =>
      dsimp only
      unfold continueEdit
      repeat' split
      · exact h.same (by simp)
      · exact h.same (by simp)
      · exact postRecord_staged h _ nofun
    | block m => exact continueState_staged h ..
    | unblock m => exact continueState_staged h ..
    | retire m => exact continueState_staged h ..
    | purge m =>
      dsimp only
      unfold continuePurge
      repeat' split
      on_goal 4 => exact postRecord_staged h _ nofun
      all_goals exact h.same (by simp)
    | read m => exact h.same (by simp)

theorem serveChange_staged (h : PendingSetLaw s) (b : Bool) (req : RecordRequest) :
    PendingSetLaw (serveChange b req s) := by
  unfold serveChange lookupRecord
  repeat' split
  on_goal 5 => exact continueFromLine_staged (h.same (by simp)) req _
  all_goals exact h.same (by simp)

theorem serveMeter_staged (h : PendingSetLaw s) (body : List Byte) {serve : Nat → State → State}
    (hs : ∀ m, PendingSetLaw (serve m s)) : PendingSetLaw (serveMeter body serve s) := by
  unfold serveMeter
  split
  · exact h.same (by simp)
  · exact hs _

theorem serveEdit_staged (h : PendingSetLaw s) (body : List Byte) : PendingSetLaw (serveEdit body s) := by
  unfold serveEdit
  split
  · exact h.same (by simp)
  · exact serveChange_staged h ..

@[simp] theorem serveRead_image (m : Nat) (s : State) : (serveRead m s).store.image = s.store.image := by
  unfold serveRead
  repeat' split
  all_goals simp

theorem serveEnrol_staged (h : PendingSetLaw s) (body : List Byte) : PendingSetLaw (serveEnrol body s) := by
  unfold serveEnrol enrolMeter
  repeat' split
  on_goal 5 => exact postTaken_staged (h.same (by simp)) _ nofun
  all_goals exact h.same (by simp)

theorem serveRestore_staged (h : PendingSetLaw s) (body : List Byte) : PendingSetLaw (serveRestore body s) := by
  unfold serveRestore restoreMeter
  repeat' split
  on_goal 4 => exact postTaken_staged (h.same (by simp)) _ nofun
  all_goals exact h.same (by simp)

/-! ### The tariff requests -/

/-- A STAGE quarter that passed its checks names a day still to come (R25, R27). -/
theorem quarterRefusal_stage {day q : Nat} {es : List RawEntry} (h : quarterRefusal (.stage day) q es s = none) :
    s.site.businessDay < day := by
  by_contra hd
  simp only [quarterRefusal, Nat.not_lt.mp hd, decide_true, if_true] at h
  split_ifs at h

/-- A completing STAGE posts the set for its day (R28). -/
theorem takeStage_staged (h : PendingSetLaw s) (q : Nat) (es : List RawEntry) {day : Nat}
    (hd : s.site.businessDay < day) : PendingSetLaw (takeStage q es day s) := by
  have timely {a : TariffSet} : (Job.tariffStage a day).timely s := by rintro _ _ ⟨⟩; exact hd
  unfold takeStage completeStage
  dsimp only
  repeat' split
  · exact reserveAndPost_staged (h.same (by simp)) _ timely
  · exact postOrWait_staged (h.same (by simp)) _ timely
  · exact h.same (by simp)

theorem serveStage_staged (h : PendingSetLaw s) (body : List Byte) : PendingSetLaw (serveStage body s) := by
  unfold serveStage
  repeat' split
  on_goal 4 => rename_i hq; exact takeStage_staged h _ _ (quarterRefusal_stage hq)
  all_goals exact h.same (by simp)

theorem serveLoad_staged (h : PendingSetLaw s) (body : List Byte) : PendingSetLaw (serveLoad body s) := by
  unfold serveLoad takeLoad
  dsimp only
  repeat' split
  on_goal 6 => exact reserveAndPost_staged (h.same (by simp)) _ nofun
  all_goals exact h.same (by simp)

theorem serveUnstage_staged (h : PendingSetLaw s) (body : List Byte) : PendingSetLaw (serveUnstage body s) := by
  unfold serveUnstage
  repeat' split
  on_goal 5 => exact reserveAndPost_staged h _ nofun
  all_goals exact h.same (by simp)

/-! ### The other office requests -/

theorem serveVoucher_staged (h : PendingSetLaw s) (body : List Byte) : PendingSetLaw (serveVoucher body s) := by
  unfold serveVoucher
  repeat' split
  on_goal 5 => exact postOffice_staged h _ nofun
  all_goals exact h.same (by simp)

theorem serveFloor_staged (h : PendingSetLaw s) (body : List Byte) : PendingSetLaw (serveFloor body s) := by
  unfold serveFloor
  repeat' split
  on_goal 4 => exact postOffice_staged h _ nofun
  all_goals exact h.same (by simp)

theorem serveQuoteTime_staged (h : PendingSetLaw s) (body : List Byte) : PendingSetLaw (serveQuoteTime body s) := by
  unfold serveQuoteTime
  repeat' split
  on_goal 4 => exact postOffice_staged h _ nofun
  all_goals exact h.same (by simp)

theorem serveMask_staged (h : PendingSetLaw s) (body : List Byte) : PendingSetLaw (serveMask body s) := by
  unfold serveMask
  dsimp only
  repeat' split
  on_goal 4 => exact postOffice_staged h _ nofun
  all_goals exact h.same (by simp)

theorem serveTillClose_staged (h : PendingSetLaw s) (body : List Byte) : PendingSetLaw (serveTillClose body s) := by
  unfold serveTillClose
  repeat' split
  on_goal 3 => exact postOffice_staged h _ nofun
  all_goals exact h.same (by simp)

theorem serveLinkSet_staged (h : PendingSetLaw s) (body : List Byte) : PendingSetLaw (serveLinkSet body s) := by
  unfold serveLinkSet changeLink
  repeat' split
  on_goal 4 => exact postOffice_staged h _ nofun
  on_goal 4 => exact postOrWait_staged h _ nofun
  all_goals exact h.same (by simp)

theorem serveSiteCode_staged (h : PendingSetLaw s) (body : List Byte) : PendingSetLaw (serveSiteCode body s) := by
  unfold serveSiteCode
  repeat' split
  on_goal 5 => exact reserveAndPost_staged h _ nofun
  all_goals exact h.same (by simp)

theorem serveClockSet_staged (h : PendingSetLaw s) (body : List Byte) : PendingSetLaw (serveClockSet body s) := by
  unfold serveClockSet buildClockSet
  repeat' split
  on_goal 4 => exact postOffice_staged h _ nofun
  on_goal 4 => exact postOrWait_staged h _ nofun
  all_goals exact h.same (by simp)

@[simp] theorem serveSummaryRead_image (body : List Byte) (s : State) :
    (serveSummaryRead body s).store.image = s.store.image := by
  unfold serveSummaryRead
  repeat' split
  all_goals simp

@[simp] theorem serveJournalRead_image (body : List Byte) (s : State) :
    (serveJournalRead body s).store.image = s.store.image := by
  unfold serveJournalRead
  repeat' split
  all_goals simp

@[simp] theorem serveRetry_image (body : List Byte) (s : State) :
    (serveRetry body s).store.image = s.store.image := by
  unfold serveRetry
  repeat' split
  all_goals simp

/-- Releasing the journal moves the release point alone of the site state (R140). -/
theorem releaseJournal_site (n : Nat) (s : State) :
    (releaseJournal n s).site = { s.site with releasePoint := (releaseJournal n s).site.releasePoint } := by
  unfold releaseJournal
  split <;> simp

theorem serveRelease_staged (h : PendingSetLaw s) (body : List Byte) : PendingSetLaw (serveRelease body s) := by
  have released (n : Nat) : PendingSetLaw (releaseJournal n s) :=
    h.same (by rw [releaseJournal_site]; simp)
  unfold serveRelease
  dsimp only
  repeat' split
  on_goal 5 => exact (released _).officeReply _
  all_goals exact h.same (by simp)

/-! ### The Record Store's completions -/

/-- A verified unit's image obeys R25, and so do the images after it is written (R184). -/
theorem completeUnit_staged (h : PendingSetLaw s) {u : CommitUnit} {rest : List CommitUnit} (hb : s.buffer = u :: rest) :
    PendingSetLaw (completeUnit u s) := by
  have kept : (s.store.written u).image.stagedLater := ImageArea.write_stagedLater h.images (h.head hb)
  have hx := (h.withStore kept).dropsUnits (List.tail_subset s.buffer)
  exact .reportLevels (hx.same (by simp))

/-- A failed write leaves the image unmarked in the other place (R184). -/
theorem failUnit_staged (h : PendingSetLaw s) {u : CommitUnit} {rest : List CommitUnit} (hb : s.buffer = u :: rest)
    (a : Bool) : PendingSetLaw (failUnit u a s) :=
  h.withStore (ImageArea.write_stagedLater h.images (h.head hb))

@[simp] theorem drainNext_image (s : State) : (drainNext s).store.image = s.store.image := by
  unfold drainNext
  split <;> simp

@[simp] theorem startDrain_image (s : State) : (startDrain s).store.image = s.store.image := by
  unfold startDrain
  split <;> simp

@[simp] theorem afterOperation_image (s : State) : (afterOperation s).store.image = s.store.image := by
  unfold afterOperation
  split <;> simp

theorem setService_staged (h : PendingSetLaw s) (v : Service) : PendingSetLaw (setService v s) := h.same (by simp)

theorem setFaulted_staged (h : PendingSetLaw s) (b : Bool) : PendingSetLaw (setFaulted b s) := h.same (by simp)

theorem drainNext_staged (h : PendingSetLaw s) : PendingSetLaw (drainNext s) := h.same (by simp)

theorem afterOperation_staged (h : PendingSetLaw s) : PendingSetLaw (afterOperation s) := h.same (by simp)

theorem dropAll_staged (h : PendingSetLaw s) : PendingSetLaw (dropAll s) := by
  have hx := h.dropsUnits (List.nil_subset _)
  exact hx.same (by simp [dropAll])

theorem drainWrite_staged (h : PendingSetLaw s) {u : CommitUnit} {rest : List CommitUnit} (hb : s.buffer = u :: rest)
    (r : ReadBack) : PendingSetLaw (drainWrite u r s) := by
  unfold drainWrite
  split
  · exact drainNext_staged (setFaulted_staged (completeUnit_staged h hb) _)
  · exact drainNext_staged (completeUnit_staged h hb)
  · exact setService_staged (failUnit_staged h hb _) _
  · exact dropAll_staged (failUnit_staged h hb _)

theorem drainWriteComplete_staged (h : PendingSetLaw s) (r : ReadBack) (ht : execDrainWriteComplete r s = .next t) :
    PendingSetLaw t := by
  refine PendingSetLaw.settled ?_ ht
  split
  · exact h
  · rename_i hb
    split
    · exact drainWrite_staged h hb r
    · exact h

theorem holdCellWriteComplete_staged (h : PendingSetLaw s) (r : CellReadBack)
    (ht : execHoldCellWriteComplete r s = .next t) : PendingSetLaw t := by
  refine PendingSetLaw.settled ?_ ht
  repeat' split
  all_goals exact h.same (by simp)

theorem ownerFetched_staged (h : PendingSetLaw s) (o : Option Owner) (slot : Nat) :
    PendingSetLaw (ownerFetched o slot s) := by
  unfold ownerFetched
  repeat' split
  on_goal 4 => exact continueFromLine_staged (h.same (by simp)) _ slot
  all_goals exact h.same (by simp)

theorem fillLine_staged (h : PendingSetLaw s) (l : LineNo) (m slot : Nat) (r : Option Record) :
    PendingSetLaw (fillLine l m slot r s) := by
  unfold fillLine
  dsimp only
  split
  · exact ownerFetched_staged (h.same (by simp)) ..
  · exact h.same (by simp)

theorem recordFetchComplete_staged (h : PendingSetLaw s) (d : Bool) (ht : execRecordFetchComplete d s = .next t) :
    PendingSetLaw t := by
  refine PendingSetLaw.settled ?_ ht
  dsimp only
  repeat' split
  on_goal 1 => exact fillLine_staged (h.same (by simp)) ..
  all_goals exact h.same (by simp)

theorem areaReadComplete_staged (h : PendingSetLaw s) (ht : execAreaReadComplete s = .next t) : PendingSetLaw t := by
  refine PendingSetLaw.settled ?_ ht
  repeat' split
  all_goals exact h.same (by simp)

theorem withdrawWaiters_staged (h : PendingSetLaw s) (f : Job → Bool) (c : RefusalCode) :
    PendingSetLaw (withdrawWaiters f c s) := h.same (by simp)

theorem storeFault_staged (h : PendingSetLaw s) : PendingSetLaw (storeFault s) := by
  have hx : PendingSetLaw (reportLevels (setService .idle (setFaulted true s))) := h.same (by simp)
  unfold storeFault
  dsimp only
  split
  · exact (withdrawWaiters_staged hx Job.withdrawable .suspended).same (by simp)
  · exact afterOperation_staged hx

theorem writeVerified_staged (h : PendingSetLaw s) {u : CommitUnit} {rest : List CommitUnit}
    (hb : s.buffer = u :: rest) : PendingSetLaw (writeVerified u s) := by
  have hx := setService_staged (completeUnit_staged h hb) .idle
  unfold writeVerified
  dsimp only
  split
  · exact offerRoom_staged hx
  · exact afterOperation_staged hx

theorem unitWriteComplete_staged (h : PendingSetLaw s) (r : ReadBack) (ht : execUnitWriteComplete r s = .next t) :
    PendingSetLaw t := by
  refine PendingSetLaw.settled ?_ ht
  split
  · exact h
  · rename_i hb
    split
    · exact h
    · unfold unitWrite
      split
      · exact writeVerified_staged h hb
      · exact writeVerified_staged h hb
      · exact setService_staged (failUnit_staged h hb _) _
      · exact storeFault_staged (failUnit_staged h hb _)
      · exact h

theorem retryVerified_staged (h : PendingSetLaw s) {u : CommitUnit} {rest : List CommitUnit}
    (hb : s.buffer = u :: rest) : PendingSetLaw (retryVerified u s) := by
  have hx := (setService_staged (setFaulted_staged (completeUnit_staged h hb) false) .idle).reportLevels
  unfold retryVerified
  dsimp only
  split
  · exact offerRoom_staged (hx.officeReply _)
  · exact afterOperation_staged hx

theorem retryFailed_staged (h : PendingSetLaw s) : PendingSetLaw (retryFailed s) := by
  have hx := setService_staged h .idle
  unfold retryFailed
  dsimp only
  split
  · exact hx.officeReply _
  · exact afterOperation_staged hx

theorem retryAttemptComplete_staged (h : PendingSetLaw s) (r : ReadBack) (ht : execRetryAttemptComplete r s = .next t) :
    PendingSetLaw t := by
  refine PendingSetLaw.settled ?_ ht
  split
  · exact h
  · rename_i hb
    unfold retryAttempt
    split
    · exact retryVerified_staged h hb
    · exact setService_staged (failUnit_staged h hb _) _
    · exact retryFailed_staged (failUnit_staged h hb _)
    · exact h

/-! ### The supply and start-up -/

theorem enterHold_staged (h : PendingSetLaw s) (c : OutageCause) : PendingSetLaw (enterHold c s) := by
  have hr : PendingSetLaw (raiseUnlogged (s.waiters.filter Waiter.countsUnlogged).length (abandonWork s)) :=
    raiseUnlogged_staged h _
  unfold enterHold
  dsimp only
  split
  · exact PendingSetLaw.same hr (by simp)
  · exact hr

theorem abandonStart_staged (h : PendingSetLaw s) : PendingSetLaw (abandonStart s) :=
  h.dropsUnits (List.nil_subset _)

theorem abandonedStart_staged (h : PendingSetLaw s) (v : SupplyState) :
    PendingSetLaw (setSupply v (abandonStart s)) :=
  (abandonStart_staged h).same (by simp)

theorem supplyLow_staged (h : PendingSetLaw s) (ht : execSupplyLow s = .next t) : PendingSetLaw t := by
  have hx : PendingSetLaw { s with supply := { s.supply with levelOk := false } } := h
  refine PendingSetLaw.settled ?_ ht
  split
  · exact enterHold_staged hx _
  · exact h
  · exact abandonedStart_staged hx _
  · exact h
  · exact h

theorem resetAsserted_staged (h : PendingSetLaw s) (ht : execResetAsserted s = .next t) : PendingSetLaw t := by
  have hx : PendingSetLaw { s with supply := { s.supply with resetAsserted := true } } := h
  refine PendingSetLaw.settled ?_ ht
  split
  · exact enterHold_staged hx _
  · exact abandonedStart_staged hx _
  · exact h

/-- The site state that start-up takes is the kept image's, or a blank one (R187, R191). -/
theorem startSite_staged (h : PendingSetLaw s) : (startSite s).stagedLater := by
  unfold startSite
  split
  · exact stagedLater_none rfl
  · rename_i hv
    exact stagedLater_congr (ImageArea.image_stagedLater h.images hv) rfl rfl

theorem startUp_staged (h : PendingSetLaw s) : PendingSetLaw (startUp s) := by
  have read : PendingSetLaw (resetVolatile (readStore s)) := ⟨startSite_staged h, by simp [resetVolatile], h.images⟩
  have tested : PendingSetLaw (reportLevels (testCalendar (resetVolatile (readStore s)))) := read.same (by simp)
  have powered : PendingSetLaw (postPowerUp s.describingCell
      (reportLevels (testCalendar (resetVolatile (readStore s))))) := by
    unfold postPowerUp
    split
    · exact postSystemEntry_staged tested ..
    · exact tested
  unfold startUp startRollover
  dsimp only
  split
  · exact rollover_staged (powered.same (by simp))
  · exact powered.same (by simp)

/-! ### Every command -/

theorem exec_staged (h : PendingSetLaw s) (c : Instr) (ht : exec c s = .next t) : PendingSetLaw t := by
  cases c with
  | quote k g b => exact takeRequest_staged h _ _ _ _ (fun x hx => hx.same (by simp)) ht
  | confirm k g b => exact takeRequest_staged h _ _ _ _ (fun x hx => hx.same (by simp)) ht
  | cancel k g b => exact (portTake_staged h _ _ _ _ (h.same (by simp)) fun x hx => hx.same (by simp)).settled ht
  | reprint k g b => exact takeRequest_staged h _ _ _ _ (fun x hx => hx.same (by simp)) ht
  | tillStatus k g b => exact takeRequest_staged h _ _ _ _ (fun x hx => hx.same (by simp)) ht
  | meterEnrol g b => exact takeRequest_staged h _ _ _ _ (fun x hx => serveEnrol_staged hx b) ht
  | meterEdit g b => exact takeRequest_staged h _ _ _ _ (fun x hx => serveEdit_staged hx b) ht
  | meterBlock g b =>
    exact takeRequest_staged h _ _ _ _ (fun x hx => serveMeter_staged hx b fun m => serveChange_staged hx ..) ht
  | meterUnblock g b =>
    exact takeRequest_staged h _ _ _ _ (fun x hx => serveMeter_staged hx b fun m => serveChange_staged hx ..) ht
  | meterRetire g b =>
    exact takeRequest_staged h _ _ _ _ (fun x hx => serveMeter_staged hx b fun m => serveChange_staged hx ..) ht
  | meterPurge g b =>
    exact takeRequest_staged h _ _ _ _ (fun x hx => serveMeter_staged hx b fun m => serveChange_staged hx ..) ht
  | meterRestore g b => exact takeRequest_staged h _ _ _ _ (fun x hx => serveRestore_staged hx b) ht
  | meterRead g b =>
    exact takeRequest_staged h _ _ _ _ (fun x hx => serveMeter_staged hx b fun m => hx.same (by simp)) ht
  | tariffStage g b => exact takeRequest_staged h _ _ _ _ (fun x hx => serveStage_staged hx b) ht
  | tariffUnstage g b => exact takeRequest_staged h _ _ _ _ (fun x hx => serveUnstage_staged hx b) ht
  | tariffLoadNow g b => exact takeRequest_staged h _ _ _ _ (fun x hx => serveLoad_staged hx b) ht
  | tariffRead g b => exact takeRequest_staged h _ _ _ _ (fun x hx => hx.same (by simp)) ht
  | budgetVoucher g b => exact takeRequest_staged h _ _ _ _ (fun x hx => serveVoucher_staged hx b) ht
  | budgetFloorSet g b => exact takeRequest_staged h _ _ _ _ (fun x hx => serveFloor_staged hx b) ht
  | journalRead g b => exact takeRequest_staged h _ _ _ _ (fun x hx => hx.same (by simp)) ht
  | journalRelease g b => exact takeRequest_staged h _ _ _ _ (fun x hx => serveRelease_staged hx b) ht
  | clockSet g b => exact takeRequest_staged h _ _ _ _ (fun x hx => serveClockSet_staged hx b) ht
  | clockRead g b => exact takeRequest_staged h _ _ _ _ (fun x hx => hx.same (by simp)) ht
  | summaryRead g b => exact takeRequest_staged h _ _ _ _ (fun x hx => hx.same (by simp)) ht
  | totalsSnapshot g b => exact takeRequest_staged h _ _ _ _ (fun x hx => hx.same (by simp)) ht
  | tillClose g b => exact takeRequest_staged h _ _ _ _ (fun x hx => serveTillClose_staged hx b) ht
  | holdRequest g b => exact takeRequest_staged h _ _ _ _ (fun x hx => hx.same (by simp)) ht
  | holdRelease g b => exact takeRequest_staged h _ _ _ _ (fun x hx => hx.same (by simp)) ht
  | linkSet g b => exact takeRequest_staged h _ _ _ _ (fun x hx => serveLinkSet_staged hx b) ht
  | quoteTimeSet g b => exact takeRequest_staged h _ _ _ _ (fun x hx => serveQuoteTime_staged hx b) ht
  | noticeMaskSet g b => exact takeRequest_staged h _ _ _ _ (fun x hx => serveMask_staged hx b) ht
  | conditionClear g b => exact takeRequest_staged h _ _ _ _ (fun x hx => hx.same (by simp)) ht
  | statusRead g b => exact takeRequest_staged h _ _ _ _ (fun x hx => hx.same (by simp)) ht
  | siteCodeLoad g b => exact takeRequest_staged h _ _ _ _ (fun x hx => serveSiteCode_staged hx b) ht
  | storeRetry g b => exact takeRequest_staged h _ _ _ _ (fun x hx => hx.same (by simp)) ht
  | unknownKind q kind g b => exact takeRequest_staged h _ _ _ _ (fun x hx => hx.same (by simp)) ht
  | frameDiscarded q cs =>
    refine PendingSetLaw.settled ?_ ht
    split
    · exact h.same (by simp)
    · exact h
  | frameTimeLimit q cs n =>
    refine PendingSetLaw.settled ?_ ht
    split
    · exact h.same (by simp)
    · exact h
  | frameTransmitted q => exact PendingSetLaw.settled (h.same (by simp)) ht
  | linkEntersFault q =>
    refine PendingSetLaw.settled ?_ ht
    split
    · exact h.same (by simp)
    · exact h
  | linkFaultEnd q =>
    refine PendingSetLaw.settled ?_ ht
    split
    · exact h.same (by simp)
    · exact h
  | linkSettingsTaken k =>
    refine PendingSetLaw.settled ?_ ht
    split
    · exact h.same (by simp)
    · exact h
  | engineGrant => exact engineGrant_staged h ht
  | quoteHoldExpiry k =>
    refine PendingSetLaw.settled ?_ ht
    split
    · exact h.same (by simp)
    · exact h
  | officeHoldLapse =>
    refine PendingSetLaw.settled ?_ ht
    split
    · exact h.same (by simp)
    · exact h
  | dayRollover =>
    refine PendingSetLaw.settled ?_ ht
    split
    · exact rollover_staged h
    · exact h
  | recordFetchComplete d => exact recordFetchComplete_staged h d ht
  | areaReadComplete => exact areaReadComplete_staged h ht
  | unitWriteComplete r => exact unitWriteComplete_staged h r ht
  | retryAttemptComplete r => exact retryAttemptComplete_staged h r ht
  | supplyLow => exact supplyLow_staged h ht
  | supplyOk =>
    refine PendingSetLaw.settled ?_ ht
    repeat' split
    all_goals exact h
  | resetAsserted => exact resetAsserted_staged h ht
  | resetReleased =>
    refine PendingSetLaw.settled ?_ ht
    split
    · exact h.same (by simp)
    · exact h
  | drainWriteComplete r => exact drainWriteComplete_staged h r ht
  | holdCellWriteComplete r => exact holdCellWriteComplete_staged h r ht
  | startUp =>
    refine PendingSetLaw.settled ?_ ht
    split
    · exact startUp_staged h
    · exact h
  | startUpComplete =>
    refine PendingSetLaw.settled ?_ ht
    split
    · exact h.same (by simp)
    · exact h
  | calendarSecond =>
    refine PendingSetLaw.settled ?_ ht
    exact h
  | backupCellFailed =>
    refine PendingSetLaw.settled ?_ ht
    split
    · exact h.same (by simp)
    · exact h.same (by simp)

end

/-- Settles O10: a set is staged for a day still to come, a later business day shifts it (R33), and units and stored
images take the site state as it stands. -/
theorem stepKeepsPendingSetLaw : Obligations.StepKeepsPendingSetLaw := by
  intro s t h ht
  unfold step at ht
  split at ht
  · cases ht; exact h
  · exact exec_staged (h.same (by simp)) _ ht

end Sys2Proof.Machine
end

section
/-! SUPPORT. The tariff requests that collect a quarter frame: what the checks of Table 2-3 answer, and what the area
holds afterwards (R23, R26, R27). -/

namespace Sys2Proof.Machine

section

variable {s : State} {purpose : Purpose} {q day : Nat} {es : List RawEntry} {body : List Byte} {code : RefusalCode}

/-! ### The checks of a quarter frame, step by step -/

theorem serving_quarterFits (s : State) (kind tag : Byte) (purpose : Purpose) (q : Nat) :
    (s.serving .office kind tag).quarterFits purpose q ↔ s.quarterFits purpose q := by simp [State.quarterFits]

/-- Step 5: a quarter out of order. -/
theorem quarterRefusal_conflict (h : ¬s.quarterFits purpose q) :
    quarterRefusal purpose q es s = some .stateConflict := by
  rw [← quarterFollows_iff] at h
  simp [quarterRefusal, h]

/-- Step 6: an invalid entry in a quarter that follows its area. -/
theorem quarterRefusal_invalid (h : s.quarterFits purpose q) (hv : es.all RawEntry.valid = false) :
    quarterRefusal purpose q es s = some .tariffInvalid := by
  simp [quarterRefusal, (quarterFollows_iff s purpose q).2 h, hv]

/-- Step 7: a set staged for a day that has come. -/
theorem quarterRefusal_day (h : s.quarterFits (.stage day) q) (hv : es.all RawEntry.valid = true)
    (hd : day ≤ s.site.businessDay) : quarterRefusal (.stage day) q es s = some .fieldRange := by
  simp [quarterRefusal, (quarterFollows_iff s (.stage day) q).2 h, hv, hd]

/-- A STAGE quarter that passes; the completing one of a COMMISSIONED part needs space (step 9). -/
theorem quarterRefusal_stagePasses (h : s.quarterFits (.stage day) q) (hv : es.all RawEntry.valid = true)
    (hd : s.site.businessDay < day) (hroom : q = 3 → s.commissioned = true → s.roomForOffice = true) :
    quarterRefusal (.stage day) q es s = none := by
  simpa [quarterRefusal, (quarterFollows_iff s (.stage day) q).2 h, hv, Nat.not_le.2 hd] using hroom

/-- A LOAD quarter that passes; the completing one needs space (step 9). -/
theorem quarterRefusal_loadPasses (h : s.quarterFits .load q) (hv : es.all RawEntry.valid = true)
    (hroom : q = 3 → s.commissioned = true → s.roomForOffice = true) : quarterRefusal .load q es s = none := by
  simpa [quarterRefusal, (quarterFollows_iff s .load q).2 h, hv] using hroom

/-- The index of R23 where the entries below one invalid entry are valid. -/
theorem quarterDetail_invalid {i : Nat} (hi : i < es.length) (below : (es.take i).all RawEntry.valid = true)
    (at_i : (es.drop i).head?.any RawEntry.valid = false) : quarterDetail .tariffInvalid q es = 4 * q + i := by
  simp [quarterDetail, lowestInvalid, firstInvalid_eq hi below at_i]

/-! ### The two services -/

theorem serveStage_refuses (hp : parseStage body = some (q, es, day)) (hf : s.storeFaultLatched = false)
    (hc : quarterRefusal (.stage day) q es s = some code) :
    serveStage body s = refuseQuarterWith code (quarterDetail code q es) s := by simp [serveStage, hp, hf, hc]

theorem serveStage_takes (hp : parseStage body = some (q, es, day)) (hf : s.storeFaultLatched = false)
    (hc : quarterRefusal (.stage day) q es s = none) : serveStage body s = takeStage q es day s := by
  simp [serveStage, hp, hf, hc]

theorem serveLoad_notHeld (hp : parseLoad body = some (q, es)) (hc : s.commissioned = true)
    (hh : s.arbiter.hold ≠ .held) : serveLoad body s = refuseQuarterWith .notHeld 0 s := by
  simp [serveLoad, hp, hc, hh, refuseQuarter]

theorem serveLoad_refuses (hp : parseLoad body = some (q, es)) (hc : s.commissioned = true)
    (hh : s.arbiter.hold = .held) (hf : s.storeFaultLatched = false) (hr : quarterRefusal .load q es s = some code) :
    serveLoad body s = refuseQuarterWith code (quarterDetail code q es) s := by simp [serveLoad, hp, hc, hh, hf, hr]

theorem serveLoad_takes (hp : parseLoad body = some (q, es)) (hc : s.commissioned = true)
    (hh : s.arbiter.hold = .held) (hf : s.storeFaultLatched = false) (hr : quarterRefusal .load q es s = none) :
    serveLoad body s = takeLoad q es s := by
  simp [serveLoad, hp, hc, hh, hf, hr]

theorem takeStage_joins (hq : q < 3) : takeStage q es day s = officeReply (.stageOk (q + 1) none none)
    { s with assembly := some ⟨.stage day, s.collected q ++ es.map RawEntry.entry⟩ } := by
  simp [takeStage, addQuarter_eq, Nat.ne_of_lt hq]

theorem takeLoad_joins (hq : q < 3) : takeLoad q es s = officeReply (.loadOk (q + 1) none none)
    { s with assembly := some ⟨.load, s.collected q ++ es.map RawEntry.entry⟩ } := by
  simp [takeLoad, addQuarter_eq, Nat.ne_of_lt hq]

theorem serving_collected (s : State) (kind tag : Byte) (q : Nat) :
    (s.serving .office kind tag).collected q = s.collected q := by simp [State.collected]

/-! ### The step of one frame -/

variable {tag : Byte} (h : s.takes .office tag body) (hr : s.holdAtRest) (hf : s.storeFaultLatched = false)
include h hr hf

theorem tariffStage_refused (hp : parseStage body = some (q, es, day))
    (hc : quarterRefusal (.stage day) q es (s.serving .office kindTariffStage tag) = some code) :
    ∃ t, exec (.tariffStage tag body) s = .next t ∧
      refusedWith .office kindTariffStage tag code 0 (quarterDetail code q es) s t :=
  takeQuarter_refused h hr (serveStage body) code _ rfl (serveStage_refuses hp (by simpa using hf) hc)

theorem tariffStage_joins (hp : parseStage body = some (q, es, day)) (fits : s.quarterFits (.stage day) q)
    (valid : es.all RawEntry.valid = true) (hd : s.site.businessDay < day) (hq : q < 3) :
    ∃ t, exec (.tariffStage tag body) s = .next t ∧ replied .office tag (.stageOk (q + 1) none none) s t ∧
      t.assembly = some ⟨.stage day, s.collected q ++ es.map RawEntry.entry⟩ ∧
      keepsAllBut [.assembly, .replies .office] s t := by
  have pass : quarterRefusal (.stage day) q es (s.serving .office kindTariffStage tag) = none :=
    quarterRefusal_stagePasses ((serving_quarterFits ..).2 fits) valid (by simpa using hd) (by omega)
  refine takeQuarter_answered h hr (serveStage body) _ _ ?_
  rw [serveStage_takes hp (by simpa using hf) pass, takeStage_joins hq, serving_collected]

variable (hcom : s.commissioned = true) (hh : s.arbiter.hold = .held)
include hcom hh

theorem tariffLoad_refused (hp : parseLoad body = some (q, es))
    (hc : quarterRefusal .load q es (s.serving .office kindTariffLoadNow tag) = some code) :
    ∃ t, exec (.tariffLoadNow tag body) s = .next t ∧
      refusedWith .office kindTariffLoadNow tag code 0 (quarterDetail code q es) s t :=
  takeQuarter_refused h hr (serveLoad body) code _ rfl
    (serveLoad_refuses hp (by simpa using hcom) (by simpa using hh) (by simpa using hf) hc)

theorem tariffLoad_joins (hp : parseLoad body = some (q, es)) (fits : s.quarterFits .load q)
    (valid : es.all RawEntry.valid = true) (hq : q < 3) :
    ∃ t, exec (.tariffLoadNow tag body) s = .next t ∧ replied .office tag (.loadOk (q + 1) none none) s t ∧
      t.assembly = some ⟨.load, s.collected q ++ es.map RawEntry.entry⟩ ∧
      keepsAllBut [.assembly, .replies .office] s t := by
  have pass : quarterRefusal .load q es (s.serving .office kindTariffLoadNow tag) = none :=
    quarterRefusal_loadPasses ((serving_quarterFits ..).2 fits) valid (by omega)
  refine takeQuarter_answered h hr (serveLoad body) _ _ ?_
  rw [serveLoad_takes hp (by simpa using hcom) (by simpa using hh) (by simpa using hf) pass, takeLoad_joins hq,
    serving_collected]

end

/-- Settles O41, by the step of Table 2-3 that a quarter frame reaches. -/
theorem quartersTaken : Obligations.QuartersTaken := by
  intro s tag body q raw h hr hf invalidAt
  have fits (kind : Byte) (purpose : Purpose) := serving_quarterFits s kind tag purpose q
  refine ⟨fun day hp => ⟨tariffStage_joins h hr hf hp, fun hq => ?_, ?_, fun hq hv hd => ?_⟩,
    fun hp hcom => ⟨fun hh => tariffLoad_joins h hr hf hcom hh hp, ?_, fun hh => ?_⟩⟩
  · exact tariffStage_refused h hr hf hp (quarterRefusal_conflict (by rwa [fits]))
  · rintro i hq ⟨hi, below, at_i⟩
    rw [← quarterDetail_invalid hi below at_i]
    exact tariffStage_refused h hr hf hp (quarterRefusal_invalid ((fits ..).2 hq) (all_valid_false hi at_i))
  · exact tariffStage_refused h hr hf hp (quarterRefusal_day ((fits ..).2 hq) hv (by simpa using hd))
  · rintro i hh hq ⟨hi, below, at_i⟩
    rw [← quarterDetail_invalid hi below at_i]
    exact tariffLoad_refused h hr hf hcom hh hp (quarterRefusal_invalid ((fits ..).2 hq) (all_valid_false hi at_i))
  · exact takeQuarter_refused h hr (serveLoad body) .notHeld 0 rfl
      (serveLoad_notHeld hp (by simpa using hcom) (by simpa using hh))

end Sys2Proof.Machine
end

section
/-! SUPPORT. The room that a verified write offers to a waiter that its test refuses (R110, R123). -/

namespace Sys2Proof.Machine

section

variable {s x y : State} {o : Outstanding} {u v : CommitUnit} {rest : List CommitUnit} {w next : Waiter}
  {ws : List Waiter} {code : RefusalCode} {area : Option Assembly} {posted : Option CommitUnit} {l : List Part}

/-! ### The verified write -/

/-- The verified write of the unit `u` gives room in the buffer, and the request `o` of the office is outstanding. -/
structure RoomOffered (s : State) (o : Outstanding) (u : CommitUnit) (rest : List CommitUnit) : Prop where
  receives : s.receives .office = true
  outstanding : s.officePort.outstanding = some o
  buffer : s.buffer = u :: rest
  room : rest.length < 4
  service : s.store.service = .writing ∨ s.store.service = .rewriting

/-- The state in which the room of a verified write is offered. -/
def unitStored (u : CommitUnit) (s : State) : State := setService .idle (completeUnit u s)

theorem RoomOffered.step (h : RoomOffered s o u rest) :
    exec (.unitWriteComplete .verified) s = .next (settle (offerRoom (unitStored u s))) := by
  have running : s.running = true := receives_running h.receives
  have idle : s.draining = false := by
    have : s.supply.state = .run := by simpa [State.running] using running
    simp [State.draining, this]
  have verified : unitWrite u .verified s = offerRoom (unitStored u s) := by
    rcases h.service with hs | hs <;> simp [unitWrite, hs, writeVerified, running, unitStored]
  simp [exec, execUnitWriteComplete, h.buffer, idle, verified]

theorem RoomOffered.unitStored_spec (h : RoomOffered s o u rest) :
    (unitStored u s).buffer = rest ∧ stored u s (unitStored u s) ∧ linesAfterStore u s (unitStored u s) ∧
      onlyLevels s (unitStored u s) ∧ keepsAllBut [.areas, .lines, .buffer, .conditions] s (unitStored u s) := by
  obtain ⟨buffer, areas, lines, -, -, -, -, kept, levels, -⟩ := completeUnit_spec u s
  exact ⟨by simpa [unitStored, h.buffer] using buffer, areas, lines, levels,
    keepsAllBut_trans kept (keepsAllBut_mono (setService_keeps .idle _) (by simp))⟩

theorem stored_of_kept (h : stored u s x) (k : keepsAllBut l x y) (hl : Part.areas ∉ l) : stored u s y := by
  obtain ⟨slots, journal, summaries, image, cell, -⟩ := areas_same (k .areas hl)
  exact stored_congr h rfl slots journal summaries image cell

theorem linesAfterStore_of_kept (h : linesAfterStore u s x) (k : keepsAllBut l x y) (hl : Part.lines ∉ l) :
    linesAfterStore u s y := by
  have working : y.working = x.working := k .lines hl
  simpa only [linesAfterStore, State.line, working] using h

/-! ### The waiter's refusal -/

/-- The waiter's test refuses it, whatever the room's step has changed, and its request's area is left as `area`
(R123). -/
structure Waiter.TurnedAway (w : Waiter) (code : RefusalCode) (area : Option Assembly) (s : State) : Prop where
  test : ∀ x : State, x.site = s.site → postingTest w.job x = some code
  refuse : ∀ x : State, x.assembly = s.assembly →
    refuseJob w code x = officeRefuse code { dropWaiterReservation w x with assembly := area }

theorem turnedAway_stage {es : TariffSet} {day : Nat} (b : Bool) (hd : day ≤ s.site.businessDay) :
    Waiter.TurnedAway ⟨.tariffStage es day, b⟩ .fieldRange none s :=
  ⟨fun x hx => by simp [postingTest, hx, Nat.not_lt.2 hd], fun _ _ => rfl⟩

theorem turnedAway_unstage (hp : s.site.pendingSet = none) :
    Waiter.TurnedAway ⟨.tariffUnstage, true⟩ .stateConflict s.assembly s := by
  refine ⟨fun x hx => by simp [postingTest, hx, hp], fun x hx => ?_⟩
  have area : (dropWaiterReservation ⟨.tariffUnstage, true⟩ x).assembly = s.assembly := by simpa using hx
  rw [← area]
  rfl

theorem dropWaiterReservation_keeps (w : Waiter) (s : State) :
    keepsAllBut [.journal, .conditions] s (dropWaiterReservation w s) := by
  unfold dropWaiterReservation
  split
  · exact giveReservation_keeps s
  · exact keepsAllBut_refl _ s

theorem dropWaiterReservation_levels (w : Waiter) (s : State) : onlyLevels s (dropWaiterReservation w s) := by
  unfold dropWaiterReservation
  split
  · exact giveReservation_levels s
  · exact onlyLevels_refl s

theorem dropWaiterReservation_journal (w : Waiter) (s : State) : (dropWaiterReservation w s).journal =
    ⟨s.journal.nextSeq, s.journal.reservations - if w.hasEntry = true then 1 else 0⟩ := by
  unfold dropWaiterReservation
  split <;> simp [giveReservation]

/-- The head waiter is refused and the room is offered to those behind it. -/
theorem offerRoom_refuses (hw : x.waiters = w :: ws) (hb : x.buffer.length < bufferSize)
    (ht : postingTest w.job { x with waiters := ws } = some code) :
    offerRoom x = offerRoom (refuseJob w code { x with waiters := ws }) := by
  simp [offerRoom, offerRoomTo, hw, hb, ht]

theorem offerRoom_posts (hw : x.waiters = w :: ws) (hb : x.buffer.length < bufferSize)
    (ht : postingTest w.job { x with waiters := ws } = none) :
    offerRoom x = runJob w { x with waiters := ws } := by
  simp [offerRoom, offerRoomTo, hw, hb, ht]

theorem offerRoom_none (hw : x.waiters = []) : offerRoom x = x := by simp [offerRoom, offerRoomTo, hw]

theorem waiters_keeps (s : State) (l : List Waiter) : keepsAllBut [.waiters] s { s with waiters := l } := by
  intro p hp
  cases p with
  | waiters => simp at hp
  | clock => exact ⟨rfl, rfl⟩
  | grants => exact ⟨rfl, rfl⟩
  | hold => exact ⟨rfl, rfl⟩
  | _ => rfl

theorem Waiter.TurnedAway.refuses (ht : w.TurnedAway code area s) (hx : OfficeServed x o)
    (ha : x.assembly = s.assembly) :
    let y := refuseJob w code x
    y.assembly = area ∧
      y.journal = ⟨x.journal.nextSeq, x.journal.reservations - if w.hasEntry = true then 1 else 0⟩ ∧
      replied .office o.tag (.refused code o.kind 0 0) x y ∧ onlyLevels x y ∧
      keepsAllBut [.assembly, .journal, .conditions, .outstanding .office, .replies .office] x y := by
  intro y
  generalize hz : ({ dropWaiterReservation w x with assembly := area } : State) = z
  have kz : keepsAllBut [.assembly, .journal, .conditions] x z :=
    hz ▸ keepsAllBut_trans (keepsAllBut_mono (dropWaiterReservation_keeps w x) (by simp))
      (keepsAllBut_mono (assembly_keeps _ area) (by simp))
  have served : OfficeServed z o := hx.of_kept kz (by simp) (by simp) (by simp)
  have hy : y = answer .office o.tag (.refused code o.kind 0 0) z := by
    rw [← served.refuse code, ← hz]
    exact ht.refuse x ha
  have ky : keepsAllBut [.outstanding .office, .replies .office] z y := hy ▸ answer_keeps _ _ _ _
  have before : z.replies .office = x.replies .office := kz (.replies .office) (by simp)
  refine ⟨?_, ?_, ⟨?_, hy ▸ by simp only [answer_outstanding, if_pos]⟩, ?_,
    keepsAllBut_trans (keepsAllBut_mono kz (by simp)) (keepsAllBut_mono ky (by simp))⟩
  · exact (ky .assembly (by simp)).trans (by rw [← hz])
  · exact (ky .journal (by simp)).trans (by rw [← hz]; exact dropWaiterReservation_journal w x)
  · rw [hy, answer_replies, served.receives, ← before]; simp
  · exact onlyLevels_congr (dropWaiterReservation_levels w x) rfl
      ((ky .conditions (by simp)).trans (by rw [← hz]))

/-- The waiter's refusal, from the state that offers the room. -/
theorem RoomOffered.refuses (h : RoomOffered s o u rest) (ht : w.TurnedAway code area s) (ws : List Waiter) :
    refusedAtRoom o u rest code area w ws none s (refuseJob w code { unitStored u s with waiters := ws }) := by
  obtain ⟨buffer, areas, lines, levels, kept⟩ := h.unitStored_spec
  generalize unitStored u s = x at *
  have left := waiters_keeps x ws
  have toX : keepsAllBut [.areas, .lines, .buffer, .waiters, .conditions] s { x with waiters := ws } :=
    keepsAllBut_trans (keepsAllBut_mono kept (by simp)) (keepsAllBut_mono left (by simp))
  have served : OfficeServed { x with waiters := ws } o :=
    OfficeServed.of_kept ⟨h.receives, h.outstanding⟩ toX (by simp) (by simp) (by simp)
  obtain ⟨assembly, journal, replies, fewer, refused⟩ := ht.refuses served (toX .assembly (by simp))
  generalize refuseJob w code { x with waiters := ws } = y at *
  have jx : x.journal = s.journal := kept .journal (by simp)
  have toY : keepsAllBut [.waiters, .assembly, .journal, .conditions, .outstanding .office, .replies .office] x y :=
    keepsAllBut_trans (keepsAllBut_mono left (by simp)) (keepsAllBut_mono refused (by simp))
  refine ⟨refused .waiters (by simp), ?_, (toY .site (by simp)).trans (kept .site (by simp)), assembly, ?_,
    stored_of_kept areas toY (by simp), linesAfterStore_of_kept lines toY (by simp),
    replied_of_kept toX (by simp) replies, onlyLevels_trans (onlyLevels_congr levels rfl rfl) fewer,
    keepsAllBut_trans (keepsAllBut_mono toX (by simp)) (keepsAllBut_mono refused (by simp))⟩
  · exact (refused .buffer (by simp)).trans (by simpa using buffer)
  · simpa [jx] using journal

/-! ### What follows the refusal -/

theorem refusedAtRoom_of_same (h : refusedAtRoom o u rest code area w ws posted s x) (k : keepsAllBut [] x y) :
    refusedAtRoom o u rest code area w ws posted s y := by
  obtain ⟨waiters, buffer, site, assembly, journal, areas, lines, replies, levels, kept⟩ := h
  exact ⟨(k .waiters (by simp)).trans waiters, (k .buffer (by simp)).trans buffer, (k .site (by simp)).trans site,
    (k .assembly (by simp)).trans assembly, (k .journal (by simp)).trans journal,
    stored_of_kept areas k (by simp), linesAfterStore_of_kept lines k (by simp),
    ⟨(k (.replies .office) (by simp)).trans replies.1, (k (.outstanding .office) (by simp)).trans replies.2⟩,
    onlyLevels_trans levels (onlyLevels_of_conditions (k .conditions (by simp))),
    keepsAllBut_trans kept (keepsAllBut_mono k (by simp))⟩

/-- The unit entered the buffer, with its sequence and reservation where it carries an entry (R120, R133). -/
def takesRoom (v : CommitUnit) (s t : State) : Prop :=
  let entries := if v.entry.isSome = true then 1 else 0
  t.buffer = s.buffer ++ [v] ∧ t.site = v.image ∧
    t.journal = ⟨s.journal.nextSeq + entries, s.journal.reservations - entries⟩

/-- A SYSTEM unit with or without its entry. -/
theorem addUnit_system (b : Bool) (body : EntryBody) (sm : Option DaySummary) (s : State) :
    let v : CommitUnit := if b = true then { postedUnit s .system none s.now .part body s.site with
        summary := sm.map fun d => { d with seq := some s.journal.nextSeq } }
      else ⟨.system, none, none, sm, s.site⟩
    let t := addUnit .system none (entryIf b .part body) sm s
    takesRoom v s t ∧ onlyLevels s t ∧ keepsAllBut [.site, .buffer, .journal, .conditions] s t := by
  refine ⟨?_, addUnit_levels .., addUnit_keeps _ _ _ _ _⟩
  cases b <;> simp [takesRoom, addUnit, entryIf, postedUnit]

/-- A waiting SYSTEM poster has no test, and its unit enters the buffer. -/
theorem runJob_systemUnit (h : w.systemUnit s = some v) :
    (∀ x, postingTest w.job x = none) ∧ takesRoom v s (runJob w s) ∧ onlyLevels s (runJob w s) ∧
      keepsAllBut [.site, .buffer, .journal, .conditions] s (runJob w s) := by
  unfold Waiter.systemUnit at h
  dsimp only at h
  split at h <;> rename_i hj <;> cases h <;> simp only [hj, runJob, runSystemJob]
  · exact ⟨fun _ => rfl, addUnit_system w.hasEntry _ _ s⟩
  · exact ⟨fun _ => rfl, addUnit_system w.hasEntry _ none s⟩
  · exact ⟨fun _ => rfl, addUnit_system w.hasEntry _ none s⟩

/-- A SYSTEM unit depends on the sequence, the clock and the site state. -/
theorem systemUnit_of_kept (w : Waiter) (hj : x.journal.nextSeq = s.journal.nextSeq) (hs : x.site = s.site)
    (hc : x.calendar = s.calendar) : w.systemUnit x = w.systemUnit s := by
  simp only [Waiter.systemUnit, postedUnit, State.now, hj, hs, hc]

/-- The next waiter's SYSTEM unit takes the room of a refused one. -/
theorem refusedAtRoom_posts (h : refusedAtRoom o u rest code area w (next :: ws) none s y)
    (hv : next.systemUnit s = some v) :
    refusedAtRoom o u rest code area w ws (some v) s (runJob next { y with waiters := ws }) := by
  obtain ⟨-, buffer, site, assembly, journal, areas, lines, replies, levels, kept⟩ := h
  have left := waiters_keeps y ws
  have unit : next.systemUnit { y with waiters := ws } = some v := by
    rw [← hv]
    exact systemUnit_of_kept next (by simp [journal]) site (kept .clock (by simp)).1
  obtain ⟨-, ⟨joins, image, counts⟩, more, posts⟩ := runJob_systemUnit unit
  generalize runJob next { y with waiters := ws } = z at *
  have toZ : keepsAllBut [.waiters, .site, .buffer, .journal, .conditions] y z :=
    keepsAllBut_trans (keepsAllBut_mono left (by simp)) (keepsAllBut_mono posts (by simp))
  refine ⟨posts .waiters (by simp), ?_, by simpa using image, (toZ .assembly (by simp)).trans assembly, ?_,
    stored_of_kept areas toZ (by simp), linesAfterStore_of_kept lines toZ (by simp),
    ⟨(toZ (.replies .office) (by simp)).trans replies.1, (toZ (.outstanding .office) (by simp)).trans replies.2⟩,
    onlyLevels_trans levels (onlyLevels_congr more rfl rfl),
    keepsAllBut_trans kept (keepsAllBut_mono toZ (by simp))⟩
  · simpa [buffer] using joins
  · simpa [journal] using counts

/-- The step where the head waiter is refused. -/
theorem RoomOffered.step_refuses (h : RoomOffered s o u rest) (ht : w.TurnedAway code area s)
    (hw : s.waiters = w :: ws) : exec (.unitWriteComplete .verified) s =
      .next (settle (offerRoom (refuseJob w code { unitStored u s with waiters := ws }))) := by
  obtain ⟨buffer, -, -, -, kept⟩ := h.unitStored_spec
  rw [h.step, offerRoom_refuses ((kept .waiters (by simp)).trans hw) (by rw [buffer]; exact h.room)
    (ht.test _ (kept .site (by simp)))]

/-- One waiter alone: the room stays. -/
theorem RoomOffered.refused_alone (h : RoomOffered s o u rest) (ht : w.TurnedAway code area s) (hw : s.waiters = [w])
    (hold : s.arbiter.hold = .pending → rest ≠ []) :
    ∃ t, exec (.unitWriteComplete .verified) s = .next t ∧ refusedAtRoom o u rest code area w [] none s t := by
  have refused := h.refuses ht []
  refine ⟨_, h.step_refuses ht hw, ?_⟩
  rw [offerRoom_none refused.1]
  refine refusedAtRoom_of_same refused (keepsAllBut_settle ?_ (keepsAllBut_refl _ _))
  obtain ⟨-, buffer, -, -, -, -, -, -, -, kept⟩ := refused
  intro pending
  rw [buffer]
  simpa using hold ((kept .hold (by simp)).1 ▸ pending)

/-- A SYSTEM unit stands behind: it takes the room. -/
theorem RoomOffered.refused_next (h : RoomOffered s o u rest) (ht : w.TurnedAway code area s)
    (hw : s.waiters = w :: next :: ws) (hv : next.systemUnit s = some v) :
    ∃ t, exec (.unitWriteComplete .verified) s = .next t ∧ refusedAtRoom o u rest code area w ws (some v) s t := by
  have refused := h.refuses ht (next :: ws)
  have posts := refusedAtRoom_posts refused hv
  obtain ⟨waiters, buffer, -⟩ := refused
  refine ⟨_, h.step_refuses ht hw, ?_⟩
  rw [offerRoom_posts waiters (by rw [buffer]; simpa [bufferSize] using h.room) ((runJob_systemUnit hv).1 _)]
  refine refusedAtRoom_of_same posts (keepsAllBut_settle (fun _ => ?_) (keepsAllBut_refl _ _))
  obtain ⟨-, joined, -⟩ := posts
  rw [joined]
  simp

/-! ### The completing quarter and TARIFF_UNSTAGE -/

variable {tag : Byte} {body : List Byte} {raw : List RawEntry} {day n : Nat} {es : TariffSet}

theorem reserveAndPost_posts (hp : s.postsAtOnce = true) (j : Job) :
    reserveAndPost j s = runJob ⟨j, true⟩ (takeReservation s) := by
  have posts : (takeReservation s).postsAtOnce = true := by simpa [State.postsAtOnce] using hp
  simp [reserveAndPost, postOrWait, posts]

/-- The set of an area is made of its sixteen entries. -/
theorem assembly_set (a : Assembly) : a.set = setOf a.entries := rfl

theorem takeStage_completes (hc : s.commissioned = true) (hp : s.postsAtOnce = true) :
    takeStage 3 raw day s = postTariffStage true (setOf (s.collected 3 ++ raw.map RawEntry.entry)) day
      (takeReservation { s with assembly := some ⟨.stage day, s.collected 3 ++ raw.map RawEntry.entry⟩ }) := by
  have com (a : Option Assembly) : ({ s with assembly := a } : State).commissioned = true := hc
  simp only [takeStage, addQuarter_eq, if_true, completeStage, com, assembly_set]
  exact reserveAndPost_posts (s := { s with assembly := some _ }) hp _

theorem takeStage_blank (hc : s.commissioned = false) (hp : s.postsAtOnce = true) :
    takeStage 3 raw day s = postTariffStage false (setOf (s.collected 3 ++ raw.map RawEntry.entry)) day
      { s with assembly := some ⟨.stage day, s.collected 3 ++ raw.map RawEntry.entry⟩ } := by
  have com (a : Option Assembly) : ({ s with assembly := a } : State).commissioned = false := hc
  have once (a : Option Assembly) : ({ s with assembly := a } : State).postsAtOnce = true := hp
  simp [takeStage, addQuarter_eq, completeStage, com, assembly_set, postOrWait, once, runJob]

theorem takeLoad_completes (hp : s.postsAtOnce = true) :
    takeLoad 3 raw s = postTariffLoad (setOf (s.collected 3 ++ raw.map RawEntry.entry))
      (takeReservation { s with assembly := some ⟨.load, s.collected 3 ++ raw.map RawEntry.entry⟩ }) := by
  simp only [takeLoad, addQuarter_eq, if_true, assembly_set]
  exact reserveAndPost_posts (s := { s with assembly := some _ }) hp _

theorem postTariffStage_eq (hs : x.site = s.site) (hj : x.journal.nextSeq = n) (b : Bool) :
    postTariffStage b es day x = officeReply (.stageOk 4 (some day) (if b = true then some n else none))
      (postSetting b (.tariffStaged s.site.generation (some day))
        { x with site := { s.site with pendingSet := some ⟨es, day⟩ }, assembly := none }) := by
  simp only [postTariffStage, seqIf, hs, hj]

theorem postTariffUnstage_eq (hs : x.site = s.site) (hj : x.journal.nextSeq = n) :
    postTariffUnstage x = officeReply (.unstageOk n) (postSetting true (.tariffStaged s.site.generation none)
      { x with site := { s.site with pendingSet := none } }) := by
  simp only [postTariffUnstage, hs, hj]

theorem postTariffLoad_eq (hs : x.site = s.site) (hj : x.journal.nextSeq = n) :
    let g := raiseNumber s.site.generation
    postTariffLoad es x = officeReply (.loadOk 4 (some g) (some n))
      (postSetting true (.tariffLoaded g s.site.businessDay)
        { x with site := { s.site with active := es, generation := g }, assembly := none }) := by
  simp only [postTariffLoad, hs, hj]

section

variable (h : s.takes .office tag body) (hf : s.storeFaultLatched = false)
include h hf

theorem tariffStage_completes (hp : parseStage body = some (3, raw, day)) (fits : s.quarterFits (.stage day) 3)
    (valid : raw.all RawEntry.valid = true) (hd : s.site.businessDay < day) (hc : s.commissioned = true)
    (hr : s.ready) :
    ∃ t, exec (.tariffStage tag body) s = .next t ∧ t.assembly = none ∧
      settingPosts tag (.tariffStaged s.site.generation (some day))
        { s.site with pendingSet := some ⟨setOf (s.collected 3 ++ raw.map RawEntry.entry), day⟩ }
        (.stageOk 4 (some day) (some s.journal.nextSeq)) [.assembly] s t := by
  refine ⟨_, takeOffice_exec h (serveStage body), ?_⟩
  have pass : quarterRefusal (.stage day) 3 raw (s.serving .office kindTariffStage tag) = none :=
    quarterRefusal_stagePasses ((serving_quarterFits ..).2 fits) valid (by simpa using hd)
      fun _ _ => (serving_roomForOffice ..).trans hr.2
  rw [serveStage_takes hp (by simpa using hf) pass,
    takeStage_completes (by simpa using hc) ((serving_postsAtOnce ..).trans hr.1), serving_collected,
    postTariffStage_eq (s := s) (n := s.journal.nextSeq) (by simp) (by simp [takeReservation_journal])]
  exact (completedSet_posts kindTariffStage _ h _ _ _).symm

theorem tariffStage_blank (hp : parseStage body = some (3, raw, day)) (fits : s.quarterFits (.stage day) 3)
    (valid : raw.all RawEntry.valid = true) (hd : s.site.businessDay < day) (hc : s.commissioned = false)
    (once : s.postsAtOnce = true) :
    let v : SiteState := { s.site with pendingSet := some ⟨setOf (s.collected 3 ++ raw.map RawEntry.entry), day⟩ }
    ∃ t, exec (.tariffStage tag body) s = .next t ∧ t.assembly = none ∧
      t.buffer = s.buffer ++ [⟨.journalOnly, none, none, none, v⟩] ∧ t.site = v ∧
      replied .office tag (.stageOk 4 (some day) none) s t ∧
      keepsAllBut [.site, .buffer, .assembly, .replies .office] s t := by
  refine ⟨_, takeOffice_exec h (serveStage body), ?_⟩
  have blank : (s.serving .office kindTariffStage tag).commissioned = false := by simpa using hc
  have pass : quarterRefusal (.stage day) 3 raw (s.serving .office kindTariffStage tag) = none :=
    quarterRefusal_stagePasses ((serving_quarterFits ..).2 fits) valid (by simpa using hd)
      fun _ com => by simp [blank] at com
  rw [serveStage_takes hp (by simpa using hf) pass, takeStage_blank blank ((serving_postsAtOnce ..).trans once),
    serving_collected, postTariffStage_eq (s := s) (n := s.journal.nextSeq) (by simp) (by simp)]
  obtain ⟨buffer, site, replies, kept, area⟩ := completedSet_blank kindTariffStage (.stageOk 4 (some day) none) h
    (.tariffStaged s.site.generation (some day)) _ _
  exact ⟨area, buffer, site, replies, kept⟩

theorem tariffLoad_completes (hp : parseLoad body = some (3, raw)) (fits : s.quarterFits .load 3)
    (valid : raw.all RawEntry.valid = true) (hc : s.commissioned = true) (hh : s.arbiter.hold = .held)
    (hr : s.ready) :
    let g := raiseNumber s.site.generation
    ∃ t, exec (.tariffLoadNow tag body) s = .next t ∧ t.assembly = none ∧
      settingPosts tag (.tariffLoaded g s.site.businessDay)
        { s.site with active := setOf (s.collected 3 ++ raw.map RawEntry.entry), generation := g }
        (.loadOk 4 (some g) (some s.journal.nextSeq)) [.assembly] s t := by
  refine ⟨_, takeOffice_exec h (serveLoad body), ?_⟩
  have pass : quarterRefusal .load 3 raw (s.serving .office kindTariffLoadNow tag) = none :=
    quarterRefusal_loadPasses ((serving_quarterFits ..).2 fits) valid
      fun _ _ => (serving_roomForOffice ..).trans hr.2
  rw [serveLoad_takes hp (by simpa using hc) (by simpa using hh) (by simpa using hf) pass,
    takeLoad_completes ((serving_postsAtOnce ..).trans hr.1), serving_collected,
    postTariffLoad_eq (s := s) (n := s.journal.nextSeq) (by simp) (by simp [takeReservation_journal])]
  exact (completedSet_posts kindTariffLoadNow _ h _ _ _).symm

theorem tariffUnstage_posts (hb : body = []) (hc : s.commissioned = true) (hp : s.site.pendingSet ≠ none)
    (hr : s.ready) :
    ∃ t, exec (.tariffUnstage tag body) s = .next t ∧
      settingPosts tag (.tariffStaged s.site.generation none) { s.site with pendingSet := none }
        (.unstageOk s.journal.nextSeq) [] s t := by
  refine ⟨_, takeOffice_exec h (serveUnstage body), ?_⟩
  have passes : serveUnstage body (s.serving .office kindTariffUnstage tag) =
      postTariffUnstage (takeReservation (s.serving .office kindTariffUnstage tag)) := by
    simp [serveUnstage, hb, parseNone_nil, hc, hf, hp, hr.2, reserve_posts hr, runJob]
  rw [passes, postTariffUnstage_eq (s := s) (n := s.journal.nextSeq) (by simp) (by simp [takeReservation_journal])]
  exact setting_simple kindTariffUnstage _ h _ _

theorem tariffUnstage_conflict (hb : body = []) (hc : s.commissioned = true) (hp : s.site.pendingSet = none)
    (hr : s.holdAtRest) :
    ∃ t, exec (.tariffUnstage tag body) s = .next t ∧
      refusedWith .office kindTariffUnstage tag .stateConflict 0 0 s t :=
  takeOffice_refused h hr (serveUnstage body) .stateConflict 0 rfl
    (by simp [serveUnstage, hb, parseNone_nil, hc, hf, hp, officeRefuse])

end

end

/-- Settles O42: the posting of a completed set and of UNSTAGE, and the room of a verified write offered to a waiter
whose set can no longer stand. -/
theorem setCompletes : Obligations.SetCompletes := by
  refine ⟨fun s tag body h hf => ⟨fun raw day hp fits valid hd => ⟨?_, ?_⟩, fun hb hc => ⟨?_, ?_⟩, ?_⟩, ?_⟩
  · exact tariffStage_completes h hf hp fits valid hd
  · exact tariffStage_blank h hf hp fits valid hd
  · exact tariffUnstage_posts h hf hb hc
  · exact tariffUnstage_conflict h hf hb hc
  · exact fun raw => tariffLoad_completes h hf
  · intro s o u rest receives outstanding buffer room service
    have offered : RoomOffered s o u rest := ⟨receives, outstanding, buffer, room, service⟩
    refine ⟨fun es day b hd => ?_, fun hp => ?_⟩
    · have stage := turnedAway_stage (es := es) b hd
      exact ⟨offered.refused_alone stage, fun _ _ _ => offered.refused_next stage⟩
    · have unstage := turnedAway_unstage hp
      exact ⟨offered.refused_alone unstage, fun _ _ _ => offered.refused_next unstage⟩

end Sys2Proof.Machine
end

section
/-! SUPPORT. The figures of a quote: what stages 2 to 8 give in terms of the month roll, the service due, the recovery,
the lifeline grant and the walk. -/

namespace Sys2Proof.Machine

/-- The figures of a paid quote by their stages (R43 to R50, R53). -/
structure PaidFigures (r : Record) (tf : Tariff) (generation month tender : Nat) (p : Priced) : Prop where
  covered : serviceDue tf (monthRoll r month).2.1 ≤ tender
  tariffIndex : p.tariffIndex = r.tariffIndex
  generation : p.generation = generation
  service : p.service = serviceDue tf (monthRoll r month).2.1
  recovery : p.recovery = recoveryTaken r.arrears r.recoveryRate (tender - p.service)
  energyMoney : p.energyMoney = tender - p.service - p.recovery
  lifeline : p.lifeline = lifelineGrant r tf (monthRoll r month).2.2
  walk : ∃ w, w = energyWalk tf (monthRoll r month).1 (tokenCapacity - p.lifeline) p.energyMoney r.residue ∧
    p.lines = w.lines ∧ p.purchased = w.purchased ∧ p.change = walkChange w p.energyMoney ∧
    p.newResidue = w.money - p.change * 1000
  total : p.total = p.purchased + p.lifeline
  consumed : p.consumed = tender - p.change
  cls : p.cls = paidClass p.purchased p.lifeline
  newMonthTag : p.newMonthTag = month
  newMonthUnits : p.newMonthUnits = min maxMonthUnits ((monthRoll r month).1 + p.purchased)
  newServicePaid : p.newServicePaid = (decide (0 < p.service) || (monthRoll r month).2.1)
  newLifelineGiven : p.newLifelineGiven = (decide (0 < p.lifeline) || (monthRoll r month).2.2)
  newArrears : p.newArrears = r.arrears - p.recovery

section
variable {r : Record} {tf : Tariff} {generation month tender : Nat}

/-- A tender below the service due is refused with S (R43). -/
theorem pricePaid_below (h : tender < serviceDue tf (monthRoll r month).2.1) :
    pricePaid r tf generation month tender = .error (.belowCharges tf.serviceCharge) := if_pos h

/-- A tender that covers the service due is priced (R43). -/
theorem pricePaid_covered (h : serviceDue tf (monthRoll r month).2.1 ≤ tender) :
    ∃ p, pricePaid r tf generation month tender = .ok p ∧ PaidFigures r tf generation month tender p :=
  ⟨_, if_neg (Nat.not_lt.mpr h),
    { covered := h, tariffIndex := rfl, generation := rfl, service := rfl, recovery := rfl, energyMoney := rfl
      lifeline := rfl, walk := ⟨_, rfl, rfl, rfl, rfl, rfl⟩, total := rfl, consumed := rfl, cls := rfl
      newMonthTag := rfl, newMonthUnits := rfl, newServicePaid := rfl, newLifelineGiven := rfl, newArrears := rfl }⟩

/-- What the pricing of a paid quote answers has the figures of its stages. -/
theorem paidFigures_of_ok {p : Priced} (h : pricePaid r tf generation month tender = .ok p) :
    PaidFigures r tf generation month tender p := by
  rcases Nat.lt_or_ge tender (serviceDue tf (monthRoll r month).2.1) with below | covered
  · rw [pricePaid_below below] at h
    cases h
  · obtain ⟨p', priced, figures⟩ := pricePaid_covered (generation := generation) covered
    rw [priced] at h
    cases h
    exact figures

/-- The lifeline grant in the words of R41 and R45. -/
theorem lifelineGrant_eq (given : Bool) : lifelineGrant r tf given =
    if r.lifelineEligible = true ∧ given = false ∧ 0 < tf.lifeline then tf.lifeline else 0 := by
  simp [lifelineGrant, and_assoc]

theorem lifelineGrant_le (given : Bool) : lifelineGrant r tf given ≤ tf.lifeline := by
  rw [lifelineGrant_eq]; split <;> omega

/-- A tender of 0 without a grant has nothing to issue (R41). -/
theorem priceLifeline_none (h : lifelineGrant r tf (monthRoll r month).2.2 = 0) :
    priceLifeline r tf generation month = .error .nothingToIssue := if_pos h

/-- A tender of 0 with a grant is given the whole allocation, and keeps the working values (R42). -/
theorem priceLifeline_grants (h : lifelineGrant r tf (monthRoll r month).2.2 ≠ 0) :
    priceLifeline r tf generation month = .ok
      { tariffIndex := r.tariffIndex, generation, service := 0, recovery := 0, energyMoney := 0, lines := []
        purchased := 0, lifeline := tf.lifeline, total := tf.lifeline, change := 0, consumed := 0, cls := .lifeline
        newMonthTag := month, newMonthUnits := (monthRoll r month).1, newServicePaid := (monthRoll r month).2.1
        newLifelineGiven := true, newArrears := r.arrears, newResidue := r.residue } := by
  have whole : lifelineGrant r tf (monthRoll r month).2.2 = tf.lifeline := by
    rw [lifelineGrant_eq] at h ⊢
    exact if_pos (by by_contra no; exact h (if_neg no))
  conv_rhs => rw [← whole]
  exact if_neg h

theorem priceQuote_zero : priceQuote r tf generation month 0 = priceLifeline r tf generation month := rfl

theorem priceQuote_pos (h : 0 < tender) :
    priceQuote r tf generation month tender = pricePaid r tf generation month tender := if_neg (by omega)

end

/-! ### Recovery -/

/-- At a rate of at most 50 the recovery takes at most half of the money after service (R44). -/
theorem recoveryTaken_half {arrears rate v0 : Nat} (h : rate ≤ 50) : recoveryTaken arrears rate v0 ≤ v0 / 2 := by
  have share : v0 * rate / 100 ≤ v0 * 50 / 100 := Nat.div_le_div_right (Nat.mul_le_mul_left v0 h)
  have taken : recoveryTaken arrears rate v0 ≤ v0 * rate / 100 := Nat.min_le_right _ _
  omega

/-- Settles O17, from the figures of the stages: the recovery is at most half of the money after service. -/
theorem recovery : Obligations.Recovery := by
  intro r tf generation month tender p hrate htender hp
  have figures := paidFigures_of_ok hp
  have covered : p.service ≤ tender := figures.service.trans_le figures.covered
  have taken : p.recovery = min r.arrears ((tender - p.service) * r.recoveryRate / 100) := figures.recovery
  have half : p.recovery ≤ (tender - p.service) / 2 := figures.recovery.trans_le (recoveryTaken_half hrate)
  have energy := figures.energyMoney
  have bound : tender ≤ 999999 := htender
  refine ⟨taken, by omega, by omega, energy, fun idle => ?_, fun full => by omega, by omega⟩
  have nothing : p.recovery = 0 := by
    rcases idle with arrears | rate
    · rw [taken, arrears, Nat.zero_min]
    · rw [taken, rate, Nat.mul_zero, Nat.zero_div, Nat.min_zero]
  exact ⟨nothing, by omega⟩

/-! ### The figures around the walk -/

/-- Settles O19: a tender of 0 by `priceLifeline`, a paid quote by its figures. -/
theorem pricedValues : Obligations.PricedValues := by
  intro r tf generation month tender roll grant due
  have granted : lifelineGrant r tf (monthRoll r month).2.2 = grant := lifelineGrant_eq _
  refine ⟨fun nothing => ?_, fun given => ?_, fun paid below => ?_, fun paid covered => ?_⟩
  · rw [priceQuote_zero]
    exact priceLifeline_none (granted.trans nothing)
  · rw [priceQuote_zero]
    exact priceLifeline_grants (granted.trans_ne given)
  · rw [priceQuote_pos paid]
    exact pricePaid_below below
  · obtain ⟨p, priced, figures⟩ := pricePaid_covered (generation := generation) (r := r) (month := month) covered
    have service : p.service = due := figures.service
    have lifeline : p.lifeline = grant := figures.lifeline.trans granted
    refine ⟨p, (priceQuote_pos paid).trans priced, figures.tariffIndex, figures.generation, service, lifeline, ?_,
      figures.consumed, ?_, figures.newMonthTag, figures.newMonthUnits, ?_, ?_, figures.newArrears⟩
    · rw [figures.total, lifeline]
    · rw [figures.cls, lifeline]; rfl
    · rw [figures.newServicePaid, service]; rfl
    · rw [figures.newLifelineGiven, lifeline]; rfl

end Sys2Proof.Machine
end

section
/-! SUPPORT. The block walk, block by block: where it starts, what it takes at each block, how it ends (R46 to R48). -/

namespace Sys2Proof.Machine

/-! ### Lines and takes -/

theorem lineMoney_append (a b : List BlockLine) : lineMoney (a ++ b) = lineMoney a + lineMoney b := by
  simp [lineMoney]

theorem lineTakes_append (a b : List BlockLine) : lineTakes (a ++ b) = lineTakes a + lineTakes b := by
  simp [lineTakes]

/-- The lines before a block that come all before a later one. -/
theorem linesBefore_of_le {i j : Nat} (h : i ≤ j) (ls : List BlockLine) :
    linesBefore i (linesBefore j ls) = linesBefore i ls := by
  simp only [linesBefore, List.filter_filter]
  congr 1; funext l; simp; omega

theorem linesBefore_eq_self {i : Nat} {ls : List BlockLine} (h : ∀ l ∈ ls, l.block < i) : linesBefore i ls = ls :=
  List.filter_eq_self.mpr fun l hl => decide_eq_true (h l hl)

/-- The take at a block is what the lines before the next hold more than those before it. -/
theorem lineTakes_before_succ (i : Nat) (ls : List BlockLine) :
    lineTakes (linesBefore (i + 1) ls) = lineTakes (linesBefore i ls) + takeAt i ls := by
  induction ls with
  | nil => rfl
  | cons l ls ih =>
    simp only [linesBefore, takeAt, lineTakes, List.filter_cons, decide_eq_true_eq, apply_ite (List.map _),
      apply_ite List.sum, List.map_cons, List.sum_cons] at ih ⊢
    split_ifs <;> omega

/-! ### The blocks of a tariff -/

/-- The room of block `j` below the last, of a walk that starts at block `start` with month-to-date `m` (R46). -/
def Tariff.roomAt (tf : Tariff) (m start j : Nat) : Nat :=
  if j = start then tf.bounds.getD (j - 1) 0 - m else tf.bounds.getD (j - 1) 0 - tf.bounds.getD (j - 1 - 1) 0

/-- Block `j` of a walk over a tariff that starts at block `start` with month-to-date `m` (R46). -/
def Tariff.blockAt (tf : Tariff) (m start j : Nat) : Block where
  number := j
  room := if j < tf.prices.length then some (tf.roomAt m start j) else none
  price := tf.prices.getD (j - 1) 0

section
variable {tf : Tariff} {m : Nat}

/-- The blocks after the start block are the tariff's, in order (R46). -/
theorem laterBlocks_eq (h : tf.prices.length = tf.bounds.length + 1) {start : Nat} : ∀ n j : Nat, start ≤ j → 1 ≤ j →
    j + n + 1 = tf.prices.length →
    laterBlocks (j + 1) (tf.bounds.getD (j - 1) 0) (tf.bounds.drop j) (tf.prices.drop j) =
      (List.range' (j + 1) (n + 1)).map (tf.blockAt m start)
  | 0, j, hs, hj, hn => by
    have bounds : tf.bounds.drop j = [] := List.drop_eq_nil_of_le (by omega)
    rw [bounds, List.drop_eq_getElem_cons (by omega : j < tf.prices.length)]
    simp [laterBlocks, Tariff.blockAt, ← hn]
  | n + 1, j, hs, hj, hn => by
    have ih := laterBlocks_eq h (start := start) n (j + 1) (by omega) (by omega) (by omega)
    rw [List.drop_eq_getElem_cons (by omega : j < tf.prices.length),
      List.drop_eq_getElem_cons (by omega : j < tf.bounds.length), laterBlocks, List.range'_succ, List.map_cons]
    have bound : tf.bounds[j]'(by omega) = tf.bounds.getD (j + 1 - 1) 0 := by
      simp [List.getElem?_eq_getElem (by omega : j < tf.bounds.length)]
    rw [bound, ih]
    congr 1
    have within : j + 1 < tf.prices.length := by omega
    have later : j + 1 ≠ start := by omega
    simp [Tariff.blockAt, Tariff.roomAt, within, later, List.getElem?_eq_getElem (by omega : j < tf.prices.length)]

/-- A walk starts at the first block whose bound exceeds month-to-date, or at the last (R46). -/
theorem blocksFrom_eq (h : tf.prices.length = tf.bounds.length + 1) : ∀ n j : Nat, j + n + 1 = tf.prices.length →
    (∀ i, 1 ≤ i → i ≤ j → tf.bounds.getD (i - 1) 0 ≤ m) →
    ∃ start rest, start + rest = tf.prices.length ∧ 1 ≤ start ∧
      (∀ i, 1 ≤ i → i < start → tf.bounds.getD (i - 1) 0 ≤ m) ∧
      (start < tf.prices.length → m < tf.bounds.getD (start - 1) 0) ∧
      blocksFrom m (j + 1) (tf.bounds.drop j) (tf.prices.drop j) =
        (List.range' start (rest + 1)).map (tf.blockAt m start)
  | 0, j, hn, hb => by
    have bounds : tf.bounds.drop j = [] := List.drop_eq_nil_of_le (by omega)
    refine ⟨j + 1, 0, hn, by omega, fun i hi hj => hb i hi (by omega), by omega, ?_⟩
    rw [bounds, List.drop_eq_getElem_cons (by omega : j < tf.prices.length)]
    simp [blocksFrom, Tariff.blockAt, ← hn]
  | n + 1, j, hn, hb => by
    have bound : tf.bounds[j]'(by omega) = tf.bounds.getD (j + 1 - 1) 0 := by
      simp [List.getElem?_eq_getElem (by omega : j < tf.bounds.length)]
    rw [List.drop_eq_getElem_cons (by omega : j < tf.prices.length),
      List.drop_eq_getElem_cons (by omega : j < tf.bounds.length), blocksFrom, bound]
    by_cases here : m < tf.bounds.getD (j + 1 - 1) 0
    · refine ⟨j + 1, n + 1, by omega, by omega, fun i hi hj => hb i hi (by omega), fun _ => here, ?_⟩
      rw [if_pos here, laterBlocks_eq h (m := m) (start := j + 1) n (j + 1) le_rfl (by omega) (by omega),
        List.range'_succ, List.map_cons]
      congr 1
      have within : j + 1 < tf.prices.length := by omega
      simp [Tariff.blockAt, Tariff.roomAt, within, List.getElem?_eq_getElem (by omega : j < tf.prices.length)]
    · rw [if_neg here]
      refine blocksFrom_eq h n (j + 1) (by omega) fun i hi hj => ?_
      rcases Nat.lt_or_ge j i with last | earlier
      · obtain rfl : i = j + 1 := by omega
        exact Nat.not_lt.mp here
      · exact hb i hi earlier

end

/-! ### A walk between two blocks -/

/-- A walk that stands before block `i` of `total` money: its lines are in order and of earlier blocks, and its tenths
and its money are what they say. -/
structure Walk.Before (total i : Nat) (w : Walk) : Prop where
  sorted : w.lines.Pairwise fun a b => a.block < b.block
  earlier : ∀ l ∈ w.lines, l.block < i
  purchased : w.purchased = lineTakes w.lines
  money : w.money = total - lineMoney w.lines

/-- The walk before a block, from the lines of the whole walk. -/
def walkBefore (total i : Nat) (ls : List BlockLine) : Walk :=
  ⟨lineTakes (linesBefore i ls), total - lineMoney (linesBefore i ls), linesBefore i ls, false⟩

section
variable {cap total i : Nat} {b : Block} {w : Walk}

theorem Walk.Before.blockTake_eq (h : w.Before total i) {ls : List BlockLine} (hl : linesBefore i ls = w.lines) :
    blockTake cap b (walkBefore total i ls) = blockTake cap b w := by
  simp only [blockTake, walkBefore, hl, h.purchased, h.money]

/-- A block adds one line, where its take is not 0, and the walk stands before the next block (R46). -/
theorem Walk.Before.next (h : w.Before total i) (hb : b.number = i) :
    (walkBlock cap b w).Before total (i + 1) ∧ linesBefore i (walkBlock cap b w).lines = w.lines := by
  obtain ⟨sorted, earlier, purchased, money⟩ := h
  have mine : linesBefore i w.lines = w.lines := linesBefore_eq_self earlier
  by_cases nothing : blockTake cap b w = 0
  · have same : walkBlock cap b w = { w with byCap := decide (w.purchased = cap) } := by simp [walkBlock, nothing]
    rw [same]
    exact ⟨⟨sorted, fun l hl => Nat.lt_succ_of_lt (earlier l hl), purchased, money⟩, mine⟩
  · have lines : (walkBlock cap b w).lines =
        w.lines ++ [⟨b.number, blockTake cap b w, blockTake cap b w * b.price⟩] := if_neg nothing
    refine ⟨⟨?_, fun l hl => ?_, ?_, ?_⟩, ?_⟩
    · rw [lines, List.pairwise_append]
      exact ⟨sorted, List.pairwise_singleton _ _, fun x hx y hy => by simp_all⟩
    · rw [lines, List.mem_append, List.mem_singleton] at hl
      rcases hl with old | rfl
      · exact Nat.lt_succ_of_lt (earlier l old)
      · simp [hb]
    · rw [lines, lineTakes_append, ← purchased]; simp [lineTakes, walkBlock]
    · rw [lines, lineMoney_append, ← Nat.sub_sub, ← money]; simp [lineMoney, walkBlock]
    · rw [lines]
      simpa [linesBefore, hb] using mine

/-- A walk goes on where the take was the room and the cap is not reached (R46). -/
theorem walkBlocks_goesOn {rest : List Block} (hc : (walkBlock cap b w).purchased ≠ cap)
    (hr : b.room = some (blockTake cap b w)) :
    walkBlocks cap (b :: rest) w = walkBlocks cap rest (walkBlock cap b w) := by
  have byCap : (walkBlock cap b w).byCap = false := decide_eq_false hc
  simp [walkBlocks, byCap, hr]

/-- A walk ends at the cap, and where the take was not the room (R46). -/
theorem walkBlocks_stops {rest : List Block}
    (h : (walkBlock cap b w).purchased ≠ cap → b.room ≠ some (blockTake cap b w)) :
    walkBlocks cap (b :: rest) w = walkBlock cap b w := by
  by_cases hc : (walkBlock cap b w).purchased = cap
  · have byCap : (walkBlock cap b w).byCap = true := decide_eq_true hc
    simp [walkBlocks, byCap]
  · simp [walkBlocks, h hc]

/-- A block that leaves room, and capacity, has taken all that the money affords (R47). -/
theorem walkBlock_affords (hp : 1 ≤ b.price) (hw : w.purchased ≤ cap) (hc : (walkBlock cap b w).purchased ≠ cap)
    (hr : b.room ≠ some (blockTake cap b w)) : (walkBlock cap b w).money < b.price := by
  have all : blockTake cap b w = w.money / b.price := by
    have short : w.purchased + blockTake cap b w ≠ cap := hc
    unfold blockTake at short hr ⊢
    cases room : b.room with
    | none => simp only [room] at short ⊢; omega
    | some r => simp only [room, Option.some.injEq, ne_eq] at short hr ⊢; omega
  have rest : (walkBlock cap b w).money = w.money % b.price := by
    show w.money - blockTake cap b w * b.price = _
    rw [all, Nat.mod_eq_sub_div_mul]
  rw [rest]
  exact Nat.mod_lt _ hp

theorem walkBlock_purchased_le (hw : w.purchased ≤ cap) : (walkBlock cap b w).purchased ≤ cap := by
  have left : blockTake cap b w ≤ cap - w.purchased := by
    unfold blockTake
    cases b.room <;> simp
  show w.purchased + blockTake cap b w ≤ cap
  omega

end

/-! ### The whole walk -/

/-- What the lines `ls` say of a walk from block `i` to block `stop`, over the blocks `f` with `total` money: the take
at each block, the moves from block to block, and the end (R46 to R48). -/
structure WalkedFrom (cap total : Nat) (f : Nat → Block) (i stop : Nat) (ls : List BlockLine) : Prop where
  takes : ∀ j, i ≤ j → j ≤ stop → takeAt j ls = blockTake cap (f j) (walkBefore total j ls)
  moves : ∀ j, i ≤ j → j < stop → (f j).room = some (takeAt j ls) ∧ lineTakes (linesBefore (j + 1) ls) ≠ cap
  ends : lineTakes ls ≠ cap → (f stop).room ≠ some (takeAt stop ls) ∧ total - lineMoney ls < (f stop).price

section
variable {cap total : Nat} {f : Nat → Block}

/-- The take at a block that a walk stands at. -/
theorem takeAt_walkBlock {i : Nat} {w : Walk} (h : w.Before total i) (hb : (f i).number = i) {ls : List BlockLine}
    (hl : linesBefore (i + 1) ls = (walkBlock cap (f i) w).lines) :
    linesBefore i ls = w.lines ∧ takeAt i ls = blockTake cap (f i) w := by
  obtain ⟨after, before⟩ := h.next (cap := cap) hb
  have mine : linesBefore i ls = w.lines := by rw [← linesBefore_of_le (Nat.le_succ i), hl, before]
  have sum := lineTakes_before_succ i ls
  rw [hl, mine, ← after.purchased, ← h.purchased] at sum
  have grown : (walkBlock cap (f i) w).purchased = w.purchased + blockTake cap (f i) w := rfl
  exact ⟨mine, by omega⟩

/-- A walk that ends at the block it stands at. -/
theorem walkedFrom_stops {i : Nat} {w : Walk} (h : w.Before total i) (hb : (f i).number = i) (hw : w.purchased ≤ cap)
    (hp : 1 ≤ (f i).price) (hs : (walkBlock cap (f i) w).purchased ≠ cap → (f i).room ≠ some (blockTake cap (f i) w)) :
    WalkedFrom cap total f i i (walkBlock cap (f i) w).lines := by
  obtain ⟨after, kept⟩ := h.next (cap := cap) hb
  obtain ⟨-, take⟩ := takeAt_walkBlock h hb (linesBefore_eq_self after.earlier)
  refine ⟨fun j first last => ?_, fun j first last => by omega, fun short => ?_⟩
  · obtain rfl : j = i := by omega
    rw [take, h.blockTake_eq kept]
  · rw [← after.purchased] at short
    rw [← after.money, take]
    exact ⟨hs short, walkBlock_affords hp hw short (hs short)⟩

/-- A walk that goes on from the block it stands at. -/
theorem WalkedFrom.cons {i stop : Nat} {w : Walk} {ls : List BlockLine} (h : w.Before total i) (hb : (f i).number = i)
    (hl : linesBefore (i + 1) ls = (walkBlock cap (f i) w).lines) (hc : (walkBlock cap (f i) w).purchased ≠ cap)
    (hr : (f i).room = some (blockTake cap (f i) w)) (walk : WalkedFrom cap total f (i + 1) stop ls) :
    WalkedFrom cap total f i stop ls := by
  obtain ⟨after, -⟩ := h.next (cap := cap) hb
  obtain ⟨here, take⟩ := takeAt_walkBlock h hb hl
  refine ⟨fun j first last => ?_, fun j first last => ?_, walk.ends⟩
  · rcases Nat.eq_or_lt_of_le first with rfl | later
    · rw [take, h.blockTake_eq here]
    · exact walk.takes j later last
  · rcases Nat.eq_or_lt_of_le first with rfl | later
    · exact ⟨by rw [hr, take], by rw [hl, ← after.purchased]; exact hc⟩
    · exact walk.moves j later last

/-- A walk over blocks numbered in order, the last without bound, by induction on the blocks that follow the one it
stands at (R46 to R48). -/
theorem walkBlocks_walkedFrom (number : ∀ j, (f j).number = j) : ∀ (n i : Nat) (w : Walk), w.Before total i →
    w.purchased ≤ cap → (f (i + n)).room = none → (∀ j, i ≤ j → j ≤ i + n → 1 ≤ (f j).price) →
    let r := walkBlocks cap ((List.range' i (n + 1)).map f) w
    r.byCap = decide (r.purchased = cap) ∧ linesBefore i r.lines = w.lines ∧
      ∃ stop, i ≤ stop ∧ stop ≤ i + n ∧ r.Before total (stop + 1) ∧ WalkedFrom cap total f i stop r.lines := by
  intro n i w before capped unbounded priced
  obtain ⟨after, kept⟩ := before.next (cap := cap) (number i)
  rw [List.range'_succ, List.map_cons]
  by_cases goesOn : (walkBlock cap (f i) w).purchased ≠ cap ∧ (f i).room = some (blockTake cap (f i) w)
  · obtain ⟨short, full⟩ := goesOn
    cases n with
    | zero => rw [Nat.add_zero, full] at unbounded; cases unbounded
    | succ n =>
      rw [walkBlocks_goesOn short full]
      obtain ⟨ended, mine, stop, first, last, final, walk⟩ := walkBlocks_walkedFrom number n (i + 1) _ after
        (walkBlock_purchased_le capped) (by rw [← unbounded]; congr 2; omega)
        fun j hj hs => priced j (by omega) (by omega)
      obtain ⟨here, -⟩ := takeAt_walkBlock before (number i) mine
      exact ⟨ended, here, stop, by omega, by omega, final, walk.cons before (number i) mine short full⟩
  · have ends : (walkBlock cap (f i) w).purchased ≠ cap → (f i).room ≠ some (blockTake cap (f i) w) :=
      fun short full => goesOn ⟨short, full⟩
    rw [walkBlocks_stops ends]
    exact ⟨rfl, kept, i, le_rfl, by omega, after,
      walkedFrom_stops before (number i) capped (priced i le_rfl (by omega)) ends⟩

end

end Sys2Proof.Machine
end

section
/-! SUPPORT. The walk of a paid quote: what it conserves, its change and its residue (R46 to R49). -/

namespace Sys2Proof.Machine

/-- The month-to-date of stage 1 (R40). -/
theorem monthRoll_units (r : Record) (month : Nat) :
    (monthRoll r month).1 = if r.monthTag = month then r.monthUnits else 0 := by
  unfold monthRoll; split <;> rfl

/-- The take at a block of a tariff: the smallest of its room, the affordable count and what the cap leaves (R46). -/
theorem blockTake_blockAt (tf : Tariff) (m start cap total i : Nat) (ls : List BlockLine) :
    blockTake cap (tf.blockAt m start i) (walkBefore total i ls) =
      (let least := min ((total - lineMoney (linesBefore i ls)) / tf.prices.getD (i - 1) 0)
        (cap - lineTakes (linesBefore i ls))
       if i < tf.prices.length then min (tf.roomAt m start i) least else least) := by
  unfold blockTake Tariff.blockAt walkBefore
  by_cases h : i < tf.prices.length <;> simp only [h, if_true, if_false]

theorem blockAt_room {tf : Tariff} {m start i : Nat} (h : i < tf.prices.length) :
    (tf.blockAt m start i).room = some (tf.roomAt m start i) := if_pos h

/-- What a walk of a paid quote conserves (R49). -/
structure WalkKeeps (tf : Tariff) (cap total : Nat) (w : Walk) : Prop where
  purchased : w.purchased = lineTakes w.lines
  capped : w.purchased ≤ cap
  money : w.money + lineMoney w.lines = total
  short : w.byCap = false → w.money ≤ 999998
  count : w.lines.length ≤ 4
  lines : ∀ l ∈ w.lines, 1 ≤ l.block ∧ l.block ≤ 4 ∧ 0 < l.take ∧ l.money = l.take * tf.prices.getD (l.block - 1) 0

section
variable {tf : Tariff} {m cap v q : Nat}

/-- The walk over a valid tariff conserves money and tenths (R49). -/
theorem energyWalk_keeps (ht : tf.valid) : WalkKeeps tf cap (v * 1000 + q) (energyWalk tf m cap v q) := by
  obtain ⟨blocks, four, -, -, -, range⟩ := ht
  obtain ⟨unbounded, within, numbered⟩ := blocksFrom_spec m tf.bounds tf.prices 1 blocks le_rfl
  have priced : ∀ b ∈ blocksFrom m 1 tf.bounds tf.prices, 1 ≤ b.price ∧ b.price ≤ 999999 := by
    intro b hb
    obtain ⟨j, -, hj, price⟩ := numbered b hb
    rw [price, List.getD_eq_getElem _ _ hj]
    exact range _ (List.getElem_mem hj)
  obtain ⟨capped, money, takes, -, count, lines, short⟩ :=
    walkBlocks_keeps cap _ ⟨0, v * 1000 + q, [], false⟩ (Nat.zero_le cap) priced
  rw [show walkBlocks cap _ _ = energyWalk tf m cap v q from rfl] at capped money takes count lines short
  refine ⟨by simpa [lineTakes] using takes.symm, capped, by simpa [lineMoney] using money, short unbounded, ?_,
    fun l hl => ?_⟩
  · exact count.trans (by simpa using within.trans four)
  · rcases lines l hl with old | ⟨b, hb, number, taken, product⟩
    · cases old
    · obtain ⟨j, block, hj, price⟩ := numbered b hb
      have index : l.block - 1 = j := by omega
      exact ⟨by omega, by omega, taken, by rw [product, price, index]⟩

/-- The blocks that a walk over a valid tariff goes through, and how it ends (R46 to R48). -/
theorem energyWalk_walkedFrom (ht : tf.valid) : let w := energyWalk tf m cap v q
    w.byCap = decide (w.purchased = cap) ∧ ∃ start stop, 1 ≤ start ∧ start ≤ stop ∧ stop ≤ tf.prices.length ∧
      (∀ i, 1 ≤ i → i < start → tf.bounds.getD (i - 1) 0 ≤ m) ∧
      (start < tf.prices.length → m < tf.bounds.getD (start - 1) 0) ∧
      w.lines.Pairwise (fun a b => a.block < b.block) ∧ (∀ l ∈ w.lines, start ≤ l.block ∧ l.block ≤ stop) ∧
      WalkedFrom cap (v * 1000 + q) (tf.blockAt m start) start stop w.lines := by
  obtain ⟨blocks, -, -, -, -, range⟩ := ht
  obtain ⟨start, rest, last, first, passed, reached, eq⟩ :=
    blocksFrom_eq (m := m) blocks tf.bounds.length 0 (by omega) (fun i hi h0 => by omega)
  have walks : energyWalk tf m cap v q = walkBlocks cap ((List.range' start (rest + 1)).map (tf.blockAt m start))
      ⟨0, v * 1000 + q, [], false⟩ := by
    rw [← eq]; rfl
  have priced : ∀ j, start ≤ j → j ≤ start + rest → 1 ≤ (tf.blockAt m start j).price := by
    intro j hj hs
    show 1 ≤ tf.prices.getD (j - 1) 0
    have within : j - 1 < tf.prices.length := by omega
    rw [List.getD_eq_getElem _ _ within]
    exact (range _ (List.getElem_mem within)).1
  have unbounded : (tf.blockAt m start (start + rest)).room = none := if_neg (by omega)
  have begins : Walk.Before (v * 1000 + q) start ⟨0, v * 1000 + q, [], false⟩ :=
    ⟨List.Pairwise.nil, nofun, rfl, rfl⟩
  obtain ⟨ended, before, stop, low, high, final, walk⟩ := walkBlocks_walkedFrom (cap := cap) (f := tf.blockAt m start)
    (fun _ => rfl) rest start _ begins (Nat.zero_le cap) unbounded priced
  rw [← walks] at ended before final walk
  refine ⟨ended, start, stop, first, low, by omega, passed, reached, final.sorted, fun l hl => ⟨?_, ?_⟩, walk⟩
  · by_contra early
    have : l ∈ linesBefore start (energyWalk tf m cap v q).lines :=
      List.mem_filter.mpr ⟨hl, decide_eq_true (by omega)⟩
    rw [before] at this
    cases this
  · exact Nat.le_of_lt_succ (final.earlier l hl)

/-- The change and the residue of a walk (R47, R48). -/
theorem walkChange_eq {w : Walk} (h : w.byCap = decide (w.purchased = cap)) :
    if w.purchased = cap then walkChange w v = min (w.money / 1000) v else walkChange w v = 0 := by
  unfold walkChange
  split <;> simp_all

/-- The change is drawn from the money that the walk leaves (R48). -/
theorem walkChange_le (w : Walk) (v : Nat) : walkChange w v * 1000 ≤ w.money := by
  unfold walkChange; split <;> omega

/-- What the change leaves of a walk's money is at most 999,999 milli-cents (R49). -/
theorem walkResidue_le {w : Walk} (hw : w.money ≤ v * 1000 + q) (hq : q ≤ 999999)
    (short : w.byCap = false → w.money ≤ 999998) : w.money - walkChange w v * 1000 ≤ 999999 := by
  unfold walkChange
  cases byCap : w.byCap with
  | false => have := short byCap; simp only [Bool.false_eq_true, if_false]; omega
  | true => simp only [if_true]; omega

/-- The working money of a walk (3.5). -/
theorem workingMoney_le (hv : v ≤ 999999) (hq : q ≤ 999999) : v * 1000 + q ≤ 1000998999 := by omega

/-- The walk over a valid tariff is the walk of R46 to R48. -/
theorem energyWalk_walked (ht : tf.valid) : let w := energyWalk tf m cap v q
    walked tf m cap v q w.lines (walkChange w v) (w.money - walkChange w v * 1000) := by
  obtain ⟨purchased, -, money, -, -, -⟩ := energyWalk_keeps (cap := cap) (m := m) (v := v) (q := q) ht
  obtain ⟨ended, start, stop, first, low, high, passed, reached, sorted, within, walk⟩ :=
    energyWalk_walkedFrom (cap := cap) (m := m) (v := v) (q := q) ht
  have change := walkChange_eq (v := v) ended
  intro w
  have left : w.money = v * 1000 + q - lineMoney w.lines := Nat.eq_sub_of_add_eq money
  refine ⟨start, stop, first, low, high, passed, reached, sorted, within, ⟨fun i hi hs => ?_, fun i hi hs => ?_,
    fun below => ?_⟩, ?_⟩
  · exact (walk.takes i hi hs).trans (blockTake_blockAt ..)
  · obtain ⟨room, more⟩ := walk.moves i hi hs
    rw [blockAt_room (by omega), Option.some.injEq] at room
    exact ⟨room.symm, more⟩
  · obtain ⟨notRoom, afforded⟩ := walk.ends below
    refine ⟨fun inner => ?_, afforded⟩
    rw [blockAt_room inner] at notRoom
    exact fun full => notRoom (congrArg some full.symm)
  · rw [← left, ← purchased]
    split at change
    · next full => exact (if_pos full).symm ▸ ⟨change, rfl⟩
    · next more => exact (if_neg more).symm ▸ ⟨change, by rw [change]; rfl⟩

end

/-- Settles O18: the walk block by block, and what it conserves. -/
theorem walkConserves : Obligations.WalkConserves := by
  intro r tf generation month tender p ht hq htender hp
  have figures := paidFigures_of_ok hp
  obtain ⟨w, walk, lines, bought, change, residue⟩ := figures.walk
  have granted : p.lifeline ≤ 5000 := figures.lifeline.trans_le ((lifelineGrant_le _).trans ht.2.2.2.1)
  have energy : p.energyMoney ≤ 999999 := figures.energyMoney.trans_le (by have : tender ≤ 999999 := htender; omega)
  have carried : r.residue ≤ 999999 := hq
  rw [show tokenCapacity = 999999 from rfl] at walk
  rw [change] at residue
  rw [← monthRoll_units, lines, bought, change, residue]
  have keeps : WalkKeeps tf (999999 - p.lifeline) (p.energyMoney * 1000 + r.residue) w := walk ▸ energyWalk_keeps ht
  obtain ⟨purchased, capped, money, short, count, exactLines⟩ := keeps
  have drawn := walkChange_le w p.energyMoney
  have conforms : walked tf (monthRoll r month).1 (999999 - p.lifeline) p.energyMoney r.residue w.lines
      (walkChange w p.energyMoney) (w.money - walkChange w p.energyMoney * 1000) := walk ▸ energyWalk_walked ht
  exact ⟨conforms, by omega, walkResidue_le (by omega) carried short, purchased, capped, by omega,
    workingMoney_le energy carried, count, exactLines⟩

end Sys2Proof.Machine
end

section
/-! SUPPORT. The computing grant that opens a quote (R54, R62). -/

namespace Sys2Proof.Machine

/-- A till's answer changes that till's request and replies alone. -/
theorem tillReply_keeps (k : Till) (tag : Option Byte) (r : Reply) (s : State) :
    keepsAllBut [.outstanding (.till k), .replies (.till k)] s (tillReply k tag r s) := by
  cases tag with
  | none => exact keepsAllBut_refl _ _
  | some g => exact keepsAllBut_mono (answer_keeps (.till k) g r s) (by simp)

theorem tillReply_slot (k j : Till) (tag : Option Byte) (r : Reply) (s : State) :
    (tillReply k tag r s).slot j = s.slot j := by simp [State.slot]

/-- A till's answer, as the part stands (R77, R199). -/
theorem tillReply_replied (k : Till) (tag : Option Byte) (r : Reply) (s : State) :
    tillReplied k tag r s (tillReply k tag r s) := by
  cases tag with
  | none => exact ⟨rfl, rfl⟩
  | some g => exact ⟨by simp only [tillReply, answer_replies]; simp, by simp [tillReply, answer_outstanding]⟩

/-- What is answered and outstanding at a till is what `tillReplied` speaks of. -/
theorem tillReplied_congr {k : Till} {tag : Option Byte} {r : Reply} {s x t : State} (h : tillReplied k tag r s x)
    (replies : t.replies (.till k) = x.replies (.till k))
    (outstanding : (t.port (.till k)).outstanding = (x.port (.till k)).outstanding) : tillReplied k tag r s t := by
  simpa only [tillReplied, replies, outstanding] using h

/-- The slot of an opened quote (Tables 4-2, 4-3). -/
def openedSlot (q : QuoteRecord) (p : Priced) (d : DateTime) (s : State) (v : VendSlot) : VendSlot :=
  { v with
    state := .opened, timer := some s.site.quoteHoldTime
    quote := some { q with
      priced := some p, reservedBudget := some q.tender, journalReservation := true, openedAt := some d
      expiresAt := some (reportedTime d s.site.quoteHoldTime), replyTag := none } }

/-- All that opening a quote does (R54, R62). -/
theorem openQuote_spec (k : Till) (q : QuoteRecord) (p : Priced) {d : DateTime} {s : State} (hn : s.now = some d) :
    let t := openQuote k q p s
    t.slot k = openedSlot q p d s (s.slot k) ∧ t.reserved = s.reserved + q.tender ∧
      t.journal = ⟨s.journal.nextSeq, s.journal.reservations + 1⟩ ∧
      tillReplied k q.replyTag (.quoteOk q.id q.meter q.tender p (some (reportedTime d s.site.quoteHoldTime))
        s.site.quoteHoldTime) s t ∧ onlyLevels s t ∧
      keepsAllBut [.slot k, .reserved, .journal, .conditions, .outstanding (.till k), .replies (.till k)] s t := by
  obtain ⟨reserved, journal, levels, kept, slots, -⟩ := reserveQuote_spec q.tender s
  have expiry : s.expiry = some (reportedTime d s.site.quoteHoldTime) := by rw [State.expiry, hn]; rfl
  intro t
  generalize hx : (reserveQuote q.tender s).modSlot k (fun v =>
    { v with state := .opened, quote := some (openedQuote q p s), timer := some s.site.quoteHoldTime }) = x
  have ht : t = tillReply k q.replyTag (.quoteOk q.id q.meter q.tender p (some (reportedTime d s.site.quoteHoldTime))
      s.site.quoteHoldTime) x := by
    rw [← hx, ← expiry]; rfl
  have kx : keepsAllBut [.slot k, .reserved, .journal, .conditions] s x :=
    keepsAllBut_trans (keepsAllBut_mono kept (by simp)) (hx ▸ keepsAllBut_mono (modSlot_keeps _ k _) (by simp))
  rw [ht]
  refine ⟨?_, ?_, ?_, tillReplied_of_kept kx (by simp) (tillReply_replied ..), ?_,
    keepsAllBut_trans (keepsAllBut_mono kx (by simp)) (keepsAllBut_mono (tillReply_keeps k _ _ _) (by simp))⟩
  · rw [tillReply_slot, ← hx, State.slot_modSlot_same, slots]
    simp only [openedSlot, openedQuote, hn, expiry]
  · simp only [tillReply_frame, ← hx]; exact reserved
  · simp only [tillReply_frame, ← hx]; exact journal
  · exact onlyLevels_congr levels rfl (by simp only [tillReply_frame, ← hx]; rfl)

/-- A quote that passes steps 8 to 12 of Table 3-2. -/
structure QuotePasses (q : QuoteRecord) (r : Record) (tf : Tariff) (p : Priced) (d : DateTime) (s : State) : Prop where
  account : r.account = .active
  now : s.now = some d
  tariff : s.site.active[r.tariffIndex]?.getD none = some tf
  priced : priceQuote r tf s.site.generation (monthTagOf d.day) q.tender = .ok p
  budget : q.tender ≤ s.site.budget - s.reserved
  room : s.roomForOffice = true

section
variable {s x : State} {k : Till} {q : QuoteRecord} {r : Record} {tf : Tariff} {p : Priced} {d : DateTime}

/-- A computing grant that passes opens the quote (R38, R39). -/
theorem QuotePasses.computeQuote_eq (h : QuotePasses q r tf p d s) : computeQuote k q r s = openQuote k q p s := by
  obtain ⟨account, now, tariff, priced, budget, room⟩ := h
  have month : s.currentMonth = monthTagOf d.day := by rw [State.currentMonth, now]
  simp [computeQuote, accountRefusal, State.tariffOf, account, tariff, month, priced, Nat.not_lt.mpr budget, room]

/-- A grant of a quote that holds its pin computes it from its line (R61). -/
theorem quoteStage_continues {l : LineNo} (state : (s.slot k).state = .quoting) (quote : (s.slot k).quote = some q)
    (abandon : (s.slot k).abandon = none) (pin : (s.slot k).pin = some q.meter) (found : findLine q.meter s = some l)
    (record : (s.line l).record = some r) : slotStage k s = computeQuote k q r s := by
  have copy : lineRecord q.meter s = some r := by simp [lineRecord, found, record]
  simp only [slotStage, state, quoteStage, quote, abandon, pin, Option.isSome_some, if_true, computeFromLine, copy]

/-- The tests depend on none of the slots and lines. -/
theorem QuotePasses.of_kept (h : QuotePasses q r tf p d s) (kept : keepsAllBut [.lines, .slot k] s x)
    (store : x.store = s.store) : QuotePasses q r tf p d x := by
  have site : x.site = s.site := kept .site (by simp)
  have reserved : x.reserved = s.reserved := kept .reserved (by simp)
  have now : x.now = s.now := by simp only [State.now, (kept .clock (by simp)).1]
  have room := roomForOffice_congr store site (kept .buffer (by simp)) (kept .journal (by simp))
  exact ⟨h.account, now.trans h.now, by rw [site]; exact h.tariff, by rw [site]; exact h.priced,
    by rw [site, reserved]; exact h.budget, room.trans h.room⟩

/-- The parts that the opening of a quote changes (R54, R62). -/
abbrev openedParts (k : Till) : List Part :=
  [.slot k, .reserved, .journal, .grants, .conditions, .outstanding (.till k), .replies (.till k)]

/-- A quote opened by a grant, with the parts `more` changed besides (R54, R62). -/
def QuoteOpens (k : Till) (q : QuoteRecord) (p : Priced) (d : DateTime) (more : List Part) (s t : State) : Prop :=
  t.slot k = openedSlot q p d s { s.slot k with pin := some q.meter } ∧
    t.reserved = s.reserved + q.tender ∧ t.journal = ⟨s.journal.nextSeq, s.journal.reservations + 1⟩ ∧
    t.arbiter.pointer = k ∧ t.arbiter.pending.get k = false ∧
    (∀ j, j ≠ k → t.arbiter.pending.get j = s.arbiter.pending.get j) ∧
    tillReplied k q.replyTag (.quoteOk q.id q.meter q.tender p (some (reportedTime d s.site.quoteHoldTime))
      s.site.quoteHoldTime) s t ∧ onlyLevels s t ∧
    keepsAllBut (openedParts k ++ more) s t

/-- The end of a grant that opens the quote in a state `x`, which holds the quote's pin (R54, R62, R79). -/
theorem openQuote_end (now : s.now = some d) (hold : s.arbiter.hold = .none) (reprint : (s.slot k).reprint = none)
    {more : List Part} (hm : ∀ p ∈ more, p = .lines) (arbiter : x.arbiter = (s.pointed k).arbiter)
    (slot : x.slot k = { s.slot k with pin := some q.meter }) (kept : keepsAllBut (.slot k :: more) (s.pointed k) x) :
    let t := settle (settlePending k (openQuote k q p x))
    QuoteOpens k q p d more s t ∧ (∀ j, t.line j = x.line j) ∧ t.working.recency = x.working.recency := by
  have kx : keepsAllBut [.lines, .slot k] (s.pointed k) x := keepsAllBut_mono kept fun p hp => by
    rcases List.mem_cons.mp hp with here | extra
    · simp [here]
    · simp [hm p extra]
  have site : x.site = s.site := kx .site (by simp)
  have journal : x.journal = s.journal := kx .journal (by simp)
  have conditions : x.conditions = s.conditions := kx .conditions (by simp)
  have reserved : x.reserved = s.reserved := kx .reserved (by simp)
  have nowx : x.now = some d := by simp only [State.now, (kx .clock (by simp)).1]; exact now
  obtain ⟨slotIs, reservedIs, journalIs, reply, levels, changed⟩ := openQuote_spec k q p nowx
  have whole : keepsAllBut (openedParts k ++ more) (s.pointed k) (openQuote k q p x) := by
    refine keepsAllBut_trans (keepsAllBut_mono kept fun p hp => ?_) (keepsAllBut_mono changed (by simp))
    rcases List.mem_cons.mp hp with here | extra
    · simp [here]
    · exact List.mem_append_right _ extra
  obtain ⟨pointer, wants, others, all, slots, lines, recency, replies, outstanding, conditionsT, reservedT, journalT,
    -⟩ := grant_end hold (by simp [arbiter]) whole
  refine ⟨⟨?_, ?_, ?_, pointer, ?_, others, ?_, ?_, keepsAllBut_mono all (List.cons_subset.mpr ⟨by simp, fun _ => id⟩)⟩,
    fun j => (lines j).trans (by simp [State.line]), recency.trans (by simp)⟩
  · rw [slots, slotIs, slot]
    simp only [openedSlot, site]
  · rw [reservedT, reservedIs, reserved]
  · rw [journalT, journalIs, journal]
  · rw [wants, slotIs, slot]
    simp [openedSlot, VendSlot.wantsGrant, reprint]
  · rw [site] at reply
    have made := tillReplied_of_kept kx (by simp) reply
    exact tillReplied_congr made (replies _) (outstanding _)
  · exact onlyLevels_congr levels conditions.symm conditionsT

end

/-- Settles O32: the computing grant at a hit, after the pin is taken, and at the continuation, which holds it. -/
theorem grantOpensQuote : Obligations.GrantOpensQuote := by
  intro s k q l r tf p d running hold next quoting quote abandon reprint account now tariff priced budget room
  have passes : QuotePasses q r tf p d (s.pointed k) := ⟨account, now, tariff, priced, budget, room⟩
  have granted := engineGrant_exec running hold next
  refine ⟨fun e unpinned entry sound hits => ?_, fun pinned found _ _ record => ?_⟩
  · obtain ⟨line, others, recency, slot, -, kept, -⟩ := pinLine_spec k l q.meter (s.pointed k)
    have stage : slotStage k (s.pointed k) = openQuote k q p (pinLine (.slot k) l q.meter (s.pointed k)) :=
      (quoteStage_hit (s := s.pointed k) quoting quote abandon unpinned entry sound hits).trans
        (passes.of_kept kept (by simp)).computeQuote_eq
    rw [stage] at granted
    obtain ⟨opens, lines, order⟩ := openQuote_end (p := p) now hold reprint (more := [.lines]) (by simp) (by simp) slot
      (keepsAllBut_mono kept (by simp))
    exact ⟨_, granted, opens, (lines l).trans line, fun j hj => (lines j).trans (others j hj), order.trans recency⟩
  · have stage : slotStage k (s.pointed k) = openQuote k q p (s.pointed k) :=
      (quoteStage_continues (s := s.pointed k) quoting quote abandon pinned found record).trans passes.computeQuote_eq
    rw [stage] at granted
    obtain ⟨opens, -⟩ := openQuote_end (p := p) now hold reprint (more := []) (by simp) rfl (by rw [← pinned]; rfl)
      (keepsAllBut_refl _ _)
    exact ⟨_, granted, opens⟩

end Sys2Proof.Machine
end

section
/-! SUPPORT. The till requests at the vend slot: what a slot refuses, and what it takes (04.3 to 04.8). -/

namespace Sys2Proof.Machine

section

variable {s : State} {k : Till} {tag : Byte} {body : List Byte}

/-- A selling request without a valid calendar (R145). -/
theorem sellingRefusal_clockUnset (commissioned : s.commissioned = true) (invalid : s.calendar.valid = false)
    (p : PortId) (kind g : Byte) : sellingRefusal (s.serving p kind g) = some .clockUnset := by
  simp [sellingRefusal, commissioned, invalid]

/-- The quote ids in use are four at most (R57). -/
theorem heldIds_length (s : State) : s.heldIds.length ≤ 4 := List.length_filterMap_le _ _

/-- A free counter value is the quote id itself (R57). -/
theorem freeId_eq_self {used : List Nat} {n : Nat} (h : n ∉ used) : freeId 4 used n = n := by
  simp [freeId, h]

theorem serving_nextQuoteId (p : PortId) (kind g : Byte) : (s.serving p kind g).nextQuoteId = s.nextQuoteId := by simp

theorem serving_heldIds (p : PortId) (kind g : Byte) : (s.serving p kind g).heldIds = s.heldIds := by
  simp [State.heldIds]

/-- A slot is free for a QUOTE when it is IDLE and has no reprint in progress (R59). -/
theorem VendSlot.free_iff (v : VendSlot) : v.free = true ↔ v.state = .idle ∧ v.reprint = none := by
  simp [VendSlot.free]

/-- A reprint may begin beside no other, in IDLE or beside an OPEN quote on its meter (R73). -/
theorem VendSlot.mayReprint_iff (v : VendSlot) (meter : Nat) : v.mayReprint meter = true ↔
    v.reprint = none ∧ (v.state = .idle ∨ (v.state = .opened ∧ ∃ q, v.quote = some q ∧ q.meter = meter)) := by
  simp [VendSlot.mayReprint, Option.any_eq_true]

/-- A slot that changes and asks for a grant, the quote id counter standing (R79). -/
theorem askGrant_taken (h : s.takes (.till k) tag body) (kind : Byte) (f : VendSlot → VendSlot) (hr : s.holdAtRest) :
    let t := settle (askGrant k ((s.serving (.till k) kind tag).modSlot k f))
    t.slot k = f (s.slot k) ∧ t.arbiter.pending.get k = true ∧
      (∀ j, j ≠ k → t.arbiter.pending.get j = s.arbiter.pending.get j) ∧
      t.arbiter.pointer = s.arbiter.pointer ∧ (t.port (.till k)).outstanding = some ⟨tag, kind⟩ ∧
      keepsAllBut [.slot k, .grants, .outstanding (.till k)] s t := by
  have same : ({ s.serving (.till k) kind tag with nextQuoteId := s.nextQuoteId } : State) =
      s.serving (.till k) kind tag := by
    rw [← serving_nextQuoteId (.till k) kind tag]
  have ends := askGrant_end h kind f s.nextQuoteId hr
  rw [same] at ends
  obtain ⟨counter, slot, pending, others, pointer, outstanding, kept⟩ := ends
  refine ⟨slot, pending, others, pointer, outstanding, keepsAllBut_quoteIds (keepsAllBut_mono kept ?_) counter⟩
  simp

/-- A refusal of a till's request changes the replies of its port alone. -/
theorem refusedWith_till {code : RefusalCode} {kind : Byte} {id detail : Nat} {t : State}
    (hq : Request.isQuarter kind = false) (h : refusedWith (.till k) kind tag code id detail s t) :
    replied (.till k) tag (.refused code kind id detail) s t ∧ keepsAllBut [.replies (.till k)] s t := by
  obtain ⟨made, kept⟩ := h
  rw [hq] at kept
  exact ⟨made, kept⟩

/-! ### QUOTE -/

/-- A QUOTE that passes steps 1 to 4 of Table 3-2 (R59). -/
theorem serveQuote_sells {meter tender : Nat} (hp : parseQuote body = some (meter, tender)) (he : s.editable)
    (valid : s.calendar.valid = true) : serveQuote k tag body (s.serving (.till k) kindQuote tag) =
      if (s.slot k).free then takeQuote k tag meter tender (s.serving (.till k) kindQuote tag)
      else tillRefuse k tag .slotBusy kindQuote 0 0 (s.serving (.till k) kindQuote tag) := by
  simp only [serveQuote, hp, sellingRefusal_none he valid, serving_slot]

end

/-- The slot of a QUOTE that was taken (R58). -/
def VendSlot.quoted (id meter tender : Nat) (tag : Byte) (v : VendSlot) : VendSlot :=
  { v with state := .quoting, quote := some (QuoteRecord.taken id meter tender tag) }

/-- A QUOTE is taken with the first free quote id, and the counter moves past it (R57, R59). -/
theorem takeQuote_serving (s : State) (k : Till) (tag : Byte) (meter tender : Nat) {id : Nat}
    (hid : freeId 4 s.heldIds s.nextQuoteId = id) :
    takeQuote k tag meter tender (s.serving (.till k) kindQuote tag) =
      askGrant k ({ s.serving (.till k) kindQuote tag with nextQuoteId := nextId id }.modSlot k
        (VendSlot.quoted id meter tender tag)) := by
  subst hid
  simp only [takeQuote, serving_heldIds, serving_nextQuoteId]
  rfl

/-- Settles O25: the refusals of Table 3-2 in their order, and the taking with the first free quote id. -/
theorem quoteTaken : Obligations.QuoteTaken := by
  intro s k tag body meter tender takes parsed commissioned rest
  refine ⟨fun invalid => ?_, fun valid latched => ⟨fun busy => ?_, fun idle none => ?_⟩⟩
  · refine takeTill_refused takes rest _ .clockUnset 0 0 rfl ?_
    simp only [serveQuote, parsed, sellingRefusal_clockUnset commissioned invalid]
    rfl
  · have notFree : (s.slot k).free = false := by
      rw [Bool.eq_false_iff, Ne, VendSlot.free_iff]
      tauto
    refine takeTill_refused takes rest _ .slotBusy 0 0 rfl ?_
    rw [serveQuote_sells parsed ⟨commissioned, latched⟩ valid, notFree]
    rfl
  · have free : (s.slot k).free = true := (VendSlot.free_iff _).mpr ⟨idle, none⟩
    obtain ⟨id, hid⟩ : ∃ id, freeId 4 s.heldIds s.nextQuoteId = id := ⟨_, rfl⟩
    have served : serveQuote k tag body (s.serving (.till k) kindQuote tag) =
        takeQuote k tag meter tender (s.serving (.till k) kindQuote tag) := by
      rw [serveQuote_sells parsed ⟨commissioned, latched⟩ valid, free]
      rfl
    have step := takeTill_exec (kind := kindQuote) takes (serveQuote k tag body)
    rw [served, takeQuote_serving s k tag meter tender hid] at step
    refine ⟨_, id, step, hid ▸ freeId_not_mem _ (heldIds_length s) _, fun first => hid ▸ freeId_eq_self first, ?_⟩
    obtain ⟨counter, ends⟩ := askGrant_end takes kindQuote (VendSlot.quoted id meter tender tag) (nextId id) rest
    exact ⟨counter, ends⟩

/-- Settles O26: the CONFIRM of the slot's own quote, by the state of the quote. -/
theorem confirmTaken : Obligations.ConfirmTaken := by
  intro s k tag body meter id takes parsed commissioned rest
  refine ⟨fun invalid => ?_, fun q valid latched quote named => ?_⟩
  · refine takeTill_refused takes rest _ .clockUnset id 0 rfl ?_
    simp only [serveConfirm, parsed, sellingRefusal_clockUnset commissioned invalid]
    rfl
  have resolves : serveConfirm k tag body (s.serving (.till k) kindConfirm tag) =
      resolveConfirm k tag meter id (s.serving (.till k) kindConfirm tag) := by
    simp only [serveConfirm, parsed, sellingRefusal_none ⟨commissioned, latched⟩ valid]
  refine ⟨fun opened same => ?_, fun opened other => ?_, fun underway => ?_, fun early => ?_⟩
  · have served : serveConfirm k tag body (s.serving (.till k) kindConfirm tag) =
        takeConfirm k tag (s.serving (.till k) kindConfirm tag) := by
      simp only [resolves, resolveConfirm, serving_slot, quote, named, if_true, opened, same]
    have step := takeTill_exec (kind := kindConfirm) takes (serveConfirm k tag body)
    rw [served, takeConfirm] at step
    obtain ⟨slot, ends⟩ := askGrant_taken takes kindConfirm (fun v => { v with
      state := .confirming, timer := none, quote := v.quote.map fun q => { q with replyTag := some tag } }) rest
    exact ⟨_, step, by rw [slot, quote]; rfl, ends⟩
  · refine takeTill_refused takes rest _ .quoteUnknown id 0 rfl ?_
    simp only [resolves, resolveConfirm, serving_slot, quote, named, if_true, opened, if_neg other]
    rfl
  · refine takeTill_refused takes rest _ .commitUnderway id 0 rfl ?_
    rcases underway with state | state <;>
    · simp only [resolves, resolveConfirm, serving_slot, quote, named, if_true, state]
      rfl
  · refine takeTill_refused takes rest _ .quoteUnknown id 0 rfl ?_
    rcases early with state | state <;>
    · simp only [resolves, resolveConfirm, serving_slot, quote, named, if_true, state]
      rfl

/-- Settles O30: the fields are read from the state in which the request is served, which differs from `s` by the
outstanding request alone. -/
theorem tillStatusAnswered : Obligations.TillStatusAnswered := by
  intro s k tag takes rest
  have served : serveTillStatus k tag [] (s.serving (.till k) kindTillStatus tag) =
      answer (.till k) tag (.tillStatusData (tillStatusOf k s)) (s.serving (.till k) kindTillStatus tag) := by
    simp [serveTillStatus, parseNone_nil, tillStatusOf]
  have step := takeTill_exec (kind := kindTillStatus) takes (serveTillStatus k tag [])
  rw [served] at step
  exact ⟨_, step, answered_end takes rest kindTillStatus _⟩

end Sys2Proof.Machine
end

section
/-! SUPPORT. A REPRINT and a CONFIRM that searches again, at the vend slot (R71, R73, R74). -/

namespace Sys2Proof.Machine

section

variable {s : State} {k : Till} {tag : Byte} {body : List Byte}

/-- A reprint in progress begun for a request, its grant asked for (R73). -/
def reprintBegins (k : Till) (kind tag : Byte) (meter : Nat) (req : ReprintRequest) (s t : State) : Prop :=
  t.slot k = { s.slot k with reprint := some ⟨meter, req, .lookup, some tag⟩ } ∧
    t.arbiter.pending.get k = true ∧ (∀ j, j ≠ k → t.arbiter.pending.get j = s.arbiter.pending.get j) ∧
    t.arbiter.pointer = s.arbiter.pointer ∧ (t.port (.till k)).outstanding = some ⟨tag, kind⟩ ∧
    keepsAllBut [.slot k, .grants, .outstanding (.till k)] s t

/-- A request that comes to `beginReprint` begins its reprint, or is refused SLOT_BUSY (R71, R73). -/
theorem takeTill_beginsReprint (takes : s.takes (.till k) tag body) (rest : s.holdAtRest) {serve : State → State}
    (meter : Nat) (req : ReprintRequest)
    (serves : serve (s.serving (.till k) req.kind tag) =
      beginReprint k tag meter req (s.serving (.till k) req.kind tag)) :
    ((s.slot k).mayReprint meter = true → ∃ t, finish (takeRequest (.till k) req.kind tag body serve s) = .next t ∧
      reprintBegins k req.kind tag meter req s t) ∧
    ((s.slot k).mayReprint meter = false → ∃ t, finish (takeRequest (.till k) req.kind tag body serve s) = .next t ∧
      replied (.till k) tag (.refused .slotBusy req.kind req.quoteId 0) s t ∧
      keepsAllBut [.replies (.till k)] s t) := by
  have step := takeTill_exec (kind := req.kind) takes serve
  rw [serves, beginReprint, serving_slot] at step
  refine ⟨fun may => ?_, fun busy => ?_⟩
  · rw [if_pos may] at step
    exact ⟨_, step, askGrant_taken takes req.kind _ rest⟩
  · rw [if_neg (by simp [busy])] at step
    exact ⟨_, step, answered_end takes rest req.kind _⟩

/-- A CONFIRM whose id is no quote of the slot goes to the last-closed record (R67). -/
theorem serveConfirm_closed {meter id : Nat} (parsed : parseConfirm body = some (meter, id)) (editable : s.editable)
    (valid : s.calendar.valid = true) (other : ∀ q, (s.slot k).quote = some q → q.id ≠ id) :
    serveConfirm k tag body (s.serving (.till k) kindConfirm tag) =
      confirmClosed k tag meter id (s.serving (.till k) kindConfirm tag) := by
  simp only [serveConfirm, parsed, sellingRefusal_none editable valid, resolveConfirm, serving_slot]
  cases quote : (s.slot k).quote with
  | none => rfl
  | some q => exact if_neg (other q quote)

/-- An id closed COMMITTED, or unknown to the slot, is searched for (R71). -/
theorem confirmClosed_searches {meter id : Nat} {found : Bool}
    (h : (s.slot k).lastClosed = some (id, .committed) ∧ found = true ∨
      (∀ o, (s.slot k).lastClosed ≠ some (id, o)) ∧ found = false) :
    confirmClosed k tag meter id s = beginReprint k tag meter (.repeatConfirm id found) s := by
  rcases h with ⟨closed, rfl⟩ | ⟨unknown, rfl⟩
  · simp [confirmClosed, closed]
  · unfold confirmClosed
    split
    · rfl
    · rename_i closed outcome last
      have other : closed ≠ id := fun e => unknown outcome (e ▸ last)
      rw [if_neg other]

end

/-- Settles O29: the steps before the reprint's own, then `beginReprint` for the two requests that come to it. -/
theorem reprintBegun : Obligations.ReprintBegun := by
  intro s k tag body meter takes commissioned rest
  refine ⟨fun index invalid parsed => ?_, fun valid latched => ⟨fun index parsed => ?_, fun id parsed other =>
    ⟨fun o closed refused => ?_, fun found search => ?_⟩⟩⟩
  · refine takeTill_refused takes rest _ .clockUnset 0 0 rfl ?_
    simp only [serveReprint, parsed, sellingRefusal_clockUnset commissioned invalid]
    rfl
  · have serves : serveReprint k tag body (s.serving (.till k) kindReprint tag) =
        beginReprint k tag meter (.reprint index) (s.serving (.till k) kindReprint tag) := by
      simp only [serveReprint, parsed, sellingRefusal_none ⟨commissioned, latched⟩ valid]
    obtain ⟨begins, busy⟩ := takeTill_beginsReprint takes rest meter (.reprint index) serves
    exact ⟨fun may => begins ((VendSlot.mayReprint_iff _ _).mpr may), fun not =>
      busy (Bool.eq_false_iff.mpr fun may => not ((VendSlot.mayReprint_iff _ _).mp may))⟩
  · refine (takeTill_refused (k := k) (kind := kindConfirm) takes rest (serveConfirm k tag body) .quoteExpired id
      (outcomeNumber o) rfl ?_).imp fun t ⟨step, refusal⟩ => ⟨step, refusedWith_till rfl refusal⟩
    rw [serveConfirm_closed parsed ⟨commissioned, latched⟩ valid other]
    simp only [confirmClosed, serving_slot, closed, if_true, if_neg refused]
    rfl
  · have serves : serveConfirm k tag body (s.serving (.till k) kindConfirm tag) =
        beginReprint k tag meter (.repeatConfirm id found) (s.serving (.till k) kindConfirm tag) := by
      rw [serveConfirm_closed parsed ⟨commissioned, latched⟩ valid other]
      exact confirmClosed_searches (by simpa only [serving_slot] using search)
    obtain ⟨begins, busy⟩ := takeTill_beginsReprint takes rest meter (.repeatConfirm id found) serves
    exact ⟨fun may => begins ((VendSlot.mayReprint_iff _ _).mpr may), fun not =>
      busy (Bool.eq_false_iff.mpr fun may => not ((VendSlot.mayReprint_iff _ _).mp may))⟩

end Sys2Proof.Machine
end

section
/-! SUPPORT. The closing of a quote beside a reprint, by CANCEL and by the expiry of the hold timer (R63, R65, R72). -/

namespace Sys2Proof.Machine

section

variable {s x : State} {k : Till} {q : QuoteRecord} {tag : Byte} {body : List Byte}

theorem giveBack_keeps (q : QuoteRecord) (s : State) :
    keepsAllBut [.reserved, .journal, .conditions] s (giveBack q s) := by
  intro p hp
  cases p with
  | link p => exact view_standing (giveBack_port q s p)
  | outstanding p => exact view_outstanding (giveBack_port q s p)
  | replies p => exact view_replies (giveBack_port q s p)
  | _ => first
    | (simp at hp; done)
    | simp [Part.same, State.slot]

/-- A quote closed, beside a reprint or not (R65, R73). -/
def quoteCloses (k : Till) (q : QuoteRecord) (outcome : CloseOutcome) (s t : State) : Prop :=
  t.slot k = (s.slot k).closedWith q.id outcome ∧ givesBack k q s t ∧
    t.journal = ⟨s.journal.nextSeq, s.journal.reservations - q.reservation⟩ ∧ onlyLevels s t

/-- The parts that the closing of a quote changes (R65). -/
abbrev closedParts (k : Till) : List Part := [.slot k, .reserved, .journal, .lines, .conditions]

/-- The slot's pin released where no reprint in progress holds it (R73). -/
def unpinQuote (k : Till) (holds : Bool) (s : State) : State := if holds then s else releasePin (.slot k) s

theorem unpinQuote_keeps (k : Till) (holds : Bool) (s : State) :
    keepsAllBut [.lines, .slot k] s (unpinQuote k holds s) := by
  cases holds with
  | true => exact keepsAllBut_refl _ _
  | false => exact releasePin_keeps k s

theorem unpinQuote_slot (k : Till) (holds : Bool) (s : State) : (unpinQuote k holds s).slot k =
    { s.slot k with pin := if holds = true then (s.slot k).pin else none } := by
  cases holds with
  | true => rfl
  | false => exact (releasePin_slot k k s).trans (by simp)

theorem unpinQuote_line (k : Till) (holds : Bool) (s : State) (j : LineNo) : (unpinQuote k holds s).line j =
    if holds = false ∧ findPinned (.slot k) s = some j then { s.line j with pin := none } else s.line j := by
  cases holds with
  | true => simp [unpinQuote]
  | false => simp [unpinQuote, releasePin_lines]

theorem unpinQuote_recency (k : Till) (holds : Bool) (s : State) :
    (unpinQuote k holds s).working.recency = s.working.recency := by
  cases holds with
  | true => rfl
  | false => exact releasePin_recency _ s

theorem closeQuote_closes (outcome : CloseOutcome) (quote : (s.slot k).quote = some q) :
    quoteCloses k q outcome s (closeQuote k outcome s) ∧ keepsAllBut (closedParts k) s (closeQuote k outcome s) := by
  have eq : closeQuote k outcome s = (unpinQuote k (s.slot k).reprintHoldsPin (giveBack q s)).modSlot k fun v =>
      { v with state := .idle, quote := none, abandon := none, timer := none, lastClosed := some (q.id, outcome) } := by
    simp only [closeQuote, quote, unpinQuote]
  obtain ⟨reserved, journal⟩ := giveBack_counts q s
  have given := giveBack_keeps q s
  have same : (giveBack q s).slot k = s.slot k := given (.slot k) (by simp)
  have working : (giveBack q s).working = s.working := given .lines (by simp)
  have unpinned := unpinQuote_keeps k (s.slot k).reprintHoldsPin (giveBack q s)
  have slot := unpinQuote_slot k (s.slot k).reprintHoldsPin (giveBack q s)
  have lines := unpinQuote_line k (s.slot k).reprintHoldsPin (giveBack q s)
  have recency := unpinQuote_recency k (s.slot k).reprintHoldsPin (giveBack q s)
  rw [eq]
  generalize unpinQuote k (s.slot k).reprintHoldsPin (giveBack q s) = y at *
  refine ⟨⟨?_, ⟨(unpinned .reserved (by simp)).trans reserved, fun j => ?_, recency.trans (by rw [working])⟩, ?_, ?_⟩,
    ?_⟩
  · rw [State.slot_modSlot_same, slot, same]
    rfl
  · refine (lines j).trans ?_
    simp only [line_congr working, findPinned_congr working]
  · exact (unpinned .journal (by simp)).trans journal
  · exact onlyLevels_trans (giveBack_levels q s) (onlyLevels_of_conditions (unpinned .conditions (by simp)))
  · exact keepsAllBut_trans (keepsAllBut_mono given (by simp)) (keepsAllBut_trans (keepsAllBut_mono unpinned (by simp))
      (keepsAllBut_mono (modSlot_keeps y k _) (by simp)))

/-- A closing that is seen from the state before its request was taken. -/
theorem quoteCloses_of_serving {outcome : CloseOutcome} {kind : Byte}
    (h : quoteCloses k q outcome (s.serving (.till k) kind tag) x) : quoteCloses k q outcome s x := by
  obtain ⟨slot, gives, journal, levels⟩ := h
  exact ⟨by simpa using slot, by simpa [givesBack] using gives, by simpa using journal,
    onlyLevels_trans (serving_levels s (.till k) kind tag) levels⟩

/-- A closing stands where the parts that it changes are kept. -/
theorem quoteCloses_of_kept {outcome : CloseOutcome} {l : List Part} {t : State} (h : quoteCloses k q outcome s x)
    (kept : keepsAllBut l x t) (hl : ∀ p ∈ closedParts k, p ∉ l) : quoteCloses k q outcome s t := by
  obtain ⟨slot, ⟨reserved, lines, recency⟩, journal, levels⟩ := h
  have working : t.working = x.working := kept .lines (hl _ (by simp))
  exact ⟨(kept (.slot k) (hl _ (by simp))).trans slot,
    ⟨(kept .reserved (hl _ (by simp))).trans reserved, fun j => (line_congr working j).trans (lines j),
      by rw [working, recency]⟩,
    (kept .journal (hl _ (by simp))).trans journal,
    onlyLevels_trans levels (onlyLevels_of_conditions (kept .conditions (hl _ (by simp))))⟩

theorem holdAtRest_of_kept {l : List Part} (rest : s.holdAtRest) (kept : keepsAllBut l s x)
    (hl : Part.hold ∉ l ∧ Part.buffer ∉ l) : x.holdAtRest := by
  intro pending
  rw [show x.buffer = s.buffer from kept .buffer hl.2]
  exact rest ((kept .hold hl.1).1 ▸ pending)

/-! ### CANCEL -/

/-- A CANCEL taken with nothing outstanding, as `cancelSlot` answers it (R72). -/
theorem cancel_exec (takes : s.takes (.till k) tag body) {id : Nat} (parsed : parseCancel body = some id)
    (commissioned : s.commissioned = true) {r : Reply} {y : State}
    (acts : cancelSlot k id (s.serving (.till k) kindCancel tag) = (r, y)) :
    exec (.cancel k tag body) s = .next (settle (answer (.till k) tag r y)) := by
  have served : serveCancel k tag body (s.serving (.till k) kindCancel tag) = answer (.till k) tag r y := by
    simp only [serveCancel, cancelOutcome, parsed, serving_commissioned, commissioned, if_true, acts]
  rw [← served]
  simp only [exec, execCancel, portTake_takes takes, finish_eq]

/-- The end of a CANCEL that changed the parts `l` and is answered. -/
theorem cancel_end (takes : s.takes (.till k) tag body) (rest : s.holdAtRest) (r : Reply) {l : List Part}
    (kept : keepsAllBut l (s.serving (.till k) kindCancel tag) x)
    (hl : Part.hold ∉ l ∧ Part.buffer ∉ l ∧ Part.supply ∉ l ∧ Part.link (.till k) ∉ l ∧ Part.replies (.till k) ∉ l) :
    let t := settle (answer (.till k) tag r x)
    replied (.till k) tag r s t ∧ keepsAllBut [.outstanding (.till k), .replies (.till k)] x t ∧
      keepsAllBut (l ++ [.replies (.till k)]) s t := by
  obtain ⟨hold, buffer, supply, link, replies⟩ := hl
  have restX : x.holdAtRest := holdAtRest_of_kept (s := s.serving (.till k) kindCancel tag)
    (holdAtRest_congr rest (by simp) (by simp)) kept ⟨hold, buffer⟩
  have restA : (answer (.till k) tag r x).holdAtRest := holdAtRest_congr restX (by simp) (by simp)
  have linkX : (x.port (.till k)).link = (s.port (.till k)).link :=
    (standing_link (kept (.link (.till k)) link)).trans (serving_link s _ _ _ _)
  have supplyX : x.supply = s.supply := (kept .supply supply).trans (by simp)
  have repliesX : x.replies (.till k) = s.replies (.till k) :=
    (kept (.replies (.till k)) replies).trans (serving_replies s _ _ _ _)
  exact ⟨settle_replied restA (end_replied kindCancel r takes linkX supplyX repliesX),
    keepsAllBut_settle restA (answer_keeps _ _ _ _),
    keepsAllBut_settle restA (end_keeps kindCancel r takes (by simp)
      (keepsAllBut_mono kept fun p hp => List.mem_append_left _ hp))⟩

/-- A CANCEL that names no quote of the slot is answered by its last-closed record (R72). -/
theorem cancelSlot_closed {id : Nat} (other : ∀ q, (s.slot k).quote = some q → id ≠ 0 ∧ id ≠ q.id) :
    cancelSlot k id s = (cancelClosed (s.slot k) id, s) := by
  unfold cancelSlot
  split
  · rfl
  · rename_i q quote
    obtain ⟨nonzero, unnamed⟩ := other q quote
    rw [if_neg (not_or.mpr ⟨nonzero, unnamed⟩)]

end

/-- Settles O27: the quote named by its state, the expiry at 0, and the ids that name no quote. -/
theorem openQuoteCloses : Obligations.OpenQuoteCloses := by
  refine ⟨fun s k q quote rest => ⟨fun tag body id takes parsed names commissioned =>
    ⟨fun opened => ?_, fun early => ?_, fun underway => ?_⟩, fun running opened due => ?_⟩,
    fun s k tag body id takes parsed commissioned rest other => ⟨fun o closed => ?_, fun unknown => ?_⟩⟩
  · have acts : cancelSlot k id (s.serving (.till k) kindCancel tag) =
        (.cancelOk q.id .cancelled, closeQuote k .cancelled (s.serving (.till k) kindCancel tag)) := by
      simp only [cancelSlot, serving_slot, quote, if_pos names, opened]
    obtain ⟨closes, changed⟩ := closeQuote_closes (s := s.serving (.till k) kindCancel tag) .cancelled
      (by simpa only [serving_slot] using quote)
    obtain ⟨reply, answered, kept⟩ := cancel_end takes rest (.cancelOk q.id .cancelled) changed (by simp)
    exact ⟨_, cancel_exec takes parsed commissioned acts,
      quoteCloses_of_kept (quoteCloses_of_serving closes) answered (by simp), reply, kept⟩
  · have acts : cancelSlot k id (s.serving (.till k) kindCancel tag) =
        (.cancelOk q.id ((s.slot k).abandon.getD .cancelled).outcome,
          setAbandon k .cancelled (s.serving (.till k) kindCancel tag)) := by
      rcases early with state | state <;> simp only [cancelSlot, serving_slot, quote, if_pos names, state]
    have changed := modSlot_keeps (s.serving (.till k) kindCancel tag) k fun v =>
      { v with abandon := v.abandon.or (some .cancelled) }
    obtain ⟨reply, answered, kept⟩ := cancel_end takes rest
      (.cancelOk q.id ((s.slot k).abandon.getD .cancelled).outcome) changed (by simp)
    refine ⟨_, cancel_exec takes parsed commissioned acts, (answered (.slot k) (by simp)).trans ?_, reply, kept⟩
    rw [State.slot_modSlot_same, serving_slot]
    cases (s.slot k).abandon <;> rfl
  · refine takeCancel_refused takes rest .commitUnderway q.id 0 ?_
    rcases underway with state | state <;>
      simp only [cancelOutcome, parsed, serving_commissioned, commissioned, if_true, cancelSlot, serving_slot, quote,
        if_pos names, state]
  · obtain ⟨closes, changed⟩ := closeQuote_closes .expired quote
    have restX := holdAtRest_of_kept rest changed (by simp)
    refine ⟨settle (closeQuote k .expired s), ?_, quoteCloses_of_kept closes (settle_keeps restX) (by simp),
      keepsAllBut_settle restX changed⟩
    simp [exec, execQuoteHoldExpiry, running, opened, due]
  · refine takeCancel_refused takes rest .quoteExpired id (outcomeNumber o) ?_
    simp [cancelOutcome, parsed, commissioned, cancelSlot_closed (s := s.serving (.till k) kindCancel tag)
      (by simpa only [serving_slot] using other), cancelClosed, closed]
  · refine takeCancel_refused takes rest .quoteUnknown id 0 ?_
    have absent : cancelClosed (s.slot k) id = .refused .quoteUnknown kindCancel id 0 := by
      unfold cancelClosed
      split
      · rfl
      · rename_i c o last
        exact if_neg fun (e : c = id) => unknown o (e ▸ last)
    simp [cancelOutcome, parsed, commissioned, cancelSlot_closed (s := s.serving (.till k) kindCancel tag)
      (by simpa only [serving_slot] using other), absent]

end Sys2Proof.Machine
end

section
/-! SUPPORT. The office hold: its request, grant, refusal, release and lapse (R79, R81, R82). -/

namespace Sys2Proof.Machine

section

variable {s x : State} {o : Outstanding} {u : CommitUnit} {rest : List CommitUnit} {tag : Byte} {body : List Byte}

/-! ### The grant and the refusal of a PENDING hold -/

theorem arbiter_keeps (s : State) (a : Arbiter) (h1 : a.pending = s.arbiter.pending)
    (h2 : a.pointer = s.arbiter.pointer) : keepsAllBut [.hold] s { s with arbiter := a } := by
  intro p hp
  cases p with
  | hold => simp at hp
  | clock => exact ⟨rfl, rfl⟩
  | grants => exact ⟨h1, h2⟩
  | _ => rfl

/-- The end of a step that grants the PENDING hold (R81). -/
theorem OfficeServed.holdGranted (served : OfficeServed x o) (pending : x.arbiter.hold = .pending)
    (empty : x.buffer = []) :
    let t := settle x
    t.arbiter.hold = .held ∧ t.arbiter.lapse = some 120 ∧
      replied .office o.tag (.holdOk (x.now.map fun d => reportedTime d 120)) x t ∧
      keepsAllBut [.hold, .outstanding .office, .replies .office] x t := by
  generalize hy : ({ x with arbiter := { x.arbiter with hold := .held, lapse := some holdSeconds } } : State) = y
  have changed : keepsAllBut [.hold] x y := hy ▸ arbiter_keeps x _ rfl rfl
  have restY : y.holdAtRest := holdAtRest_of_not_pending (by simp [← hy])
  obtain ⟨reply, kept⟩ := served.answered (.holdOk (x.now.map fun d => reportedTime d holdSeconds)) changed (by simp)
    (by simp) (by simp) (by simp) restY
  have answered : (officeReply (.holdOk (x.now.map fun d => reportedTime d holdSeconds)) y).holdAtRest :=
    holdAtRest_congr restY (by simp) (by simp)
  have same : settle x = settle (officeReply (.holdOk (x.now.map fun d => reportedTime d holdSeconds)) y) := by
    rw [settle_grants (receives_running served.receives) pending empty, hy, settle, grantHold_rest answered]
  rw [same]
  dsimp only
  rw [settle_arbiter answered]
  exact ⟨by simp [← hy], by simp [← hy, holdSeconds], reply, kept⟩

/-- A PENDING hold is refused SUSPENDED (R81). -/
theorem OfficeServed.holdRefused (served : OfficeServed x o) (pending : x.arbiter.hold = .pending) :
    let t := settle (refusePendingHold x)
    t.arbiter.hold = .none ∧ t.arbiter.lapse = none ∧ replied .office o.tag (.refused .suspended o.kind 0 0) x t ∧
      keepsAllBut [.hold, .outstanding .office, .replies .office] x t := by
  generalize hy : ({ x with arbiter := { x.arbiter with hold := .none, lapse := none } } : State) = y
  have changed : keepsAllBut [.hold] x y := hy ▸ arbiter_keeps x _ rfl rfl
  have servedY : OfficeServed y o := served.of_kept changed (by simp) (by simp) (by simp)
  obtain ⟨reply, kept⟩ := served.answered (.refused .suspended o.kind 0 0) changed (by simp) (by simp) (by simp)
    (by simp) (holdAtRest_of_not_pending (by simp [← hy]))
  have refused : refusePendingHold x = officeReply (.refused .suspended o.kind 0 0) y := by
    rw [servedY.reply, ← servedY.refuse, ← hy]
    simp [refusePendingHold, pending]
  have restY : (officeReply (.refused .suspended o.kind 0 0) y).holdAtRest :=
    holdAtRest_of_not_pending (by simp [← hy])
  rw [refused]
  dsimp only
  rw [settle_arbiter restY]
  exact ⟨by simp [← hy], by simp [← hy], reply, kept⟩

/-! ### The withdrawal of waiters -/

/-- Waiters of which the test holds of none stay as they are. -/
theorem withdrawWaiters_none {test : Job → Bool} (h : ∀ w ∈ s.waiters, test w.job = false) (code : RefusalCode) :
    withdrawWaiters test code s = s := by
  have gone : (s.waiters.filter fun w => test w.job) = [] := List.filter_eq_nil_iff.mpr fun w hw => by simp [h w hw]
  have stay : (s.waiters.filter fun w => !test w.job) = s.waiters := List.filter_eq_self.mpr fun w hw => by
    simp [h w hw]
  rw [withdrawWaiters, gone, stay]
  rfl

theorem withdrawWaiters_waiters (test : Job → Bool) (code : RefusalCode) (s : State) :
    (withdrawWaiters test code s).waiters = s.waiters.filter fun w => !test w.job := by
  unfold withdrawWaiters
  exact foldl_keeps State.waiters _ (by simp) _ _

/-! ### HOLD_REQUEST and HOLD_RELEASE -/

/-- Ending the hold changes it and the assembly area alone (R26, R82). -/
theorem endHold_keeps (s : State) : keepsAllBut [.hold, .assembly] s (endHold s) :=
  hold_keeps s { s.arbiter with hold := .none, lapse := none } rfl rfl (dropLoad s.assembly)

/-- The state with a HOLD_REQUEST taken: the hold is PENDING (R81). -/
def holdRequested (tag : Byte) (s : State) : State :=
  { s.serving .office kindHoldRequest tag with arbiter := { s.arbiter with hold := .pending } }

theorem holdRequested_keeps (tag : Byte) (s : State) :
    keepsAllBut [.hold] (s.serving .office kindHoldRequest tag) (holdRequested tag s) :=
  arbiter_keeps _ { s.arbiter with hold := .pending } (by simp) (by simp)

/-- A HOLD_REQUEST that is not refused is PENDING when its service ends (R81). -/
theorem holdRequest_exec (takes : s.takes .office tag []) (editable : s.editable) (free : s.arbiter.hold ≠ .held) :
    exec (.holdRequest tag []) s = .next (settle (holdRequested tag s)) := by
  have served : serveHoldRequest [] (s.serving .office kindHoldRequest tag) = holdRequested tag s := by
    simp [serveHoldRequest, parseNone_nil, editable, free, holdRequested]
  rw [← served]
  exact takeOffice_exec takes _

/-- Beside a unit in the buffer the hold stays PENDING (R81). -/
theorem holdRequest_waits (takes : s.takes .office tag []) (editable : s.editable) (free : s.arbiter.hold ≠ .held)
    (waits : s.buffer ≠ []) : ∃ t, exec (.holdRequest tag []) s = .next t ∧ t.arbiter.hold = .pending ∧
      t.arbiter.lapse = s.arbiter.lapse ∧ (t.port .office).outstanding = some ⟨tag, kindHoldRequest⟩ ∧
      keepsAllBut [.hold, .outstanding .office] s t := by
  have restX : (holdRequested tag s).holdAtRest := fun _ => by simpa [holdRequested] using waits
  have changed := keepsAllBut_trans (keepsAllBut_mono (serving_keeps s .office kindHoldRequest tag) (by simp))
    (keepsAllBut_mono (m := [.hold, .outstanding .office]) (holdRequested_keeps tag s) (by simp))
  refine ⟨_, holdRequest_exec takes editable free, ?_, ?_, ?_, keepsAllBut_settle restX changed⟩
  · rw [settle_arbiter restX]; rfl
  · rw [settle_arbiter restX]; rfl
  · rw [settle_outstanding restX]; rfl

/-- Without a unit in the buffer the hold is granted at once (R81). -/
theorem holdRequest_granted (takes : s.takes .office tag []) (editable : s.editable) (free : s.arbiter.hold ≠ .held)
    (empty : s.buffer = []) : ∃ t, exec (.holdRequest tag []) s = .next t ∧ t.arbiter.hold = .held ∧
      t.arbiter.lapse = some 120 ∧ replied .office tag (.holdOk (s.now.map fun d => reportedTime d 120)) s t ∧
      keepsAllBut [.hold, .replies .office] s t := by
  have serving := serving_keeps s .office kindHoldRequest tag
  have changed := holdRequested_keeps tag s
  have served : OfficeServed (holdRequested tag s) ⟨tag, kindHoldRequest⟩ :=
    OfficeServed.of_kept (x := s.serving .office kindHoldRequest tag)
      ⟨receives_of takes.1 (by simp) (serving_link s _ _ _ _), serving_outstanding s _ _⟩ changed (by simp) (by simp)
      (by simp)
  obtain ⟨held, lapse, reply, kept⟩ := served.holdGranted rfl (by simpa [holdRequested] using empty)
  have now : (holdRequested tag s).now = s.now := by simp [holdRequested, State.now]
  have toX : keepsAllBut [.hold, .outstanding .office] s (holdRequested tag s) :=
    keepsAllBut_trans (keepsAllBut_mono serving (by simp)) (keepsAllBut_mono changed (by simp))
  refine ⟨_, holdRequest_exec takes editable free, held, lapse, ?_, fun p hp => ?_⟩
  · exact now ▸ replied_of_kept toX (by simp) reply
  · by_cases e : p = .outstanding .office
    · subst e; exact reply.2.trans takes.2.2.1.symm
    · exact Part.same_trans (toX p (by simp_all)) (kept p (by simp_all))

/-- HOLD_RELEASE of a held hold (R82). -/
theorem holdRelease_ends (takes : s.takes .office tag []) (commissioned : s.commissioned = true)
    (held : s.arbiter.hold = .held) : ∃ t, exec (.holdRelease tag []) s = .next t ∧
      (t.arbiter.hold = .none ∧ t.arbiter.lapse = none) ∧ t.assembly = dropLoad s.assembly ∧
      replied .office tag .releaseOk s t ∧ keepsAllBut [.hold, .assembly, .replies .office] s t := by
  generalize hx : endHold (s.serving .office kindHoldRelease tag) = x
  have changed : keepsAllBut [.hold, .assembly] (s.serving .office kindHoldRelease tag) x := hx ▸ endHold_keeps _
  have served : serveHoldRelease [] (s.serving .office kindHoldRelease tag) = answer .office tag .releaseOk x := by
    have outstanding : x.officePort.outstanding = some ⟨tag, kindHoldRelease⟩ := after_outstanding changed (by simp)
    simp [serveHoldRelease, parseNone_nil, commissioned, held, hx, officeReply_eq outstanding]
  have step := takeOffice_exec (kind := kindHoldRelease) takes (serveHoldRelease [])
  rw [served] at step
  have restA : (answer .office tag .releaseOk x).holdAtRest := holdAtRest_of_not_pending (by simp [← hx, endHold])
  have link : (x.port .office).link = (s.port .office).link :=
    (standing_link (changed (.link .office) (by simp))).trans (serving_link s _ _ _ _)
  have replies : x.replies .office = s.replies .office :=
    (changed (.replies .office) (by simp)).trans (serving_replies s _ _ _ _)
  refine ⟨_, step, ?_, ?_, settle_replied restA (end_replied kindHoldRelease _ takes link (by simp [← hx, endHold])
    replies), keepsAllBut_settle restA (end_keeps kindHoldRelease _ takes (by simp)
      (keepsAllBut_mono changed (by simp)))⟩
  · rw [settle_arbiter restA]
    simp [← hx, endHold]
  · simp [← hx, endHold]

/-! ### The lapse -/

/-- The lapse as a step (R82). -/
theorem officeHoldLapse_exec (running : s.running = true) (held : s.arbiter.hold = .held)
    (due : s.arbiter.lapse = some 0) : exec .officeHoldLapse s = .next (settle (lapseHold s)) := by
  simp [exec, execOfficeHoldLapse, running, held, due]

/-- The lapse before waiters are withdrawn: the hold ends, and HOLD_LAPSED alone arises (R82). -/
theorem arise_endHold_spec (running : s.running = true) :
    let x := arise .holdLapsed (endHold s)
    x.conditions.tillSet = s.conditions.tillSet ∧
      (∀ c, x.latched c = if c = .holdLapsed then true else s.latched c) ∧
      keepsAllBut [.hold, .assembly, .conditions] s x := by
  have takes : (endHold s).takesArisings = true := running_takes running
  refine ⟨arise_tillSet _ _, fun c => ?_, keepsAllBut_trans (keepsAllBut_mono (endHold_keeps s) (by simp))
    (keepsAllBut_mono (arise_keeps _ _) (by simp))⟩
  rw [arise_latched, takes]
  by_cases e : c = .holdLapsed
  · simp [e]
  · rw [if_neg (fun h => e h.1.symm), if_neg e]
    rfl

/-- The lapse as a whole (R82, R124). -/
theorem holdLapse_ends (running : s.running = true) (held : s.arbiter.hold = .held) (due : s.arbiter.lapse = some 0) :
    ∃ t, exec .officeHoldLapse s = .next t ∧ (t.arbiter.hold = .none ∧ t.arbiter.lapse = none) ∧
      t.latched .holdLapsed = true ∧ t.waiters = s.waiters.filter (fun w => !w.job.holdOnly) ∧
      ((∀ w ∈ s.waiters, w.job.holdOnly = false) → t.assembly = dropLoad s.assembly ∧
        t.conditions.tillSet = s.conditions.tillSet ∧ (∀ c, c ≠ .holdLapsed → t.latched c = s.latched c) ∧
        keepsAllBut [.hold, .assembly, .conditions] s t) := by
  obtain ⟨tills, latches, kept⟩ := arise_endHold_spec running
  have arbiter : (lapseHold s).arbiter = (endHold s).arbiter := by simp [lapseHold]
  have restX : (lapseHold s).holdAtRest := holdAtRest_of_not_pending (by rw [arbiter]; simp [endHold])
  have settled := settle_keeps restX
  have waiters : (arise .holdLapsed (endHold s)).waiters = s.waiters := kept .waiters (by simp)
  have latched : (settle (lapseHold s)).latched .holdLapsed = (arise .holdLapsed (endHold s)).latched .holdLapsed :=
    (settle_onlyLevels (withdrawWaiters_levels Job.holdOnly .notHeld (arise .holdLapsed (endHold s)))).2 .holdLapsed
  refine ⟨_, officeHoldLapse_exec running held due, ?_, latched.trans (latches _), ?_, fun stay => ?_⟩
  · rw [settle_arbiter restX, arbiter]
    exact ⟨rfl, rfl⟩
  · rw [show (settle (lapseHold s)).waiters = (lapseHold s).waiters by simp, lapseHold, withdrawWaiters_waiters,
      waiters]
  · have alone : lapseHold s = arise .holdLapsed (endHold s) := withdrawWaiters_none (by rwa [waiters]) _
    rw [alone] at restX ⊢
    have conditions : (settle (arise .holdLapsed (endHold s))).conditions = _ := settle_part_same restX .conditions
    refine ⟨by simp [endHold], by rw [conditions, tills], fun c other => ?_, keepsAllBut_settle restX kept⟩
    rw [State.latched, conditions]
    exact (latches c).trans (if_neg other)

/-! ### The write of a unit beside a PENDING hold -/

/-- The verified write of the last unit grants the PENDING hold (R81). -/
theorem RoomOffered.holdGranted (room : RoomOffered s o u []) (pending : s.arbiter.hold = .pending)
    (alone : s.waiters = []) : ∃ t, exec (.unitWriteComplete .verified) s = .next t ∧ t.buffer = [] ∧
      t.arbiter.hold = .held ∧ t.arbiter.lapse = some 120 ∧ stored u s t ∧ linesAfterStore u s t ∧
      replied .office o.tag (.holdOk (s.now.map fun d => reportedTime d 120)) s t ∧ onlyLevels s t ∧
      keepsAllBut [.areas, .lines, .buffer, .hold, .conditions, .outstanding .office, .replies .office] s t := by
  obtain ⟨buffer, areas, lines, levels, toX⟩ := room.unitStored_spec
  have step := room.step
  rw [offerRoom_none ((toX .waiters (by simp)).trans alone)] at step
  generalize unitStored u s = x at *
  have served := OfficeServed.of_kept ⟨room.receives, room.outstanding⟩ toX (by simp) (by simp) (by simp)
  obtain ⟨held, lapse, reply, kept⟩ := served.holdGranted ((toX .hold (by simp)).1.trans pending) buffer
  have now : x.now = s.now := by simp only [State.now, (toX .clock (by simp)).1]
  exact ⟨_, step, (kept .buffer (by simp)).trans buffer, held, lapse, stored_of_kept areas kept (by simp),
    linesAfterStore_of_kept lines kept (by simp), now ▸ replied_of_kept toX (by simp) reply, settle_onlyLevels levels,
    keepsAllBut_trans (keepsAllBut_mono toX (by simp)) (keepsAllBut_mono kept (by simp))⟩

/-- The store FAULTED by a unit's second failure (R112). -/
def unitFaulted (u : CommitUnit) (a : Bool) (s : State) : State :=
  reportLevels (setService .idle (setFaulted true (failUnit u a s)))

theorem unitFaulted_spec (u : CommitUnit) (a : Bool) (s : State) :
    let x := unitFaulted u a s
    leftUnstored u a s x ∧ x.store.faulted = true ∧ onlyLevels s x ∧ keepsAllBut [.areas, .conditions] s x := by
  obtain ⟨areas, failed, -⟩ := failUnit_spec u a s
  have kept : keepsAllBut [.areas] s (setService .idle (setFaulted true (failUnit u a s))) :=
    keepsAllBut_trans failed
      (keepsAllBut_trans (setFaulted_keeps _ _) (keepsAllBut_mono (setService_keeps _ _) (by simp)))
  refine ⟨?_, by simp [unitFaulted, setService, setFaulted], onlyLevels_report (kept .conditions (by simp)),
    keepsAllBut_trans (keepsAllBut_mono kept (by simp)) (keepsAllBut_mono (reportLevels_keeps _) (by simp))⟩
  have store : (unitFaulted u a s).store = (setService .idle (setFaulted true (failUnit u a s))).store := by
    simp [unitFaulted]
  rw [leftUnstored, store]
  exact areas

/-- The second failure of a unit with no waiter that the latch withdraws (R112, R124). -/
theorem unitWriteFailed_exec (running : s.running = true) (buffer : s.buffer = u :: rest)
    (rewriting : s.store.service = .rewriting) (stay : ∀ w ∈ s.waiters, w.job.withdrawable = false) (a : Bool) :
    exec (.unitWriteComplete (.failed a)) s = .next (settle (refusePendingHold (unitFaulted u a s))) := by
  obtain ⟨-, -, -, kept⟩ := unitFaulted_spec u a s
  have idle : s.draining = false := by
    have : s.supply.state = .run := by simpa [State.running] using running
    simp [State.draining, this]
  have runs : (failUnit u a s).running = true := running
  have waiters : (unitFaulted u a s).waiters = s.waiters := kept .waiters (by simp)
  have faults : storeFault (failUnit u a s) = refusePendingHold (unitFaulted u a s) := by
    simp only [storeFault, runs, if_true]
    exact congrArg refusePendingHold (withdrawWaiters_none (s := unitFaulted u a s) (by rwa [waiters]) _)
  have write : unitWrite u (.failed a) s = refusePendingHold (unitFaulted u a s) := by
    simp only [unitWrite, rewriting, faults]
  simp [exec, execUnitWriteComplete, buffer, idle, write]

/-- STORE_FAULT latches beside a PENDING hold, which is refused (R81, R112). -/
theorem holdRefused_atFault (receives : s.receives .office = true) (outstanding : s.officePort.outstanding = some o)
    (pending : s.arbiter.hold = .pending) (buffer : s.buffer = u :: rest) (rewriting : s.store.service = .rewriting)
    (stay : ∀ w ∈ s.waiters, w.job.withdrawable = false) (a : Bool) :
    ∃ t, exec (.unitWriteComplete (.failed a)) s = .next t ∧ (t.arbiter.hold = .none ∧ t.arbiter.lapse = none) ∧
      t.store.faulted = true ∧ leftUnstored u a s t ∧ replied .office o.tag (.refused .suspended o.kind 0 0) s t ∧
      onlyLevels s t ∧ keepsAllBut [.areas, .hold, .conditions, .outstanding .office, .replies .office] s t := by
  obtain ⟨areas, faulted, levels, toX⟩ := unitFaulted_spec u a s
  have step := unitWriteFailed_exec (receives_running receives) buffer rewriting stay a
  generalize unitFaulted u a s = x at *
  have served := OfficeServed.of_kept ⟨receives, outstanding⟩ toX (by simp) (by simp) (by simp)
  obtain ⟨none, lapse, reply, kept⟩ := served.holdRefused ((toX .hold (by simp)).1.trans pending)
  obtain ⟨slots, journal, summaries, image, cell, stands⟩ := areas_same (kept .areas (by simp))
  refine ⟨_, step, ⟨none, lapse⟩, stands.trans faulted, ?_, replied_of_kept toX (by simp) reply,
    onlyLevels_trans levels (onlyLevels_of_conditions (kept .conditions (by simp))),
    keepsAllBut_trans (keepsAllBut_mono toX (by simp)) (keepsAllBut_mono kept (by simp))⟩
  simpa only [leftUnstored, slots, journal, summaries, image, cell] using areas

end

/-- Settles O49: the hold in each of its three states, its lapse, and the two ends of a unit's write beside a PENDING
one. -/
theorem officeHold : Obligations.OfficeHold := by
  intro s rest
  refine ⟨fun taken => ?_, fun tag takes => ⟨fun editable free => ⟨holdRequest_waits takes editable free,
    holdRequest_granted takes editable free⟩, fun editable held => ?_, fun commissioned held => ?_,
    fun commissioned free => ?_⟩, fun running held due => ?_, fun o u behind receives outstanding pending buffer =>
    ⟨fun last alone service => ?_, fun a stay rewriting =>
      holdRefused_atFault receives outstanding pending buffer rewriting stay a⟩⟩
  · refine ⟨settle s, ?_, settle_keeps rest⟩
    simp [exec, execEngineGrant, State.nextGrant, taken]
  · refine takeOffice_refused takes rest _ .holdActive 0 rfl ?_
    simp [serveHoldRequest, parseNone_nil, editable, held, officeRefuse]
  · simpa only [dropLoad_eq] using holdRelease_ends takes commissioned held
  · refine takeOffice_refused takes rest _ .notHeld 0 rfl ?_
    simp [serveHoldRelease, parseNone_nil, commissioned, free, officeRefuse]
  · simpa only [dropLoad_eq] using holdLapse_ends running held due
  · subst last
    exact RoomOffered.holdGranted ⟨receives, outstanding, buffer, by simp, service⟩ pending alone

end Sys2Proof.Machine
end

section
/-! SUPPORT. A grant that ends a slot's work or begins its fetch: the lookup, the refusals and the abandoned quote (R60,
R61, R62, R66, R79). -/

namespace Sys2Proof.Machine

section

variable {s x : State} {k : Till} {q : QuoteRecord} {l : LineNo} {r : Record} {meter : Nat} {order : List LineNo}

/-- The Working Set is its lines and their recency order (R96, R97). -/
theorem working_eq_of_lines {s t : State} (lines : ∀ j, t.line j = s.line j)
    (recency : t.working.recency = s.working.recency) : t.working = s.working := by
  have same : t.working.lines = s.working.lines := Vector.ext fun i hi => lines ⟨i, hi⟩
  cases hs : s.working; cases ht : t.working
  simp_all

/-- A grant was used for the slot, and no other work of it waits for one (R79, R80). -/
def grantUsed (k : Till) (s t : State) : Prop :=
  t.arbiter.pointer = k ∧ t.arbiter.pending.get k = false ∧
    ∀ j, j ≠ k → t.arbiter.pending.get j = s.arbiter.pending.get j

/-- The parts that a grant changes which answers its slot's request with nothing posted. -/
abbrev refusedParts (k : Till) : List Part :=
  [.slot k, .lines, .grants, .conditions, .outstanding (.till k), .replies (.till k)]

/-- A quote that has reserved nothing (R58). -/
structure QuoteRecord.Unpriced (q : QuoteRecord) : Prop where
  budget : q.reservedBudget = none
  reservation : q.journalReservation = false

/-- A state within the grant of a slot, in which the slot's pin and the lines alone have changed. -/
structure InGrant (k : Till) (s x : State) : Prop where
  hold : s.arbiter.hold = .none
  arbiter : x.arbiter = (s.pointed k).arbiter
  store : x.store = s.store
  kept : keepsAllBut [.lines, .slot k] (s.pointed k) x

theorem inGrant_pointed (hold : s.arbiter.hold = .none) : InGrant k s (s.pointed k) :=
  ⟨hold, rfl, rfl, keepsAllBut_refl _ _⟩

/-- The end of a grant whose quote closes with nothing to give back, and is answered (R65, R66). -/
theorem InGrant.closes (h : InGrant k s x) (quote : (x.slot k).quote = some q) (reprint : (x.slot k).reprint = none)
    (unpriced : q.Unpriced) (outcome : CloseOutcome) (reply : Reply) :
    let t := settle (settlePending k (tillReply k q.replyTag reply (closeQuote k outcome x)))
    t.slot k = (x.slot k).closedBare q.id outcome ∧ tillReplied k q.replyTag reply s t ∧ grantUsed k s t ∧
      onlyLevels s t ∧
      (∀ j, t.line j = if findPinned (.slot k) x = some j then { x.line j with pin := none } else x.line j) ∧
      t.working.recency = x.working.recency ∧ keepsAllBut (refusedParts k) s t := by
  obtain ⟨slot, reserved, journal, lines, recency, levels, -, -, arbiter, -⟩ := closeQuote_spec outcome quote reprint
  have closed : keepsAllBut [.slot k, .lines, .conditions] x (closeQuote k outcome x) := by
    intro p hp
    by_cases h1 : p = .reserved
    · subst h1; exact reserved.trans (by simp [unpriced.budget])
    by_cases h2 : p = .journal
    · subst h2; exact journal.trans (by simp [unpriced.reservation])
    · exact closeQuote_keeps outcome quote reprint p (by simp_all)
  have toY : keepsAllBut [.slot k, .lines, .conditions] (s.pointed k) (closeQuote k outcome x) :=
    keepsAllBut_trans (keepsAllBut_mono h.kept (by simp)) closed
  generalize closeQuote k outcome x = y at *
  have answered := tillReply_keeps k q.replyTag reply y
  have whole : keepsAllBut [.slot k, .lines, .conditions, .outstanding (.till k), .replies (.till k)] (s.pointed k)
      (tillReply k q.replyTag reply y) :=
    keepsAllBut_trans (keepsAllBut_mono toY (by simp)) (keepsAllBut_mono answered (by simp))
  obtain ⟨pointer, wants, others, all, slots, linesT, order, replies, outstanding, conditions, -⟩ :=
    grant_end h.hold (by simp [arbiter, h.arbiter]) whole
  have slotT : (settle (settlePending k (tillReply k q.replyTag reply y))).slot k =
      (x.slot k).closedBare q.id outcome := by
    rw [slots, tillReply_slot, slot, VendSlot.closedBare, reprint]
  have replied := tillReplied_of_kept toY (by simp) (tillReply_replied k q.replyTag reply y)
  refine ⟨slotT, tillReplied_congr replied (replies _) (outstanding _), ⟨pointer, ?_, others⟩, ?_, fun j => ?_, ?_,
    keepsAllBut_mono all (by simp)⟩
  · rw [wants, tillReply_slot, slot]
    rfl
  · exact onlyLevels_congr levels (h.kept .conditions (by simp)).symm (conditions.trans (by simp))
  · exact (linesT j).trans ((line_congr (answered .lines (by simp)) j).trans (lines j))
  · rw [order, show (tillReply k q.replyTag reply y).working = y.working from answered .lines (by simp), recency]

/-- The same where the slot pins no line: the Working Set stands. -/
theorem InGrant.closes_unpinned (h : InGrant k s x) (quote : (x.slot k).quote = some q)
    (reprint : (x.slot k).reprint = none) (unpriced : q.Unpriced) (unpinned : findPinned (.slot k) x = none)
    (working : x.working = s.working) (outcome : CloseOutcome) (reply : Reply) :
    let t := settle (settlePending k (tillReply k q.replyTag reply (closeQuote k outcome x)))
    t.slot k = (x.slot k).closedBare q.id outcome ∧ tillReplied k q.replyTag reply s t ∧ grantUsed k s t ∧
      onlyLevels s t ∧
      keepsAllBut [.slot k, .grants, .conditions, .outstanding (.till k), .replies (.till k)] s t := by
  obtain ⟨slot, replied, used, levels, lines, recency, kept⟩ := h.closes quote reprint unpriced outcome reply
  refine ⟨slot, replied, used, levels, fun p hp => ?_⟩
  by_cases e : p = .lines
  · subst e
    refine working_eq_of_lines (fun j => ?_) (by rw [recency, working])
    rw [lines, unpinned, if_neg nofun, line_congr working]
  · exact kept p (by simp_all)

/-! ### A lookup that misses -/

/-- A fetch begun for a slot, queued behind the others or begun by the idle store (R98, R108, R109). -/
def fetchBegun (l : LineNo) (meter slot : Nat) (s t : State) : Prop :=
  (s.store.service ≠ .idle → t.store.service = s.store.service ∧
    t.store.queue = s.store.queue ++ [.record l meter slot]) ∧
  (s.store.service = .idle → s.buffer = [] → s.store.queue = [] → s.store.retryWaiting = false →
    t.store.service = .reading (.record l meter slot) ∧ t.store.queue = [])

/-- The end of a grant that misses: the line is FILLING, the slot changes by `f`, and the fetch is queued (R98, R99). -/
theorem grant_misses (running : s.running = true) (hold : s.arbiter.hold = .none) (vict : victim s = l) (slot : Nat)
    (f : VendSlot → VendSlot) (waits : (f { s.slot k with pin := some meter }).wantsGrant = false) :
    let t := settle (settlePending k ((startFetch (.slot k) meter slot (s.pointed k)).modSlot k f))
    t.slot k = f { s.slot k with pin := some meter } ∧
      lineBecomes l ⟨.filling, some meter, some (.slot k), 0, none⟩ s t ∧ grantUsed k s t ∧
      fetchBegun l meter slot s t ∧ keepsAllBut [.slot k, .lines, .grants] s t := by
  obtain ⟨line, others, recency, slotIs, -, -, store, kept⟩ := startFetch_spec k meter slot (s.pointed k) l vict
  have frame := startFetch_frame (.slot k) meter slot (s.pointed k)
  generalize startFetch (.slot k) meter slot (s.pointed k) = y at *
  have changed : keepsAllBut [.lines, .slot k] (s.pointed k) (y.modSlot k f) :=
    keepsAllBut_trans kept (keepsAllBut_mono (modSlot_keeps y k f) (by simp))
  have arbiter : y.arbiter = (s.pointed k).arbiter := by simp [frame]
  obtain ⟨pointer, wants, pending, all, slots, linesT, order, -⟩ := grant_end (x := y.modSlot k f) hold arbiter changed
  have rest : (settlePending k (y.modSlot k f)).holdAtRest :=
    holdAtRest_of_not_pending (by simp [settlePending, arbiter, hold])
  have storeT : (settlePending k (y.modSlot k f)).store = _ := store
  have runs : (settlePending k (y.modSlot k f)).running = true := by
    rw [← running]; simp only [State.running]; exact congrArg (·.state == _) (kept .supply (by simp))
  have buffer : (settlePending k (y.modSlot k f)).buffer = s.buffer := kept .buffer (by simp)
  refine ⟨?_, ⟨(linesT l).trans line, fun j hj => (linesT j).trans (others j hj), order.trans recency⟩,
    ⟨pointer, ?_, pending⟩, ⟨fun busy => ?_, fun idle empty none noRetry => ?_⟩, keepsAllBut_mono all (by simp)⟩
  · rw [slots, State.slot_modSlot_same, slotIs]
    rfl
  · rw [wants, State.slot_modSlot_same, slotIs]
    exact waits
  · rw [settle_busy rest (by rw [storeT]; exact busy), storeT]
    exact ⟨rfl, rfl⟩
  · refine settle_idle_store rest runs (by rw [storeT]; exact idle) (by rw [storeT, none]; rfl)
      (by rw [storeT]; exact noRetry) (by rw [buffer, empty]; simp)

/-! ### The slot's pin on its meter's line -/

theorem lookup_own (found : findLine meter s = some l) (own : (s.line l).pin = none ∨ (s.line l).pin = some (.slot k)) :
    lookup (.slot k) meter s = .hit l := by
  rcases own with h | h <;> simp [lookup, found, h]

theorem lookup_busy {o : Owner} (found : findLine meter s = some l) (pinned : (s.line l).pin = some o)
    (other : o ≠ .slot k) : lookup (.slot k) meter s = .busy := by
  simp [lookup, found, pinned, other]

theorem lookup_miss (absent : findLine meter s = none) : lookup (.slot k) meter s = .miss := by
  simp [lookup, absent]

/-- A state within the grant in which the slot stands at `v`, pins its meter's line and reads its record (R60, R61). -/
structure PinHeld (k : Till) (meter : Nat) (l : LineNo) (r : Record) (order : List LineNo) (v : VendSlot)
    (s x : State) : Prop extends InGrant k s x where
  slot : x.slot k = v
  line : x.line l = { s.line l with pin := some (.slot k) }
  others : ∀ j, j ≠ l → x.line j = s.line j
  recency : x.working.recency = order
  pinned : findPinned (.slot k) x = some l
  record : lineRecord meter x = some r

theorem lineRecord_eq (found : findLine meter s = some l) (record : (s.line l).record = some r) :
    lineRecord meter s = some r := by
  simp [lineRecord, found, record]

/-- The continuation holds its pin (R61). -/
theorem pinHeld_pointed (hold : s.arbiter.hold = .none) (pins : s.pins (.slot k) meter l r) :
    PinHeld k meter l r s.working.recency (s.slot k) s (s.pointed k) := by
  obtain ⟨found, line, -, pinned⟩ := pins
  refine ⟨inGrant_pointed hold, rfl, ?_, fun _ _ => rfl, rfl, pinned,
    lineRecord_eq (s := s.pointed k) found (congrArg Line.record line)⟩
  show s.line l = { s.line l with pin := some (.slot k) }
  rw [line]

/-- A hit takes the pin, or keeps it where the slot has it for its OPEN quote (R73, R98). -/
theorem pinHeld_pinLine (hold : s.arbiter.hold = .none) (found : findLine meter s = some l)
    (record : (s.line l).record = some r)
    (free : findPinned (.slot k) s = none ∨ (s.line l).pin = some (.slot k) ∧ findPinned (.slot k) s = some l) :
    PinHeld k meter l r (s.working.recency.erase l ++ [l]) { s.slot k with pin := some meter } s
      (pinLine (.slot k) l meter (s.pointed k)) := by
  have pinned : findPinned (.slot k) (pinLine (.slot k) l meter (s.pointed k)) = some l := by
    obtain ⟨line, others, -⟩ := pinLine_spec k l meter (s.pointed k)
    rcases free with none | ⟨own, pinned⟩
    · exact findPinned_pinLine none
    · rw [← pinned]
      refine findPinned_of_pins (fun j => ?_) _
      by_cases hj : j = l
      · subst hj; rw [line, own]
      · rw [others j hj]; rfl
  obtain ⟨line, others, recency, slot, -, kept, -⟩ := pinLine_spec k l meter (s.pointed k)
  have store : (pinLine (.slot k) l meter (s.pointed k)).store = s.store := by simp
  have arbiter : (pinLine (.slot k) l meter (s.pointed k)).arbiter = (s.pointed k).arbiter := by simp
  generalize pinLine (.slot k) l meter (s.pointed k) = x at *
  have foundX : findLine meter x = some l := by
    rw [findLine_of_meters (s := s) (fun j => ?_), found]
    by_cases hj : j = l
    · subst hj; rw [line]; rfl
    · rw [others j hj]; rfl
  exact ⟨⟨hold, arbiter, store, kept⟩, slot, line, others, recency, pinned,
    lineRecord_eq foundX (by rw [line]; exact record)⟩

/-- The end of a grant whose quote closes with nothing to give back and its pin released (R62, R102). -/
theorem PinHeld.closes {v : VendSlot} (h : PinHeld k meter l r order v s x) (quote : v.quote = some q)
    (reprint : v.reprint = none) (unpriced : q.Unpriced) (outcome : CloseOutcome) (reply : Reply) :
    let t := settle (settlePending k (tillReply k q.replyTag reply (closeQuote k outcome x)))
    tillReplied k q.replyTag reply s t ∧ t.slot k = v.closedBare q.id outcome ∧
      lineIs l { s.line l with pin := none } order s t ∧ grantUsed k s t ∧ onlyLevels s t ∧
      keepsAllBut (refusedParts k) s t := by
  obtain ⟨slot, replied, used, levels, lines, recency, kept⟩ := h.toInGrant.closes (by rw [h.slot, quote])
    (by rw [h.slot, reprint]) unpriced outcome reply
  refine ⟨replied, by rw [slot, h.slot], ⟨?_, fun j hj => ?_, recency.trans h.recency⟩, used, levels, kept⟩
  · rw [lines, if_pos h.pinned, h.line]
  · rw [lines, h.pinned, if_neg (by simpa using Ne.symm hj), h.others j hj]

end

end Sys2Proof.Machine
end

section
/-! SUPPORT. The grants of a QUOTING quote that end it, or begin its fetch. -/

namespace Sys2Proof.Machine

section

variable {s x : State} {k : Till} {q : QuoteRecord} {l : LineNo} {r : Record} {tf : Tariff} {d : DateTime}

/-- The computing grant refuses the record with this code and detail (Table 3-2, steps 8 to 12). -/
inductive QuoteFails (q : QuoteRecord) (r : Record) (s : State) : RefusalCode → Nat → Prop where
  | blocked : r.account = .blocked → QuoteFails q r s .meterBlocked 0
  | retired : r.account = .retired → QuoteFails q r s .meterRetired 0
  | tariffUnset : r.account = .active → s.site.active[r.tariffIndex]?.getD none = none →
      QuoteFails q r s .tariffUnset 0
  | nothingToIssue (tf : Tariff) (d : DateTime) : r.account = .active → s.now = some d →
      s.site.active[r.tariffIndex]?.getD none = some tf →
      priceQuote r tf s.site.generation (monthTagOf d.day) q.tender = .error .nothingToIssue →
      QuoteFails q r s .nothingToIssue 0
  | belowCharges (tf : Tariff) (d : DateTime) (c : Nat) : r.account = .active → s.now = some d →
      s.site.active[r.tariffIndex]?.getD none = some tf →
      priceQuote r tf s.site.generation (monthTagOf d.day) q.tender = .error (.belowCharges c) →
      QuoteFails q r s .belowCharges c
  | journalFull (tf : Tariff) (d : DateTime) (p : Priced) : r.account = .active → s.now = some d →
      s.site.active[r.tariffIndex]?.getD none = some tf →
      priceQuote r tf s.site.generation (monthTagOf d.day) q.tender = .ok p →
      q.tender ≤ s.site.budget - s.reserved → s.salesFree ≤ 16 → QuoteFails q r s .journalFull 0

theorem currentMonth_eq (now : s.now = some d) : s.currentMonth = monthTagOf d.day := by
  rw [State.currentMonth, now]

/-- What fails is refused (R7, R35, R39, R135). -/
theorem QuoteFails.computeQuote_eq {code : RefusalCode} {detail : Nat} (h : QuoteFails q r s code detail) :
    computeQuote k q r s = refuseQuote k q code detail s := by
  cases h with
  | blocked account => simp [computeQuote, accountRefusal, account]
  | retired account => simp [computeQuote, accountRefusal, account]
  | tariffUnset account tariff => simp [computeQuote, accountRefusal, State.tariffOf, account, tariff]
  | nothingToIssue tf d account now tariff priced =>
    simp [computeQuote, accountRefusal, State.tariffOf, account, tariff, currentMonth_eq now, priced]
  | belowCharges tf d c account now tariff priced =>
    simp [computeQuote, accountRefusal, State.tariffOf, account, tariff, currentMonth_eq now, priced]
  | journalFull tf d p account now tariff priced budget full =>
    have room : s.roomForOffice = false := by simpa [State.roomForOffice] using full
    simp [computeQuote, accountRefusal, State.tariffOf, account, tariff, currentMonth_eq now, priced,
      Nat.not_lt.mpr budget, room]

/-- The computation reads nothing of the slots and the lines. -/
theorem QuoteFails.of_inGrant {code : RefusalCode} {detail : Nat} (h : QuoteFails q r s code detail)
    (inside : InGrant k s x) : QuoteFails q r x code detail := by
  have site : x.site = s.site := inside.kept .site (by simp)
  have reserved : x.reserved = s.reserved := inside.kept .reserved (by simp)
  have nowX : x.now = s.now := by simp only [State.now, (inside.kept .clock (by simp)).1]
  have buffer : x.buffer = s.buffer := inside.kept .buffer (by simp)
  have journal : x.journal = s.journal := inside.kept .journal (by simp)
  have free : x.salesFree = s.salesFree := by
    simp only [State.salesFree, State.free, State.held, State.heldEntries, State.buffered, inside.store, site, buffer,
      journal]
  cases h with
  | blocked account => exact .blocked account
  | retired account => exact .retired account
  | tariffUnset account tariff => exact .tariffUnset account (by rw [site, tariff])
  | nothingToIssue tf d account now tariff priced =>
    exact .nothingToIssue tf d account (by rw [nowX, now]) (by rw [site, tariff]) (by rw [site, priced])
  | belowCharges tf d _ account now tariff priced =>
    exact .belowCharges tf d _ account (by rw [nowX, now]) (by rw [site, tariff]) (by rw [site, priced])
  | journalFull tf d p account now tariff priced budget full =>
    exact .journalFull tf d p account (by rw [nowX, now]) (by rw [site, tariff]) (by rw [site, priced])
      (by rw [site, reserved]; exact budget) (by rw [free]; exact full)

/-- A QUOTING slot with no reprint whose request the arbiter grants next (R79). -/
structure QuoteGranted (s : State) (k : Till) (q : QuoteRecord) : Prop where
  running : s.running = true
  hold : s.arbiter.hold = .none
  next : (grantOrder s.arbiter.pointer).find? (fun j => s.arbiter.pending.get j) = some k
  state : (s.slot k).state = .quoting
  quote : (s.slot k).quote = some q
  reprint : (s.slot k).reprint = none

theorem QuoteGranted.exec_eq (h : QuoteGranted s k q) {y : State} (stage : quoteStage k (s.pointed k) = y) :
    exec .engineGrant s = .next (settle (settlePending k y)) := by
  have served : slotStage k (s.pointed k) = y := by
    have state : ((s.pointed k).slot k).state = .quoting := h.state
    rw [← stage, slotStage, state]
  rw [engineGrant_exec h.running h.hold h.next, ← served]

/-- An abandoned quote closes at its grant (R66). -/
theorem QuoteGranted.abandoned (h : QuoteGranted s k q) {c : AbandonCause} (abandon : (s.slot k).abandon = some c) :
    quoteStage k (s.pointed k) =
      tillReply k q.replyTag (.refused .quoteExpired kindQuote q.id (outcomeNumber c.outcome))
      (closeQuote k c.outcome (s.pointed k)) := by
  have quote : ((s.pointed k).slot k).quote = some q := h.quote
  have abandoned : ((s.pointed k).slot k).abandon = some c := abandon
  simp only [quoteStage, quote, abandoned, abandonQuote]

/-- The first grant of a quote looks its meter up (R60). -/
theorem QuoteGranted.looksUp (h : QuoteGranted s k q) (abandon : (s.slot k).abandon = none)
    (unpinned : (s.slot k).pin = none) : quoteStage k (s.pointed k) = lookupQuote k q (s.pointed k) := by
  have quote : ((s.pointed k).slot k).quote = some q := h.quote
  have go : ((s.pointed k).slot k).abandon = none := abandon
  have pin : ((s.pointed k).slot k).pin = none := unpinned
  simp only [quoteStage, quote, go, pin, Option.isSome_none, Bool.false_eq_true, if_false]

theorem refuseQuote_eq (go : (s.slot k).abandon = none) (code : RefusalCode) (detail : Nat) :
    refuseQuote k q code detail s =
      tillReply k q.replyTag (.refused code kindQuote q.id detail) (closeQuote k .refused s) := by
  simp only [refuseQuote, go]

/-- A first grant that refuses without a pin (R60, R98). -/
theorem QuoteGranted.refused_unpinned (h : QuoteGranted s k q) (abandon : (s.slot k).abandon = none)
    (unpinned : (s.slot k).pin = none) {code : RefusalCode}
    (refuses : lookupQuote k q (s.pointed k) = refuseQuote k q code 0 (s.pointed k)) (unpriced : q.Unpriced)
    (noPin : findPinned (.slot k) s = none) :
    ∃ t, exec .engineGrant s = .next t ∧ tillReplied k q.replyTag (.refused code kindQuote q.id 0) s t ∧
      t.slot k = { s.slot k with state := .idle, quote := none, timer := none, lastClosed := some (q.id, .refused) } ∧
      grantUsed k s t ∧ onlyLevels s t ∧
      keepsAllBut [.slot k, .grants, .conditions, .outstanding (.till k), .replies (.till k)] s t := by
  obtain ⟨slot, replied, used, levels, kept⟩ := (inGrant_pointed (k := k) h.hold).closes_unpinned h.quote h.reprint
    unpriced noPin rfl .refused (.refused code kindQuote q.id 0)
  have stage := (h.looksUp abandon unpinned).trans (refuses.trans (refuseQuote_eq (s := s.pointed k) abandon code 0))
  refine ⟨_, h.exec_eq stage, replied,
    slot.trans ?_, used, levels, kept⟩
  show (s.slot k).closedBare q.id .refused = _
  simp only [VendSlot.closedBare, abandon, unpinned]

/-- A grant computes the quote in a state that holds its pin: a hit takes it, the continuation has it (R60, R61). -/
theorem QuoteGranted.computes (h : QuoteGranted s k q) (abandon : (s.slot k).abandon = none)
    (present : (s.slot k).pin = none ∧ (∃ e, dirFind q.meter s.directory = some e ∧ e.damaged = false) ∧
        s.hits (.slot k) q.meter l r ∨ (s.slot k).pin = some q.meter ∧ s.pins (.slot k) q.meter l r) :
    ∃ x, PinHeld k q.meter l r (if (s.slot k).pin = none then s.working.recency.erase l ++ [l] else s.working.recency)
        { s.slot k with pin := some q.meter } s x ∧
      quoteStage k (s.pointed k) = computeQuote k q r x := by
  rcases present with ⟨unpinned, ⟨e, entry, sound⟩, hits⟩ | ⟨pinned, pins⟩
  · obtain ⟨found, line, -, none⟩ := hits
    have held := pinHeld_pinLine h.hold found (by rw [line]) (.inl none)
    refine ⟨pinLine (.slot k) l q.meter (s.pointed k), by rw [if_pos unpinned]; exact held, ?_⟩
    have hit : lookup (.slot k) q.meter (s.pointed k) = .hit l :=
      lookup_own (s := s.pointed k) found (.inl (congrArg Line.pin line))
    have entryX : dirFind q.meter (s.pointed k).directory = some e := entry
    simp only [h.looksUp abandon unpinned, lookupQuote, entryX, sound, hit, computeFromLine, held.record,
      Bool.false_eq_true, if_false]
  · have held := pinHeld_pointed h.hold pins
    have same : { s.slot k with pin := some q.meter } = s.slot k := by rw [← pinned]
    refine ⟨s.pointed k, by rw [if_neg (by simp [pinned]), same]; exact held, ?_⟩
    have quote : ((s.pointed k).slot k).quote = some q := h.quote
    have go : ((s.pointed k).slot k).abandon = none := abandon
    have pin : ((s.pointed k).slot k).pin = some q.meter := pinned
    simp only [quoteStage, quote, go, pin, Option.isSome_some, if_true, computeFromLine, held.record]

/-- A computing grant that refuses closes the quote and releases its pin (R62). -/
theorem QuoteGranted.refused_pinned (h : QuoteGranted s k q) (abandon : (s.slot k).abandon = none)
    (present : (s.slot k).pin = none ∧ (∃ e, dirFind q.meter s.directory = some e ∧ e.damaged = false) ∧
        s.hits (.slot k) q.meter l r ∨ (s.slot k).pin = some q.meter ∧ s.pins (.slot k) q.meter l r)
    {code : RefusalCode} {detail : Nat} (fails : QuoteFails q r s code detail) (unpriced : q.Unpriced) :
    ∃ t, exec .engineGrant s = .next t ∧ tillReplied k q.replyTag (.refused code kindQuote q.id detail) s t ∧
      t.slot k = { s.slot k with
        state := .idle, quote := none, timer := none, pin := none, lastClosed := some (q.id, .refused) } ∧
      lineIs l { s.line l with pin := none }
        (if (s.slot k).pin = none then s.working.recency.erase l ++ [l] else s.working.recency) s t ∧
      grantUsed k s t ∧ onlyLevels s t ∧ keepsAllBut (refusedParts k) s t := by
  obtain ⟨x, held, stage⟩ := h.computes abandon present
  have go : (x.slot k).abandon = none := by rw [held.slot]; exact abandon
  have refuses := (fails.of_inGrant held.toInGrant).computeQuote_eq (k := k)
  obtain ⟨replied, slot, ends⟩ := held.closes h.quote h.reprint unpriced .refused (.refused code kindQuote q.id detail)
  refine ⟨_, h.exec_eq (stage.trans (refuses.trans (refuseQuote_eq go code detail))), replied, slot.trans ?_, ends⟩
  simp only [VendSlot.closedBare, abandon]

end

/-- Settles O31: the abandoned quote, the lookup without a pin, and the refusals of the computation. -/
theorem grantLooksUp : Obligations.GrantLooksUp := by
  intro s k q running hold next state quote reprint
  have granted : QuoteGranted s k q := ⟨running, hold, next, state, quote, reprint⟩
  refine ⟨fun c abandon ⟨budget, reservation⟩ => ?_, fun abandon unpinned => ⟨fun absent ⟨budget, reservation⟩ =>
    granted.refused_unpinned abandon unpinned ?_ ⟨budget, reservation⟩, fun e entry damaged ⟨budget, reservation⟩ =>
    granted.refused_unpinned abandon unpinned ?_ ⟨budget, reservation⟩, fun e entry sound =>
    ⟨fun l o found pinned other ⟨budget, reservation⟩ =>
      granted.refused_unpinned abandon unpinned ?_ ⟨budget, reservation⟩, fun l absent vict => ?_⟩⟩,
    fun l r abandon present => ?_⟩
  · obtain ⟨slot, replied, used, levels, lines, recency, kept⟩ := (inGrant_pointed (k := k) hold).closes quote reprint
      ⟨budget, reservation⟩ c.outcome (.refused .quoteExpired kindQuote q.id (outcomeNumber c.outcome))
    refine ⟨_, granted.exec_eq (granted.abandoned abandon), replied, slot.trans ?_, lines, recency, used, levels, kept⟩
    show (s.slot k).closedBare q.id c.outcome = _
    rw [VendSlot.closedBare, reprint]
  · have entryX : dirFind q.meter (s.pointed k).directory = none := absent
    simp only [lookupQuote, entryX]
  · have entryX : dirFind q.meter (s.pointed k).directory = some e := entry
    simp only [lookupQuote, entryX, damaged, if_true]
  · have entryX : dirFind q.meter (s.pointed k).directory = some e := entry
    have busy : lookup (.slot k) q.meter (s.pointed k) = .busy := lookup_busy (s := s.pointed k) found pinned other
    simp only [lookupQuote, entryX, sound, busy, Bool.false_eq_true, if_false]
  · have entryX : dirFind q.meter (s.pointed k).directory = some e := entry
    have miss : lookup (.slot k) q.meter (s.pointed k) = .miss := lookup_miss (s := s.pointed k) absent
    have stage : quoteStage k (s.pointed k) = (startFetch (.slot k) q.meter e.slot (s.pointed k)).modSlot k fun v =>
        { v with state := .fetching } := by
      simp only [granted.looksUp abandon unpinned, lookupQuote, entryX, sound, miss, Bool.false_eq_true, if_false]
    obtain ⟨slot, line, used, ⟨waits, begins⟩, kept⟩ := grant_misses (k := k) running hold vict e.slot
      (fun v => { v with state := .fetching }) (by simp [VendSlot.wantsGrant, reprint])
    exact ⟨_, granted.exec_eq stage, slot, line, used, waits, begins, kept⟩
  · have refused {code : RefusalCode} {detail : Nat} (fails : QuoteFails q r s code detail)
        (unpriced : q.reservedBudget = none ∧ q.journalReservation = false) :=
      granted.refused_pinned abandon present fails ⟨unpriced.1, unpriced.2⟩
    exact ⟨fun account => refused (.blocked account), fun account => refused (.retired account),
      fun account tariff => refused (.tariffUnset account tariff), fun tf d account now tariff =>
        ⟨fun priced => refused (.nothingToIssue tf d account now tariff priced),
          fun c priced => refused (.belowCharges tf d c account now tariff priced),
          fun p priced budget full => refused (.journalFull tf d p account now tariff priced budget full)⟩⟩

end Sys2Proof.Machine
end

section
/-! SUPPORT. The posting of a SALE, its reply made or discarded (R70, R77). -/

namespace Sys2Proof.Machine

section

variable {s x y : State} {k : Till} {q : QuoteRecord} {p : Priced} {b : BuiltSale} {e : DirEntry}
  {l : LineNo} {r : Record}

/-- The SALE unit entered, its image in the line, and the quote holding nothing to give back (R103, R121, R164). -/
def saleEntered (k : Till) (q : QuoteRecord) (p : Priced) (b : BuiltSale) (e : DirEntry) (r : Record) (y : State) :
    State :=
  let image := saleImage r q p b y.journal.nextSeq
  (lineTakesImage q.meter image (addUnit .sale (some (.image e.slot image))
    (some (.till k, .sale (saleFields q p b))) none (takeSale k q.tender p y))).modSlot k fun v =>
      { v with quote := some { q with reservedBudget := none, journalReservation := false } }

/-- A slot's built quote with all that its SALE reads (R69, R70). -/
structure SaleReady (k : Till) (q : QuoteRecord) (p : Priced) (b : BuiltSale) (e : DirEntry) (l : LineNo) (r : Record)
    (y : State) : Prop where
  quote : (y.slot k).quote = some q
  reprint : (y.slot k).reprint = none
  priced : q.priced = some p
  built : q.built = some b
  entry : dirFind q.meter y.directory = some e
  found : findLine q.meter y = some l
  pinned : findPinned (.slot k) y = some l
  record : (y.line l).record = some r

theorem SaleReady.postSale_eq (h : SaleReady k q p b e l r y) : postSale k y =
    tillReply k q.replyTag (.token (saleToken q p b y.journal.nextSeq))
      (closeQuote k .committed (saleEntered k q p b e r y)) := by
  simp only [postSale, h.quote, h.priced, h.built, lineRecord_eq h.found h.record, h.entry, saleEntered]

theorem takeSale_keeps (k : Till) (tender : Nat) (p : Priced) (s : State) :
    keepsAllBut [.site, .reserved] s (takeSale k tender p s) := by
  intro x hx
  cases x with
  | clock => exact ⟨rfl, rfl⟩
  | grants => exact ⟨rfl, rfl⟩
  | hold => exact ⟨rfl, rfl⟩
  | site => simp at hx
  | reserved => simp at hx
  | _ => rfl

/-- The unit of a SALE, as it enters the buffer in the state `y` (R119, R129). -/
def saleUnit (k : Till) (q : QuoteRecord) (p : Priced) (b : BuiltSale) (e : DirEntry) (r : Record) (y : State) :
    CommitUnit :=
  postedUnit y .sale (some (.image e.slot (saleImage r q p b y.journal.nextSeq))) y.now (.till k)
    (.sale (saleFields q p b)) (takeSale k q.tender p y).site

/-- All that entering the SALE does (R103, R121, R164). -/
theorem SaleReady.entered (h : SaleReady k q p b e l r y) :
    let x := saleEntered k q p b e r y
    posts (saleUnit k q p b e r y) (y.journal.reservations - 1) y x ∧ x.reserved = y.reserved - q.tender ∧
      x.slot k = { y.slot k with quote := some { q with reservedBudget := none, journalReservation := false } } ∧
      lineBecomes l { y.line l with
        dirty := (y.line l).dirty + 1, record := some (saleImage r q p b y.journal.nextSeq) } y x ∧
      findPinned (.slot k) x = some l ∧ onlyLevels y x ∧
      keepsAllBut [.site, .buffer, .journal, .reserved, .slot k, .lines, .conditions] y x := by
  generalize hA : takeSale k q.tender p y = A
  have taken : keepsAllBut [.site, .reserved] y A := hA ▸ takeSale_keeps k q.tender p y
  have reservedA : A.reserved = y.reserved - q.tender := by rw [← hA]; rfl
  have unitA : postedUnit A .sale (some (.image e.slot (saleImage r q p b y.journal.nextSeq))) A.now (.till k)
      (.sale (saleFields q p b)) A.site = saleUnit k q p b e r y := by rw [← hA]; rfl
  have unit := addUnit_entry .sale (some (.image e.slot (saleImage r q p b y.journal.nextSeq))) (.till k)
    (.sale (saleFields q p b)) A
  have added := addUnit_keeps .sale (some (.image e.slot (saleImage r q p b y.journal.nextSeq)))
    (some (.till k, .sale (saleFields q p b))) none A
  have levels := addUnit_levels .sale (some (.image e.slot (saleImage r q p b y.journal.nextSeq)))
    (some (.till k, .sale (saleFields q p b))) none A
  rw [unitA] at unit
  generalize hB : addUnit .sale (some (.image e.slot (saleImage r q p b y.journal.nextSeq)))
    (some (.till k, .sale (saleFields q p b))) none A = B at unit added levels
  have toB : keepsAllBut [.site, .buffer, .journal, .reserved, .conditions] y B :=
    keepsAllBut_trans (keepsAllBut_mono taken (by simp)) (keepsAllBut_mono added (by simp))
  have workingB : B.working = y.working := toB .lines (by simp)
  have foundB : findLine q.meter B = some l := (findLine_congr workingB _).trans h.found
  obtain ⟨line, others, recency, slots, -, imaged, -⟩ :=
    lineTakesImage_spec (saleImage r q p b y.journal.nextSeq) foundB
  have pins := lineTakesImage_findPinned (saleImage r q p b y.journal.nextSeq) foundB (.slot k)
  have result : saleEntered k q p b e r y = (lineTakesImage q.meter (saleImage r q p b y.journal.nextSeq) B).modSlot k
      fun v => { v with quote := some { q with reservedBudget := none, journalReservation := false } } := by
    rw [← hB, ← hA]; rfl
  rw [result]
  generalize lineTakesImage q.meter (saleImage r q p b y.journal.nextSeq) B = C at *
  obtain ⟨buffer, site, journal⟩ := unit
  have bufferA : A.buffer = y.buffer := taken .buffer (by simp)
  have journalA : A.journal = y.journal := taken .journal (by simp)
  have reservedC : C.reserved = A.reserved := (imaged .reserved (by simp)).trans (added .reserved (by simp))
  refine ⟨⟨?_, ?_, ?_⟩, reservedC.trans reservedA, ?_, ⟨?_, fun j hj => ?_, ?_⟩, ?_, ?_, ?_⟩
  · exact (imaged .buffer (by simp)).trans (by rw [buffer, bufferA])
  · exact (imaged .site (by simp)).trans site
  · exact (imaged .journal (by simp)).trans (by rw [journal, journalA])
  · rw [State.slot_modSlot_same, slots, toB (.slot k) (by simp)]
  · exact line.trans (by rw [line_congr workingB])
  · exact (others j hj).trans (line_congr workingB j)
  · exact recency.trans (by rw [workingB])
  · exact pins.trans ((findPinned_congr workingB _).trans h.pinned)
  · exact onlyLevels_trans (onlyLevels_of_conditions (taken .conditions (by simp)))
      (onlyLevels_trans levels (onlyLevels_of_conditions (imaged .conditions (by simp))))
  · exact keepsAllBut_trans (keepsAllBut_mono toB (by simp)) (keepsAllBut_trans (keepsAllBut_mono imaged (by simp))
      (keepsAllBut_mono (modSlot_keeps C k _) (by simp)))

/-- The parts that the posting of a SALE changes (R70). -/
abbrev soldParts (k : Till) : List Part :=
  [.site, .buffer, .journal, .reserved, .slot k, .lines, .conditions, .outstanding (.till k), .replies (.till k)]

/-- All that posting a SALE does, its reply made or discarded (R70, R77). -/
theorem SaleReady.posted (h : SaleReady k q p b e l r y) :
    let t := postSale k y
    posts (saleUnit k q p b e r y) (y.journal.reservations - 1) y t ∧ t.reserved = y.reserved - q.tender ∧
      t.slot k = ⟨.idle, none, none, none, none, some (q.id, .committed), none⟩ ∧
      lineBecomes l { y.line l with
        pin := none, dirty := (y.line l).dirty + 1, record := some (saleImage r q p b y.journal.nextSeq) } y t ∧
      tillReplied k q.replyTag (.token (saleToken q p b y.journal.nextSeq)) y t ∧ onlyLevels y t ∧
      keepsAllBut (soldParts k) y t := by
  obtain ⟨⟨buffer, site, journal⟩, reserved, slot, ⟨line, others, recency⟩, pinned, levels, toX⟩ := h.entered
  rw [h.postSale_eq]
  generalize saleEntered k q p b e r y = x at *
  have quoteX : (x.slot k).quote = some { q with reservedBudget := none, journalReservation := false } := by rw [slot]
  have reprintX : (x.slot k).reprint = none := by rw [slot]; exact h.reprint
  obtain ⟨slotC, reservedC, journalC, linesC, recencyC, levelsC, -, -, -, bufferC⟩ :=
    closeQuote_spec .committed quoteX reprintX
  have closed := closeQuote_keeps .committed quoteX reprintX
  generalize closeQuote k .committed x = c at *
  have toC : keepsAllBut [.site, .buffer, .journal, .reserved, .slot k, .lines, .conditions] y c :=
    keepsAllBut_trans toX (keepsAllBut_mono closed (by simp))
  have answered := tillReply_keeps k q.replyTag (.token (saleToken q p b y.journal.nextSeq)) c
  have replied := tillReply_replied k q.replyTag (.token (saleToken q p b y.journal.nextSeq)) c
  generalize tillReply k q.replyTag (.token (saleToken q p b y.journal.nextSeq)) c = t at *
  have lines : ∀ j, t.line j = c.line j := line_congr (answered .lines (by simp))
  have journalSame : c.journal = x.journal := by rw [journalC]; simp
  refine ⟨⟨?_, ?_, ?_⟩, ?_, ?_, ⟨?_, fun j hj => ?_, ?_⟩, tillReplied_of_kept toC (by simp) replied, ?_,
    keepsAllBut_trans (keepsAllBut_mono toC (by simp)) (keepsAllBut_mono answered (by simp))⟩
  · exact (answered .buffer (by simp)).trans (bufferC.trans buffer)
  · exact (answered .site (by simp)).trans ((closed .site (by simp)).trans site)
  · exact (answered .journal (by simp)).trans (journalSame.trans journal)
  · exact (answered .reserved (by simp)).trans (by rw [reservedC, reserved]; simp)
  · exact (answered (.slot k) (by simp)).trans slotC
  · rw [lines, linesC, if_pos pinned, line]
  · rw [lines, linesC, pinned, if_neg (by simpa using Ne.symm hj), others j hj]
  · rw [show t.working = c.working from answered .lines (by simp), recencyC, recency]
  · exact onlyLevels_trans levels
      (onlyLevels_trans levelsC (onlyLevels_of_conditions (answered .conditions (by simp))))

/-! ### The SALE of a quote, seen from the state before the command -/

/-- The record image of a SALE (R1, R2, R3, R89, R90). -/
def soldRecord (r : Record) (p : Priced) (id n : Nat) (token : Option BuiltToken) (day : Nat) : Record :=
  let sold : Record := { r with
    arrears := p.newArrears, monthTag := p.newMonthTag, monthUnits := p.newMonthUnits
    servicePaid := p.newServicePaid, lifelineGiven := p.newLifelineGiven, residue := p.newResidue, lastSeq := n }
  match token with
  | none => sold
  | some b => { sold with
      lastToken := b.sequence
      recent := (⟨b.digits, b.sequence, p.cls, p.total, day, id, n⟩ :: r.recent).take 3 }

theorem saleImage_eq (r : Record) (q : QuoteRecord) (p : Priced) (b : BuiltSale) (n : Nat) :
    saleImage r q p b n = soldRecord r p q.id n b.token b.issueDay := by
  cases b with
  | mk token day => cases token <;> rfl

/-- The SALE posted in a state whose buffer and lines stand at `buffer` and `line`, all else as in `s` (R70). -/
def saleSells (k : Till) (q : QuoteRecord) (e : DirEntry) (l : LineNo) (r : Record) (p : Priced) (s : State)
    (buffer : List CommitUnit) (line : LineNo → Line) (b : BuiltSale) (t : State) : Prop :=
  let n := s.journal.nextSeq
  let image := soldRecord r p q.id n b.token b.issueDay
  let u := postedUnit s .sale (some (.image e.slot image)) s.now (.till k) (.sale (saleFields q p b))
    (takeSale k q.tender p s).site
  t.buffer = buffer ++ [u] ∧ t.site = u.image ∧ t.journal = ⟨n + 1, s.journal.reservations - 1⟩ ∧
    t.reserved = s.reserved - q.tender ∧
    t.slot k = ⟨.idle, none, none, none, none, some (q.id, .committed), none⟩ ∧
    t.line l = { line l with pin := none, dirty := (line l).dirty + 1, record := some image } ∧
    (∀ j, j ≠ l → t.line j = line j) ∧ t.working.recency = s.working.recency.erase l ++ [l] ∧
    tillReplied k q.replyTag (.token (saleToken q p b n)) s t ∧ onlyLevels s t

/-- The parts that may have changed before a SALE is posted: by the grant, or by the write that gives it room. -/
abbrev beforeSale (k : Till) : List Part := [.areas, .waiters, .buffer, .lines, .slot k, .grants, .conditions]

theorem SaleReady.sells (h : SaleReady k { q with built := some b } p b e l r y) (kept : keepsAllBut (beforeSale k) s y)
    (levels : onlyLevels s y) (recency : y.working.recency = s.working.recency) {t : State}
    (after : keepsAllBut [.grants] (postSale k y) t) : saleSells k q e l r p s y.buffer y.line b t := by
  obtain ⟨⟨buffer, site, journal⟩, reserved, slot, ⟨line, others, order⟩, replied, more, -⟩ := h.posted
  have siteY : y.site = s.site := kept .site (by simp)
  have journalY : y.journal = s.journal := kept .journal (by simp)
  have nowY : y.now = s.now := by simp only [State.now, (kept .clock (by simp)).1]
  have unit : saleUnit k { q with built := some b } p b e r y =
      postedUnit s .sale (some (.image e.slot (soldRecord r p q.id s.journal.nextSeq b.token b.issueDay))) s.now
        (.till k) (.sale (saleFields q p b)) (takeSale k q.tender p s).site := by
    simp only [saleUnit, saleImage_eq, postedUnit, journalY, nowY, takeSale, siteY]
    rfl
  have lines : ∀ j, t.line j = (postSale k y).line j := line_congr (after .lines (by simp))
  rw [saleImage_eq, journalY] at line
  rw [journalY] at replied journal
  refine ⟨?_, ?_, (after .journal (by simp)).trans journal, ?_, (after (.slot k) (by simp)).trans slot,
    (lines l).trans line, fun j hj => (lines j).trans (others j hj), ?_, ?_, ?_⟩
  · exact (after .buffer (by simp)).trans (by rw [buffer, unit])
  · exact (after .site (by simp)).trans (by rw [site, unit])
  · exact (after .reserved (by simp)).trans
      (by rw [reserved, show y.reserved = s.reserved from kept .reserved (by simp)])
  · rw [show t.working = _ from after .lines (by simp), order, recency]
  · exact tillReplied_congr (tillReplied_of_kept kept (by simp) replied) (after (.replies _) (by simp))
      (after (.outstanding _) (by simp))
  · exact onlyLevels_trans levels (onlyLevels_trans more (onlyLevels_of_conditions (after .conditions (by simp))))

/-! ### The confirm grant -/

theorem settlePending_keeps (k : Till) (x : State) : keepsAllBut [.grants] x (settlePending k x) := by
  intro p hp
  cases p with
  | grants => simp at hp
  | clock => exact ⟨rfl, rfl⟩
  | hold => exact ⟨rfl, rfl⟩
  | _ => rfl

/-- What the confirm grant builds (R69, R88). -/
def saleBuilt (q : QuoteRecord) (p : Priced) (r : Record) (d : DateTime) (s : State) : BuiltSale :=
  ⟨if p.cls = .receipt then none else
    some ⟨tokenDigits (s.site.siteCode.getD []) p.cls ((r.lastToken + 1) % 1000) p.total d.day q.meter,
      (r.lastToken + 1) % 1000⟩, d.day⟩

theorem saleBuilt_eq {d : DateTime} (now : s.now = some d) :
    (⟨buildToken s q p r, s.today⟩ : BuiltSale) = saleBuilt q p r d s := by
  have today : s.today = d.day := by simp [State.today, now]
  simp only [saleBuilt, buildToken, today]

/-- A slot's quote with its token built, in the grant (R69). -/
def saleBuilding (k : Till) (q : QuoteRecord) (b : BuiltSale) (s : State) : State :=
  (s.pointed k).modSlot k fun v => { v with quote := some { q with built := some b } }

theorem confirmStage_eq {d : DateTime} (quote : (s.slot k).quote = some q) (priced : q.priced = some p)
    (record : lineRecord q.meter s = some r) (now : s.now = some d) : confirmStage k (s.pointed k) =
      postOrWait ⟨.sale k, true⟩ (saleBuilding k q (saleBuilt q p r d s) s) := by
  have quoteX : ((s.pointed k).slot k).quote = some q := quote
  have recordX : lineRecord q.meter (s.pointed k) = some r := record
  have built : (⟨buildToken (s.pointed k) q p r, (s.pointed k).today⟩ : BuiltSale) = saleBuilt q p r d s :=
    saleBuilt_eq (s := s.pointed k) now
  simp only [confirmStage, quoteX, priced, recordX, built, saleBuilding]

/-- A quote whose SALE can be built and posted: priced, with its line pinned to its slot (R68, R69). -/
structure SalePending (k : Till) (q : QuoteRecord) (e : DirEntry) (l : LineNo) (r : Record) (p : Priced) (s : State) :
    Prop where
  running : s.running = true
  quote : (s.slot k).quote = some q
  reprint : (s.slot k).reprint = none
  priced : q.priced = some p
  entry : dirFind q.meter s.directory = some e
  found : findLine q.meter s = some l
  pinned : findPinned (.slot k) s = some l
  record : (s.line l).record = some r

/-- A CONFIRMING quote that the arbiter grants next, the calendar valid (R69, R79). -/
structure ConfirmGranted (k : Till) (q : QuoteRecord) (e : DirEntry) (l : LineNo) (r : Record) (p : Priced)
    (d : DateTime) (s : State) : Prop extends SalePending k q e l r p s where
  hold : s.arbiter.hold = .none
  next : (grantOrder s.arbiter.pointer).find? (fun j => s.arbiter.pending.get j) = some k
  state : (s.slot k).state = .confirming
  now : s.now = some d

variable {d : DateTime}

theorem ConfirmGranted.exec_eq (h : ConfirmGranted k q e l r p d s) : exec .engineGrant s = .next (settle
    (settlePending k (postOrWait ⟨.sale k, true⟩ (saleBuilding k q (saleBuilt q p r d s) s)))) := by
  have stage : slotStage k (s.pointed k) = confirmStage k (s.pointed k) := by
    have state : ((s.pointed k).slot k).state = .confirming := h.state
    rw [slotStage, state]
  rw [engineGrant_exec h.running h.hold h.next,
    ← confirmStage_eq h.quote h.priced (lineRecord_eq h.found h.record) h.now, ← stage]

theorem ConfirmGranted.ready (h : ConfirmGranted k q e l r p d s) (b : BuiltSale) :
    SaleReady k { q with built := some b } p b e l r (saleBuilding k q b s) :=
  ⟨by simp [saleBuilding], by rw [saleBuilding, State.slot_modSlot_same]; exact h.reprint, h.priced, rfl,
    h.entry, h.found, h.pinned, h.record⟩

/-- The SALE posts in its grant (R69, R70). -/
theorem ConfirmGranted.posts (h : ConfirmGranted k q e l r p d s) (room : s.postsAtOnce = true) :
    ∃ t, exec .engineGrant s = .next t ∧ saleSells k q e l r p s s.buffer s.line (saleBuilt q p r d s) t ∧
      grantUsed k s t ∧ keepsAllBut (.grants :: soldParts k) s t := by
  have ready := h.ready (saleBuilt q p r d s)
  have step := h.exec_eq
  generalize saleBuilt q p r d s = b at *
  have posts : postOrWait ⟨.sale k, true⟩ (saleBuilding k q b s) = postSale k (saleBuilding k q b s) := by
    have room' : (saleBuilding k q b s).postsAtOnce = true := room
    simp only [postOrWait, room', if_true, runJob]
  rw [posts] at step
  have built : keepsAllBut [.slot k] (s.pointed k) (saleBuilding k q b s) := modSlot_keeps _ k _
  have before : keepsAllBut (beforeSale k) s (saleBuilding k q b s) := by
    intro p hp
    have same := built p (by simp_all)
    cases p with
    | grants => simp at hp
    | _ => exact same
  obtain ⟨-, -, slot, -, -, -, sold⟩ := ready.posted
  have arbiter : (postSale k (saleBuilding k q b s)).arbiter = (s.pointed k).arbiter := by simp [saleBuilding]
  obtain ⟨pointer, wants, others, all, -⟩ := grant_end h.hold arbiter
    (keepsAllBut_trans (keepsAllBut_mono built (by simp)) sold)
  have rest : (settlePending k (postSale k (saleBuilding k q b s))).holdAtRest :=
    holdAtRest_of_not_pending (by
      rw [show (settlePending k _).arbiter.hold = s.arbiter.hold from congrArg (·.hold) arbiter, h.hold]
      simp)
  refine ⟨_, step, ready.sells before (onlyLevels_refl s) rfl (keepsAllBut_settle rest (settlePending_keeps k _)),
    ⟨pointer, ?_, others⟩, all⟩
  rw [wants, slot]
  rfl

/-- The SALE joins the post wait list; the slot is POSTING and keeps its token (R69, R122). -/
theorem ConfirmGranted.waits (h : ConfirmGranted k q e l r p d s) (full : s.postsAtOnce = false) :
    ∃ t, exec .engineGrant s = .next t ∧ t.waiters = s.waiters ++ [⟨.sale k, true⟩] ∧
      t.slot k = { s.slot k with state := .posting, quote := some { q with built := some (saleBuilt q p r d s) } } ∧
      grantUsed k s t ∧ keepsAllBut [.waiters, .slot k, .grants] s t := by
  have step := h.exec_eq
  generalize saleBuilt q p r d s = b at *
  generalize hy : ({ saleBuilding k q b s with waiters := s.waiters ++ [⟨.sale k, true⟩] } : State) = y
  have waits : postOrWait ⟨.sale k, true⟩ (saleBuilding k q b s) =
      y.modSlot k fun v => { v with state := .posting } := by
    have full' : (saleBuilding k q b s).postsAtOnce = false := full
    rw [← hy]
    simp only [postOrWait, full', Bool.false_eq_true, if_false, Job.withdrawable, Bool.and_false, markWaiting]
    rfl
  rw [waits] at step
  have built : keepsAllBut [.slot k] (s.pointed k) (saleBuilding k q b s) := modSlot_keeps _ k _
  have joined : keepsAllBut [.slot k, .waiters] (s.pointed k) y :=
    hy ▸ keepsAllBut_trans (keepsAllBut_mono built (by simp)) (keepsAllBut_mono (waiters_keeps _ _) (by simp))
  have slotY : y.slot k = { s.slot k with quote := some { q with built := some b } } := by
    rw [← hy]
    exact State.slot_modSlot_same (s.pointed k) k fun v => { v with quote := some { q with built := some b } }
  obtain ⟨pointer, wants, others, all, slots, -⟩ := grant_end
    (x := y.modSlot k fun v => { v with state := .posting }) h.hold
    (by simp [← hy, saleBuilding]) (keepsAllBut_trans joined (keepsAllBut_mono (modSlot_keeps y k _) (by simp)))
  refine ⟨_, step, by simp [← hy], ?_, ⟨pointer, ?_, others⟩, keepsAllBut_mono all (by simp)⟩
  · rw [slots, State.slot_modSlot_same, slotY]
  · rw [wants, State.slot_modSlot_same, slotY]
    simp [VendSlot.wantsGrant, h.reprint]

/-! ### The room that a verified write gives -/

/-- A verified write of the head unit in RUN offers its room to the waiters (R110, R123). -/
theorem unitWriteVerified_exec {u : CommitUnit} {rest : List CommitUnit} (running : s.running = true)
    (buffer : s.buffer = u :: rest) (service : s.store.service = .writing ∨ s.store.service = .rewriting) :
    exec (.unitWriteComplete .verified) s = .next (settle (offerRoom (unitStored u s))) := by
  have idle : s.draining = false := by
    have : s.supply.state = .run := by simpa [State.running] using running
    simp [State.draining, this]
  have verified : unitWrite u .verified s = offerRoom (unitStored u s) := by
    rcases service with hs | hs <;> simp [unitWrite, hs, writeVerified, running, unitStored]
  simp [exec, execUnitWriteComplete, buffer, idle, verified]

theorem unitStored_spec (u : CommitUnit) (s : State) :
    (unitStored u s).buffer = s.buffer.tail ∧ stored u s (unitStored u s) ∧ linesAfterStore u s (unitStored u s) ∧
      onlyLevels s (unitStored u s) ∧ keepsAllBut [.areas, .lines, .buffer, .conditions] s (unitStored u s) := by
  obtain ⟨buffer, areas, lines, -, -, -, -, kept, levels, -⟩ := completeUnit_spec u s
  exact ⟨buffer, areas, lines, levels, keepsAllBut_trans kept (keepsAllBut_mono (setService_keeps .idle _) (by simp))⟩

/-- A stored unit lowers the dirty count of a line at most (R104). -/
theorem lineAfterStore_same (u : CommitUnit) (s : State) (j : LineNo) :
    (lineAfterStore u s j).meter = (s.line j).meter ∧ (lineAfterStore u s j).pin = (s.line j).pin ∧
      (lineAfterStore u s j).record = (s.line j).record := by
  unfold lineAfterStore
  repeat' split
  all_goals exact ⟨rfl, rfl, rfl⟩

/-- The waiting SALE at the head of the list posts with no test when it is given room (R70, R123). -/
theorem SalePending.postsAtRoom (h : SalePending k q e l r p s) {u : CommitUnit} {rest : List CommitUnit}
    {ws : List Waiter} (built : q.built = some b) (buffer : s.buffer = u :: rest) (room : rest.length < 4)
    (waiters : s.waiters = ⟨.sale k, true⟩ :: ws)
    (service : s.store.service = .writing ∨ s.store.service = .rewriting) :
    ∃ t, exec (.unitWriteComplete .verified) s = .next t ∧ saleSells k q e l r p s rest (lineAfterStore u s) b t ∧
      t.waiters = ws ∧ stored u s t ∧ keepsAllBut ([.areas, .waiters] ++ soldParts k) s t := by
  have step := unitWriteVerified_exec h.running buffer service
  obtain ⟨tail, areas, ⟨recency, lines⟩, levels, toX⟩ := unitStored_spec u s
  rw [buffer, List.tail_cons] at tail
  generalize unitStored u s = x at *
  have posts : offerRoom x = postSale k { x with waiters := ws } :=
    offerRoom_posts ((toX .waiters (by simp)).trans waiters) (by rw [tail]; exact room) rfl
  rw [posts] at step
  generalize hy : ({ x with waiters := ws } : State) = y at *
  have left : keepsAllBut [.waiters] x y := hy ▸ waiters_keeps x ws
  have toY : keepsAllBut [.areas, .waiters, .buffer, .lines, .conditions] s y :=
    keepsAllBut_trans (keepsAllBut_mono toX (by simp)) (keepsAllBut_mono left (by simp))
  have linesY : ∀ j, y.line j = lineAfterStore u s j := fun j =>
    (line_congr (left .lines (by simp)) j).trans (lines j)
  have bufferY : y.buffer = rest := (left .buffer (by simp)).trans tail
  have whole : { q with built := some b } = q := by rw [← built]
  have ready : SaleReady k { q with built := some b } p b e l r y := by
    rw [whole]
    refine ⟨?_, ?_, h.priced, built, ?_, ?_, ?_, ?_⟩
    · rw [toY (.slot k) (by simp), h.quote]
    · rw [toY (.slot k) (by simp), h.reprint]
    · rw [show y.directory = s.directory from toY .directory (by simp), h.entry]
    · exact (findLine_of_meters (fun j => by rw [linesY, (lineAfterStore_same u s j).1]) _).trans h.found
    · exact (findPinned_of_pins (fun j => by rw [linesY, (lineAfterStore_same u s j).2.1]) _).trans h.pinned
    · rw [linesY, (lineAfterStore_same u s l).2.2, h.record]
  obtain ⟨⟨unit, -⟩, -, -, -, -, -, sold⟩ := ready.posted
  have atRest : (postSale k y).holdAtRest := fun _ => by rw [unit]; simp
  have settled := settle_keeps atRest
  have sells := ready.sells (t := settle (postSale k y)) (keepsAllBut_mono toY (by simp))
    (onlyLevels_trans levels (onlyLevels_of_conditions (left .conditions (by simp))))
    ((congrArg WorkingSet.recency (left .lines (by simp))).trans recency) (keepsAllBut_mono settled (by simp))
  rw [bufferY, show y.line = lineAfterStore u s from funext linesY] at sells
  refine ⟨_, step, sells, ?_, ?_, keepsAllBut_settle atRest
    (keepsAllBut_trans (keepsAllBut_mono toY (by simp)) (keepsAllBut_mono sold (by simp)))⟩
  · exact (settled .waiters (by simp)).trans ((sold .waiters (by simp)).trans (by rw [← hy]))
  · exact stored_of_kept (stored_of_kept (stored_of_kept areas left (by simp)) sold (by simp)) settled (by simp)

end

/-- Settles O34: the SALE posted or waiting in its grant, and posted from the head of the list. -/
theorem grantPostsSale : Obligations.GrantPostsSale := by
  intro s k q e l r p running quote reprint priced _ entry found pinned record _
  have pending : SalePending k q e l r p s := ⟨running, quote, reprint, priced, entry, found, pinned, record⟩
  refine ⟨fun d hold next state now => ?_, fun b u rest ws _ built buffer room waiters service => ?_⟩
  · have granted : ConfirmGranted k q e l r p d s := ⟨pending, hold, next, state, now⟩
    refine ⟨fun room => ?_, granted.waits⟩
    obtain ⟨t, step, sells, used, kept⟩ := granted.posts room
    exact ⟨t, step, sells, used, keepsAllBut_mono kept (by simp)⟩
  · obtain ⟨t, step, sells, left, areas, kept⟩ := pending.postsAtRoom built buffer room waiters service
    exact ⟨t, step, sells, left, areas, keepsAllBut_mono kept (by simp)⟩

end Sys2Proof.Machine
end

section
/-! SUPPORT. The grants of a reprint in progress (R71, R73, R74, R79). -/

namespace Sys2Proof.Machine

section

variable {s x y : State} {k : Till} {meter : Nat} {req : ReprintRequest} {stage : ReprintStage} {tag : Option Byte}
  {l : LineNo} {r : Record} {order : List LineNo}

/-- An answer within a grant is one since the grant began: the arbiter's pointer is no part of a port (R79). -/
theorem tillReplied_of_pointed {reply : Reply} (h : tillReplied k tag reply (s.pointed k) x) :
    tillReplied k tag reply s x := by
  have receives : (s.pointed k).receives (.till k) = s.receives (.till k) := rfl
  simpa only [tillReplied, pointed_port, pointed_replies, receives] using h

/-! ### The end of a reprint -/

/-- A reprint before its lookup holds no pin, so its end releases none (R73). -/
theorem endReprint_atLookup (reprint : (y.slot k).reprint = some ⟨meter, req, .lookup, tag⟩) :
    endReprint k y = y.modSlot k fun v => { v with reprint := none } := by
  simp [endReprint, VendSlot.reprintHoldsPin, reprint]

/-- The end of a reprint beside the slot's quote leaves the pin that they share (R73). -/
theorem endReprint_shared (quote : (y.slot k).quote.isSome = true) :
    endReprint k y = y.modSlot k fun v => { v with reprint := none } := by
  simp [endReprint, quote]

/-- The end of a reprint that alone holds the slot's pin releases it (R73). -/
theorem endReprint_alone {w : ReprintWork} (quote : (y.slot k).quote.isSome = false)
    (reprint : (y.slot k).reprint = some w) (held : w.stage ≠ .lookup) :
    endReprint k y = (releasePin (.slot k) y).modSlot k fun v => { v with reprint := none } := by
  simp [endReprint, VendSlot.reprintHoldsPin, quote, reprint, held]

/-- All that the end of a reprint does after its lookup (R73). -/
theorem endReprint_spec {w : ReprintWork} (reprint : (y.slot k).reprint = some w) (held : w.stage ≠ .lookup) :
    let t := endReprint k y
    t.slot k = { y.slot k with
      reprint := none, pin := if (y.slot k).quote.isSome = true then (y.slot k).pin else none } ∧
      (∀ j, t.line j = if (y.slot k).quote.isSome = false ∧ findPinned (.slot k) y = some j
        then { y.line j with pin := none } else y.line j) ∧
      t.working.recency = y.working.recency ∧ keepsAllBut [.lines, .slot k] y t := by
  cases quote : (y.slot k).quote.isSome with
  | true =>
    rw [endReprint_shared quote]
    exact ⟨State.slot_modSlot_same y k _, fun j => by simp [State.line], rfl,
      keepsAllBut_mono (modSlot_keeps y k _) (by simp)⟩
  | false =>
    rw [endReprint_alone quote reprint held]
    refine ⟨?_, fun j => ?_, releasePin_recency _ _, keepsAllBut_trans (releasePin_keeps k y)
      (keepsAllBut_mono (modSlot_keeps _ k _) (by simp))⟩
    · rw [State.slot_modSlot_same, releasePin_slot, if_pos rfl]
      rfl
    · exact (releasePin_lines (.slot k) y j).trans (by simp)

/-! ### The state in which the record is present -/

/-- A slot whose reprint holds its pin and stands at a stage (R73, R74). -/
def VendSlot.reprinting (meter : Nat) (req : ReprintRequest) (stage : ReprintStage) (tag : Option Byte) (v : VendSlot) :
    VendSlot :=
  { v with reprint := some ⟨meter, req, stage, tag⟩, pin := some meter }

/-- A slot whose reprint has ended: the pin stays for the slot's quote (R73). -/
def VendSlot.reprintEnded (meter : Nat) (v : VendSlot) : VendSlot :=
  { v with reprint := none, pin := if v.quote.isSome = true then some meter else none }

theorem PinHeld.modSlot {v : VendSlot} (h : PinHeld k meter l r order v s x) (f : VendSlot → VendSlot) :
    PinHeld k meter l r order (f v) s (x.modSlot k f) :=
  ⟨⟨h.hold, h.arbiter, h.store, keepsAllBut_trans h.kept (keepsAllBut_mono (modSlot_keeps x k f) (by simp))⟩,
    by rw [State.slot_modSlot_same, h.slot], h.line, h.others, h.recency, h.pinned, h.record⟩

/-- A reprint's record is present: the slot pins its meter's line, and its OPEN quote shares the pin (R73). -/
abbrev ReprintPresent (k : Till) (meter : Nat) (req : ReprintRequest) (tag : Option Byte) (l : LineNo) (r : Record)
    (order : List LineNo) (s x : State) : Prop :=
  PinHeld k meter l r order ((s.slot k).reprinting meter req .present tag) s x

/-- What the end of a reprint leaves of its pin: the line and the slot (R73). -/
def pinSettled (k : Till) (meter : Nat) (l : LineNo) (order : List LineNo) (s t : State) : Prop :=
  lineIs l { s.line l with pin := if (s.slot k).quote.isSome = true then some (.slot k) else none } order s t ∧
    t.slot k = (s.slot k).reprintEnded meter

/-- The parts that the end of a reprint changes in its grant (R73, R79). -/
abbrev reprintEndParts (k : Till) : List Part := [.slot k, .lines, .grants, .outstanding (.till k), .replies (.till k)]

/-- The end of a grant that ends its slot's reprint and answers it, after changes to the parts `m` (R71, R74). -/
theorem PinHeld.reprintEnds (h : ReprintPresent k meter req tag l r order s x)
    (rests : (s.slot k).state = .idle ∨ (s.slot k).state = .opened) (arbiter : y.arbiter = x.arbiter) {m : List Part}
    (changed : keepsAllBut m x y) (posting : ∀ p ∈ m, p ∈ [Part.site, .buffer, .journal, .conditions]) (reply : Reply) :
    let t := settle (settlePending k (tillReply k tag reply (endReprint k y)))
    tillReplied k tag reply s t ∧ pinSettled k meter l order s t ∧ grantUsed k s t ∧ t.site = y.site ∧
      t.buffer = y.buffer ∧ t.journal = y.journal ∧ t.conditions = y.conditions ∧
      keepsAllBut (m ++ reprintEndParts k) s t := by
  have slotY : y.slot k = (s.slot k).reprinting meter req .present tag :=
    (changed (.slot k) fun hp => by simpa using posting _ hp).trans h.slot
  have working : y.working = x.working := changed .lines fun hp => by simpa using posting _ hp
  have toY : keepsAllBut (m ++ [Part.slot k, .lines]) (s.pointed k) y :=
    keepsAllBut_trans (keepsAllBut_mono h.kept (by simp)) (keepsAllBut_mono changed (by simp +contextual))
  have pinned : findPinned (.slot k) y = some l := (findPinned_congr working _).trans h.pinned
  obtain ⟨slotZ, linesZ, recencyZ, ended⟩ := endReprint_spec (k := k) (y := y) (by rw [slotY]; rfl) (by simp)
  have arbiterZ : (endReprint k y).arbiter = y.arbiter := by simp
  generalize endReprint k y = z at *
  have toZ : keepsAllBut (m ++ [Part.slot k, .lines]) (s.pointed k) z :=
    keepsAllBut_trans toY (keepsAllBut_mono ended (by simp))
  have answered := tillReply_keeps k tag reply z
  have replied := tillReply_replied k tag reply z
  have arbiterA : (tillReply k tag reply z).arbiter = z.arbiter := by simp
  generalize tillReply k tag reply z = a at *
  obtain ⟨pointer, wants, others, all, slots, linesT, order', replies, outstanding, conditions, -, journal, buffer,
    site, -⟩ := grant_end h.hold (arbiterA.trans (arbiterZ.trans (arbiter.trans h.arbiter)))
      (keepsAllBut_trans (keepsAllBut_mono toZ
        (m := m ++ [Part.slot k, .lines, .outstanding (.till k), .replies (.till k)]) (by grind))
        (keepsAllBut_mono answered (by simp)))
  have slotA : a.slot k = (s.slot k).reprintEnded meter := by
    rw [show a.slot k = z.slot k from answered (.slot k) (by simp), slotZ, slotY]
    rfl
  have outside : ∀ p, p ∉ [Part.site, .buffer, .journal, .conditions, .slot k, .lines] →
      p ∉ m ++ [Part.slot k, .lines] :=
    fun p hp hm => hp (by
      rcases List.mem_append.mp hm with hm | hm
      · exact List.mem_append_left [Part.slot k, .lines] (posting p hm)
      · exact List.mem_append_right [Part.site, .buffer, .journal, .conditions] hm)
  have toS := tillReplied_of_pointed (tillReplied_of_kept toZ ⟨outside _ (by simp), outside _ (by simp),
    outside _ (by simp), outside _ (by simp)⟩ replied)
  have lines : ∀ j, (settle (settlePending k a)).line j = _ := fun j =>
    (linesT j).trans ((line_congr (answered .lines (by simp)) j).trans (linesZ j))
  refine ⟨tillReplied_congr toS (replies _) (outstanding _), ⟨⟨?_, fun j hj => ?_, ?_⟩, (slots k).trans slotA⟩,
    ⟨pointer, ?_, others⟩, ?_, ?_, ?_, ?_, keepsAllBut_mono all (by grind)⟩
  · rw [lines, slotY, pinned, line_congr working, h.line]
    cases quote : (s.slot k).quote <;> simp [VendSlot.reprinting, quote]
  · rw [lines, pinned, if_neg (by simp [Ne.symm hj]), line_congr working, h.others j hj]
  · rw [order', show a.working = z.working from answered .lines (by simp), recencyZ, working, h.recency]
  · rw [wants, slotA]
    rcases rests with rest | rest <;> simp [VendSlot.wantsGrant, VendSlot.reprintEnded, rest]
  · rw [site, show a.site = z.site from answered .site (by simp), show z.site = y.site from ended .site (by simp)]
  · rw [buffer, show a.buffer = z.buffer from answered .buffer (by simp),
      show z.buffer = y.buffer from ended .buffer (by simp)]
  · rw [journal, show a.journal = z.journal from answered .journal (by simp),
      show z.journal = y.journal from ended .journal (by simp)]
  · rw [conditions, show a.conditions = z.conditions from answered .conditions (by simp),
      show z.conditions = y.conditions from ended .conditions (by simp)]

/-! ### The posting of a reprint's entry -/

theorem PinHeld.roomForOffice {v : VendSlot} (h : PinHeld k meter l r order v s x) :
    x.roomForOffice = s.roomForOffice :=
  roomForOffice_congr h.store (h.kept .site (by simp)) (h.kept .buffer (by simp)) (h.kept .journal (by simp))

theorem PinHeld.postsAtOnce {v : VendSlot} (h : PinHeld k meter l r order v s x) :
    (takeReservation x).postsAtOnce = s.postsAtOnce := by
  have buffer : x.buffer = s.buffer := h.kept .buffer (by simp)
  have waiters : x.waiters = s.waiters := h.kept .waiters (by simp)
  simp [State.postsAtOnce, buffer, waiters]

theorem PinHeld.storeFaultLatched {v : VendSlot} (h : PinHeld k meter l r order v s x) :
    x.storeFaultLatched = s.storeFaultLatched := by
  have conditions : x.conditions = s.conditions := h.kept .conditions (by simp)
  simp only [State.storeFaultLatched, conditions]

/-- A reprint's entry and what it holds while it waits to be posted (R71, R74). -/
abbrev reprintWaiter (k : Till) (meter index : Nat) (b : RecentToken) (rep : Bool) : Waiter :=
  ⟨.reprint k meter index b rep, true⟩

variable {index : Nat} {b : RecentToken} {rep : Bool}

/-- The reprint is issued in a state where its record is present (R71, R74). -/
theorem PinHeld.issueReprint_eq (h : ReprintPresent k meter req tag l r order s x) (stage : ReprintStage) :
    issueReprint k ⟨meter, req, stage, tag⟩ index b rep x = if s.roomForOffice = true then
      postOrWait (reprintWaiter k meter index b rep) (takeReservation x)
      else tillReply k tag (.refused .journalFull req.kind req.quoteId 0) (endReprint k x) := by
  simp only [issueReprint, h.roomForOffice, reserveAndPost, refuseReprint]

/-- The slot's reprint when its reservation is taken. -/
theorem PinHeld.reserved_reprint (h : ReprintPresent k meter req tag l r order s x) :
    ((takeReservation x).slot k).reprint = some ⟨meter, req, .present, tag⟩ := by
  rw [takeReservation_keeps x (.slot k) (by simp), h.slot]
  rfl

/-- A reprint with room posts its entry, and its reservation becomes the entry's (R74, R134). -/
theorem PinHeld.reprintPosts (h : ReprintPresent k meter req tag l r order s x)
    (rests : (s.slot k).state = .idle ∨ (s.slot k).state = .opened) (room : s.postsAtOnce = true) :
    let t := settle (settlePending k (postOrWait (reprintWaiter k meter index b rep) (takeReservation x)))
    posts (postedUnit s .journalOnly none s.now (.till k) (.reprint meter index b.sequence rep b.quoteId) s.site)
        s.journal.reservations s t ∧ pinSettled k meter l order s t ∧ grantUsed k s t ∧
      tillReplied k tag (.token (recentToken meter b index rep)) s t ∧ onlyLevels s t ∧
      keepsAllBut (.site :: .buffer :: .journal :: .conditions :: reprintEndParts k) s t := by
  have unfolds : postOrWait (reprintWaiter k meter index b rep) (takeReservation x) = tillReply k tag
      (.token (recentToken meter b index rep)) (endReprint k (addUnit .journalOnly none
        (some (.till k, .reprint meter index b.sequence rep b.quoteId)) none (takeReservation x))) := by
    simp only [postOrWait, h.postsAtOnce, room, if_true, runJob, postReprint, h.reserved_reprint]
  have reserves := takeReservation_keeps x
  have reserved := takeReservation_journal x
  have levels := takeReservation_levels x
  have arbiter : (takeReservation x).arbiter = x.arbiter := by simp
  rw [unfolds]
  generalize takeReservation x = x1 at *
  obtain ⟨buffer, site, journal⟩ :=
    addUnit_entry .journalOnly none (.till k) (.reprint meter index b.sequence rep b.quoteId) x1
  have added := addUnit_keeps .journalOnly none (some (.till k, .reprint meter index b.sequence rep b.quoteId)) none x1
  have more := addUnit_levels .journalOnly none (some (.till k, .reprint meter index b.sequence rep b.quoteId)) none x1
  have arbiterY : (addUnit .journalOnly none (some (.till k, .reprint meter index b.sequence rep b.quoteId)) none
      x1).arbiter = x1.arbiter := by simp
  generalize addUnit .journalOnly none (some (.till k, .reprint meter index b.sequence rep b.quoteId)) none x1 = y at *
  obtain ⟨replied, pin, used, siteT, bufferT, journalT, conditions, kept⟩ := h.reprintEnds rests
    (arbiterY.trans arbiter) (keepsAllBut_trans (keepsAllBut_mono reserves (by simp)) added) (fun _ hp => hp)
    (.token (recentToken meter b index rep))
  have site1 : x1.site = s.site := (reserves .site (by simp)).trans (h.kept .site (by simp))
  have buffer1 : x1.buffer = s.buffer := (reserves .buffer (by simp)).trans (h.kept .buffer (by simp))
  have now1 : x1.now = s.now := by
    simp only [State.now, (reserves .clock (by simp)).1, (h.kept .clock (by simp)).1]
  have journal1 : x1.journal = ⟨s.journal.nextSeq, s.journal.reservations + 1⟩ := by
    rw [reserved, show x.journal = s.journal from h.kept .journal (by simp)]
  have unit : postedUnit x1 .journalOnly none x1.now (.till k) (.reprint meter index b.sequence rep b.quoteId) x1.site =
      postedUnit s .journalOnly none s.now (.till k) (.reprint meter index b.sequence rep b.quoteId) s.site := by
    simp only [postedUnit, journal1, now1, site1]
  refine ⟨⟨?_, ?_, ?_⟩, pin, used, replied, ?_, kept⟩
  · rw [bufferT, buffer, buffer1, unit]
  · rw [siteT, site, unit]
  · rw [journalT, journal, journal1, Nat.add_sub_cancel]
  · exact onlyLevels_congr (onlyLevels_trans levels more) (h.kept .conditions (by simp)).symm conditions

/-- A reprint without room joins the post wait list with its reservation (R122, R134). -/
theorem PinHeld.reprintWaits (h : ReprintPresent k meter req tag l r order s x)
    (rests : (s.slot k).state = .idle ∨ (s.slot k).state = .opened) (full : s.postsAtOnce = false)
    (normal : s.store.faulted = false) (sound : s.storeFaultLatched = false) :
    let t := settle (settlePending k (postOrWait (reprintWaiter k meter index b rep) (takeReservation x)))
    t.waiters = s.waiters ++ [reprintWaiter k meter index b rep] ∧
      t.journal = ⟨s.journal.nextSeq, s.journal.reservations + 1⟩ ∧
      t.slot k = (s.slot k).reprinting meter req .posting tag ∧
      lineIs l { s.line l with pin := some (.slot k) } order s t ∧ grantUsed k s t ∧ onlyLevels s t ∧
      keepsAllBut [.waiters, .journal, .slot k, .lines, .grants, .conditions] s t := by
  have stays : (takeReservation x).storeFaultLatched = false := by
    refine reportLevels_storeFault ?_ (h.storeFaultLatched.trans sound)
    exact (congrArg RecordStore.faulted h.store).trans normal
  have unfolds : postOrWait (reprintWaiter k meter index b rep) (takeReservation x) = State.modSlot
      { takeReservation x with waiters := (takeReservation x).waiters ++ [reprintWaiter k meter index b rep] } k
      fun v => { v with reprint := v.reprint.map fun w => { w with stage := .posting } } := by
    simp only [postOrWait, h.postsAtOnce, full, stays, Bool.false_and, Bool.false_eq_true, if_false,
      markWaiting]
  have reserves := takeReservation_keeps x
  have reserved := takeReservation_journal x
  have levels := takeReservation_levels x
  have arbiter : (takeReservation x).arbiter = x.arbiter := by simp
  rw [unfolds]
  generalize takeReservation x = x1 at *
  generalize hy : ({ x1 with waiters := x1.waiters ++ [reprintWaiter k meter index b rep] } : State) = y at *
  have joined : keepsAllBut [.waiters] x1 y := hy ▸ waiters_keeps x1 _
  have waitersY : y.waiters = x1.waiters ++ [reprintWaiter k meter index b rep] := by rw [← hy]
  have arbiterY : y.arbiter = x1.arbiter := by rw [← hy]
  have toY : keepsAllBut [.lines, .slot k, .journal, .conditions, .waiters] (s.pointed k) y :=
    keepsAllBut_trans (keepsAllBut_mono h.kept (by simp)) (keepsAllBut_trans (keepsAllBut_mono reserves (by simp))
      (keepsAllBut_mono joined (by simp)))
  have working : y.working = x.working := (joined .lines (by simp)).trans (reserves .lines (by simp))
  have slotY : y.slot k = (s.slot k).reprinting meter req .present tag :=
    (joined (.slot k) (by simp)).trans ((reserves (.slot k) (by simp)).trans h.slot)
  generalize hz : (y.modSlot k fun v => { v with reprint := v.reprint.map fun w => { w with stage := .posting } }) = z
  have marked : keepsAllBut [.slot k] y z := hz ▸ modSlot_keeps y k _
  have slotZ : z.slot k = (s.slot k).reprinting meter req .posting tag := by
    rw [← hz, State.slot_modSlot_same, slotY]
    rfl
  obtain ⟨pointer, wants, others, all, slots, lines, recency, -, -, conditions, -, journal, -⟩ :=
    grant_end (x := z) h.hold (by rw [← hz]; exact arbiterY.trans (arbiter.trans h.arbiter))
      (keepsAllBut_trans toY (keepsAllBut_mono marked (by simp)))
  have workingZ : z.working = x.working := (marked .lines (by simp)).trans working
  refine ⟨?_, ?_, (slots k).trans slotZ, ⟨?_, fun j hj => ?_, ?_⟩, ⟨pointer, ?_, others⟩, ?_,
    keepsAllBut_mono all (by simp)⟩
  · have same : (settle (settlePending k z)).waiters = z.waiters := by simp [settlePending]
    rw [same, show z.waiters = y.waiters from marked .waiters (by simp), waitersY,
      show x1.waiters = x.waiters from reserves .waiters (by simp),
      show x.waiters = s.waiters from h.kept .waiters (by simp)]
  · rw [journal, show z.journal = y.journal from marked .journal (by simp),
      show y.journal = x1.journal from joined .journal (by simp), reserved,
      show x.journal = s.journal from h.kept .journal (by simp)]
  · rw [lines, line_congr workingZ, h.line]
  · rw [lines, line_congr workingZ, h.others j hj]
  · rw [recency, workingZ, h.recency]
  · rw [wants, slotZ]
    rcases rests with rest | rest <;> simp [VendSlot.wantsGrant, VendSlot.reprinting, rest]
  · exact onlyLevels_congr levels (h.kept .conditions (by simp)).symm
      (conditions.trans ((marked .conditions (by simp)).trans (joined .conditions (by simp))))

/-- A refusal once the record is present (R71, R74). -/
theorem PinHeld.reprintRefused (h : ReprintPresent k meter req tag l r order s x)
    (rests : (s.slot k).state = .idle ∨ (s.slot k).state = .opened) (reply : Reply) (arbiter : y.arbiter = x.arbiter)
    (changed : keepsAllBut [.conditions] x y) (levels : onlyLevels x y) :
    let t := settle (settlePending k (tillReply k tag reply (endReprint k y)))
    tillReplied k tag reply s t ∧ pinSettled k meter l order s t ∧ grantUsed k s t ∧ onlyLevels s t ∧
      keepsAllBut (refusedParts k) s t := by
  obtain ⟨replied, pin, used, -, -, -, conditions, kept⟩ := h.reprintEnds rests arbiter changed (by simp) reply
  exact ⟨replied, pin, used, onlyLevels_congr levels (h.kept .conditions (by simp)).symm conditions,
    keepsAllBut_mono kept (by simp)⟩

/-- Without room and with STORE_FAULT latched a reprint is withdrawn, and its reservation given back (R122, R124). -/
theorem PinHeld.reprintWithdrawn (h : ReprintPresent k meter req tag l r order s x)
    (rests : (s.slot k).state = .idle ∨ (s.slot k).state = .opened) (full : s.postsAtOnce = false)
    (latched : s.storeFaultLatched = true) :
    let t := settle (settlePending k (postOrWait (reprintWaiter k meter index b rep) (takeReservation x)))
    tillReplied k tag (.refused .suspended req.kind req.quoteId 0) s t ∧ pinSettled k meter l order s t ∧
      grantUsed k s t ∧ onlyLevels s t ∧ keepsAllBut (refusedParts k) s t := by
  have given := giveReservation_keeps (takeReservation x)
  have reserves := takeReservation_keeps x
  have reprint : ((giveReservation (takeReservation x)).slot k).reprint = some ⟨meter, req, .present, tag⟩ := by
    rw [given (.slot k) (by simp), h.reserved_reprint]
  have stays : (takeReservation x).storeFaultLatched = true :=
    (takeReservation_levels x).2 .storeFault (h.storeFaultLatched.trans latched)
  have unfolds : postOrWait (reprintWaiter k meter index b rep) (takeReservation x) = tillReply k tag
      (.refused .suspended req.kind req.quoteId 0) (endReprint k (giveReservation (takeReservation x))) := by
    simp only [postOrWait, h.postsAtOnce, full, stays, Job.withdrawable, Bool.and_true,
      Bool.false_eq_true, if_false, if_true, refuseJob, dropWaiterReservation, reprint, refuseReprint]
  rw [unfolds]
  refine h.reprintRefused rests _ (by simp) (fun p hp => ?_)
    (onlyLevels_trans (takeReservation_levels x) (giveReservation_levels _))
  by_cases e : p = .journal
  · subst e
    show (giveReservation (takeReservation x)).journal = x.journal
    simp [giveReservation, takeReservation]
  · exact Part.same_trans (reserves p (by simp_all)) (given p (by simp_all))

/-! ### The repeat search -/

/-- The search takes the newest entry with the quote id (R71). -/
theorem findToken_newest {id i : Nat} {recent : List RecentToken} (entry : recent[i]? = some b) (names : b.quoteId = id)
    (newest : ∀ j x, j < i → recent[j]? = some x → x.quoteId ≠ id) : findToken id recent = some (i, b) := by
  obtain ⟨inside, at_i⟩ := List.getElem?_eq_some_iff.mp entry
  have first : recent.findIdx? (fun x => x.quoteId == id) = some i :=
    List.findIdx?_eq_some_iff_getElem.mpr ⟨inside, by simp [at_i, names], fun j hj => by
      simpa using newest j _ hj (List.getElem?_eq_getElem (by omega))⟩
  simp [findToken, first, entry]

theorem findToken_none {id : Nat} {recent : List RecentToken} (absent : ∀ x ∈ recent, x.quoteId ≠ id) :
    findToken id recent = none := by
  have missing : recent.findIdx? (fun x => x.quoteId == id) = none :=
    List.findIdx?_eq_none_iff.mpr fun x hx => by simpa using absent x hx
  simp [findToken, missing]

/-! ### The grant -/

/-- A slot at rest, or OPEN on the meter, whose reprint the arbiter grants next (R73, R79). -/
structure ReprintGranted (s : State) (k : Till) (meter : Nat) (req : ReprintRequest) (stage : ReprintStage)
    (tag : Option Byte) : Prop where
  running : s.running = true
  hold : s.arbiter.hold = .none
  next : (grantOrder s.arbiter.pointer).find? (fun j => s.arbiter.pending.get j) = some k
  rests : (s.slot k).state = .idle ∨ (s.slot k).state = .opened
  reprint : (s.slot k).reprint = some ⟨meter, req, stage, tag⟩

theorem ReprintGranted.exec_eq (h : ReprintGranted s k meter req stage tag) :
    exec .engineGrant s = .next (settle (settlePending k (reprintStage k (s.pointed k)))) := by
  have served : slotStage k (s.pointed k) = reprintStage k (s.pointed k) := by
    have state : ((s.pointed k).slot k).state = (s.slot k).state := rfl
    rcases h.rests with rest | rest <;> simp only [slotStage, state, rest]
  rw [engineGrant_exec h.running h.hold h.next, ← served]

theorem ReprintGranted.looksUp (h : ReprintGranted s k meter req .lookup tag) :
    reprintStage k (s.pointed k) = lookupReprint k ⟨meter, req, .lookup, tag⟩ (s.pointed k) := by
  have reprint : ((s.pointed k).slot k).reprint = some ⟨meter, req, .lookup, tag⟩ := h.reprint
  simp only [reprintStage, reprint]

/-- A first grant that refuses without a pin (R71, R74). -/
theorem ReprintGranted.refused (h : ReprintGranted s k meter req .lookup tag) {code : RefusalCode} {detail : Nat}
    (refuses : lookupReprint k ⟨meter, req, .lookup, tag⟩ (s.pointed k) =
      refuseReprint k ⟨meter, req, .lookup, tag⟩ code detail (s.pointed k)) :
    ∃ t, exec .engineGrant s = .next t ∧ tillReplied k tag (.refused code req.kind req.quoteId detail) s t ∧
      t.slot k = { s.slot k with reprint := none } ∧ grantUsed k s t ∧
      keepsAllBut [.slot k, .grants, .outstanding (.till k), .replies (.till k)] s t := by
  have reprint : ((s.pointed k).slot k).reprint = some ⟨meter, req, .lookup, tag⟩ := h.reprint
  have step : exec .engineGrant s = .next (settle (settlePending k (tillReply k tag
      (.refused code req.kind req.quoteId detail) ((s.pointed k).modSlot k fun v => { v with reprint := none })))) := by
    rw [h.exec_eq, h.looksUp, refuses, refuseReprint, endReprint_atLookup reprint]
  generalize hz : ((s.pointed k).modSlot k fun v => { v with reprint := none }) = z at *
  have ended : keepsAllBut [.slot k] (s.pointed k) z := hz ▸ modSlot_keeps _ k _
  have slotZ : z.slot k = { s.slot k with reprint := none } := by
    rw [← hz]
    exact State.slot_modSlot_same (s.pointed k) k fun v => { v with reprint := none }
  have arbiterZ : z.arbiter = (s.pointed k).arbiter := by rw [← hz]; rfl
  have answered := tillReply_keeps k tag (.refused code req.kind req.quoteId detail) z
  have replied := tillReplied_of_pointed (tillReplied_of_kept ended (by simp)
    (tillReply_replied k tag (.refused code req.kind req.quoteId detail) z))
  obtain ⟨pointer, wants, others, all, slots, -, -, replies, outstanding, -⟩ := grant_end h.hold
    (x := tillReply k tag (.refused code req.kind req.quoteId detail) z) (by simp [arbiterZ])
    (keepsAllBut_trans (keepsAllBut_mono ended (by simp)) (keepsAllBut_mono (m := [.slot k, .outstanding (.till k),
      .replies (.till k)]) answered (by simp)))
  refine ⟨_, step, tillReplied_congr replied (replies _) (outstanding _),
    (slots k).trans ((tillReply_slot ..).trans slotZ), ⟨pointer, ?_, others⟩, keepsAllBut_mono all (by simp)⟩
  rw [wants, tillReply_slot, slotZ]
  rcases h.rests with rest | rest <;> simp [VendSlot.wantsGrant, rest]

/-- A first grant that misses: the reprint waits for its fetch (R74, R98). -/
theorem ReprintGranted.misses (h : ReprintGranted s k meter req .lookup tag) {e : DirEntry}
    (entry : dirFind meter s.directory = some e) (sound : e.damaged = false) (absent : findLine meter s = none)
    (vict : victim s = l) : ∃ t, exec .engineGrant s = .next t ∧
      t.slot k = (s.slot k).reprinting meter req .fetching tag ∧
      lineBecomes l ⟨.filling, some meter, some (.slot k), 0, none⟩ s t ∧ grantUsed k s t ∧
      fetchBegun l meter e.slot s t ∧ keepsAllBut [.slot k, .lines, .grants] s t := by
  have entryX : dirFind meter (s.pointed k).directory = some e := entry
  have miss : lookup (.slot k) meter (s.pointed k) = .miss := lookup_miss (s := s.pointed k) absent
  have looked : lookupReprint k ⟨meter, req, .lookup, tag⟩ (s.pointed k) =
      (startFetch (.slot k) meter e.slot (s.pointed k)).modSlot k fun v =>
        { v with reprint := v.reprint.map fun w => { w with stage := .fetching } } := by
    simp only [lookupReprint, entryX, sound, miss, Bool.false_eq_true, if_false, setReprintStage]
  have step := h.exec_eq
  rw [h.looksUp, looked] at step
  obtain ⟨slot, ends⟩ := grant_misses (k := k) h.running h.hold vict e.slot
    (fun v => { v with reprint := v.reprint.map fun w => { w with stage := .fetching } }) (by
      rcases h.rests with rest | rest <;> simp [VendSlot.wantsGrant, h.reprint, rest])
  refine ⟨_, step, slot.trans ?_, ends⟩
  simp [VendSlot.reprinting, h.reprint]

/-- How a reprint's record is present at its grant: the fetch has filled the line, or the lookup hits (R73, R74). -/
abbrev recordPresent (k : Till) (meter : Nat) (stage : ReprintStage) (l : LineNo) (r : Record) (s : State) : Prop :=
  stage = .present ∧ (s.slot k).pin = some meter ∧ s.pins (.slot k) meter l r ∨
    stage = .lookup ∧ (∃ e, dirFind meter s.directory = some e ∧ e.damaged = false) ∧
      if (s.slot k).quote.isSome = true then s.pins (.slot k) meter l r else s.hits (.slot k) meter l r

/-- The recency order after a grant that finds the record present: a hit makes the line most recent (R97). -/
def orderAfter (stage : ReprintStage) (l : LineNo) (s : State) : List LineNo :=
  if stage = .lookup then s.working.recency.erase l ++ [l] else s.working.recency

/-- The steps on the record are made in a state that holds its pin (R71, R73, R74). -/
theorem ReprintGranted.present (h : ReprintGranted s k meter req stage tag)
    (present : recordPresent k meter stage l r s) :
    ∃ x, ReprintPresent k meter req tag l r (orderAfter stage l s) s x ∧
      reprintStage k (s.pointed k) = presentReprint k ⟨meter, req, stage, tag⟩ r x := by
  rcases present with ⟨rfl, pinned, pins⟩ | ⟨rfl, ⟨e, entry, sound⟩, hits⟩
  · have held := pinHeld_pointed h.hold pins
    have reprint : ((s.pointed k).slot k).reprint = some ⟨meter, req, .present, tag⟩ := h.reprint
    have same : (s.slot k).reprinting meter req .present tag = s.slot k := by
      rw [VendSlot.reprinting, ← h.reprint, ← pinned]
    refine ⟨s.pointed k, by rw [ReprintPresent, same]; exact held, ?_⟩
    simp only [reprintStage, reprint, presentFromLine, held.record]
  · have onLine : findLine meter s = some l ∧ (s.line l).record = some r ∧
        ((s.line l).pin = none ∨ (s.line l).pin = some (.slot k)) ∧
        (findPinned (.slot k) s = none ∨ (s.line l).pin = some (.slot k) ∧ findPinned (.slot k) s = some l) := by
      split at hits
      · obtain ⟨found, line, -, pinned⟩ := hits
        have pin : (s.line l).pin = some (.slot k) := congrArg Line.pin line
        exact ⟨found, congrArg Line.record line, .inr pin, .inr ⟨pin, pinned⟩⟩
      · obtain ⟨found, line, -, unpinned⟩ := hits
        exact ⟨found, congrArg Line.record line, .inl (congrArg Line.pin line), .inl unpinned⟩
    obtain ⟨found, record, own, free⟩ := onLine
    have held := (pinHeld_pinLine h.hold found record free).modSlot fun v =>
      { v with reprint := v.reprint.map fun w => { w with stage := .present } }
    have entryX : dirFind meter (s.pointed k).directory = some e := entry
    have hit : lookup (.slot k) meter (s.pointed k) = .hit l := lookup_own (s := s.pointed k) found own
    refine ⟨_, by
      simpa only [h.reprint, Option.map_some, ReprintPresent, VendSlot.reprinting, orderAfter, if_true] using held, ?_⟩
    have recordX := held.record
    simp only [h.looksUp, lookupReprint, entryX, sound, hit, presentFromLine, setReprintStage, recordX,
      Bool.false_eq_true, if_false]

/-- A reprint refused once its record is present (R71, R74). -/
def refusedPresent (k : Till) (meter : Nat) (tag : Option Byte) (l : LineNo) (order : List LineNo) (reply : Reply)
    (s : State) : Prop :=
  ∃ t, exec .engineGrant s = .next t ∧ tillReplied k tag reply s t ∧ pinSettled k meter l order s t ∧ grantUsed k s t ∧
    onlyLevels s t ∧ keepsAllBut (refusedParts k) s t

theorem ReprintGranted.refusedPresent (h : ReprintGranted s k meter req stage tag)
    (present : recordPresent k meter stage l r s) {code : RefusalCode} {detail : Nat}
    (refuses : ∀ x, presentReprint k ⟨meter, req, stage, tag⟩ r x =
      refuseReprint k ⟨meter, req, stage, tag⟩ code detail x) :
    refusedPresent k meter tag l (orderAfter stage l s) (.refused code req.kind req.quoteId detail) s := by
  obtain ⟨x, held, served⟩ := h.present present
  have step := h.exec_eq
  rw [served, refuses, refuseReprint] at step
  exact ⟨_, step, held.reprintRefused h.rests _ rfl (keepsAllBut_refl _ _) (onlyLevels_refl _)⟩

/-- What the grant does with an entry found: it posts it, waits, or refuses it (R71, R74, R122, R124, R135). -/
def issuesEntry (k : Till) (meter : Nat) (req : ReprintRequest) (tag : Option Byte) (l : LineNo) (order : List LineNo)
    (index : Nat) (b : RecentToken) (rep : Bool) (s : State) : Prop :=
  (s.ready → ∃ t, exec .engineGrant s = .next t ∧
    posts (postedUnit s .journalOnly none s.now (.till k) (.reprint meter index b.sequence rep b.quoteId) s.site)
      s.journal.reservations s t ∧ pinSettled k meter l order s t ∧ grantUsed k s t ∧
    tillReplied k tag (.token (recentToken meter b index rep)) s t ∧ onlyLevels s t ∧
    keepsAllBut [.site, .buffer, .journal, .slot k, .lines, .grants, .conditions, .outstanding (.till k),
      .replies (.till k)] s t) ∧
  (s.postsAtOnce = false → s.roomForOffice = true → s.store.faulted = false → s.storeFaultLatched = false →
    ∃ t, exec .engineGrant s = .next t ∧ t.waiters = s.waiters ++ [reprintWaiter k meter index b rep] ∧
      t.journal = ⟨s.journal.nextSeq, s.journal.reservations + 1⟩ ∧
      t.slot k = (s.slot k).reprinting meter req .posting tag ∧
      lineIs l { s.line l with pin := some (.slot k) } order s t ∧ grantUsed k s t ∧ onlyLevels s t ∧
      keepsAllBut [.waiters, .journal, .slot k, .lines, .grants, .conditions] s t) ∧
  (s.postsAtOnce = false → s.roomForOffice = true → s.storeFaultLatched = true →
    refusedPresent k meter tag l order (.refused .suspended req.kind req.quoteId 0) s) ∧
  (s.roomForOffice = false →
    refusedPresent k meter tag l order (.refused .journalFull req.kind req.quoteId 0) s)

theorem ReprintGranted.issues (h : ReprintGranted s k meter req stage tag) (present : recordPresent k meter stage l r s)
    (issues : ∀ x, presentReprint k ⟨meter, req, stage, tag⟩ r x =
      issueReprint k ⟨meter, req, stage, tag⟩ index b rep x) :
    issuesEntry k meter req tag l (orderAfter stage l s) index b rep s := by
  obtain ⟨x, held, served⟩ := h.present present
  have step := h.exec_eq
  rw [served, issues, held.issueReprint_eq] at step
  have hasRoom (room : s.roomForOffice = true) : exec .engineGrant s = .next (settle (settlePending k
      (postOrWait (reprintWaiter k meter index b rep) (takeReservation x)))) := by
    rw [step, if_pos room]
  refine ⟨fun ⟨once, room⟩ => ?_,
    fun full room normal sound => ⟨_, hasRoom room, held.reprintWaits h.rests full normal sound⟩,
    fun full room latched => ⟨_, hasRoom room, held.reprintWithdrawn h.rests full latched⟩, fun full => ?_⟩
  · obtain ⟨posted, pin, used, replied, levels, kept⟩ :=
      held.reprintPosts (index := index) (b := b) (rep := rep) h.rests once
    exact ⟨_, hasRoom room, posted, pin, used, replied, levels, keepsAllBut_mono kept (by simp)⟩
  · rw [if_neg (by simp [full])] at step
    exact ⟨_, step, held.reprintRefused h.rests _ rfl (keepsAllBut_refl _ _) (onlyLevels_refl _)⟩

end

/-- Settles O35: the first grant without a pin and on a miss, and the steps on the record once it is present. -/
theorem grantPostsReprint : Obligations.GrantPostsReprint := by
  intro s k meter req stage tag running hold next state reprint
  have rests : (s.slot k).state = .idle ∨ (s.slot k).state = .opened := state.imp And.left And.left
  have granted : ReprintGranted s k meter req stage tag := ⟨running, hold, next, rests, reprint⟩
  refine ⟨?_, fun l r present => ⟨fun retired => granted.refusedPresent present fun x => ?_, fun account =>
    ⟨?_, ?_⟩⟩⟩
  · rintro rfl
    refine ⟨fun absent => granted.refused ?_, fun e entry damaged =>
      ⟨?_, fun other => granted.refused ?_⟩, fun e l entry sound => ⟨fun o found pinned other => granted.refused ?_,
        fun absent vict => ?_⟩⟩
    · have entryX : dirFind meter (s.pointed k).directory = none := absent
      simp only [lookupReprint, entryX]
    · rintro id rfl
      have entryX : dirFind meter (s.pointed k).directory = some e := entry
      refine granted.refused ?_
      simp only [lookupReprint, entryX, damaged, if_true, refuseDamagedReprint]
      rfl
    · have entryX : dirFind meter (s.pointed k).directory = some e := entry
      simp only [lookupReprint, entryX, damaged, if_true]
      unfold refuseDamagedReprint
      split
      case h_1 id searched => exact absurd searched (other id)
      case h_2 => rfl
    · have entryX : dirFind meter (s.pointed k).directory = some e := entry
      have busy : lookup (.slot k) meter (s.pointed k) = .busy := lookup_busy (s := s.pointed k) found pinned other
      simp only [lookupReprint, entryX, sound, busy, Bool.false_eq_true, if_false]
    · obtain ⟨t, step, slot, line, used, ⟨waits, begins⟩, kept⟩ := granted.misses entry sound absent vict
      exact ⟨t, step, slot, line, used, waits, begins, kept⟩
  · simp only [presentReprint, retired, if_true]
  · rintro index rfl
    refine ⟨fun b entry => granted.issues present fun x => ?_, fun absent => granted.refusedPresent present fun x => ?_⟩
    · simp only [presentReprint, account, if_false, entry]
    · simp only [presentReprint, account, if_false, absent]
  · rintro id found rfl
    refine ⟨fun i b entry names newest => granted.issues present fun x => ?_, fun absent => ?_⟩
    · simp only [presentReprint, account, if_false, findToken_newest entry names newest]
    · have searched := findToken_none absent
      cases found with
      | true =>
        rw [if_pos rfl]
        refine granted.refusedPresent present fun x => ?_
        simp only [presentReprint, account, if_false, searched, if_true]
        rfl
      | false =>
        rw [if_neg Bool.false_ne_true]
        refine granted.refusedPresent present fun x => ?_
        simp only [presentReprint, account, if_false, searched, Bool.false_eq_true]

end Sys2Proof.Machine
end

section
/-! SUPPORT. What every command in RUN ends with: the hold, the transmitters and the Record Store's choice (R81, R109,
R201), and what each command leaves to the store before it chooses. -/

namespace Sys2Proof.Machine

section

variable {s t x : State} {c : Instr}

/-! ### The end of a step -/

theorem settle_running (x : State) : (settle x).running = x.running := by simp [State.running, settle]

/-- A step in RUN grants a PENDING hold beside an empty buffer (R81). -/
theorem settle_atRest (running : x.running = true) : (settle x).holdAtRest :=
  holdAtRest_congr (grantHold_atRest running) (by simp [settle]) (by simp [settle])

/-- A step in RUN leaves no ACTIVE link with a frame ready and none in transmission (R201). -/
theorem settle_transmits (running : x.running = true) (p : PortId) (active : ((settle x).port p).link = .active)
    (ready : ((settle x).port p).order ≠ []) : ((settle x).port p).transmitting ≠ none := by
  unfold settle at active ready ⊢
  have runs : (chooseOperation (grantHold x)).running = true := by simpa [State.running] using running
  generalize chooseOperation (grantHold x) = y at *
  have link : (y.port p).link = .active :=
    (standing_link (pumpAll_keeps y (.link p) (by simp))).symm.trans active
  cases order : (y.port p).order with
  | nil => rw [pumpAll_idle order, order] at ready; exact absurd rfl ready
  | cons i rest =>
    cases sending : (y.port p).transmitting with
    | some f => rw [pumpAll_busy sending, sending]; nofun
    | none => rw [(pumpAll_begins runs link sending order).2]; nofun

theorem setService_work (v : Service) (s : State) :
    (setService v s).store.work = (v, s.store.retryWaiting, s.store.queue) := rfl

/-- The IDLE store takes up the first of R109. -/
theorem chooseOperation_work (running : x.running = true) (idle : x.store.service = .idle) :
    (chooseOperation x).store.work =
      RecordStore.choice x.store.faulted x.buffer.length x.store.retryWaiting x.store.queue := by
  have now : (x.running && x.store.service == .idle) = true := by simp [running, idle]
  unfold chooseOperation RecordStore.choice
  rw [if_pos now]
  split
  case isTrue retry => rfl
  case isFalse noRetry =>
    have retry : x.store.retryWaiting = false := by simpa using noRetry
    have full : (!x.store.faulted && decide (bufferSize ≤ x.buffer.length)) = true ↔
        x.store.faulted = false ∧ 4 ≤ x.buffer.length := by
      rw [Bool.and_eq_true, Bool.not_eq_true', decide_eq_true_iff, bufferSize]
    simp only [full]
    split
    · rw [setService_work, retry]
    · cases queue : x.store.queue with
      | cons f rest => simp [RecordStore.work, retry]
      | nil =>
        have units : (!x.store.faulted && !x.buffer.isEmpty) = true ↔ x.store.faulted = false ∧ x.buffer.length ≠ 0 := by
          simp
        simp only [units]
        split
        · rw [setService_work, retry, queue]
        · rw [RecordStore.work, idle, retry, queue]

theorem chooseOperation_faulted (x : State) : (chooseOperation x).store.faulted = x.store.faulted := by
  unfold chooseOperation setService
  repeat' split
  all_goals rfl

/-- A step in RUN goes on with the operation in progress, and the IDLE store takes up the first of R109. -/
theorem settle_work (running : x.running = true) : (settle x).store.work = if x.store.service = .idle then
    RecordStore.choice (settle x).store.faulted (settle x).buffer.length x.store.retryWaiting x.store.queue
    else x.store.work := by
  have store : (settle x).store = (chooseOperation (grantHold x)).store := by simp [settle]
  have granted : (grantHold x).store = x.store := by simp
  have buffer : (settle x).buffer = (grantHold x).buffer := by simp [settle]
  have runs : (grantHold x).running = true := by simpa [State.running] using running
  rw [store, buffer, chooseOperation_faulted]
  split
  case isTrue idle =>
    rw [chooseOperation_work runs (by rw [granted, idle]), granted]
  case isFalse busy =>
    rw [chooseOperation_busy (by rw [granted]; exact busy), granted]

/-! ### What a command leaves to the store -/

/-- The commands that tell of the store's operation. -/
def Instr.tellsOfStore : Instr → Bool
  | .recordFetchComplete _ => true
  | .areaReadComplete => true
  | .unitWriteComplete _ => true
  | .retryAttemptComplete _ => true
  | _ => false

/-- The other commands complete no operation, and none is tried again for them. -/
theorem tellsNothing (quiet : Instr.tellsOfStore c = false) : ¬ s.completes c ∧ s.tryAgain c = none := by
  constructor
  · intro completes
    unfold State.completes at completes
    split at completes
    · exact completes
    · split at completes
      · subst completes; simp [Instr.tellsOfStore] at quiet
      · obtain ⟨damaged, rfl⟩ := completes; simp [Instr.tellsOfStore] at quiet
    · obtain ⟨-, rfl⟩ := completes; simp [Instr.tellsOfStore] at quiet
    · obtain ⟨-, r, rfl⟩ := completes; simp [Instr.tellsOfStore] at quiet
    · obtain ⟨-, r, rfl, -⟩ := completes; simp [Instr.tellsOfStore] at quiet
  · unfold State.tryAgain
    split
    · simp [Instr.tellsOfStore] at quiet
    · simp [Instr.tellsOfStore] at quiet
    · rfl

/-- An operation tried again is one in progress, before and after (R111, R115). -/
theorem tryAgain_idle (s : State) (c : Instr) :
    (s.tryAgain c).getD s.store.service = .idle ↔ s.store.service = .idle := by
  unfold State.tryAgain
  split <;> simp_all

/-- What a command's own work leaves to the store, which then chooses where it is IDLE: an operation completed, or the
one of before, perhaps tried again, beside a retry and a fetch that the command may have asked for (R101, R108 to
R115). -/
inductive StoreLeft (c : Instr) (s x : State) : Prop where
  | completed (completes : s.completes c) (work : x.store.work = (.idle, s.store.retryWaiting, s.store.queue))
  | goesOn (retry : Bool) (more : List Fetch) (runs : ¬ s.completes c)
      (kept : s.store.retryWaiting = true → retry = true)
      (asked : retry = true → s.store.retryWaiting = true ∨ ∃ tag body, c = .storeRetry tag body)
      (one : more.length ≤ 1) (source : more ≠ [] → c = .engineGrant ∨ (Request.of c).isSome = true)
      (work : x.store.work = ((s.tryAgain c).getD s.store.service, retry, s.store.queue ++ more))

/-- The store's part of what every command in RUN ends with (R108, R109, R111, R115). -/
def storeSettled (c : Instr) (s t : State) : Prop :=
  (s.completes c → t.store.work =
    RecordStore.choice t.store.faulted t.buffer.length s.store.retryWaiting s.store.queue) ∧
  (¬ s.completes c → ∃ (retry : Bool) (more : List Fetch), (s.store.retryWaiting = true → retry = true) ∧
    (retry = true → s.store.retryWaiting = true ∨ ∃ tag body, c = .storeRetry tag body) ∧
    more.length ≤ 1 ∧ (more ≠ [] → c = .engineGrant ∨ (Request.of c).isSome = true) ∧
    t.store.work = if s.store.service = .idle then
      RecordStore.choice t.store.faulted t.buffer.length retry (s.store.queue ++ more)
      else ((s.tryAgain c).getD s.store.service, retry, s.store.queue ++ more))

theorem work_eq {st : RecordStore} {v : Service} {retry : Bool} {queue : List Fetch} (h : st.work = (v, retry, queue)) :
    st.service = v ∧ st.retryWaiting = retry ∧ st.queue = queue := by
  simpa [RecordStore.work] using h

theorem StoreLeft.settled (h : StoreLeft c s x) (running : x.running = true) : storeSettled c s (settle x) := by
  have chosen := settle_work running
  cases h with
  | completed completes work =>
    obtain ⟨service, retry, queue⟩ := work_eq work
    refine ⟨fun _ => ?_, fun runs => absurd completes runs⟩
    rw [chosen, if_pos service, retry, queue]
  | goesOn retry more runs kept asked one source work =>
    obtain ⟨service, waits, queue⟩ := work_eq work
    refine ⟨fun completes => absurd completes runs, fun _ => ⟨retry, more, kept, asked, one, source, ?_⟩⟩
    rw [chosen, service, waits, queue, work]
    simp only [tryAgain_idle]

/-- The step of a command, as the end of its own work, which leaves the store as `StoreLeft` says. -/
def StepLeft (c : Instr) (s t : State) : Prop := ∃ x, t = settle x ∧ (x.running = true → StoreLeft c s x)

theorem StepLeft.of_finish (ht : finish x = .next t) (left : x.running = true → StoreLeft c s x) : StepLeft c s t :=
  ⟨x, (Host.Outcome.next.inj ht).symm, left⟩

/-- A command that leaves the store at its work. -/
theorem StepLeft.stands (quiet : Instr.tellsOfStore c = false) (store : x.store = s.store) (ht : finish x = .next t) :
    StepLeft c s t := by
  obtain ⟨runs, once⟩ := tellsNothing (s := s) quiet
  exact .of_finish ht fun _ => .goesOn s.store.retryWaiting [] runs id .inl (by simp) (absurd rfl)
    (by rw [store, once, List.append_nil]; rfl)

/-- A command that does not end in RUN. -/
theorem StepLeft.stopped (stopped : x.running = false) (ht : finish x = .next t) : StepLeft c s t :=
  .of_finish ht fun running => by simp [stopped] at running

/-! ### Fetches asked for by requests and grants (R108) -/

/-- The store's operation goes on; one fetch may have been queued behind the others (R108). -/
def fetchAsked (s x : State) : Prop :=
  ∃ more : List Fetch, more.length ≤ 1 ∧
    x.store.work = (s.store.service, s.store.retryWaiting, s.store.queue ++ more)

theorem fetchAsked_none (store : x.store = s.store) : fetchAsked s x :=
  ⟨[], by simp, by rw [store]; simp [RecordStore.work]⟩

theorem fetchAsked_one {f : Fetch} (store : x.store = { s.store with queue := s.store.queue ++ [f] }) :
    fetchAsked s x :=
  ⟨[f], by simp, by rw [store]; rfl⟩

/-- What follows the asking, and what came before it, leaves the store alone. -/
theorem fetchAsked.of_store {y : State} (h : fetchAsked s x) (store : y.store = x.store) : fetchAsked s y := by
  simpa only [fetchAsked, store] using h

theorem fetchAsked.from_store {y : State} (h : fetchAsked y x) (store : y.store = s.store) : fetchAsked s x := by
  simpa only [fetchAsked, store] using h

theorem StepLeft.asks (quiet : Instr.tellsOfStore c = false) (source : c = .engineGrant ∨ (Request.of c).isSome = true)
    (asked : fetchAsked s x) (ht : finish x = .next t) : StepLeft c s t := by
  obtain ⟨runs, once⟩ := tellsNothing (s := s) quiet
  obtain ⟨more, one, work⟩ := asked
  exact .of_finish ht fun _ => .goesOn s.store.retryWaiting more runs id .inl one (fun _ => source)
    (by rw [work, once]; rfl)

/-- A request frame at its port (R199). -/
theorem portTake_asks (p : PortId) (kind tag : Byte) (body : List Byte) {busy serve : State → State}
    (turnedAway : (busy s).store = s.store) (serves : ∀ y, fetchAsked y (serve y)) :
    fetchAsked s (portTake p kind tag body busy serve s) := by
  unfold portTake
  repeat' split
  · exact fetchAsked_none rfl
  · exact fetchAsked_none (by simp)
  · exact fetchAsked_none rfl
  · exact fetchAsked_none turnedAway
  · exact fetchAsked_none rfl
  · exact (serves _).from_store (by simp)

/-- A request whose service asks for one fetch at most. -/
theorem StepLeft.request {p : PortId} {kind tag : Byte} {body : List Byte} {serve : State → State}
    (quiet : Instr.tellsOfStore c = false) (source : (Request.of c).isSome = true)
    (serves : ∀ y, fetchAsked y (serve y)) (ht : finish (takeRequest p kind tag body serve s) = .next t) :
    StepLeft c s t :=
  .asks quiet (.inr source) (portTake_asks p kind tag body (by simp) serves) ht

/-- A request whose service leaves the store alone. -/
theorem StepLeft.plain {p : PortId} {kind tag : Byte} {body : List Byte} {serve : State → State}
    (quiet : Instr.tellsOfStore c = false) (source : (Request.of c).isSome = true)
    (serves : ∀ y, (serve y).store = y.store) (ht : finish (takeRequest p kind tag body serve s) = .next t) :
    StepLeft c s t :=
  .request quiet source (fun y => fetchAsked_none (serves y)) ht

theorem startFetch_asks (o : Owner) (meter slot : Nat) (s : State) : fetchAsked s (startFetch o meter slot s) :=
  fetchAsked_one (f := .record (victim s) meter slot) (by simp [startFetch])

theorem lookupRecord_asks (req : RecordRequest) (s : State) : fetchAsked s (lookupRecord req s) := by
  unfold lookupRecord
  repeat' split
  · exact fetchAsked_none (by simp)
  · exact fetchAsked_none (by simp)
  · exact fetchAsked_none (by simp)
  · exact fetchAsked_none (by simp)
  · exact (startFetch_asks ..).of_store rfl

theorem serveChange_asks (needsHold : Bool) (req : RecordRequest) (s : State) :
    fetchAsked s (serveChange needsHold req s) := by
  unfold serveChange
  split
  · exact fetchAsked_none (by simp)
  · exact lookupRecord_asks req s

theorem serveEdit_asks (body : List Byte) (s : State) : fetchAsked s (serveEdit body s) := by
  unfold serveEdit
  split
  · exact fetchAsked_none (by simp)
  · exact serveChange_asks ..

theorem serveMeter_asks {serve : Nat → State → State} (body : List Byte) (serves : ∀ m, fetchAsked s (serve m s)) :
    fetchAsked s (serveMeter body serve s) := by
  unfold serveMeter
  split
  · exact fetchAsked_none (by simp)
  · exact serves _

theorem serveRead_asks (meter : Nat) (s : State) : fetchAsked s (serveRead meter s) := by
  unfold serveRead
  repeat' split
  · exact fetchAsked_none (by simp)
  · exact fetchAsked_none (by simp)
  · exact fetchAsked_none (by simp)
  · exact (startFetch_asks ..).of_store rfl
  · exact fetchAsked_none (by simp)
  · exact fetchAsked_none (by simp)

theorem serveJournalRead_asks (body : List Byte) (s : State) : fetchAsked s (serveJournalRead body s) := by
  unfold serveJournalRead
  repeat' split
  · exact fetchAsked_none (by simp)
  · exact fetchAsked_none (by simp)
  · exact fetchAsked_one rfl

theorem serveSummaryRead_asks (body : List Byte) (s : State) : fetchAsked s (serveSummaryRead body s) := by
  unfold serveSummaryRead
  repeat' split
  · exact fetchAsked_none (by simp)
  · exact fetchAsked_one rfl
  · exact fetchAsked_none (by simp)

/-! ### The grant -/

theorem lookupQuote_asks (k : Till) (q : QuoteRecord) (s : State) : fetchAsked s (lookupQuote k q s) := by
  unfold lookupQuote
  repeat' split
  · exact fetchAsked_none (by simp)
  · exact fetchAsked_none (by simp)
  · exact fetchAsked_none (by simp)
  · exact fetchAsked_none (by simp)
  · exact (startFetch_asks ..).of_store rfl

theorem quoteStage_asks (k : Till) (s : State) : fetchAsked s (quoteStage k s) := by
  unfold quoteStage
  repeat' split
  · exact fetchAsked_none rfl
  · exact fetchAsked_none (by simp)
  · exact fetchAsked_none (by simp)
  · exact lookupQuote_asks ..

theorem lookupReprint_asks (k : Till) (w : ReprintWork) (s : State) : fetchAsked s (lookupReprint k w s) := by
  unfold lookupReprint
  repeat' split
  · exact fetchAsked_none (by simp)
  · exact fetchAsked_none (by simp)
  · exact fetchAsked_none (by simp)
  · exact fetchAsked_none (by simp)
  · exact (startFetch_asks ..).of_store rfl

theorem reprintStage_asks (k : Till) (s : State) : fetchAsked s (reprintStage k s) := by
  unfold reprintStage
  repeat' split
  · exact fetchAsked_none rfl
  · exact lookupReprint_asks ..
  · exact fetchAsked_none (by simp)
  · exact fetchAsked_none rfl

theorem slotStage_asks (k : Till) (s : State) : fetchAsked s (slotStage k s) := by
  unfold slotStage
  split
  · exact quoteStage_asks k s
  · exact fetchAsked_none (by simp)
  · exact reprintStage_asks k s

theorem engineGrant_left (ht : exec .engineGrant s = .next t) : StepLeft .engineGrant s t := by
  refine .asks rfl (.inl rfl) ?_ ht
  split
  case h_1 => exact fetchAsked_none rfl
  case h_2 k next => exact (slotStage_asks k (s.pointed k)).of_store rfl

/-! ### STORE_RETRY -/

theorem storeRetry_left {tag : Byte} {body : List Byte} (ht : exec (.storeRetry tag body) s = .next t) :
    StepLeft (.storeRetry tag body) s t := by
  obtain ⟨runs, once⟩ := tellsNothing (s := s) (c := .storeRetry tag body) rfl
  have served (y : State) (same : y.store = s.store) : ∃ retry, (s.store.retryWaiting = true → retry = true) ∧
      (serveRetry body y).store.work = (s.store.service, retry, s.store.queue) := by
    unfold serveRetry
    repeat' split
    · exact ⟨_, id, by simp [same, RecordStore.work]⟩
    · exact ⟨_, id, by simp [same, RecordStore.work]⟩
    · exact ⟨true, fun _ => rfl, by simp [same, RecordStore.work]⟩
    · exact ⟨_, id, by simp [same, RecordStore.work]⟩
  have taken : ∃ retry, (s.store.retryWaiting = true → retry = true) ∧
      (takeOffice kindStoreRetry tag body (serveRetry body) s).store.work =
        (s.store.service, retry, s.store.queue) := by
    unfold takeOffice takeRequest portTake
    repeat' split
    · exact ⟨_, id, rfl⟩
    · exact ⟨_, id, by simp [RecordStore.work]⟩
    · exact ⟨_, id, rfl⟩
    · exact ⟨_, id, by simp [RecordStore.work]⟩
    · exact ⟨_, id, rfl⟩
    · exact served _ (by simp)
  obtain ⟨retry, kept, work⟩ := taken
  exact .of_finish ht fun _ => .goesOn retry [] runs kept (fun _ => .inr ⟨tag, body, rfl⟩) (by simp) (absurd rfl)
    (by rw [work, once, List.append_nil]; rfl)

/-! ### The completions -/

theorem afterOperation_running (s : State) : (afterOperation s).running = s.running := by
  unfold afterOperation
  split
  · unfold startDrain drainNext
    repeat' split
    all_goals rfl
  · rfl

theorem recordFetchComplete_left {damaged : Bool} (ht : exec (.recordFetchComplete damaged) s = .next t) :
    StepLeft (.recordFetchComplete damaged) s t := by
  refine .of_finish ht ?_
  have once : s.tryAgain (.recordFetchComplete damaged) = none := rfl
  have altered (slot : Nat) : (setService .idle (alterSlot damaged slot s)).store.work =
      (.idle, s.store.retryWaiting, s.store.queue) := by
    unfold alterSlot; split <;> rfl
  have sameRun (slot : Nat) : (setService .idle (alterSlot damaged slot s)).running = s.running := by
    unfold alterSlot; split <;> rfl
  split
  case h_1 l meter slot service =>
    have completes : s.completes (.recordFetchComplete damaged) := by
      simp only [State.completes, service, Fetch.isArea]
      exact ⟨damaged, rfl⟩
    refine fun runs => .completed completes ?_
    split
    · rw [← altered slot]; simp
    case isFalse stopped =>
      rw [if_neg stopped, afterOperation_running, sameRun] at runs
      exact absurd runs stopped
  case h_2 other =>
    have runs : ¬ s.completes (.recordFetchComplete damaged) := by
      unfold State.completes
      split
      case h_2 f service =>
        cases f with
        | record l meter slot => exact absurd service (other l meter slot)
        | _ => simp [Fetch.isArea]
      all_goals simp
    exact fun _ => .goesOn s.store.retryWaiting [] runs id .inl (by simp) (absurd rfl)
      (by rw [once, List.append_nil]; rfl)

theorem areaReadComplete_left (ht : exec .areaReadComplete s = .next t) : StepLeft .areaReadComplete s t := by
  refine .of_finish ht ?_
  have once : s.tryAgain .areaReadComplete = none := rfl
  have goesOn (runs : ¬ s.completes .areaReadComplete) : StoreLeft .areaReadComplete s s :=
    .goesOn s.store.retryWaiting [] runs id .inl (by simp) (absurd rfl) (by rw [once, List.append_nil]; rfl)
  split
  case h_1 f service =>
    split
    case isTrue area =>
      have completes : s.completes .areaReadComplete := by simp [State.completes, service, area]
      refine fun runs => .completed completes ?_
      split
      · simp [setService, RecordStore.work]
      case isFalse stopped =>
        rw [if_neg stopped, afterOperation_running] at runs
        exact absurd runs stopped
    case isFalse record => exact fun _ => goesOn (by simp [State.completes, service, record])
  case h_2 other =>
    refine fun _ => goesOn ?_
    unfold State.completes
    split
    case h_2 f service => exact absurd service (other f)
    all_goals simp

theorem completeUnit_work (u : CommitUnit) (s : State) : (completeUnit u s).store.work = s.store.work := by
  simp [completeUnit, RecordStore.work, RecordStore.written]

theorem failUnit_work (u : CommitUnit) (a : Bool) (s : State) : (failUnit u a s).store.work = s.store.work := rfl

/-- In RUN a verified write leaves the store IDLE (R110). -/
theorem writeVerified_work (u : CommitUnit) (runs : (writeVerified u s).running = true) :
    (writeVerified u s).store.work = (.idle, s.store.retryWaiting, s.store.queue) := by
  obtain ⟨-, retry, queue⟩ := work_eq (completeUnit_work u s)
  unfold writeVerified at *
  split
  · simp [setService, RecordStore.work, retry, queue]
  case isFalse stopped =>
    rw [if_neg stopped, afterOperation_running] at runs
    exact absurd (by simpa [State.running, setService] using runs) stopped

/-- In RUN a unit's second failure leaves the store IDLE (R112). -/
theorem storeFault_work (runs : (storeFault s).running = true) :
    (storeFault s).store.work = (.idle, s.store.retryWaiting, s.store.queue) := by
  unfold storeFault at *
  split
  · simp [setService, setFaulted, RecordStore.work]
  case isFalse stopped =>
    rw [if_neg stopped, afterOperation_running] at runs
    exact absurd (by simpa [State.running, setService, setFaulted] using runs) stopped

/-- A report of the store's operation that completes it. -/
theorem StepLeft.completed (completes : s.completes c) (ht : finish x = .next t)
    (work : x.running = true → x.store.work = (.idle, s.store.retryWaiting, s.store.queue)) : StepLeft c s t :=
  .of_finish ht fun runs => .completed completes (work runs)

/-- A report of the store's operation that does not complete it. -/
theorem StepLeft.goesOn (runs : ¬ s.completes c) (ht : finish x = .next t)
    (work : x.store.work = ((s.tryAgain c).getD s.store.service, s.store.retryWaiting, s.store.queue)) :
    StepLeft c s t :=
  .of_finish ht fun _ => .goesOn s.store.retryWaiting [] runs id .inl (by simp) (absurd rfl)
    (by rw [work, List.append_nil])

/-- No report completes the write of an empty buffer. -/
theorem not_completes_of_empty {r : ReadBack} (empty : s.buffer = []) :
    ¬ s.completes (.unitWriteComplete r) ∧ ¬ s.completes (.retryAttemptComplete r) := by
  constructor <;> (unfold State.completes; split <;> simp [empty])

/-- UNIT_WRITE_COMPLETE in RUN, with a unit in the buffer (R110, R111, R112). -/
theorem unitWrite_left {u : CommitUnit} {rest : List CommitUnit} {r : ReadBack} (buffer : s.buffer = u :: rest)
    (ht : finish (unitWrite u r s) = .next t) : StepLeft (.unitWriteComplete r) s t := by
  by_cases first : s.store.service = .writing
  · cases r with
    | verified =>
      refine .completed (by simp [State.completes, first, buffer]) ht fun runs => ?_
      simp only [unitWrite, first] at runs ⊢
      exact writeVerified_work u runs
    | failed a =>
      refine .goesOn (by simp [State.completes, first]) ht ?_
      simp only [unitWrite, first, State.tryAgain, buffer]
      rfl
  by_cases second : s.store.service = .rewriting
  · refine .completed (by simp [State.completes, second, buffer]) ht fun runs => ?_
    cases r with
    | verified =>
      simp only [unitWrite, second] at runs ⊢
      exact writeVerified_work u runs
    | failed a =>
      simp only [unitWrite, second] at runs ⊢
      exact storeFault_work runs
  have stands : unitWrite u r s = s := by
    unfold unitWrite
    split <;> simp_all
  have once : s.tryAgain (.unitWriteComplete r) = none := by
    unfold State.tryAgain
    split <;> simp_all
  refine .goesOn ?_ ht (by rw [stands, once]; rfl)
  unfold State.completes
  split <;> simp_all

theorem draining_stopped (draining : s.draining = true) : s.running = false := by
  have hold : s.supply.state = .hold := by
    simp only [State.draining, Bool.and_eq_true, beq_iff_eq] at draining
    exact draining.1
  simp [State.running, hold]

theorem unitWriteComplete_left {r : ReadBack} (ht : exec (.unitWriteComplete r) s = .next t) :
    StepLeft (.unitWriteComplete r) s t := by
  have step : finish (match s.buffer with
    | [] => s
    | u :: _ => if s.draining then s else unitWrite u r s) = .next t := ht
  cases buffer : s.buffer with
  | nil =>
    rw [buffer] at step
    exact .goesOn (not_completes_of_empty buffer).1 step (by simp [State.tryAgain, buffer, RecordStore.work])
  | cons u rest =>
    simp only [buffer] at step
    split at step
    case isTrue draining => exact .stopped (draining_stopped draining) step
    case isFalse => exact unitWrite_left buffer step

/-- In RUN a verified attempt of a STORE_RETRY leaves the store IDLE (R115). -/
theorem retryVerified_work (u : CommitUnit) (runs : (retryVerified u s).running = true) :
    (retryVerified u s).store.work = (.idle, s.store.retryWaiting, s.store.queue) := by
  obtain ⟨-, retry, queue⟩ := work_eq (completeUnit_work u s)
  unfold retryVerified at *
  split
  · simp [setService, setFaulted, RecordStore.work, retry, queue]
  case isFalse stopped =>
    rw [if_neg stopped, afterOperation_running] at runs
    exact absurd (by simpa [State.running, setService, setFaulted] using runs) stopped

/-- In RUN the second failed attempt of a STORE_RETRY leaves the store IDLE (R115). -/
theorem retryFailed_work (runs : (retryFailed s).running = true) :
    (retryFailed s).store.work = (.idle, s.store.retryWaiting, s.store.queue) := by
  unfold retryFailed at *
  split
  · simp [setService, RecordStore.work]
  case isFalse stopped =>
    rw [if_neg stopped, afterOperation_running] at runs
    exact absurd runs stopped

/-- RETRY_ATTEMPT_COMPLETE with a unit in the buffer (R115). -/
theorem retryAttempt_left {u : CommitUnit} {rest : List CommitUnit} {r : ReadBack} (buffer : s.buffer = u :: rest)
    (ht : finish (retryAttempt u r s) = .next t) : StepLeft (.retryAttemptComplete r) s t := by
  by_cases trying : ∃ second, s.store.service = .retrying second
  · obtain ⟨second, service⟩ := trying
    cases r with
    | verified =>
      refine .completed (by simp [State.completes, service, buffer]) ht fun runs => ?_
      simp only [retryAttempt, service] at runs ⊢
      exact retryVerified_work u runs
    | failed a =>
      cases second with
      | false =>
        refine .goesOn (by simp [State.completes, service]) ht ?_
        simp only [retryAttempt, service, State.tryAgain, buffer]
        rfl
      | true =>
        refine .completed (by simp [State.completes, service, buffer]) ht fun runs => ?_
        simp only [retryAttempt, service] at runs ⊢
        exact retryFailed_work runs
  have stands : retryAttempt u r s = s := by
    unfold retryAttempt
    split <;> simp_all
  have once : s.tryAgain (.retryAttemptComplete r) = none := by
    unfold State.tryAgain
    split <;> simp_all
  refine .goesOn ?_ ht (by rw [stands, once]; rfl)
  unfold State.completes
  split <;> simp_all

theorem retryAttemptComplete_left {r : ReadBack} (ht : exec (.retryAttemptComplete r) s = .next t) :
    StepLeft (.retryAttemptComplete r) s t := by
  have step : finish (match s.buffer with
    | [] => s
    | u :: _ => retryAttempt u r s) = .next t := ht
  cases buffer : s.buffer with
  | nil =>
    rw [buffer] at step
    exact .goesOn (not_completes_of_empty buffer).2 step (by simp [State.tryAgain, buffer, RecordStore.work])
  | cons u rest =>
    simp only [buffer] at step
    exact retryAttempt_left buffer step

/-! ### The supply (R179 to R191) -/

theorem startDrain_running (s : State) : (startDrain s).running = s.running := by
  unfold startDrain drainNext
  repeat' split
  all_goals rfl

theorem enterHold_stops (cause : OutageCause) (s : State) : (enterHold cause s).running = false := by
  unfold enterHold
  dsimp only
  split
  · rw [startDrain_running]; rfl
  · rfl

theorem backupCellFailed_left (ht : exec .backupCellFailed s = .next t) : StepLeft .backupCellFailed s t := by
  have step : finish (if s.running then { s with cell := ⟨false, none⟩ }
    else reportLevels { s with cell := ⟨false, none⟩, calendar := ⟨none, false⟩ }) = .next t := ht
  exact .stands rfl (by split <;> simp) step

/-! ### Every command -/

theorem supplyLow_left (ht : exec .supplyLow s = .next t) : StepLeft .supplyLow s t := by
  have step : finish (match s.supply.state with
    | .run => enterHold .supply { s with supply := { s.supply with levelOk := false } }
    | .resetWait => setSupply .down { s with supply := { s.supply with levelOk := false } }
    | .start => setSupply .down (abandonStart { s with supply := { s.supply with levelOk := false } })
    | .hold => { s with supply := { s.supply with levelOk := false } }
    | .down => { s with supply := { s.supply with levelOk := false } }) = .next t := ht
  cases state : s.supply.state with
  | run => rw [state] at step; exact .stopped (enterHold_stops ..) step
  | _ => rw [state] at step; exact .stands rfl (by simp) step

theorem resetAsserted_left (ht : exec .resetAsserted s = .next t) : StepLeft .resetAsserted s t := by
  have step : finish (match s.supply.state with
    | .run => enterHold .resetLine { s with supply := { s.supply with resetAsserted := true } }
    | .start => setSupply .resetWait (abandonStart { s with supply := { s.supply with resetAsserted := true } })
    | _ => { s with supply := { s.supply with resetAsserted := true } }) = .next t := ht
  cases state : s.supply.state with
  | run => rw [state] at step; exact .stopped (enterHold_stops ..) step
  | _ => rw [state] at step; exact .stands rfl (by simp) step

theorem drainNext_running (s : State) : (drainNext s).running = s.running := by
  unfold drainNext
  split <;> rfl

theorem drainWrite_running (u : CommitUnit) (r : ReadBack) (s : State) : (drainWrite u r s).running = s.running := by
  unfold drainWrite
  split
  · rw [drainNext_running]; simp [State.running, setFaulted]
  · rw [drainNext_running]; simp [State.running]
  · rfl
  · rfl

theorem drainWriteComplete_left {r : ReadBack} (ht : exec (.drainWriteComplete r) s = .next t) :
    StepLeft (.drainWriteComplete r) s t := by
  have step : finish (match s.buffer with
    | [] => s
    | u :: _ => if s.draining then drainWrite u r s else s) = .next t := ht
  split at step
  · exact .stands rfl rfl step
  · split at step
    case isTrue draining => exact .stopped ((drainWrite_running ..).trans (draining_stopped draining)) step
    case isFalse => exact .stands rfl rfl step

theorem endHoldState_stops (h : HoldRecord) (s : State) : (endHoldState h s).running = false := by
  unfold endHoldState
  dsimp only
  repeat' split
  all_goals rfl

theorem holdCellWriteComplete_left {r : CellReadBack} (ht : exec (.holdCellWriteComplete r) s = .next t) :
    StepLeft (.holdCellWriteComplete r) s t := by
  have step : finish (match s.supply.holdRecord with
    | none => s
    | some h =>
      if s.supply.state == .hold && s.supply.drain == .cellWrite then
        endHoldState h { s with store := { s.store with holdCell := cellAfter h r s.store.holdCell } }
      else s) = .next t := ht
  split at step
  · exact .stands rfl rfl step
  · split at step
    · exact .stopped (endHoldState_stops ..) step
    · exact .stands rfl rfl step

theorem startUp_stops (starting : s.supply.state = .start) : (startUp s).running = false := by
  have supply : (startUp s).supply = (resetVolatile (readStore s)).supply := by simp [startUp]
  have state : (resetVolatile (readStore s)).supply.state = s.supply.state := rfl
  simp [State.running, supply, state, starting]

theorem startUp_left (ht : exec .startUp s = .next t) : StepLeft .startUp s t := by
  have step : finish (if s.supply.state == .start && !s.supply.started then startUp s else s) = .next t := ht
  split at step
  case isTrue starting =>
    simp only [Bool.and_eq_true, beq_iff_eq] at starting
    exact .stopped (startUp_stops starting.1) step
  case isFalse => exact .stands rfl rfl step

/-- A request asks the store for a fetch or a retry at most (R108, R115, R199). -/
theorem request_left (request : (Request.of c).isSome = true) (ht : exec c s = .next t) : StepLeft c s t := by
  cases c with
  | quote k g b => exact .plain rfl rfl (by simp) ht
  | confirm k g b => exact .plain rfl rfl (by simp) ht
  | cancel k g b => exact .asks rfl (.inr rfl) (portTake_asks _ _ _ _ (by simp) fun y => fetchAsked_none (by simp)) ht
  | reprint k g b => exact .plain rfl rfl (by simp) ht
  | tillStatus k g b => exact .plain rfl rfl (by simp) ht
  | meterEnrol g b => exact .plain rfl rfl (by simp) ht
  | meterEdit g b => exact .request rfl rfl (serveEdit_asks b) ht
  | meterBlock g b => exact .request rfl rfl (fun y => serveMeter_asks b fun m => serveChange_asks ..) ht
  | meterUnblock g b => exact .request rfl rfl (fun y => serveMeter_asks b fun m => serveChange_asks ..) ht
  | meterRetire g b => exact .request rfl rfl (fun y => serveMeter_asks b fun m => serveChange_asks ..) ht
  | meterPurge g b => exact .request rfl rfl (fun y => serveMeter_asks b fun m => serveChange_asks ..) ht
  | meterRestore g b => exact .plain rfl rfl (by simp) ht
  | meterRead g b => exact .request rfl rfl (fun y => serveMeter_asks b fun m => serveRead_asks m y) ht
  | tariffStage g b => exact .plain rfl rfl (by simp) ht
  | tariffUnstage g b => exact .plain rfl rfl (by simp) ht
  | tariffLoadNow g b => exact .plain rfl rfl (by simp) ht
  | tariffRead g b => exact .plain rfl rfl (by simp) ht
  | budgetVoucher g b => exact .plain rfl rfl (by simp) ht
  | budgetFloorSet g b => exact .plain rfl rfl (by simp) ht
  | journalRead g b => exact .request rfl rfl (serveJournalRead_asks b) ht
  | journalRelease g b => exact .plain rfl rfl (by simp) ht
  | clockSet g b => exact .plain rfl rfl (by simp) ht
  | clockRead g b => exact .plain rfl rfl (by simp) ht
  | summaryRead g b => exact .request rfl rfl (serveSummaryRead_asks b) ht
  | totalsSnapshot g b => exact .plain rfl rfl (by simp) ht
  | tillClose g b => exact .plain rfl rfl (by simp) ht
  | holdRequest g b => exact .plain rfl rfl (by simp) ht
  | holdRelease g b => exact .plain rfl rfl (by simp) ht
  | linkSet g b => exact .plain rfl rfl (by simp) ht
  | quoteTimeSet g b => exact .plain rfl rfl (by simp) ht
  | noticeMaskSet g b => exact .plain rfl rfl (by simp) ht
  | conditionClear g b => exact .plain rfl rfl (by simp) ht
  | statusRead g b => exact .plain rfl rfl (by simp) ht
  | siteCodeLoad g b => exact .plain rfl rfl (by simp) ht
  | storeRetry g b => exact storeRetry_left ht
  | unknownKind q kind g b => exact .plain rfl rfl (by simp) ht
  | _ => exact absurd request nofun

/-- An event reports the store's operation, is the engine's grant, or leaves the store alone. -/
theorem event_left (event : Request.of c = none) (ht : exec c s = .next t) : StepLeft c s t := by
  cases c with
  | frameDiscarded q cs => exact .stands rfl (by split <;> simp) ht
  | frameTimeLimit q cs n => exact .stands rfl (by split <;> simp) ht
  | frameTransmitted q => exact .stands rfl (by simp) ht
  | linkEntersFault q => exact .stands rfl (by split <;> simp) ht
  | linkFaultEnd q => exact .stands rfl (by split <;> simp) ht
  | linkSettingsTaken k => exact .stands rfl (by split <;> simp) ht
  | engineGrant => exact engineGrant_left ht
  | quoteHoldExpiry k => exact .stands rfl (by split <;> simp) ht
  | officeHoldLapse => exact .stands rfl (by split <;> simp) ht
  | dayRollover => exact .stands rfl (by split <;> simp) ht
  | recordFetchComplete d => exact recordFetchComplete_left ht
  | areaReadComplete => exact areaReadComplete_left ht
  | unitWriteComplete r => exact unitWriteComplete_left ht
  | retryAttemptComplete r => exact retryAttemptComplete_left ht
  | supplyLow => exact supplyLow_left ht
  | supplyOk => exact .stands rfl (by (repeat' split); all_goals rfl) ht
  | resetAsserted => exact resetAsserted_left ht
  | resetReleased => exact .stands rfl (by split <;> simp) ht
  | drainWriteComplete r => exact drainWriteComplete_left ht
  | holdCellWriteComplete r => exact holdCellWriteComplete_left ht
  | startUp => exact startUp_left ht
  | startUpComplete => exact .stands rfl (by split <;> simp) ht
  | calendarSecond => exact .stands rfl (by rfl) ht
  | backupCellFailed => exact backupCellFailed_left ht
  | _ => exact absurd event nofun

theorem exec_left (c : Instr) (ht : exec c s = .next t) : StepLeft c s t := by
  cases request : Request.of c with
  | some frame => exact request_left (by rw [request]; rfl) ht
  | none => exact event_left request ht

end

/-- Settles O4: the end of a step in RUN, over what the command's own work leaves to the store. -/
theorem stepEndsSettled : Obligations.StepEndsSettled := by
  intro c s t ht running
  obtain ⟨x, rfl, left⟩ := exec_left c ht
  have runs : x.running = true := (settle_running x).symm.trans running
  obtain ⟨completed, goesOn⟩ := (left runs).settled runs
  exact ⟨settle_atRest runs, settle_transmits runs, completed, goesOn⟩

end Sys2Proof.Machine
end

section
/-! SUPPORT. The check K of a token (R85): what one digit weighs in it, and the changes that it finds. -/

namespace Sys2Proof.Machine

/-- A changed digit moves the weighted sum by its weight. -/
theorem checkSum_set {ds : Digits} {i : Nat} (hi : i < ds.length) (k d : Nat) :
    checkSum k (ds.set i d) + (k + i + 1) * ds.getD i 0 = checkSum k ds + (k + i + 1) * d := by
  induction ds generalizing i k with
  | nil => simp at hi
  | cons x xs ih =>
    cases i with
    | zero => simp only [List.set_cons_zero, List.getD_cons_zero, checkSum]; ring
    | succ i =>
      have rest := ih (Nat.lt_of_succ_lt_succ hi) (k + 1)
      simp only [List.set_cons_succ, List.getD_cons_succ, checkSum]
      rw [show k + (i + 1) + 1 = k + 1 + i + 1 by ring]
      omega

/-- Two digits that a weight below 97 makes equal mod 97 are equal, since 97 is prime. -/
theorem digit_eq_of_weight {w a b : Nat} (hw : 0 < w) (small : w < 97) (ha : a ≤ 9) (hb : b ≤ 9)
    (h : w * a ≡ w * b [MOD 97]) : a = b := by
  have coprime : Nat.Coprime 97 w :=
    (Nat.Prime.coprime_iff_not_dvd (by norm_num)).mpr (Nat.not_dvd_of_pos_of_lt hw small)
  exact (h.cancel_left_of_coprime coprime).eq_of_lt_of_lt (by omega) (by omega)

/-- Two digits that may be exchanged between the weights `v` and `w` are equal: the difference of the weights is the
weight of their difference. -/
theorem digit_eq_of_exchange {v w a b : Nat} (hvw : v < w) (small : w < 97) (ha : a ≤ 9) (hb : b ≤ 9)
    (h : v * a + w * b ≡ v * b + w * a [MOD 97]) : a = b := by
  obtain ⟨k, rfl⟩ := Nat.exists_eq_add_of_lt hvw
  refine (digit_eq_of_weight (w := k + 1) (by omega) (by omega) hb ha ?_).symm
  refine Nat.ModEq.add_left_cancel' (v * a + v * b) ?_
  calc v * a + v * b + (k + 1) * b = v * a + (v + k + 1) * b := by ring
    _ ≡ v * b + (v + k + 1) * a [MOD 97] := h
    _ = v * a + v * b + (k + 1) * a := by ring

theorem checkSum_le {ds : Digits} (h : ∀ d ∈ ds, d ≤ 9) :
    ((List.range 16).map fun i => (i + 1) * ds.getD i 0).sum ≤ 1224 :=
  calc ((List.range 16).map fun i => (i + 1) * ds.getD i 0).sum
      ≤ ((List.range 16).map fun i => (i + 1) * 9).sum :=
        List.sum_le_sum fun i _ => Nat.mul_le_mul_left (i + 1) (digit_le h i)
    _ = 1224 := by decide

theorem tokenCheck_le (ds : Digits) : tokenCheck ds ≤ 96 := Nat.le_of_lt_succ (Nat.mod_lt _ (by decide))

/-- The check finds a single changed digit. -/
theorem tokenCheck_set_ne {ds : Digits} {i d : Nat} (length : ds.length = 16) (digits : ∀ x ∈ ds, x ≤ 9)
    (hi : i < 16) (hd : d ≤ 9) (changed : d ≠ ds.getD i 0) : tokenCheck (ds.set i d) ≠ tokenCheck ds := by
  intro same
  have sums := checkSum_set (length ▸ hi) 0 d
  have weighed : (0 + i + 1) * ds.getD i 0 ≡ (0 + i + 1) * d [MOD 97] :=
    Nat.ModEq.add_left_cancel same (congrArg (· % 97) sums)
  exact changed (digit_eq_of_weight (by omega) (by omega) (digit_le digits i) hd weighed).symm

/-- The check finds the exchange of two unequal digits. -/
theorem tokenCheck_exchange_ne {ds : Digits} {i j : Nat} (length : ds.length = 16) (digits : ∀ x ∈ ds, x ≤ 9)
    (hi : i < 16) (hj : j < 16) (unequal : ds.getD i 0 ≠ ds.getD j 0) :
    tokenCheck ((ds.set i (ds.getD j 0)).set j (ds.getD i 0)) ≠ tokenCheck ds := by
  intro same
  have apart : i ≠ j := fun h => unequal (h ▸ rfl)
  have first := checkSum_set (length ▸ hi) 0 (ds.getD j 0)
  have second := checkSum_set (ds := ds.set i (ds.getD j 0)) (i := j) (by simpa [length] using hj) 0 (ds.getD i 0)
  rw [show (ds.set i (ds.getD j 0)).getD j 0 = ds.getD j 0 by simp [List.getD_eq_getElem?_getD, apart]] at second
  have weighed : (i + 1) * ds.getD i 0 + (j + 1) * ds.getD j 0 ≡
      (i + 1) * ds.getD j 0 + (j + 1) * ds.getD i 0 [MOD 97] :=
    Nat.ModEq.add_left_cancel same (congrArg (· % 97) (by simp only [Nat.zero_add] at first second; omega))
  have digit := digit_le digits
  rcases Nat.lt_or_gt_of_ne apart with before | after
  · exact unequal (digit_eq_of_exchange (by omega) (by omega) (digit i) (digit j) weighed)
  · exact unequal (digit_eq_of_exchange (v := j + 1) (w := i + 1) (by omega) (by omega) (digit j) (digit i)
      (by rwa [Nat.add_comm, Nat.add_comm ((j + 1) * _)])).symm

theorem plainDigits_take (cls : TokenClass) (sequence units day meter : Nat) :
    (plainDigits cls sequence units day meter).take 16 = plainBody cls sequence units day meter :=
  List.take_left' (plainBody_length ..)

theorem plainDigits_drop (cls : TokenClass) (sequence units day meter : Nat) :
    (plainDigits cls sequence units day meter).drop 16 =
      decimalDigits 2 (tokenCheck (plainBody cls sequence units day meter)) :=
  List.drop_left' (plainBody_length ..)

theorem decimalDigits_two {n : Nat} (h : n < 100) : decimalDigits 2 n = [n / 10, n % 10] := by
  simp [decimalDigits]
  omega

end Sys2Proof.Machine

namespace Sys2Proof.Laws

open Machine

/-- Settles O15: the sum by its definition, and each change by what its digits weigh. Its name in `Machine` is the
model's own function. -/
theorem tokenCheck : Obligations.TokenCheck := by
  refine ⟨fun ds length => ⟨tokenCheck_eq ds length, tokenCheck_le ds⟩, fun cls sequence units day meter => ?_,
    fun ds _ => checkSum_le, fun ds i d => tokenCheck_set_ne, fun ds i j => tokenCheck_exchange_ne⟩
  rw [plainDigits_drop, plainDigits_take]
  exact decimalDigits_two (Nat.lt_of_le_of_lt (tokenCheck_le _) (by decide))

end Sys2Proof.Laws
end

section
/-! SUPPORT. The digits of a token: the decimal digits of its fields, the mask and the rotation, and what the meter
reads back (R84, R86, R87). -/

namespace Sys2Proof.Machine

/-! ### Decimal digits -/

/-- A decimal digit by its place. -/
theorem decimalDigits_getD {n i : Nat} (hi : i < n) (v : Nat) :
    (decimalDigits n v).getD i 0 = v / 10 ^ (n - 1 - i) % 10 := by
  induction n generalizing v with
  | zero => omega
  | succ n ih =>
    rw [decimalDigits]
    rcases Nat.lt_or_eq_of_le (Nat.le_of_lt_succ hi) with lower | rfl
    · rw [List.getD_append _ _ _ _ (by rwa [decimalDigits_length]), ih lower, Nat.div_div_eq_div_mul,
        ← Nat.pow_succ', show (n - 1 - i).succ = n + 1 - 1 - i by omega]
    · simp [decimalDigits_length]

/-- The digits show a number below the power of ten of their count. -/
theorem decimalDigits_mod (n v : Nat) : decimalDigits n (v % 10 ^ n) = decimalDigits n v := by
  induction n generalizing v with
  | zero => rfl
  | succ n ih =>
    rw [decimalDigits, decimalDigits, Nat.pow_succ', Nat.mod_mul_right_div_self, ih,
      Nat.mod_mul_right_mod]

theorem plainBody_eq (cls : TokenClass) (sequence units day meter : Nat) :
    plainBody cls sequence units day meter =
      [classDigit cls, sequence / 100 % 10, sequence / 10 % 10, sequence % 10, units / 100000 % 10,
        units / 10000 % 10, units / 1000 % 10, units / 100 % 10, units / 10 % 10, units % 10, day / 1000 % 10,
        day / 100 % 10, day / 10 % 10, day % 10, meter / 10 % 10, meter % 10] := by
  have dayDigits : decimalDigits 4 (day % 10000) = decimalDigits 4 day := decimalDigits_mod 4 day
  have meterDigits : decimalDigits 2 (meter % 100) = decimalDigits 2 meter := decimalDigits_mod 2 meter
  rw [plainBody, dayDigits, meterDigits]
  simp [decimalDigits, Nat.div_div_eq_div_mul]

/-! ### Mask and rotation -/

/-- The mask digit by the digits of the site code and of the meter number (R86). -/
theorem maskDigit_eq (code : Digits) (meter j : Nat) : maskDigit code meter j =
    (code.getD ((j + meter % 32) % 32) 0 + code.getD ((7 * j + meter / 32 % 32) % 32) 0 +
      meter / 10 ^ (10 - j % 11) % 10) % 10 := by
  rw [maskDigit, decimalDigits_getD (Nat.mod_lt j (by decide))]

theorem maskDigits_getD {j : Nat} (hj : j < 18) (code : Digits) (meter : Nat) (plain : Digits) :
    (maskDigits code meter plain).getD j 0 = (plain.getD j 0 + maskDigit code meter j) % 10 := by
  simp [maskDigits, List.getD_eq_getElem?_getD, hj]

theorem maskDigits_le (code : Digits) (meter : Nat) (plain : Digits) : ∀ d ∈ maskDigits code meter plain, d ≤ 9 := by
  intro d hd
  obtain ⟨j, -, rfl⟩ := List.mem_map.mp hd
  omega

theorem rotateDigits_length (meter : Nat) (masked : Digits) : (rotateDigits meter masked).length = 18 := by
  simp [rotateDigits]

theorem rotateDigits_le {masked : Digits} (h : ∀ d ∈ masked, d ≤ 9) (meter : Nat) :
    ∀ d ∈ rotateDigits meter masked, d ≤ 9 := by
  intro d hd
  obtain ⟨p, -, rfl⟩ := List.mem_map.mp hd
  exact digit_le h _

/-- The digit of place `j` stands at position (j + r) mod 18 (R87). -/
theorem rotateDigits_getElem? {j : Nat} (hj : j < 18) (meter : Nat) (masked : Digits) :
    (rotateDigits meter masked)[(j + meter % 18) % 18]? = some (masked.getD j 0) := by
  have place : ((j + meter % 18) % 18 + 18 - meter % 18) % 18 = j := by omega
  rw [rotateDigits, List.getElem?_map, List.getElem?_range (Nat.mod_lt _ (by decide)), Option.map_some, place]

/-! ### What the meter reads -/

/-- A masked digit less its mask is the plain digit. -/
theorem unmask_mask {p m : Nat} (hp : p ≤ 9) (hm : m < 10) : ((p + m) % 10 + 10 - m) % 10 = p := by omega

/-- The meter's reverse steps undo the rotation and the mask (R87). -/
theorem readToken_rotate_mask {plain : Digits} (length : plain.length = 18) (digits : ∀ d ∈ plain, d ≤ 9)
    (code : Digits) (meter : Nat) :
    readToken code meter (rotateDigits meter (maskDigits code meter plain)) = plain := by
  refine List.ext_getElem (by simp [readToken, length]) fun j hj hp => ?_
  have hj : j < 18 := length ▸ hp
  simp only [readToken, List.getElem_map, List.getElem_range]
  rw [List.getD_eq_getElem?_getD, rotateDigits_getElem? hj, Option.getD_some, maskDigits_getD hj,
    unmask_mask (digit_le digits j) (maskDigit_lt code meter j), List.getD_eq_getElem plain 0 hp]

/-- Settles O14: the fields digit by digit, each masked digit at its rotated place, and the reading back. -/
theorem tokenReadsBack : Obligations.TokenReadsBack := by
  intro code cls sequence units day meter
  dsimp only
  refine ⟨?_, plainDigits_length .., rotateDigits_length .., rotateDigits_le (maskDigits_le _ _ _) meter,
    fun j hj => ?_, readToken_rotate_mask (plainDigits_length ..) (plainDigits_le _ _ _ _ _) code meter⟩
  · rw [plainDigits_take, plainBody_eq]
    cases cls <;> rfl
  · rw [tokenDigits, rotateDigits_getElem? hj, maskDigits_getD hj, maskDigit_eq]

end Sys2Proof.Machine
end

section
/-! SUPPORT. SITE_CODE_LOAD: the steps of its refusal order, and the posting that commissions the part (R93, R142). -/

namespace Sys2Proof.Machine

section

variable {s : State} {tag : Byte} {body : List Byte} {code : Digits}

/-- A date-time is at hand only with the calendar valid (R144). -/
theorem calendar_valid_of_now {d : DateTime} (h : s.now = some d) : s.calendar.valid = true := by
  unfold State.now at h
  split at h
  · assumption
  · cases h

/-! ### The refusal order -/

theorem serveSiteCode_commissioned (hp : parseSiteCode body = some code) (hc : s.commissioned = true) :
    serveSiteCode body s = officeRefuse .alreadyCommissioned s := by simp [serveSiteCode, hp, hc]

theorem serveSiteCode_clockUnset (hp : parseSiteCode body = some code) (hc : s.commissioned = false)
    (hv : s.calendar.valid = false) : serveSiteCode body s = officeRefuse .clockUnset s := by
  simp [serveSiteCode, hp, hc, hv]

theorem serveSiteCode_posts (hp : parseSiteCode body = some code) (hc : s.commissioned = false)
    (hv : s.calendar.valid = true) (hf : s.storeFaultLatched = false) (once : s.postsAtOnce = true) :
    serveSiteCode body s = postSiteCode code (takeReservation s) := by
  simp [serveSiteCode, hp, hc, hv, hf, reserveAndPost_posts once, runJob]

/-! ### The posting -/

/-- The SYSTEM unit of SITE_CODE_LOAD enters the buffer with the COMMISSIONED entry, and COMMISSION_OK is sent. -/
theorem postSiteCode_end (h : s.takes .office tag body) (kind : Byte) (code : Digits) :
    let t := settle (postSiteCode code (takeReservation (s.serving .office kind tag)))
    posts (postedUnit s .system none s.now .part .commissioned { s.site with siteCode := some code })
        s.journal.reservations s t ∧
      replied .office tag (.commissionOk s.journal.nextSeq) s t ∧ onlyLevels s t ∧
      keepsAllBut [.site, .buffer, .journal, .conditions, .replies .office] s t := by
  intro t
  generalize hx : takeReservation (s.serving .office kind tag) = x
  have site : x.site = s.site := by simp [← hx]
  have journal : x.journal = ⟨s.journal.nextSeq, s.journal.reservations + 1⟩ := by
    simp [← hx, takeReservation_journal]
  have toX : keepsAllBut [.journal, .conditions] (s.serving .office kind tag) x := hx ▸ takeReservation_keeps _
  have levels : onlyLevels s x :=
    onlyLevels_trans (serving_levels s .office kind tag) (hx ▸ takeReservation_levels _)
  generalize hy : ({ x with site := { s.site with siteCode := some code } } : State) = y
  have toY : keepsAllBut [.site, .buffer, .journal, .conditions] (s.serving .office kind tag) y :=
    keepsAllBut_trans (keepsAllBut_mono toX (by simp)) (hy ▸ keepsAllBut_mono (site_keeps x _) (by simp))
  have outstanding : (addUnit .system none (some (.part, .commissioned)) none y).officePort.outstanding =
      some ⟨tag, kind⟩ :=
    after_outstanding (s := s) (keepsAllBut_trans toY (addUnit_keeps _ _ _ _ _)) (by simp)
  have answered : t = settle (answer .office tag (.commissionOk s.journal.nextSeq)
      (addUnit .system none (some (.part, .commissioned)) none y)) := by
    rw [← officeReply_eq outstanding, ← hy]
    simp only [t, hx, postSiteCode, site, journal]
  rw [answered]
  exact officeUnit_end (y0 := y) kind _ h .system none s.now .part .commissioned _ (by simp) (by simp) (by simp)
    (by simp) (by simp) (by simp) (by simp) toY (by simp [← hy, ← hx]) (by rw [← hy]) (by rw [← hy, ← journal])
    (by simp [← hy, ← hx, State.now]) (onlyLevels_congr levels rfl (by rw [← hy])) (keepsAllBut_refl _ _) rfl rfl rfl
    (onlyLevels_refl _)

end

/-- Settles O46: the posting, and the two refusals that stand before it. -/
theorem siteCodePosts : Obligations.SiteCodePosts := by
  intro s tag body code h hp
  refine ⟨fun d hc now hf once => ⟨_, takeOffice_exec h (serveSiteCode body), ?_⟩, fun hc hr => ?_, fun hc hv hr => ?_⟩
  · rw [serveSiteCode_posts hp (by simpa using hc) (by simpa using calendar_valid_of_now now) (by simpa using hf)
      ((serving_postsAtOnce ..).trans once)]
    obtain ⟨unit, replies, levels, kept⟩ := postSiteCode_end h kindSiteCodeLoad code
    have ⟨_, image, _⟩ := unit
    refine ⟨now ▸ unit, ?_, replies, levels, kept⟩
    rw [State.commissioned, image]
    rfl
  · exact takeOffice_refused h hr _ .alreadyCommissioned 0 rfl (serveSiteCode_commissioned hp (by simpa using hc))
  · exact takeOffice_refused h hr _ .clockUnset 0 rfl
      (serveSiteCode_clockUnset hp (by simpa using hc) (by simpa using hv))

end Sys2Proof.Machine
end

section
/-! SUPPORT. A BLANK part: each request that Table 5-7 does not list as served is refused NOT_COMMISSIONED after its
field check (R92). -/

namespace Sys2Proof.Machine

section

variable {s : State} {tag : Byte} {body : List Byte}

/-! ### The tests that requests share -/

theorem sellingRefusal_blank (blank : s.commissioned = false) : sellingRefusal s = some .notCommissioned := by
  simp [sellingRefusal, blank]

theorem settingRefusal_blank (blank : s.commissioned = false) : settingRefusal s = some .notCommissioned := by
  simp [settingRefusal, blank]

theorem recordRefusal_blank (blank : s.commissioned = false) (needsHold needsClock needsStore : Bool) :
    recordRefusal needsHold needsClock needsStore s = some .notCommissioned := by simp [recordRefusal, blank]

theorem journalReadRefusal_blank (blank : s.commissioned = false) (start : Nat) :
    journalReadRefusal start s = some .notCommissioned := by simp [journalReadRefusal, blank]

theorem serveChange_blank (blank : s.commissioned = false) (needsHold : Bool) (req : RecordRequest) :
    serveChange needsHold req s = officeRefuse .notCommissioned s := by simp [serveChange, recordRefusal_blank blank]

theorem serveRead_blank (blank : s.commissioned = false) (meter : Nat) :
    serveRead meter s = officeRefuse .notCommissioned s := by simp [serveRead, recordRefusal_blank blank]

/-- The quote id that the refusal of a CONFIRM carries is the one its fields give (Table 11-11). -/
theorem parseConfirm_names {meter id : Nat} (h : parseConfirm body = some (meter, id)) : confirmNames body = id := by
  simp only [parseConfirm, Option.ite_none_right_eq_some, Option.some.injEq, Prod.mk.injEq] at h
  obtain ⟨⟨length, -, -⟩, -, rfl⟩ := h
  rw [confirmNames, if_pos length]

/-! ### The step: the fields are read, and the part refuses -/

variable {α : Type} {parsed : Option α} {kind : Byte} {serve : State → State}

theorem takeOffice_blank (h : s.takes .office tag body) (blank : s.commissioned = false) (rest : s.holdAtRest)
    (quarter : Request.isQuarter kind = false) (fields : parsed.isSome = true)
    (refuses : ∀ v, parsed = some v → ∀ x : State, x.commissioned = false →
      serve x = officeRefuse .notCommissioned x) :
    ∃ t, finish (takeOffice kind tag body serve s) = .next t ∧
      refusedWith .office kind tag .notCommissioned 0 0 s t := by
  obtain ⟨v, read⟩ := Option.isSome_iff_exists.mp fields
  exact takeOffice_refused h rest serve .notCommissioned 0 quarter
    (refuses v read _ ((serving_commissioned ..).trans blank))

theorem takeTill_blank {k : Till} {id : Nat} (h : s.takes (.till k) tag body) (blank : s.commissioned = false)
    (rest : s.holdAtRest) (quarter : Request.isQuarter kind = false) (fields : parsed.isSome = true)
    (refuses : ∀ v, parsed = some v → ∀ x : State, x.commissioned = false →
      serve x = tillRefuse k tag .notCommissioned kind id 0 x) :
    ∃ t, finish (takeRequest (.till k) kind tag body serve s) = .next t ∧
      refusedWith (.till k) kind tag .notCommissioned id 0 s t := by
  obtain ⟨v, read⟩ := Option.isSome_iff_exists.mp fields
  exact takeTill_refused h rest serve .notCommissioned id 0 quarter
    (refuses v read _ ((serving_commissioned ..).trans blank))

theorem cancel_blank {k : Till} (h : s.takes (.till k) tag body) (blank : s.commissioned = false)
    (rest : s.holdAtRest) {id : Nat} (read : parseCancel body = some id) :
    ∃ t, exec (.cancel k tag body) s = .next t ∧
      refusedWith (.till k) kindCancel tag .notCommissioned id 0 s t :=
  takeCancel_refused h rest .notCommissioned id 0 (by simp [cancelOutcome, read, blank])

theorem tariffLoad_blank (h : s.takes .office tag body) (blank : s.commissioned = false) (rest : s.holdAtRest)
    {q : Nat} {es : List RawEntry} (read : parseLoad body = some (q, es)) :
    ∃ t, exec (.tariffLoadNow tag body) s = .next t ∧
      refusedWith .office kindTariffLoadNow tag .notCommissioned 0 0 s t :=
  takeQuarter_refused h rest (serveLoad body) .notCommissioned 0 rfl (by simp [serveLoad, read, blank, refuseQuarter])

end

/-- Settles O22, by the request's first test after its fields; those of Table 5-7 are served. -/
theorem blankPartRefuses : Obligations.BlankPartRefuses := by
  intro c s p kind tag body request known takes blank served fields rest
  cases c with
  | quote k g b | reprint k g b =>
    cases request
    exact takeTill_blank (id := 0) takes blank rest rfl fields fun _ read _ blank => by
      simp [serveQuote, serveReprint, read, sellingRefusal_blank blank]
  | confirm k g b =>
    cases request
    exact takeTill_blank (id := confirmNames body) takes blank rest rfl fields fun ⟨_, _⟩ read _ blank => by
      simp [serveConfirm, read, sellingRefusal_blank blank, parseConfirm_names read]
  | cancel k g b =>
    cases request
    obtain ⟨id, read⟩ : ∃ id, parseCancel body = some id := Option.isSome_iff_exists.mp fields
    have names : Request.namedId kindCancel body = id := congrArg (·.getD 0) read
    exact names ▸ cancel_blank takes blank rest read
  | meterEnrol g b | meterRestore g b =>
    cases request
    exact takeOffice_blank takes blank rest rfl fields fun _ read _ blank => by
      simp [serveEnrol, serveRestore, read, recordRefusal_blank blank]
  | meterEdit g b | meterBlock g b | meterUnblock g b | meterRetire g b | meterPurge g b =>
    cases request
    exact takeOffice_blank takes blank rest rfl fields fun _ read _ blank => by
      simp [serveEdit, serveMeter, read, serveChange_blank blank]
  | meterRead g b =>
    cases request
    exact takeOffice_blank takes blank rest rfl fields fun _ read _ blank => by
      simp [serveMeter, read, serveRead_blank blank]
  | tariffLoadNow g b =>
    cases request
    obtain ⟨_, read⟩ : ∃ v, parseLoad body = some v := Option.isSome_iff_exists.mp fields
    exact tariffLoad_blank takes blank rest read
  | budgetVoucher g b | budgetFloorSet g b | tillClose g b | quoteTimeSet g b | noticeMaskSet g b =>
    cases request
    exact takeOffice_blank takes blank rest rfl fields fun _ read _ blank => by
      simp [serveVoucher, serveFloor, serveTillClose, serveQuoteTime, serveMask, read, settingRefusal_blank blank]
  | journalRead g b =>
    cases request
    exact takeOffice_blank takes blank rest rfl fields fun _ read _ blank => by
      simp [serveJournalRead, read, journalReadRefusal_blank blank]
  | tariffUnstage g b | journalRelease g b | summaryRead g b | totalsSnapshot g b | holdRequest g b | holdRelease g b
  | conditionClear g b | storeRetry g b =>
    cases request
    exact takeOffice_blank takes blank rest rfl fields fun _ read _ blank => by
      simp [serveUnstage, serveRelease, serveSummaryRead, serveTotals, serveHoldRequest, serveHoldRelease, serveClear,
        serveRetry, read, blank]
  | tillStatus _ g b | tariffStage g b | tariffRead g b | clockSet g b | clockRead g b | linkSet g b | statusRead g b
  | siteCodeLoad g b =>
    cases request
    exact absurd served (by decide)
  | unknownKind q j g b => exact absurd rfl (known q j g b)
  | _ => cases request

end Sys2Proof.Machine
end

section
/-! SUPPORT. The recency order (R96): what every operation keeps of the law that each line stands in it at one place. -/

namespace Sys2Proof.Machine

/-- Every line of a Working Set stands at one place of its recency order (R96). -/
def WorkingSet.ordered (w : WorkingSet) : Prop := w.recency.Perm allLines

theorem recencyLaw_iff (s : State) : RecencyLaw s ↔ s.working.ordered := Iff.rfl

section

variable {s t : State}

/-! ### The moves of a line -/

theorem mem_allLines (l : LineNo) : l ∈ allLines := List.mem_ofFn.mpr ⟨l, rfl⟩

/-- A line taken out of the order stands in it, so the order with the line set before the rest has the same lines. -/
theorem WorkingSet.ordered.moved {w : WorkingSet} (h : w.ordered) (l : LineNo) :
    (l :: w.recency.erase l).Perm allLines :=
  (List.perm_cons_erase (List.Perm.mem_iff h |>.mpr (mem_allLines l))).symm.trans h

@[simp] theorem setLine_ordered (l : LineNo) (v : Line) : (s.setLine l v).working.ordered ↔ s.working.ordered := Iff.rfl

@[simp] theorem modLine_ordered (l : LineNo) (f : Line → Line) :
    (s.modLine l f).working.ordered ↔ s.working.ordered := Iff.rfl

/-- A touched line is moved to the most recent end (R97). -/
@[simp] theorem touchLine_ordered (h : s.working.ordered) (l : LineNo) : (touchLine l s).working.ordered :=
  List.perm_append_comm.trans (h.moved l)

/-- A freed line is moved to the least recent end (R105). -/
@[simp] theorem freeLine_ordered (h : s.working.ordered) (l : LineNo) : (freeLine l s).working.ordered := h.moved l

@[simp] theorem initial_ordered : WorkingSet.initial.ordered := .of_eq (List.ofFn_id 32).symm

/-! ### Lines and pins -/

@[simp] theorem releasePin_ordered (h : s.working.ordered) (o : Owner) : (releasePin o s).working.ordered :=
  .trans (.of_eq (releasePin_recency o s)) h

@[simp] theorem pinLine_ordered (h : s.working.ordered) (o : Owner) (l : LineNo) (m : Nat) :
    (pinLine o l m s).working.ordered := by simp [pinLine, h]

@[simp] theorem startFetch_ordered (h : s.working.ordered) (o : Owner) (m n : Nat) :
    (startFetch o m n s).working.ordered := by simp [startFetch, h]

@[simp] theorem takeLineValid_ordered (h : s.working.ordered) (m : Nat) (r : Record) :
    (takeLineValid m r s).working.ordered := by simp [takeLineValid, h]

@[simp] theorem freeOfficeLine_ordered (h : s.working.ordered) : (freeOfficeLine s).working.ordered := by
  unfold freeOfficeLine
  split <;> simp [h]

@[simp] theorem lineTakesImage_ordered (h : s.working.ordered) (m : Nat) (r : Record) :
    (lineTakesImage m r s).working.ordered := by
  unfold lineTakesImage
  split <;> simp [h]

@[simp] theorem lowerDirty_ordered (h : s.working.ordered) (u : CommitUnit) : (lowerDirty u s).working.ordered := by
  unfold lowerDirty
  repeat' split
  all_goals simp [h]

@[simp] theorem completeUnit_ordered (h : s.working.ordered) (u : CommitUnit) : (completeUnit u s).working.ordered := by
  simp [completeUnit, h]

/-! ### The closing of quotes and reprints -/

@[simp] theorem closeQuote_ordered (h : s.working.ordered) (k : Till) (o : CloseOutcome) :
    (closeQuote k o s).working.ordered := by
  unfold closeQuote
  split
  · exact h
  · dsimp only
    split <;> simp [h]

@[simp] theorem abandonQuote_ordered (h : s.working.ordered) (k : Till) (q : QuoteRecord) (c : AbandonCause) :
    (abandonQuote k q c s).working.ordered := by simp [abandonQuote, h]

@[simp] theorem refuseQuote_ordered (h : s.working.ordered) (k : Till) (q : QuoteRecord) (c : RefusalCode) (d : Nat) :
    (refuseQuote k q c d s).working.ordered := by
  unfold refuseQuote
  split <;> simp [h]

@[simp] theorem endReprint_ordered (h : s.working.ordered) (k : Till) : (endReprint k s).working.ordered := by
  unfold endReprint
  dsimp only
  split <;> simp [h]

@[simp] theorem refuseReprint_ordered (h : s.working.ordered) (k : Till) (w : ReprintWork) (c : RefusalCode) (d : Nat) :
    (refuseReprint k w c d s).working.ordered := by simp [refuseReprint, h]

@[simp] theorem slotRollover_ordered (h : s.working.ordered) (k : Till) : (slotRollover k s).working.ordered := by
  unfold slotRollover
  split <;> simp [h]

@[simp] theorem rollover_ordered (h : s.working.ordered) : (rollover s).working.ordered := by
  unfold rollover
  split
  · exact h
  · have slots : ∀ x : State, x.working.ordered →
        (slotRollover 3 (slotRollover 2 (slotRollover 1 (slotRollover 0 x)))).working.ordered := fun x hx =>
      slotRollover_ordered (slotRollover_ordered (slotRollover_ordered (slotRollover_ordered hx _) _) _) _
    simp [slots, h]

/-! ### Link settings -/

@[simp] theorem slotLinkOff_ordered (h : s.working.ordered) (k : Till) : (slotLinkOff k s).working.ordered := by
  unfold slotLinkOff
  dsimp only
  split <;> simp [h]

@[simp] theorem takeSettings_ordered (h : s.working.ordered) (k : Till) : (takeSettings k s).working.ordered := by
  unfold takeSettings
  dsimp only
  repeat' split
  all_goals simp [h]

@[simp] theorem offerSettings_ordered (h : s.working.ordered) (k : Till) : (offerSettings k s).working.ordered := by
  unfold offerSettings
  dsimp only
  repeat' split
  all_goals simp [h]

@[simp] theorem endFrame_ordered (h : s.working.ordered) (p : PortId) : (endFrame p s).working.ordered := by
  unfold endFrame
  repeat' split
  all_goals simp [h]

@[simp] theorem enterFault_ordered (h : s.working.ordered) (p : PortId) : (enterFault p s).working.ordered := by
  unfold enterFault
  dsimp only
  repeat' split
  all_goals simp [h]

/-! ### The posting of units and the post wait list -/

@[simp] theorem postSale_ordered (h : s.working.ordered) (k : Till) : (postSale k s).working.ordered := by
  unfold postSale
  repeat' split
  · exact h
  · simp only [tillReply_frame]
    exact closeQuote_ordered (by simp [h]) ..
  · exact h

@[simp] theorem postReprint_ordered (h : s.working.ordered) (k : Till) (m i : Nat) (x : RecentToken) (b : Bool) :
    (postReprint k m i x b s).working.ordered := by
  unfold postReprint
  split <;> simp [h]

@[simp] theorem postImage_ordered (h : s.working.ordered) (n : Nat) (r : Record) (e : EntryBody) :
    (postImage n r e s).working.ordered := by simp [postImage, h]

@[simp] theorem postClockSet_ordered (h : s.working.ordered) (b : Bool) (old : Option DateTime) (v : DateTime) (n : Nat) :
    (postClockSet b old v n s).working.ordered := by
  unfold postClockSet
  dsimp only
  split <;> simp [h]

/-- A poster's unit posts (R121): the line that takes a record image is touched (R103), and one that a purge empties is
freed (R105). -/
@[simp] theorem runJob_ordered (h : s.working.ordered) (w : Waiter) : (runJob w s).working.ordered := by
  unfold runJob
  cases w.job with
  | enrol n r => simp [postEnrol, h]
  | edit n r items => simp [postEdit, h]
  | accountState n r old => simp [postAccountState, h]
  | purge n m => simp [postPurge, h]
  | restore n r => simp [postRestore, h]
  | linkSet k v => simp [postLinkSet, h]
  | _ => simp [h]

@[simp] theorem refuseJob_ordered (h : s.working.ordered) (w : Waiter) (c : RefusalCode) :
    (refuseJob w c s).working.ordered := by
  unfold refuseJob
  dsimp only
  repeat' split
  all_goals simp [h]

@[simp] theorem postOrWait_ordered (h : s.working.ordered) (w : Waiter) : (postOrWait w s).working.ordered := by
  unfold postOrWait
  repeat' split
  all_goals simp [h]

@[simp] theorem reserveAndPost_ordered (h : s.working.ordered) (j : Job) : (reserveAndPost j s).working.ordered := by
  simp [reserveAndPost, h]

theorem offerRoomTo_ordered : ∀ (n : Nat) {s : State}, s.working.ordered → (offerRoomTo n s).working.ordered
  | 0, _, h => h
  | n + 1, s, h => by
    unfold offerRoomTo
    dsimp only
    repeat' split
    · exact h
    · exact runJob_ordered (by exact h) _
    · exact offerRoomTo_ordered n (refuseJob_ordered (by exact h) _ _)
    · exact h

@[simp] theorem offerRoom_ordered (h : s.working.ordered) : (offerRoom s).working.ordered := offerRoomTo_ordered _ h

@[simp] theorem withdrawWaiters_ordered (h : s.working.ordered) (f : Job → Bool) (c : RefusalCode) :
    (withdrawWaiters f c s).working.ordered := by
  unfold withdrawWaiters
  have fold : ∀ (l : List Waiter) (x : State), x.working.ordered →
      (l.foldl (fun s w => refuseJob w c s) x).working.ordered := by
    intro l
    induction l with
    | nil => exact fun _ hx => hx
    | cons w l ih => exact fun x hx => ih _ (refuseJob_ordered hx w c)
  exact fold _ _ h

/-! ### The till requests and the engine -/

@[simp] theorem cancelOutcome_ordered (h : s.working.ordered) (k : Till) (body : List Byte) :
    (cancelOutcome k body s).2.working.ordered := by
  unfold cancelOutcome cancelSlot
  repeat' split
  all_goals simp [h]

@[simp] theorem computeFromLine_ordered (h : s.working.ordered) (k : Till) (q : QuoteRecord) :
    (computeFromLine k q s).working.ordered := by
  unfold computeFromLine computeQuote
  repeat' split
  all_goals simp [h]

@[simp] theorem quoteStage_ordered (h : s.working.ordered) (k : Till) : (quoteStage k s).working.ordered := by
  unfold quoteStage lookupQuote
  repeat' split
  all_goals simp [h]

@[simp] theorem confirmStage_ordered (h : s.working.ordered) (k : Till) : (confirmStage k s).working.ordered := by
  unfold confirmStage
  repeat' split
  · exact h
  · exact postOrWait_ordered (by simp [h]) _
  · exact h

@[simp] theorem issueReprint_ordered (h : s.working.ordered) (k : Till) (w : ReprintWork) (i : Nat) (x : RecentToken)
    (b : Bool) : (issueReprint k w i x b s).working.ordered := by
  unfold issueReprint
  split <;> simp [h]

@[simp] theorem presentFromLine_ordered (h : s.working.ordered) (k : Till) (w : ReprintWork) :
    (presentFromLine k w s).working.ordered := by
  unfold presentFromLine presentReprint
  repeat' split
  all_goals simp [h]

@[simp] theorem lookupReprint_ordered (h : s.working.ordered) (k : Till) (w : ReprintWork) :
    (lookupReprint k w s).working.ordered := by
  unfold lookupReprint refuseDamagedReprint
  repeat' split
  all_goals simp [h]

/-- A grant to a slot serves one stage of its work (R80). -/
@[simp] theorem slotStage_ordered (h : s.working.ordered) (k : Till) : (slotStage k s).working.ordered := by
  unfold slotStage reprintStage
  repeat' split
  all_goals simp [h]

/-! ### The office requests -/

@[simp] theorem refuseRecord_ordered (h : s.working.ordered) (c : RefusalCode) :
    (refuseRecord c s).working.ordered := by simp [refuseRecord, h]

@[simp] theorem postRecord_ordered (h : s.working.ordered) (j : Job) : (postRecord j s).working.ordered := by
  unfold postRecord
  split <;> simp [h]

@[simp] theorem postTaken_ordered (h : s.working.ordered) (j : Job) : (postTaken j s).working.ordered := by
  unfold postTaken
  split <;> simp [h]

@[simp] theorem postOffice_ordered (h : s.working.ordered) (j : Job) : (postOffice j s).working.ordered := by
  unfold postOffice
  split <;> simp [h]

/-- A record request goes on with the record in its line (R12). -/
@[simp] theorem continueFromLine_ordered (h : s.working.ordered) (req : RecordRequest) (slot : Nat) :
    (continueFromLine req slot s).working.ordered := by
  unfold continueFromLine continueRecord continueEdit continueState continuePurge
  repeat' split
  all_goals simp [h]

@[simp] theorem serveChange_ordered (h : s.working.ordered) (b : Bool) (req : RecordRequest) :
    (serveChange b req s).working.ordered := by
  unfold serveChange lookupRecord
  repeat' split
  all_goals simp [h]

theorem serveMeter_ordered (h : s.working.ordered) (body : List Byte) {serve : Nat → State → State}
    (hs : ∀ m, (serve m s).working.ordered) : (serveMeter body serve s).working.ordered := by
  unfold serveMeter
  split
  · simp [h]
  · exact hs _

@[simp] theorem serveEdit_ordered (h : s.working.ordered) (body : List Byte) : (serveEdit body s).working.ordered := by
  unfold serveEdit
  split <;> simp [h]

@[simp] theorem serveRead_ordered (h : s.working.ordered) (m : Nat) : (serveRead m s).working.ordered := by
  unfold serveRead
  repeat' split
  all_goals simp [h]

@[simp] theorem serveEnrol_ordered (h : s.working.ordered) (body : List Byte) : (serveEnrol body s).working.ordered := by
  unfold serveEnrol enrolMeter
  repeat' split
  all_goals simp [h]

@[simp] theorem serveRestore_ordered (h : s.working.ordered) (body : List Byte) :
    (serveRestore body s).working.ordered := by
  unfold serveRestore restoreMeter
  repeat' split
  all_goals simp [h]

@[simp] theorem serveStage_ordered (h : s.working.ordered) (body : List Byte) : (serveStage body s).working.ordered := by
  unfold serveStage takeStage completeStage
  dsimp only
  repeat' split
  all_goals simp [h]

@[simp] theorem serveLoad_ordered (h : s.working.ordered) (body : List Byte) : (serveLoad body s).working.ordered := by
  unfold serveLoad takeLoad
  dsimp only
  repeat' split
  all_goals simp [h]

@[simp] theorem serveUnstage_ordered (h : s.working.ordered) (body : List Byte) :
    (serveUnstage body s).working.ordered := by
  unfold serveUnstage
  repeat' split
  all_goals simp [h]

@[simp] theorem serveVoucher_ordered (h : s.working.ordered) (body : List Byte) :
    (serveVoucher body s).working.ordered := by
  unfold serveVoucher
  repeat' split
  all_goals simp [h]

@[simp] theorem serveFloor_ordered (h : s.working.ordered) (body : List Byte) : (serveFloor body s).working.ordered := by
  unfold serveFloor
  repeat' split
  all_goals simp [h]

@[simp] theorem serveQuoteTime_ordered (h : s.working.ordered) (body : List Byte) :
    (serveQuoteTime body s).working.ordered := by
  unfold serveQuoteTime
  repeat' split
  all_goals simp [h]

@[simp] theorem serveMask_ordered (h : s.working.ordered) (body : List Byte) : (serveMask body s).working.ordered := by
  unfold serveMask
  dsimp only
  repeat' split
  all_goals simp [h]

@[simp] theorem serveLinkSet_ordered (h : s.working.ordered) (body : List Byte) :
    (serveLinkSet body s).working.ordered := by
  unfold serveLinkSet changeLink
  repeat' split
  all_goals simp [h]

@[simp] theorem serveSiteCode_ordered (h : s.working.ordered) (body : List Byte) :
    (serveSiteCode body s).working.ordered := by
  unfold serveSiteCode
  repeat' split
  all_goals simp [h]

@[simp] theorem serveClockSet_ordered (h : s.working.ordered) (body : List Byte) :
    (serveClockSet body s).working.ordered := by
  unfold serveClockSet buildClockSet
  repeat' split
  all_goals simp [h]

@[simp] theorem serveTillClose_ordered (h : s.working.ordered) (body : List Byte) :
    (serveTillClose body s).working.ordered := by
  unfold serveTillClose
  repeat' split
  all_goals simp [h]

@[simp] theorem lapseHold_ordered (h : s.working.ordered) : (lapseHold s).working.ordered := by simp [lapseHold, h]

/-! ### The Record Store's completions and start-up -/

@[simp] theorem drainWrite_ordered (h : s.working.ordered) (u : CommitUnit) (r : ReadBack) :
    (drainWrite u r s).working.ordered := by
  unfold drainWrite
  split <;> simp [h]

/-- A fetch fills its line, which is touched, or frees it; its owner goes on or is refused (R101). -/
@[simp] theorem fillLine_ordered (h : s.working.ordered) (l : LineNo) (m n : Nat) (r : Option Record) :
    (fillLine l m n r s).working.ordered := by
  unfold fillLine ownerFetched ownerFetchFailed slotFetched slotFetchFailed
  dsimp only
  repeat' split
  all_goals simp [h]

@[simp] theorem unitWrite_ordered (h : s.working.ordered) (u : CommitUnit) (r : ReadBack) :
    (unitWrite u r s).working.ordered := by
  unfold unitWrite writeVerified storeFault
  dsimp only
  repeat' split
  all_goals simp [h]

@[simp] theorem retryAttempt_ordered (h : s.working.ordered) (u : CommitUnit) (r : ReadBack) :
    (retryAttempt u r s).working.ordered := by
  unfold retryAttempt retryVerified
  dsimp only
  repeat' split
  all_goals simp [h]

/-- Start-up sets the order anew (R117). -/
@[simp] theorem startUp_ordered (s : State) : (startUp s).working.ordered := by
  have fresh : (startLinks (postPowerUp s.describingCell
      (reportLevels (testCalendar (resetVolatile (readStore s)))))).working.ordered := by simp [resetVolatile]
  unfold startUp startRollover
  dsimp only
  split
  · exact rollover_ordered fresh
  · exact fresh

/-! ### Every command -/

theorem portTake_ordered (h : s.working.ordered) (p : PortId) (kind tag : Byte) (body : List Byte)
    {busy serve : State → State} (hb : (busy s).working.ordered)
    (hs : ∀ x : State, x.working.ordered → (serve x).working.ordered) :
    (portTake p kind tag body busy serve s).working.ordered := by
  unfold portTake
  repeat' split
  · exact h
  · exact endFrame_ordered h p
  · exact h
  · exact hb
  · exact h
  · exact hs _ (by simp [h])

theorem settled_ordered (h : s.working.ordered) (ht : finish s = .next t) : t.working.ordered := by
  cases ht
  simpa using h

/-- A request keeps the order if its service does (R199). -/
theorem takeRequest_ordered (h : s.working.ordered) (p : PortId) (kind tag : Byte) (body : List Byte)
    {serve : State → State} (hs : ∀ x : State, x.working.ordered → (serve x).working.ordered)
    (ht : finish (takeRequest p kind tag body serve s) = .next t) : t.working.ordered :=
  settled_ordered (portTake_ordered h p kind tag body (by simp [refuseBusy, h]) hs) ht

theorem exec_ordered (h : s.working.ordered) (c : Instr) (ht : exec c s = .next t) : t.working.ordered := by
  cases c with
  | cancel k g b =>
    exact settled_ordered (portTake_ordered h _ _ _ _ (by simp [cancelAtOnce, h]) fun x hx => by
      simp [serveCancel, hx]) ht
  | meterBlock g b | meterUnblock g b | meterRetire g b | meterPurge g b | meterRead g b =>
    exact takeRequest_ordered h _ _ _ _ (fun x hx => serveMeter_ordered hx b fun m => by simp [hx]) ht
  | unknownKind p kind g b | quote k g b | confirm k g b | reprint k g b | tillStatus k g b | meterEnrol g b
  | meterEdit g b | meterRestore g b | tariffStage g b | tariffUnstage g b | tariffLoadNow g b | tariffRead g b
  | budgetVoucher g b | budgetFloorSet g b | journalRead g b | journalRelease g b | clockSet g b | clockRead g b
  | summaryRead g b | totalsSnapshot g b | tillClose g b | holdRequest g b | holdRelease g b | linkSet g b
  | quoteTimeSet g b | noticeMaskSet g b | conditionClear g b | statusRead g b | siteCodeLoad g b | storeRetry g b =>
    exact takeRequest_ordered h _ _ _ _ (fun x hx => by simp [hx]) ht
  | frameTransmitted p | calendarSecond => exact settled_ordered (by simp [h]) ht
  | supplyLow | supplyOk | resetAsserted | resetReleased | recordFetchComplete d =>
    refine settled_ordered ?_ ht
    dsimp only
    repeat' split
    all_goals simp [h]
  | frameDiscarded p cs | frameTimeLimit p cs n | linkEntersFault p | linkFaultEnd p | linkSettingsTaken k
  | engineGrant | quoteHoldExpiry k | officeHoldLapse | dayRollover | areaReadComplete
  | unitWriteComplete r | retryAttemptComplete r 
  | drainWriteComplete r | holdCellWriteComplete r | startUp | startUpComplete | backupCellFailed =>
    refine settled_ordered ?_ ht
    repeat' split
    all_goals simp [h]

end

/-- Settles O7: a line is only ever moved within the order, and start-up sets the order anew (R97, R105, R117). -/
theorem stepKeepsRecencyLaw : Obligations.StepKeepsRecencyLaw := by
  intro s t h ht
  rw [recencyLaw_iff] at h ⊢
  unfold step at ht
  split at ht
  · cases ht
    exact h
  · exact exec_ordered (by exact h) _ ht

end Sys2Proof.Machine
end

section
/-! SUPPORT. While STORE_FAULT is latched: each request whose refusal order has a STORE_FAULT step is refused SUSPENDED
there (R114). -/

namespace Sys2Proof.Machine

section

variable {s : State} {kind : Byte}

/-! ### The steps before the STORE_FAULT step -/

/-- Of the suspended requests a BLANK part serves these four alone. -/
theorem commissioned_of_reachesStore (h : Request.reachesStore kind s = true)
    (hk : kind ∉ [kindSiteCodeLoad, kindTariffStage, kindClockSet, kindLinkSet]) : s.commissioned = true := by
  simp only [List.mem_cons, List.not_mem_nil, or_false, not_or] at hk
  simp only [Request.reachesStore, if_neg hk.1, Bool.and_eq_true, Bool.or_eq_true, List.contains_eq_mem,
    decide_eq_true_eq, List.mem_cons, List.not_mem_nil, or_false] at h
  tauto

theorem blank_of_reachesStore (h : Request.reachesStore kindSiteCodeLoad s = true) : s.commissioned = false := by
  simp only [Request.reachesStore, if_true, Bool.and_eq_true, Bool.not_eq_true'] at h
  exact h.1.1

theorem valid_of_reachesStore (h : Request.reachesStore kind s = true)
    (hk : kind ∈ [kindQuote, kindConfirm, kindReprint, kindMeterEnrol, kindSiteCodeLoad]) :
    s.calendar.valid = true := by
  simpa [Request.reachesStore, hk] using (Bool.and_eq_true_iff.mp (Bool.and_eq_true_iff.mp h).1).2

theorem held_of_reachesStore (h : Request.reachesStore kind s = true)
    (hk : kind ∈ [kindMeterPurge, kindMeterRestore, kindTariffLoadNow]) : s.arbiter.hold = .held := by
  simpa [hk] using (Bool.and_eq_true_iff.mp h).2

/-! ### The tests that requests share -/

theorem sellingRefusal_suspended (latched : s.storeFaultLatched = true) (served : s.commissioned = true)
    (valid : s.calendar.valid = true) : sellingRefusal s = some .suspended := by
  simp [sellingRefusal, latched, served, valid]

theorem settingRefusal_suspended (latched : s.storeFaultLatched = true) (served : s.commissioned = true) :
    settingRefusal s = some .suspended := by simp [settingRefusal, latched, served]

theorem recordRefusal_suspended (latched : s.storeFaultLatched = true) (served : s.commissioned = true)
    {needsHold needsClock : Bool} (held : needsHold = true → s.arbiter.hold = .held)
    (valid : needsClock = true → s.calendar.valid = true) :
    recordRefusal needsHold needsClock true s = some .suspended := by
  have hold : (needsHold && s.arbiter.hold != .held) = false := by simpa using held
  have clock : (needsClock && !s.calendar.valid) = false := by simpa using valid
  simp [recordRefusal, latched, served, hold, clock]

theorem serveChange_suspended (latched : s.storeFaultLatched = true) (served : s.commissioned = true)
    {needsHold : Bool} (held : needsHold = true → s.arbiter.hold = .held) (req : RecordRequest) :
    serveChange needsHold req s = officeRefuse .suspended s := by
  simp [serveChange, recordRefusal_suspended latched served held]

/-! ### The step: the fields are read, and the request is refused -/

variable {tag : Byte} {body : List Byte} {α : Type} {parsed : Option α} {serve : State → State}

theorem takeOffice_suspended (h : s.takes .office tag body) (rest : s.holdAtRest)
    (quarter : Request.isQuarter kind = false) (fields : parsed.isSome = true)
    (refuses : ∀ v, parsed = some v →
      serve (s.serving .office kind tag) = officeRefuse .suspended (s.serving .office kind tag)) :
    ∃ t, finish (takeOffice kind tag body serve s) = .next t ∧ refusedWith .office kind tag .suspended 0 0 s t := by
  obtain ⟨v, read⟩ := Option.isSome_iff_exists.mp fields
  exact takeOffice_refused h rest serve .suspended 0 quarter (refuses v read)

theorem takeQuarter_suspended (h : s.takes .office tag body) (rest : s.holdAtRest)
    (quarter : Request.isQuarter kind = true) (fields : parsed.isSome = true)
    (refuses : ∀ v, parsed = some v →
      serve (s.serving .office kind tag) = refuseQuarter .suspended (s.serving .office kind tag)) :
    ∃ t, finish (takeOffice kind tag body serve s) = .next t ∧ refusedWith .office kind tag .suspended 0 0 s t := by
  obtain ⟨v, read⟩ := Option.isSome_iff_exists.mp fields
  exact takeQuarter_refused h rest serve .suspended 0 quarter (refuses v read)

theorem takeTill_suspended {k : Till} {id : Nat} (h : s.takes (.till k) tag body) (rest : s.holdAtRest)
    (quarter : Request.isQuarter kind = false) (fields : parsed.isSome = true)
    (refuses : ∀ v, parsed = some v → serve (s.serving (.till k) kind tag) =
      tillRefuse k tag .suspended kind id 0 (s.serving (.till k) kind tag)) :
    ∃ t, finish (takeRequest (.till k) kind tag body serve s) = .next t ∧
      refusedWith (.till k) kind tag .suspended id 0 s t := by
  obtain ⟨v, read⟩ := Option.isSome_iff_exists.mp fields
  exact takeTill_refused h rest serve .suspended id 0 quarter (refuses v read)

end

/-- Settles O23: with the steps before it passed, the STORE_FAULT step is the first that refuses. -/
theorem storeFaultSuspends : Obligations.StoreFaultSuspends := by
  intro c s p kind tag body request known takes latched suspended fields reach rest
  have served := commissioned_of_reachesStore reach
  have valid := valid_of_reachesStore reach
  have held := held_of_reachesStore reach
  cases c with
  | quote k g b | reprint k g b =>
    cases request
    exact takeTill_suspended (id := 0) takes rest rfl fields fun _ read => by
      simp [serveQuote, serveReprint, read, sellingRefusal_suspended, latched, served (by decide), valid (by decide)]
  | confirm k g b =>
    cases request
    exact takeTill_suspended (id := confirmNames body) takes rest rfl fields fun ⟨_, _⟩ read => by
      simp [serveConfirm, read, sellingRefusal_suspended, latched, served (by decide), valid (by decide),
        parseConfirm_names read]
  | meterEnrol g b =>
    cases request
    exact takeOffice_suspended takes rest rfl fields fun _ read => by
      simp [serveEnrol, read, recordRefusal_suspended, latched, served (by decide), valid (by decide)]
  | meterRestore g b =>
    cases request
    exact takeOffice_suspended takes rest rfl fields fun _ read => by
      simp [serveRestore, read, recordRefusal_suspended, latched, served (by decide), held (by decide)]
  | meterEdit g b | meterBlock g b | meterUnblock g b | meterRetire g b =>
    cases request
    exact takeOffice_suspended takes rest rfl fields fun _ read => by
      simp [serveEdit, serveMeter, read, serveChange_suspended, latched, served (by decide)]
  | meterPurge g b =>
    cases request
    exact takeOffice_suspended takes rest rfl fields fun _ read => by
      simp [serveMeter, read, serveChange_suspended, latched, served (by decide), held (by decide)]
  | tariffStage g b =>
    cases request
    exact takeQuarter_suspended takes rest rfl fields fun _ read => by simp [serveStage, read, latched]
  | tariffLoadNow g b =>
    cases request
    exact takeQuarter_suspended takes rest rfl fields fun _ read => by
      simp [serveLoad, read, latched, served (by decide), held (by decide)]
  | budgetVoucher g b | budgetFloorSet g b | tillClose g b | quoteTimeSet g b | noticeMaskSet g b =>
    cases request
    exact takeOffice_suspended takes rest rfl fields fun _ read => by
      simp [serveVoucher, serveFloor, serveTillClose, serveQuoteTime, serveMask, read, settingRefusal_suspended,
        latched, served (by decide)]
  | tariffUnstage g b | holdRequest g b =>
    cases request
    exact takeOffice_suspended takes rest rfl fields fun _ read => by
      simp [serveUnstage, serveHoldRequest, read, latched, served (by decide)]
  | clockSet g b | linkSet g b =>
    cases request
    exact takeOffice_suspended takes rest rfl fields fun _ read => by simp [serveClockSet, serveLinkSet, read, latched]
  | siteCodeLoad g b =>
    cases request
    exact takeOffice_suspended takes rest rfl fields fun _ read => by
      simp [serveSiteCode, read, latched, blank_of_reachesStore reach, valid (by decide)]
  | cancel k g b | tillStatus k g b | meterRead g b | tariffRead g b | journalRead g b | journalRelease g b
  | clockRead g b | summaryRead g b | totalsSnapshot g b | holdRelease g b | conditionClear g b | statusRead g b
  | storeRetry g b =>
    cases request
    exact absurd suspended (by decide)
  | unknownKind q j g b => exact absurd rfl (known q j g b)
  | _ => cases request

end Sys2Proof.Machine
end

section
/-! SUPPORT. The unit writes of the Record Store: verified, tried again, or failed twice (R110, R111, R112, R126). -/

namespace Sys2Proof.Machine

section

variable {s x y t : State} {u : CommitUnit} {rest : List CommitUnit} {l : List Part} {a : Bool}

/-! ### What the parts kept keep -/

theorem leftUnstored_of_kept (h : leftUnstored u a s x) (k : keepsAllBut l x y) (hl : Part.areas ∉ l) :
    leftUnstored u a s y := by
  obtain ⟨slots, journal, summaries, image, cell, -⟩ := areas_same (k .areas hl)
  simpa only [leftUnstored, slots, journal, summaries, image, cell] using h

theorem faulted_of_kept (k : keepsAllBut l x y) (hl : Part.areas ∉ l) : y.store.faulted = x.store.faulted := by
  obtain ⟨-, -, -, -, -, faulted⟩ := areas_same (k .areas hl)
  exact faulted

theorem atRest_of_hold_kept (h : s.arbiter.hold ≠ .pending) (k : keepsAllBut l s x) (hl : Part.hold ∉ l) :
    x.holdAtRest := holdAtRest_of_not_pending (by rwa [(k .hold hl).1])

theorem holdAtRest_of_buffer (h : s.buffer = u :: rest) : s.holdAtRest := fun _ => by simp [h]

/-! ### UNIT_WRITE_COMPLETE -/

theorem draining_of_running (running : s.running = true) : s.draining = false := by
  have run : s.supply.state = .run := by simpa [State.running] using running
  simp [State.draining, run]

/-- A write that is not the drain's reads back. -/
theorem unitWrite_exec (buffer : s.buffer = u :: rest) (idle : s.draining = false) (r : ReadBack) :
    exec (.unitWriteComplete r) s = .next (settle (unitWrite u r s)) := by
  simp [exec, execUnitWriteComplete, buffer, idle]

/-- The head unit's write failed, and the store makes it once more as `v`: it stays at the head (R111, R115). -/
theorem triedAgain_spec (buffer : s.buffer = u :: rest) (a : Bool) {v : Service} (busy : v ≠ .idle) :
    let t := settle (setService v (failUnit u a s))
    t.store.service = v ∧ leftUnstored u a s t ∧ t.store.faulted = s.store.faulted ∧ keepsAllBut [.areas] s t := by
  obtain ⟨areas, kept, faulted⟩ := failUnit_spec u a s
  have set : keepsAllBut [] (failUnit u a s) (setService v (failUnit u a s)) := setService_keeps v _
  have atRest : (setService v (failUnit u a s)).holdAtRest := holdAtRest_of_buffer (u := u) (rest := rest) buffer
  have settled := keepsAllBut_settle atRest set
  refine ⟨congrArg RecordStore.service (settle_busy atRest busy), leftUnstored_of_kept areas settled (by simp),
    (faulted_of_kept settled (by simp)).trans faulted,
    keepsAllBut_trans kept (keepsAllBut_mono settled (by simp))⟩

theorem unitStored_faulted (u : CommitUnit) (s : State) : (unitStored u s).store.faulted = s.store.faulted := by
  obtain ⟨-, -, -, faulted, -⟩ := completeUnit_spec u s
  exact faulted

/-- STORE_FAULT arises with the fault state, where it was not present before (R112, R170). -/
theorem unitFaulted_latches (running : s.running = true)
    (absent : conditionBit s.conditions.levels .storeFault = false) (u : CommitUnit) (a : Bool) :
    (unitFaulted u a s).storeFaultLatched = true := by
  have spec := reportLevels_spec (setService .idle (setFaulted true (failUnit u a s))) (running_takes running) .storeFault
  obtain ⟨-, latched, -⟩ := spec
  have arises : (setService .idle (setFaulted true (failUnit u a s))).arises .storeFault = true := by
    simpa [State.arises, Condition.isLevel, State.levelOf, setService, setFaulted, failUnit] using absent
  rw [arises, Bool.or_true] at latched
  exact latched

theorem refusePendingHold_none (h : s.arbiter.hold ≠ .pending) : refusePendingHold s = s := by
  simp [refusePendingHold, h]

/-- The verified head unit leaves the buffer, with nobody waiting for its room (R110, R126). -/
theorem unitWrite_completes (running : s.running = true) (buffer : s.buffer = u :: rest) (alone : s.waiters = [])
    (hold : s.arbiter.hold ≠ .pending) (service : s.store.service = .writing ∨ s.store.service = .rewriting) :
    ∃ t, exec (.unitWriteComplete .verified) s = .next t ∧ t.buffer = rest ∧ stored u s t ∧ linesAfterStore u s t ∧
      t.store.faulted = s.store.faulted ∧ onlyLevels s t ∧ keepsAllBut [.areas, .lines, .buffer, .conditions] s t := by
  obtain ⟨tail, areas, lines, levels, kept⟩ := unitStored_spec u s
  have step := unitWriteVerified_exec running buffer service
  rw [offerRoom_none ((kept .waiters (by simp)).trans alone)] at step
  have settled := settle_keeps (atRest_of_hold_kept hold kept (by simp))
  refine ⟨_, step, (settled .buffer (by simp)).trans (by rw [tail, buffer, List.tail_cons]), settle_stored areas,
    settle_lines lines, (faulted_of_kept settled (by simp)).trans (unitStored_faulted u s), settle_onlyLevels levels,
    keepsAllBut_trans kept (keepsAllBut_mono settled (by simp))⟩

/-- A second failure makes the store FAULTED; those who wait and are not withdrawn keep their places (R112, R124). -/
theorem unitWrite_faults (running : s.running = true) (buffer : s.buffer = u :: rest)
    (stay : ∀ w ∈ s.waiters, w.job.withdrawable = false) (hold : s.arbiter.hold ≠ .pending)
    (rewriting : s.store.service = .rewriting) (a : Bool) :
    ∃ t, exec (.unitWriteComplete (.failed a)) s = .next t ∧
      leftUnstored u a s t ∧ t.store.faulted = true ∧ onlyLevels s t ∧
      (conditionBit s.conditions.levels .storeFault = false → t.storeFaultLatched = true) ∧
      keepsAllBut [.areas, .conditions] s t := by
  obtain ⟨areas, faulted, levels, kept⟩ := unitFaulted_spec u a s
  have step := unitWriteFailed_exec running buffer rewriting stay a
  have holdSame : (unitFaulted u a s).arbiter.hold = s.arbiter.hold := (kept .hold (by simp)).1
  rw [refusePendingHold_none (by rwa [holdSame])] at step
  have settled := settle_keeps (atRest_of_hold_kept hold kept (by simp))
  have conditions : (settle (unitFaulted u a s)).conditions = (unitFaulted u a s).conditions :=
    settled .conditions (by simp)
  refine ⟨_, step, settle_unstored areas, (faulted_of_kept settled (by simp)).trans faulted,
    settle_onlyLevels levels, fun absent => ?_, keepsAllBut_trans kept (keepsAllBut_mono settled (by simp))⟩
  rw [State.storeFaultLatched, conditions]
  exact unitFaulted_latches running absent u a

end

/-- Settles O57: the verified write, the first failure and the second. -/
theorem unitWrites : Obligations.UnitWrites := by
  intro s u rest running buffer
  refine ⟨unitWrite_completes running buffer, fun a writing => ⟨_, ?_, triedAgain_spec buffer a nofun⟩,
    fun a stay hold rewriting => unitWrite_faults running buffer stay hold rewriting a⟩
  rw [unitWrite_exec buffer (draining_of_running running)]
  simp only [unitWrite, writing]

end Sys2Proof.Machine
end

section
/-! SUPPORT. STORE_RETRY and its attempts (R115). -/

namespace Sys2Proof.Machine

section

variable {s : State} {tag : Byte} {u : CommitUnit} {rest : List CommitUnit} {o : Outstanding}

/-! ### The request -/

theorem serveRetry_faulted (served : s.commissioned = true) (faulted : s.store.faulted = true) :
    serveRetry [] s = { s with store := { s.store with retryWaiting := true } } := by
  simp [serveRetry, parseNone_nil, served, faulted]

theorem serveRetry_normal (served : s.commissioned = true) (normal : s.store.faulted = false) :
    serveRetry [] s = officeRefuse .stateConflict s := by simp [serveRetry, parseNone_nil, served, normal]

theorem retryWaiting_keeps (s : State) (b : Bool) :
    keepsAllBut [] s { s with store := { s.store with retryWaiting := b } } := by
  intro p _
  cases p with
  | clock => exact ⟨rfl, rfl⟩
  | grants => exact ⟨rfl, rfl⟩
  | hold => exact ⟨rfl, rfl⟩
  | _ => rfl

/-- On a FAULTED store the request waits, and the IDLE store takes it up before anything else (R109, R115). -/
theorem storeRetry_taken (h : s.takes .office tag []) (atRest : s.holdAtRest) (served : s.commissioned = true)
    (faulted : s.store.faulted = true) : ∃ t, exec (.storeRetry tag []) s = .next t ∧
      (s.store.service = .idle → t.store.service = .retrying false ∧ t.store.retryWaiting = false) ∧
      (s.store.service ≠ .idle → t.store.service = s.store.service ∧ t.store.retryWaiting = true) ∧
      (t.port .office).outstanding = some ⟨tag, kindStoreRetry⟩ ∧ keepsAllBut [.outstanding .office] s t := by
  have step := takeOffice_exec (kind := kindStoreRetry) h (serveRetry [])
  rw [serveRetry_faulted (by simpa using served) (by simpa using faulted)] at step
  have toX := retryWaiting_keeps (s.serving .office kindStoreRetry tag) true
  generalize hx : ({ s.serving .office kindStoreRetry tag with
    store := { (s.serving .office kindStoreRetry tag).store with retryWaiting := true } } : State) = x at step toX
  have waits : x.store.retryWaiting = true := by rw [← hx]
  have service : x.store.service = s.store.service := by simp [← hx]
  have running : x.running = true := by simpa [← hx, State.running] using takes_running h
  have atRestX : x.holdAtRest := holdAtRest_congr atRest (by simp [← hx]) (by simp [← hx])
  have work := settle_work running
  simp only [waits, RecordStore.choice, if_true, service] at work
  refine ⟨_, step, fun idle => ?_, fun busy => ?_, ?_, keepsAllBut_settle atRestX
    (keepsAllBut_trans (serving_keeps s .office kindStoreRetry tag) (keepsAllBut_mono toX (by simp)))⟩
  · rw [if_pos idle] at work
    obtain ⟨retrying, taken, -⟩ := work_eq work
    exact ⟨retrying, taken⟩
  · rw [if_neg busy] at work
    obtain ⟨same, still, -⟩ := work_eq work
    exact ⟨same.trans service, still.trans waits⟩
  · rw [settle_outstanding atRestX]
    exact (toX (.outstanding .office) (by simp)).trans (by simp)

/-! ### The attempts -/

/-- The state after a verified attempt: the head unit stored, the store NORMAL again (R115). -/
def retryCleared (u : CommitUnit) (s : State) : State :=
  reportLevels (setService .idle (setFaulted false (completeUnit u s)))

theorem retryCleared_spec (u : CommitUnit) (s : State) :
    let x := retryCleared u s
    x.buffer = s.buffer.tail ∧ stored u s x ∧ linesAfterStore u s x ∧ x.store.faulted = false ∧ onlyLevels s x ∧
      keepsAllBut [.areas, .lines, .buffer, .conditions] s x := by
  obtain ⟨tail, areas, lines, -, -, -, -, kept, levels, -⟩ := completeUnit_spec u s
  generalize hy : setService .idle (setFaulted false (completeUnit u s)) = y
  have toY : keepsAllBut [.areas] (completeUnit u s) y :=
    hy ▸ keepsAllBut_trans (setFaulted_keeps _ _) (keepsAllBut_mono (setService_keeps _ _) (by simp))
  have toX : keepsAllBut [.conditions] y (retryCleared u s) := by
    rw [retryCleared, hy]
    exact reportLevels_keeps y
  have storedY : stored u s y := by
    rw [← hy]
    exact stored_congr areas rfl rfl rfl rfl rfl rfl
  refine ⟨(toX .buffer (by simp)).trans ((toY .buffer (by simp)).trans tail), stored_of_kept storedY toX (by simp),
    linesAfterStore_of_kept (linesAfterStore_of_kept lines toY (by simp)) toX (by simp),
    (faulted_of_kept toX (by simp)).trans (by rw [← hy]; rfl), onlyLevels_trans levels ?_,
    keepsAllBut_trans kept (keepsAllBut_trans (keepsAllBut_mono toY (by simp)) (keepsAllBut_mono toX (by simp)))⟩
  rw [retryCleared, hy]
  exact onlyLevels_report (toY .conditions (by simp))

/-- An attempt reads back. -/
theorem retryAttempt_exec (buffer : s.buffer = u :: rest) (r : ReadBack) :
    exec (.retryAttemptComplete r) s = .next (settle (retryAttempt u r s)) := by
  simp [exec, execRetryAttemptComplete, buffer]

/-- A first failure is tried once more, in RUN and in HOLD (R115, R182). -/
theorem retryAttempt_tried (buffer : s.buffer = u :: rest) (first : s.store.service = .retrying false) (a : Bool) :
    ∃ t, exec (.retryAttemptComplete (.failed a)) s = .next t ∧
      t.store.service = .retrying true ∧ leftUnstored u a s t ∧ t.store.faulted = s.store.faulted ∧
      keepsAllBut [.areas] s t := by
  refine ⟨_, ?_, triedAgain_spec buffer a nofun⟩
  rw [retryAttempt_exec buffer]
  simp only [retryAttempt, first]

/-- A verified attempt answers cleared yes with the unit's sequence (R115). -/
theorem retryAttempt_clears (served : OfficeServed s o) (buffer : s.buffer = u :: rest) (alone : s.waiters = [])
    (hold : s.arbiter.hold ≠ .pending) {b : Bool} (service : s.store.service = .retrying b) :
    ∃ t, exec (.retryAttemptComplete .verified) s = .next t ∧
      t.buffer = rest ∧ stored u s t ∧ linesAfterStore u s t ∧ t.store.faulted = false ∧
      replied .office o.tag (.retryOk true (u.entry.map (·.seq))) s t ∧ onlyLevels s t ∧
      keepsAllBut [.areas, .lines, .buffer, .conditions, .outstanding .office, .replies .office] s t := by
  obtain ⟨tail, areas, lines, faulted, levels, kept⟩ := retryCleared_spec u s
  have attempt : retryAttempt u .verified s =
      offerRoom (officeReply (.retryOk true (u.entry.map (·.seq))) (retryCleared u s)) := by
    simp only [retryAttempt, service, retryVerified]
    exact if_pos (receives_running served.receives)
  have step := retryAttempt_exec buffer .verified
  rw [attempt, offerRoom_none (by simpa using (kept .waiters (by simp)).trans alone)] at step
  have atRest := atRest_of_hold_kept hold kept (by simp)
  obtain ⟨reply, all⟩ := served.answered (.retryOk true (u.entry.map (·.seq))) kept (by simp) (by simp) (by simp)
    (by simp) atRest
  have servedX := served.of_kept kept (by simp) (by simp) (by simp)
  obtain ⟨-, settled⟩ := servedX.answered (.retryOk true (u.entry.map (·.seq))) (keepsAllBut_refl [] _) (by simp)
    (by simp) (by simp) (by simp) atRest
  exact ⟨_, step, (settled .buffer (by simp)).trans (by rw [tail, buffer, List.tail_cons]),
    stored_of_kept areas settled (by simp), linesAfterStore_of_kept lines settled (by simp),
    (faulted_of_kept settled (by simp)).trans faulted, reply,
    onlyLevels_trans levels (onlyLevels_of_conditions (settled .conditions (by simp))), all⟩

/-- A second failure answers cleared no (R115). -/
theorem retryAttempt_fails (served : OfficeServed s o) (buffer : s.buffer = u :: rest)
    (second : s.store.service = .retrying true) (a : Bool) :
    ∃ t, exec (.retryAttemptComplete (.failed a)) s = .next t ∧
      leftUnstored u a s t ∧ t.store.faulted = s.store.faulted ∧
      replied .office o.tag (.retryOk false none) s t ∧
      keepsAllBut [.areas, .outstanding .office, .replies .office] s t := by
  obtain ⟨areas, failed, faulted⟩ := failUnit_spec u a s
  have kept : keepsAllBut [.areas] s (setService .idle (failUnit u a s)) :=
    keepsAllBut_trans failed (keepsAllBut_mono (setService_keeps _ _) (by simp))
  have attempt : retryAttempt u (.failed a) s = officeReply (.retryOk false none) (setService .idle (failUnit u a s)) := by
    simp only [retryAttempt, second, retryFailed]
    exact if_pos (receives_running served.receives)
  have step := retryAttempt_exec buffer (.failed a)
  rw [attempt] at step
  have atRest : (setService .idle (failUnit u a s)).holdAtRest := holdAtRest_of_buffer (u := u) (rest := rest) buffer
  obtain ⟨reply, all⟩ := served.answered (.retryOk false none) kept (by simp) (by simp) (by simp) (by simp) atRest
  have servedX := served.of_kept kept (by simp) (by simp) (by simp)
  obtain ⟨-, settled⟩ := servedX.answered (.retryOk false none) (keepsAllBut_refl [] _) (by simp)
    (by simp) (by simp) (by simp) atRest
  exact ⟨_, step, leftUnstored_of_kept areas settled (by simp), (faulted_of_kept settled (by simp)).trans faulted,
    reply, all⟩

end

/-- Settles O51: the request on a FAULTED and on a NORMAL store, and the three ends of an attempt. -/
theorem storeRetry : Obligations.StoreRetry := by
  intro s atRest served
  refine ⟨fun tag takes => ⟨storeRetry_taken takes atRest served, fun normal => ?_⟩,
    fun u rest o receives outstanding buffer alone hold =>
      have office : OfficeServed s o := ⟨receives, outstanding⟩
      ⟨fun b service => retryAttempt_clears office buffer alone hold service,
        fun a first => retryAttempt_tried buffer first a, fun a second => retryAttempt_fails office buffer second a⟩⟩
  exact takeOffice_refused takes atRest _ .stateConflict 0 rfl
    (serveRetry_normal (by simpa using served) (by simpa using normal))

end Sys2Proof.Machine
end

section
/-! SUPPORT. The drain of a HOLD and its hold cell write (R116, R182, R183, R185, R187). -/

namespace Sys2Proof.Machine

section

variable {s x t : State} {h : HoldRecord} {u : CommitUnit} {rest : List CommitUnit} {l : List Part}

/-! ### In HOLD -/

theorem settle_hold {l : List Part} (hold : s.supply.state = .hold) (k : keepsAllBut l s x) (hl : Part.supply ∉ l) :
    settle x = x :=
  settle_not_run (by rw [show x.supply = s.supply from k .supply hl, hold]; nofun)

theorem running_hold (hold : s.supply.state = .hold) : s.running = false := by simp [State.running, hold]

/-- In HOLD no arising is taken (R116, R177). -/
theorem takesArisings_hold (hold : s.supply.state = .hold) : s.takesArisings = false := by
  simp [State.takesArisings, hold]

theorem reportLevels_hold (hold : s.supply.state = .hold) : reportLevels s = s := by
  simp [reportLevels, takesArisings_hold hold]

theorem keepsAllBut_of_conditions (k : keepsAllBut l s x) (same : x.conditions = s.conditions)
    {m : List Part} (hm : ∀ p ∈ l, p ∈ .conditions :: m) : keepsAllBut m s x := fun p hp => by
  by_cases e : p = .conditions
  · subst e
    exact same
  · exact k p fun hl => (List.mem_cons.mp (hm p hl)).elim e hp

theorem completeUnit_hold (hold : s.supply.state = .hold) (u : CommitUnit) :
    keepsAllBut [.areas, .lines, .buffer] s (completeUnit u s) := by
  obtain ⟨-, -, -, -, -, -, -, kept, -, quiet⟩ := completeUnit_spec u s
  exact keepsAllBut_of_conditions kept (quiet (takesArisings_hold hold)).1 (by simp)

theorem unitStored_hold (hold : s.supply.state = .hold) (u : CommitUnit) :
    keepsAllBut [.areas, .lines, .buffer] s (unitStored u s) :=
  keepsAllBut_trans (completeUnit_hold hold u) (keepsAllBut_mono (setService_keeps .idle _) (by simp))

/-- In HOLD the second failure makes the store FAULTED and nothing arises (R116). -/
theorem unitFaulted_hold (hold : s.supply.state = .hold) (u : CommitUnit) (a : Bool) :
    keepsAllBut [.areas] s (unitFaulted u a s) := by
  obtain ⟨-, -, -, kept⟩ := unitFaulted_spec u a s
  refine keepsAllBut_of_conditions kept ?_ (by simp)
  rw [unitFaulted, reportLevels_hold (s := setService .idle (setFaulted true (failUnit u a s))) hold]
  rfl

theorem retryCleared_hold (hold : s.supply.state = .hold) (u : CommitUnit) :
    keepsAllBut [.areas, .lines, .buffer] s (retryCleared u s) := by
  have toUnit := completeUnit_hold hold u
  have state : (setService .idle (setFaulted false (completeUnit u s))).supply.state = .hold :=
    (congrArg Supply.state (toUnit .supply (by simp))).trans hold
  rw [retryCleared, reportLevels_hold state]
  exact keepsAllBut_trans toUnit (keepsAllBut_trans (keepsAllBut_mono (setFaulted_keeps _ _) (by simp))
    (keepsAllBut_mono (setService_keeps _ _) (by simp)))

/-! ### The drain's stages -/

theorem endDrain_keeps (s : State) : keepsAllBut [.supply] s (endDrain s) := supply_keeps s _

theorem drainNext_keeps (s : State) : keepsAllBut [.supply] s (drainNext s) := by
  unfold drainNext
  split
  · exact keepsAllBut_trans (keepsAllBut_mono (setService_keeps .idle s) (by simp)) (endDrain_keeps _)
  · exact keepsAllBut_trans (keepsAllBut_mono (setService_keeps .writing s) (by simp)) (supply_keeps _ _)

theorem startDrain_keeps (s : State) : keepsAllBut [.supply] s (startDrain s) := by
  unfold startDrain
  split
  · exact keepsAllBut_trans (keepsAllBut_mono (setService_keeps .writing s) (by simp)) (supply_keeps _ _)
  · exact drainNext_keeps s

/-- The hold record as the drain ends: its outage number is the kept image's plus one (R185). -/
def HoldRecord.ended (h : HoldRecord) (st : RecordStore) : HoldRecord :=
  { h with outageNumber := some (raiseNumber ((st.image.image.map (·.outageNumber)).getD 0)) }

/-- The hold record that takes every unit of the buffer (R183). -/
def HoldRecord.dropping (h : HoldRecord) (units : List CommitUnit) : HoldRecord :=
  let seqs := units.filterMap fun x => x.entry.map (·.seq)
  { h with dropped := units.length, firstDropped := seqs.min?, lastDropped := seqs.max? }

/-- The drain has begun with these units in the buffer (R182, R183). -/
def drainBegins (s : State) (h : HoldRecord) (buffer : List CommitUnit) (t : State) : Prop :=
  (buffer ≠ [] → t.supply = { s.supply with drain := if t.store.faulted = true then .lastTry else .draining } ∧
    t.store.service = .writing) ∧
  (buffer = [] → t.supply = { s.supply with drain := .cellWrite, holdRecord := some (h.ended t.store) } ∧
    t.store.service = .idle)

theorem startDrain_begins (supply : x.supply = s.supply) (record : s.supply.holdRecord = some h) :
    drainBegins s h x.buffer (startDrain x) := by
  obtain ⟨-, -, -, writes⟩ := startDrain_spec x
  have faulted : (startDrain x).store.faulted = x.store.faulted := faulted_of_kept (startDrain_keeps x) (by simp)
  refine ⟨fun some => ?_, fun none => ?_⟩
  · rw [faulted, ← supply]
    exact writes some
  · have ends : startDrain x = drainNext x := by simp [startDrain, none]
    rw [ends, drainNext_nil none, ← supply]
    refine ⟨?_, rfl⟩
    rw [show x.supply.holdRecord = some h from supply ▸ record]
    rfl

/-! ### The operation in progress at the entry -/

section

variable (hold : s.supply.state = .hold) (record : s.supply.holdRecord = some h)
  (settling : s.supply.drain = .settling)
include hold record settling

/-- A store operation that was in progress at the entry to HOLD has completed: the drain begins (R182). -/
theorem settling_begins {c : Instr} (step : exec c s = .next (settle (afterOperation x))) (k : keepsAllBut l s x)
    (hl : Part.supply ∉ l) :
    ∃ t, exec c s = .next t ∧ drainBegins s h x.buffer t ∧ keepsAllBut [.supply] x t ∧
      keepsAllBut (.supply :: l) s t := by
  have supply : x.supply = s.supply := k .supply hl
  have starts : settle (afterOperation x) = startDrain x := by
    obtain ⟨-, state, -⟩ := startDrain_spec x
    have after : afterOperation x = startDrain x := by simp [afterOperation, supply, hold, settling]
    rw [after]
    exact settle_not_run (by rw [state, supply, hold]; nofun)
  exact ⟨_, step.trans (congrArg _ starts), startDrain_begins supply record, startDrain_keeps x,
    keepsAllBut_trans (keepsAllBut_mono k (by simp +contextual)) (keepsAllBut_mono (startDrain_keeps x) (by simp))⟩

/-- A fetch's result is discarded (R116). -/
theorem settling_fetch {line : LineNo} {meter slot : Nat} (damaged : Bool)
    (service : s.store.service = .reading (.record line meter slot)) :
    ∃ t, exec (.recordFetchComplete damaged) s = .next t ∧ drainBegins s h s.buffer t ∧
      fetchLeaves damaged slot s t ∧ keepsAllBut [.supply, .areas] s t := by
  have idles := setService_keeps .idle (alterSlot damaged slot s)
  have toX : keepsAllBut [.areas] s (setService .idle (alterSlot damaged slot s)) :=
    keepsAllBut_trans (alterSlot_keeps damaged slot s) (keepsAllBut_mono idles (by simp))
  have step : exec (.recordFetchComplete damaged) s =
      .next (settle (afterOperation (setService .idle (alterSlot damaged slot s)))) := by
    simp [exec, execRecordFetchComplete, service, running_hold hold]
  obtain ⟨t, runs, begins, kept, all⟩ := settling_begins hold record settling step toX (by simp)
  rw [show (setService .idle (alterSlot damaged slot s)).buffer = s.buffer from toX .buffer (by simp)] at begins
  exact ⟨t, runs, begins, fetchLeaves_congr (alterSlot_leaves damaged slot s) (kept .areas (by simp)), all⟩

theorem settling_area {f : Fetch} (service : s.store.service = .reading f) (area : f.isArea = true) :
    ∃ t, exec .areaReadComplete s = .next t ∧ drainBegins s h s.buffer t ∧ keepsAllBut [.supply] s t := by
  have step : exec .areaReadComplete s = .next (settle (afterOperation (setService .idle s))) := by
    simp [exec, execAreaReadComplete, service, area, running_hold hold]
  obtain ⟨t, runs, begins, -, all⟩ :=
    settling_begins hold record settling step (setService_keeps .idle s) (by simp)
  exact ⟨t, runs, begins, all⟩

omit hold record in
theorem draining_of_settling : s.draining = false := by simp [State.draining, settling]

section

variable (buffer : s.buffer = u :: rest)
include buffer

/-- A unit write completes (R116, R182). -/
theorem settling_write (service : s.store.service = .writing ∨ s.store.service = .rewriting) :
    ∃ t, exec (.unitWriteComplete .verified) s = .next t ∧ drainBegins s h rest t ∧ t.buffer = rest ∧ stored u s t ∧
      linesAfterStore u s t ∧ t.store.faulted = s.store.faulted ∧
      keepsAllBut [.supply, .areas, .lines, .buffer] s t := by
  obtain ⟨tail, areas, lines, -⟩ := unitStored_spec u s
  rw [buffer, List.tail_cons] at tail
  have toX := unitStored_hold hold u
  have step := unitWrite_exec buffer (draining_of_settling settling) .verified
  have write : unitWrite u .verified s = afterOperation (unitStored u s) := by
    rcases service with w | w <;> simp [unitWrite, w, writeVerified, running_hold hold, unitStored]
  rw [write] at step
  obtain ⟨t, ends, begins, kept, all⟩ := settling_begins hold record settling step toX (by simp)
  exact ⟨t, ends, tail ▸ begins, (kept .buffer (by simp)).trans tail, stored_of_kept areas kept (by simp),
    linesAfterStore_of_kept lines kept (by simp), (faulted_of_kept kept (by simp)).trans (unitStored_faulted u s), all⟩

omit hold record in
/-- A first failure has its rewrite (R182). -/
theorem settling_rewrites (writing : s.store.service = .writing) (a : Bool) :
    ∃ t, exec (.unitWriteComplete (.failed a)) s = .next t ∧ t.store.service = .rewriting ∧ leftUnstored u a s t ∧
      t.store.faulted = s.store.faulted ∧ keepsAllBut [.areas] s t := by
  refine ⟨_, ?_, triedAgain_spec buffer a nofun⟩
  rw [unitWrite_exec buffer (draining_of_settling settling)]
  simp only [unitWrite, writing]

/-- A second failure leaves the store FAULTED (R116, R182). -/
theorem settling_faults (rewriting : s.store.service = .rewriting) (a : Bool) :
    ∃ t, exec (.unitWriteComplete (.failed a)) s = .next t ∧ drainBegins s h s.buffer t ∧ leftUnstored u a s t ∧
      t.store.faulted = true ∧ keepsAllBut [.supply, .areas] s t := by
  obtain ⟨areas, faulted, -⟩ := unitFaulted_spec u a s
  have toX := unitFaulted_hold hold u a
  have step := unitWrite_exec buffer (draining_of_settling settling) (.failed a)
  have write : unitWrite u (.failed a) s = afterOperation (unitFaulted u a s) := by
    simp only [unitWrite, rewriting, storeFault]
    exact if_neg (Bool.eq_false_iff.mp (running_hold (s := failUnit u a s) hold))
  rw [write] at step
  obtain ⟨t, ends, begins, kept, all⟩ := settling_begins hold record settling step toX (by simp)
  rw [show (unitFaulted u a s).buffer = s.buffer from toX .buffer (by simp)] at begins
  exact ⟨t, ends, begins, leftUnstored_of_kept areas kept (by simp),
    (faulted_of_kept kept (by simp)).trans faulted, all⟩

/-- A verified attempt of a STORE_RETRY makes the store NORMAL, without a reply (R182). -/
theorem settling_retried {b : Bool} (service : s.store.service = .retrying b) :
    ∃ t, exec (.retryAttemptComplete .verified) s = .next t ∧ drainBegins s h rest t ∧ t.buffer = rest ∧
      stored u s t ∧ linesAfterStore u s t ∧ t.store.faulted = false ∧
      keepsAllBut [.supply, .areas, .lines, .buffer] s t := by
  obtain ⟨tail, areas, lines, faulted, -⟩ := retryCleared_spec u s
  rw [buffer, List.tail_cons] at tail
  have toX := retryCleared_hold hold u
  have step := retryAttempt_exec buffer .verified
  have attempt : retryAttempt u .verified s = afterOperation (retryCleared u s) := by
    simp only [retryAttempt, service, retryVerified]
    exact if_neg (Bool.eq_false_iff.mp (running_hold hold))
  rw [attempt] at step
  obtain ⟨t, ends, begins, kept, all⟩ := settling_begins hold record settling step toX (by simp)
  exact ⟨t, ends, tail ▸ begins, (kept .buffer (by simp)).trans tail, stored_of_kept areas kept (by simp),
    linesAfterStore_of_kept lines kept (by simp), (faulted_of_kept kept (by simp)).trans faulted, all⟩

theorem settling_retryFails (second : s.store.service = .retrying true) (a : Bool) :
    ∃ t, exec (.retryAttemptComplete (.failed a)) s = .next t ∧ drainBegins s h s.buffer t ∧ leftUnstored u a s t ∧
      t.store.faulted = s.store.faulted ∧ keepsAllBut [.supply, .areas] s t := by
  obtain ⟨areas, failed, faulted⟩ := failUnit_spec u a s
  have toX : keepsAllBut [.areas] s (setService .idle (failUnit u a s)) :=
    keepsAllBut_trans failed (keepsAllBut_mono (setService_keeps _ _) (by simp))
  have step := retryAttempt_exec buffer (.failed a)
  have attempt : retryAttempt u (.failed a) s = afterOperation (setService .idle (failUnit u a s)) := by
    simp only [retryAttempt, second, retryFailed]
    exact if_neg (Bool.eq_false_iff.mp (running_hold (s := failUnit u a s) hold))
  rw [attempt] at step
  obtain ⟨t, ends, begins, kept, all⟩ := settling_begins hold record settling step toX (by simp)
  exact ⟨t, ends, begins, leftUnstored_of_kept areas kept (by simp),
    (faulted_of_kept kept (by simp)).trans faulted, all⟩

end

end

/-! ### The drain's writes -/

section

variable (hold : s.supply.state = .hold) (record : s.supply.holdRecord = some h) (buffer : s.buffer = u :: rest)
include hold buffer

theorem drainWrite_exec (drain : s.supply.drain = .draining ∨ s.supply.drain = .lastTry) (r : ReadBack) :
    exec (.drainWriteComplete r) s = .next (settle (drainWrite u r s)) := by
  have draining : s.draining = true := by rcases drain with d | d <;> simp [State.draining, hold, d]
  simp [exec, execDrainWriteComplete, buffer, draining]

/-- A verified unit leaves the buffer, and the one attempt at a faulted head unit makes the store NORMAL (R183): the state
in which the drain goes on. -/
theorem drainWrite_verified (drain : s.supply.drain = .draining ∨ s.supply.drain = .lastTry) :
    ∃ x, drainWrite u .verified s = drainNext x ∧ x.buffer = rest ∧ stored u s x ∧ linesAfterStore u s x ∧
      x.store.faulted = (s.store.faulted && decide (s.supply.drain = .draining)) ∧
      keepsAllBut [.areas, .lines, .buffer] s x := by
  obtain ⟨tail, areas, lines, faulted, -⟩ := completeUnit_spec u s
  rw [buffer, List.tail_cons] at tail
  have kept := completeUnit_hold hold u
  rcases drain with goesOn | once
  · refine ⟨completeUnit u s, by simp only [drainWrite, goesOn], tail, areas, lines, ?_, kept⟩
    simp [faulted, goesOn]
  · have normal := setFaulted_keeps false (completeUnit u s)
    refine ⟨setFaulted false (completeUnit u s), by simp only [drainWrite, once], tail, ?_,
      linesAfterStore_of_kept lines normal (by simp), by simp [setFaulted, once],
      keepsAllBut_trans kept (keepsAllBut_mono normal (by simp))⟩
    exact stored_congr areas rfl rfl rfl rfl rfl rfl

include record in
/-- A verified unit leaves the buffer, and the next is written or the drain ends (R182, R185). -/
theorem drain_verifies (drain : s.supply.drain = .draining ∨ s.supply.drain = .lastTry) :
    ∃ t, exec (.drainWriteComplete .verified) s = .next t ∧ t.buffer = rest ∧ stored u s t ∧ linesAfterStore u s t ∧
      t.store.faulted = (s.store.faulted && decide (s.supply.drain = .draining)) ∧
      (rest ≠ [] → t.supply = { s.supply with drain := .draining } ∧ t.store.service = .writing) ∧
      (rest = [] → t.supply = { s.supply with
          drain := .cellWrite, holdRecord := some { h with outageNumber := some (raiseNumber u.image.outageNumber) } } ∧
        t.store.service = .idle) ∧
      keepsAllBut [.supply, .areas, .lines, .buffer] s t := by
  obtain ⟨x, write, tail, areas, lines, faulted, toX⟩ := drainWrite_verified hold buffer drain
  have supply : x.supply = s.supply := toX .supply (by simp)
  have kept := drainNext_keeps x
  have step := drainWrite_exec hold buffer drain .verified
  have stays : settle (drainNext x) = drainNext x := settle_not_run (by
    rw [drainNext]
    split <;> simp [setDrain, endDrain, setService, supply, hold])
  rw [write, stays] at step
  refine ⟨_, step, (kept .buffer (by simp)).trans tail, stored_of_kept areas kept (by simp),
    linesAfterStore_of_kept lines kept (by simp), (faulted_of_kept kept (by simp)).trans faulted, fun more => ?_,
    fun none => ?_, keepsAllBut_trans (keepsAllBut_mono toX (by simp)) (keepsAllBut_mono kept (by simp))⟩
  · rw [drainNext_ne (tail ▸ more), ← supply]
    exact ⟨rfl, rfl⟩
  · obtain ⟨-, -, -, image, -⟩ := areas
    rw [drainNext_nil (tail.trans none), ← supply]
    refine ⟨?_, rfl⟩
    simp [supply, record, State.keptOutage, image]

/-- A first failure in the drain has its rewrite (R182). -/
theorem drain_rewrites (drain : s.supply.drain = .draining) (writing : s.store.service = .writing) (a : Bool) :
    ∃ t, exec (.drainWriteComplete (.failed a)) s = .next t ∧ t.store.service = .rewriting ∧ leftUnstored u a s t ∧
      t.store.faulted = s.store.faulted ∧ keepsAllBut [.areas] s t := by
  refine ⟨_, ?_, triedAgain_spec buffer a nofun⟩
  rw [drainWrite_exec hold buffer (.inl drain)]
  simp only [drainWrite, drain, writing]

omit hold buffer in
theorem dropAll_supply (record : x.supply.holdRecord = some h) :
    (dropAll x).supply =
      { x.supply with drain := .cellWrite, holdRecord := some ((h.dropping x.buffer).ended x.store) } := by
  simp [dropAll, endDrain, setDrain, setService, State.keptOutage, State.bufferSeqs, record, HoldRecord.ended,
    HoldRecord.dropping]

include record in
/-- A second failure, or that of the one attempt at a faulted head unit, drops every unit (R183). -/
theorem drain_drops (drain : s.supply.drain = .draining ∨ s.supply.drain = .lastTry) (a : Bool)
    (last : s.supply.drain = .lastTry ∨ s.store.service = .rewriting) :
    ∃ t, exec (.drainWriteComplete (.failed a)) s = .next t ∧ t.buffer = [] ∧ leftUnstored u a s t ∧
      t.store.service = .idle ∧ t.store.faulted = s.store.faulted ∧
      t.supply = { s.supply with
        drain := .cellWrite, holdRecord := some ((h.dropping s.buffer).ended s.store) } ∧
      keepsAllBut [.supply, .areas, .buffer] s t := by
  obtain ⟨areas, failed, faulted⟩ := failUnit_spec u a s
  have ⟨image, _⟩ := areas
  have write : drainWrite u (.failed a) s = dropAll (failUnit u a s) := by
    rcases last with once | rewriting
    · simp [drainWrite, once]
    · rcases drain with d | d <;> simp [drainWrite, d, rewriting]
  have step := drainWrite_exec hold buffer drain (.failed a)
  have stays : settle (dropAll (failUnit u a s)) = dropAll (failUnit u a s) := settle_not_run (by
    rw [show (dropAll (failUnit u a s)).supply.state = s.supply.state from rfl, hold]
    nofun)
  rw [write, stays] at step
  have dropped : keepsAllBut [.supply, .buffer] (failUnit u a s) (dropAll (failUnit u a s)) := by
    intro p hp
    cases p with
    | supply => simp at hp
    | buffer => simp at hp
    | clock => exact ⟨rfl, rfl⟩
    | grants => exact ⟨rfl, rfl⟩
    | hold => exact ⟨rfl, rfl⟩
    | _ => rfl
  refine ⟨_, step, rfl, leftUnstored_of_kept areas dropped (by simp), rfl, faulted, ?_,
    keepsAllBut_trans (keepsAllBut_mono failed (by simp)) (keepsAllBut_mono dropped (by simp))⟩
  have drops := dropAll_supply (x := failUnit u a s) record
  rw [HoldRecord.ended, image] at drops
  exact drops

end

/-! ### The hold cell write -/

/-- The supply as the HOLD ends: the level and RESET decide (R187, Table 10-2). -/
def Supply.afterHold (v : Supply) (cause : OutageCause) : Supply :=
  let ended : Supply := { v with holdRecord := none, drain := .none }
  if v.levelOk = false then { ended with state := .down }
  else if v.resetAsserted = true then { ended with state := .resetWait }
  else { ended with state := .start, started := false, startCause := cause }

/-- The hold's end changes the supply alone. -/
theorem endHoldState_eq (h : HoldRecord) (s : State) :
    endHoldState h s = { s with supply := s.supply.afterHold h.cause } := by
  unfold endHoldState Supply.afterHold
  cases ok : s.supply.levelOk with
  | false => simp [ok, setSupply]
  | true => cases reset : s.supply.resetAsserted <;> simp [ok, reset, setSupply, enterStart]

theorem afterHold_stopped (v : Supply) (cause : OutageCause) : (v.afterHold cause).state ≠ .run := by
  unfold Supply.afterHold
  dsimp only
  repeat' split
  all_goals nofun

/-- A failed hold cell write leaves no new cell whose check is good (R185). -/
theorem cellAfter_failed {a : Bool} {old : Option HoldCell} {c : HoldCell} (written : cellAfter h (.failed a) old = some c)
    (good : c.checkGood = true) : old = some c := by
  cases a with
  | false => exact written
  | true =>
    cases written
    cases good

theorem holdCell_keeps (s : State) (c : Option HoldCell) :
    keepsAllBut [.areas] s { s with store := { s.store with holdCell := c } } := by
  intro p hp
  cases p with
  | areas => simp at hp
  | clock => exact ⟨rfl, rfl⟩
  | grants => exact ⟨rfl, rfl⟩
  | hold => exact ⟨rfl, rfl⟩
  | _ => rfl

/-- The cell takes the hold record and the HOLD ends, whether the cell verified or not (R185). -/
theorem holdCell_written (hold : s.supply.state = .hold) (record : s.supply.holdRecord = some h)
    (writes : s.supply.drain = .cellWrite) (r : CellReadBack) :
    ∃ t, exec (.holdCellWriteComplete r) s = .next t ∧ t.store.holdCell = cellAfter h r s.store.holdCell ∧
      t.store.areas = (s.store.slots, s.store.journal, s.store.summaries, s.store.image, t.store.holdCell,
        s.store.faulted) ∧
      t.supply = s.supply.afterHold h.cause ∧ keepsAllBut [.supply, .areas] s t := by
  generalize hx : ({ s with store := { s.store with holdCell := cellAfter h r s.store.holdCell } } : State) = x
  have toX : keepsAllBut [.areas] s x := hx ▸ holdCell_keeps s _
  have supply : x.supply = s.supply := toX .supply (by simp)
  have step : exec (.holdCellWriteComplete r) s = .next { x with supply := s.supply.afterHold h.cause } := by
    have ends : settle (endHoldState h x) = { x with supply := s.supply.afterHold h.cause } := by
      rw [endHoldState_eq, supply]
      exact settle_not_run (afterHold_stopped _ _)
    simp [exec, execHoldCellWriteComplete, record, hold, writes, hx, ends]
  exact ⟨_, step, by rw [← hx], by rw [← hx]; rfl, rfl,
    keepsAllBut_trans (keepsAllBut_mono toX (by simp)) (keepsAllBut_mono (supply_keeps x _) (by simp))⟩

end

/-- Settles O58: the operation in progress at the entry, the drain's writes, and the hold cell write. -/
theorem drainAndHoldCell : Obligations.DrainAndHoldCell := by
  intro s h hold record
  refine ⟨fun settling => ⟨fun _ _ _ damaged service => settling_fetch hold record settling damaged service,
    fun _ service area => settling_area hold record settling service area, fun u rest buffer =>
      ⟨settling_write hold record settling buffer, fun a writing => settling_rewrites settling buffer writing a,
      fun a rewriting => settling_faults hold record settling buffer rewriting a,
      fun _ service => settling_retried hold record settling buffer service,
      fun a first => retryAttempt_tried buffer first a,
      fun a second => settling_retryFails hold record settling buffer second a⟩⟩,
    fun u rest buffer _ drain => ⟨drain_verifies hold record buffer drain,
      fun a goesOn writing => drain_rewrites hold buffer goesOn writing a,
      fun a last => drain_drops hold record buffer drain a last⟩, fun r writes => ?_⟩
  obtain ⟨t, step, cell, areas, supply, kept⟩ := holdCell_written hold record writes r
  refine ⟨t, step, fun verified => ?_, fun a failed c written good => ?_, areas, supply, kept⟩
  · rw [cell, verified]
    rfl
  · rw [cell, failed] at written
    exact cellAfter_failed written good

end Sys2Proof.Machine
end

section
/-! SUPPORT. The Condition Unit along a command, as a path of moves: changes it does not see, reports of the levels,
arisings of event conditions, and a mask that withdraws notices (R138, R169 to R174, R176). -/

namespace Sys2Proof.Machine

/-! ### The pending notices -/

/-- The condition of a ready notice. -/
def TxItem.notice? : TxItem → Option Condition
  | .notice c => some c
  | .reply _ _ _ => none

/-- The conditions whose notices are pending, in the order in which they became ready (R173, R201). -/
def State.notices (s : State) : List Condition := s.officePort.order.filterMap TxItem.notice?

theorem noticePending_iff {s : State} {c : Condition} : s.noticePending c = true ↔ c ∈ s.notices := by
  have key : ∀ i : TxItem, i.notice? = some c ↔ i = .notice c := fun i => by cases i <;> simp [TxItem.notice?]
  simp [State.noticePending, State.notices, key]

theorem noticePending_congr {s t : State} (h : t.notices = s.notices) (c : Condition) :
    t.noticePending c = s.noticePending c := by
  rw [Bool.eq_iff_iff, noticePending_iff, noticePending_iff, h]

theorem noticesOnce_iff {s : State} : s.noticesOnce ↔ s.notices.Nodup := by
  have key : ∀ (c : Condition) (l : List TxItem),
      (l.filter (· == .notice c)).length = (l.filterMap TxItem.notice?).count c := by
    intro c l
    induction l with
    | nil => rfl
    | cons i l ih =>
      cases i with
      | reply tag r now => simpa [List.filterMap_cons, TxItem.notice?] using ih
      | notice d => by_cases e : d = c <;> simp [TxItem.notice?, e, ih]
  rw [List.nodup_iff_count_le_one]
  exact forall_congr' fun c => by rw [key]; rfl

@[simp] theorem pushReply_notices (p : PortId) (tag : Byte) (r : Reply) (i : Bool) (s : State) :
    (pushReply p tag r i s).officePort.order.filterMap TxItem.notice? =
      s.officePort.order.filterMap TxItem.notice? := by
  unfold pushReply
  split
  · cases p <;> simp [TxItem.notice?]
  · rfl

@[simp] theorem answer_notices (p : PortId) (tag : Byte) (r : Reply) (s : State) :
    (answer p tag r s).officePort.order.filterMap TxItem.notice? = s.officePort.order.filterMap TxItem.notice? := by
  rw [answer, pushReply_notices]
  cases p <;> rfl

@[simp] theorem officeRefuseWith_notices (c : RefusalCode) (n : Nat) (s : State) :
    (officeRefuseWith c n s).officePort.order.filterMap TxItem.notice? =
      s.officePort.order.filterMap TxItem.notice? := by
  unfold officeRefuseWith
  split
  · rfl
  · exact answer_notices ..

@[simp] theorem officeRefuse_notices (c : RefusalCode) (s : State) :
    (officeRefuse c s).officePort.order.filterMap TxItem.notice? = s.officePort.order.filterMap TxItem.notice? :=
  officeRefuseWith_notices c 0 s

@[simp] theorem officeReply_notices (r : Reply) (s : State) :
    (officeReply r s).officePort.order.filterMap TxItem.notice? = s.officePort.order.filterMap TxItem.notice? := by
  unfold officeReply
  split
  · rfl
  · exact answer_notices ..

@[simp] theorem modPort_notices (p : PortId) (f : LinkPort → LinkPort) (s : State) (h : ∀ q, (f q).order = q.order) :
    (s.modPort p f).officePort.order.filterMap TxItem.notice? = s.officePort.order.filterMap TxItem.notice? := by
  cases p <;> simp [h]

theorem notices_congr {s t : State} (h : t.officePort = s.officePort) : t.notices = s.notices := by
  rw [State.notices, h]; rfl

/-- What is pending after a notice was queued (R173). -/
theorem queueNotice_notices (c : Condition) (s : State) :
    (queueNotice c s).notices =
      if (conditionBit s.site.mask c && !s.noticePending c) = true then s.notices ++ [c] else s.notices := by
  unfold queueNotice
  split <;> simp [State.notices, TxItem.notice?]

theorem arise_once {s : State} (c : Condition) (h : s.noticesOnce) : (arise c s).noticesOnce := by
  have set : (s.setLatch c true).noticePending c = s.noticePending c := rfl
  rw [noticesOnce_iff] at h ⊢
  unfold arise
  split
  · rw [queueNotice_notices]
    split
    · rename_i free
      rw [set] at free
      have absent : c ∉ (s.setLatch c true).notices := by
        rw [← noticePending_iff, set]; simp_all
      rw [← List.concat_eq_append]
      exact List.Nodup.concat absent h
    · exact h
  · exact h

theorem reportLevels_once {s : State} (h : s.noticesOnce) : (reportLevels s).noticesOnce := by
  have one : ∀ c (x : State), x.noticesOnce → (reportLevel c x).noticesOnce := by
    intro c x hx
    unfold reportLevel
    dsimp only
    split
    · exact arise_once c hx
    · exact hx
  unfold reportLevels
  split
  · exact one _ _ (one _ _ (one _ _ (one _ _ (one _ _ h))))
  · exact h

theorem withdrawDisabled_notices (m : ConditionSet) (s : State) :
    (withdrawDisabled m s).notices = s.notices.filter (conditionBit m ·) := by
  simp only [State.notices, withdrawDisabled, State.modPort_office_officePort, List.filterMap_filter,
    List.filter_filterMap]
  refine List.filterMap_congr fun i _ => ?_
  cases i <;> simp [TxItem.notice?, Option.filter]

/-! ### Moves -/

/-- A change of which the Condition Unit is told nothing: its latches, its levels and the pending notices stand, and the Commit Buffer does not grow beyond its four units (R121). -/
structure Untold (s t : State) : Prop where
  takes : t.takesArisings = s.takesArisings
  latches : t.conditions.latches = s.conditions.latches
  levels : t.conditions.levels = s.conditions.levels
  notices : t.notices = s.notices
  buffer : t.buffer.length ≤ max s.buffer.length bufferSize

/-- A change that the Condition Unit does not see: no level and no enable changes. -/
structure Unseen (s t : State) : Prop extends Untold s t where
  mask : t.site.mask = s.site.mask
  salesFree : t.salesFree = s.salesFree
  levelOf : ∀ d, t.levelOf d = s.levelOf d

/-- One move of the Condition Unit. The levels are reported, or notices withdrawn, in states of `P` alone, and no event
condition arises but those of `E`. -/
inductive LevelMove (P : State → Prop) (E : Condition → Prop) : State → State → Prop
  | unseen {s t} (h : Unseen s t) : LevelMove P E s t
  | report {s m} (h : Untold s m) (hp : P (reportLevels m)) : LevelMove P E s (reportLevels m)
  | event {s} (c : Condition) (hc : c.isLevel = false) (he : E c) : LevelMove P E s (arise c s)
  | withdraw {s} (hp : P (withdrawDisabled s.site.mask s)) : LevelMove P E s (withdrawDisabled s.site.mask s)

/-- A path of such moves. -/
abbrev LevelPath (P : State → Prop) (E : Condition → Prop) : State → State → Prop :=
  Relation.ReflTransGen (LevelMove P E)

section

variable {P : State → Prop} {E : Condition → Prop} {s t m : State}

theorem latched_congr (h : t.conditions.latches = s.conditions.latches) (d : Condition) :
    t.latched d = s.latched d := by
  rw [State.latched, h]; rfl

theorem takesArisings_congr (h : t.supply = s.supply) : t.takesArisings = s.takesArisings := by
  rw [State.takesArisings, h]; rfl

theorem reportLevels_levelOf (s : State) (d : Condition) : (reportLevels s).levelOf d = s.levelOf d :=
  levelOf_congr (by simp) (by simp) (by simp) (by simp) (by simp) (by simp) d

theorem reportLevels_salesFree (s : State) : (reportLevels s).salesFree = s.salesFree := by
  simp [State.salesFree, State.free, State.held, State.heldEntries, State.buffered]

theorem reportLevels_takes (s : State) : (reportLevels s).takesArisings = s.takesArisings :=
  takesArisings_congr (by simp)

theorem reportLevels_of_stopped (h : s.takesArisings = false) : reportLevels s = s := by simp [reportLevels, h]

theorem arise_levelOf (c : Condition) (s : State) (d : Condition) : (arise c s).levelOf d = s.levelOf d :=
  levelOf_congr (by simp) (by simp) (by simp) (by simp) (by simp) (by simp) d

theorem arise_takes (c : Condition) (s : State) : (arise c s).takesArisings = s.takesArisings :=
  takesArisings_congr (by simp)

theorem arise_levels (c : Condition) (s : State) : (arise c s).conditions.levels = s.conditions.levels := by
  unfold arise
  split <;> simp [State.setLatch]

theorem arise_noticePending_mono (c d : Condition) (h : s.noticePending d = true) :
    (arise c s).noticePending d = true := by
  have set : (s.setLatch c true).noticePending d = s.noticePending d := rfl
  have same : (s.setLatch c true).noticePending c = s.noticePending c := rfl
  unfold arise
  split
  · rw [noticePending_queue, set, same]
    split
    · rename_i e; subst e; simp [h]
    · exact h
  · exact h

theorem arise_noticePending_ne {c d : Condition} (h : d ≠ c) : (arise c s).noticePending d = s.noticePending d := by
  have set : (s.setLatch c true).noticePending d = s.noticePending d := rfl
  unfold arise
  split
  · rw [noticePending_queue, set, if_neg (Ne.symm h)]
  · rfl

theorem withdrawDisabled_levelOf (v : ConditionSet) (s : State) (d : Condition) :
    (withdrawDisabled v s).levelOf d = s.levelOf d :=
  levelOf_congr (by simp) (by simp) (by simp) (by simp) (by simp) (by simp) d

theorem withdrawDisabled_takes (v : ConditionSet) (s : State) :
    (withdrawDisabled v s).takesArisings = s.takesArisings :=
  takesArisings_congr (by simp)

theorem ne_of_isLevel {c d : Condition} (hc : c.isLevel = false) (hd : d.isLevel = true) : d ≠ c := by
  rintro rfl
  simp [hc] at hd

theorem LevelMove.takes (h : LevelMove P E s t) : t.takesArisings = s.takesArisings := by
  cases h with
  | unseen h => exact h.takes
  | report h => rw [reportLevels_takes, h.takes]
  | event c => exact arise_takes c s
  | withdraw => exact withdrawDisabled_takes _ s

theorem LevelMove.law (h : LevelMove P E s t) (hs : LevelLaw s) : LevelLaw t := by
  intro ht
  have rest := hs (h.takes ▸ ht)
  cases h with
  | unseen h =>
    intro c hc
    rw [h.levels, h.levelOf, latched_congr h.latches]
    exact rest c hc
  | report h =>
    refine reportLevels_rest _ (by rwa [reportLevels_takes] at ht) fun c hc told _ => ?_
    rw [latched_congr h.latches]
    rw [h.levels, (rest c hc).1] at told
    exact (rest c hc).2 told
  | event d =>
    intro c hc
    rw [arise_levels, arise_levelOf, arise_latched]
    exact ⟨(rest c hc).1, fun hl => by simp [(rest c hc).2 hl]⟩
  | withdraw =>
    intro c hc
    rw [withdrawDisabled_levelOf, latched_congr (by simp : _ = s.conditions.latches)]
    simpa using rest c hc

theorem LevelMove.once (h : LevelMove P E s t) (hs : s.noticesOnce) : t.noticesOnce := by
  cases h with
  | unseen h => rw [noticesOnce_iff] at hs ⊢; rwa [h.notices]
  | report h =>
    rw [noticesOnce_iff, ← h.notices, ← noticesOnce_iff] at hs
    exact reportLevels_once hs
  | event c => exact arise_once c hs
  | withdraw =>
    rw [noticesOnce_iff] at hs ⊢
    rw [withdrawDisabled_notices]
    exact hs.filter _

theorem LevelMove.bufferLaw (h : LevelMove P E s t) (hs : BufferLaw s) : BufferLaw t := by
  have grown : t.buffer.length ≤ max s.buffer.length bufferSize := by
    cases h with
    | unseen h => exact h.buffer
    | report h => simpa using h.buffer
    | event c => simp
    | withdraw => simp
  rw [BufferLaw] at hs ⊢
  omega

/-- No move clears a latch (R169). -/
theorem LevelMove.latched (h : LevelMove P E s t) {d : Condition} (hd : s.latched d = true) : t.latched d = true := by
  cases h with
  | unseen h => rw [latched_congr h.latches, hd]
  | @report m h _ =>
    rw [← latched_congr h.latches] at hd
    cases ht : m.takesArisings
    · rwa [reportLevels_of_stopped ht]
    · rw [(reportLevels_spec m ht d).2.1, hd, Bool.true_or]
  | event c => rw [arise_latched, hd, ite_self]
  | withdraw => rw [latched_congr (by simp : _ = s.conditions.latches), hd]

/-- An event condition arises by its event alone (R172). -/
theorem LevelMove.latched_event (h : LevelMove P E s t) {d : Condition} (hd : d.isLevel = false)
    (ht : t.latched d = true) : s.latched d = true ∨ E d := by
  cases h with
  | unseen h => rw [latched_congr h.latches] at ht; exact .inl ht
  | @report m h _ =>
    rw [← latched_congr h.latches]
    cases hm : m.takesArisings
    · rw [reportLevels_of_stopped hm] at ht; exact .inl ht
    · rw [(reportLevels_spec m hm d).2.1] at ht
      simp only [State.arises, hd, Bool.false_and, Bool.or_false] at ht
      exact .inl ht
  | event c hc he =>
    by_cases e : c = d
    · exact .inr (e ▸ he)
    · rw [arise_latched] at ht
      exact .inl (by simpa [e] using ht)
  | withdraw => rw [latched_congr (by simp : _ = s.conditions.latches)] at ht; exact .inl ht

/-- A level that no report finds present is not latched, and no notice of it is queued (R170, R173). -/
theorem LevelMove.quiet {d : Condition} (hd : d.isLevel = true)
    (h : LevelMove (fun x => x.levelOf d = false) E s t) :
    t.latched d = s.latched d ∧ (t.noticePending d = true → s.noticePending d = true) := by
  cases h with
  | unseen h => exact ⟨latched_congr h.latches d, fun k => by rwa [noticePending_congr h.notices] at k⟩
  | @report m h absent =>
    rw [← latched_congr h.latches, ← noticePending_congr h.notices]
    cases hm : m.takesArisings
    · rw [reportLevels_of_stopped hm]; exact ⟨rfl, id⟩
    · obtain ⟨-, latch, notice⟩ := reportLevels_spec m hm d
      rw [reportLevels_levelOf] at absent
      rw [latch, notice]
      simp [State.arises, absent]
  | event c hc =>
    have ne := ne_of_isLevel hc hd
    rw [arise_noticePending_ne ne, arise_latched]
    simp [Ne.symm ne]
  | withdraw =>
    refine ⟨latched_congr (by simp) d, fun k => ?_⟩
    rw [noticePending_iff, withdrawDisabled_notices] at k
    exact noticePending_iff.mpr (List.mem_of_mem_filter k)

/-- No notice of a level is queued while its enable is off (R173). -/
theorem LevelMove.disabled {d : Condition} (hd : d.isLevel = true)
    (h : LevelMove (fun x => conditionBit x.site.mask d = false) E s t) (k : t.noticePending d = true) :
    s.noticePending d = true := by
  cases h with
  | unseen h => rwa [noticePending_congr h.notices] at k
  | @report m h off =>
    rw [← noticePending_congr h.notices]
    cases hm : m.takesArisings
    · rwa [reportLevels_of_stopped hm] at k
    · have off : conditionBit m.site.mask d = false := by simpa using off
      simpa [(reportLevels_spec m hm d).2.2, off] using k
  | event c hc => rwa [arise_noticePending_ne (ne_of_isLevel hc hd)] at k
  | withdraw =>
    rw [noticePending_iff, withdrawDisabled_notices] at k
    exact noticePending_iff.mpr (List.mem_of_mem_filter k)

/-- While its enable is on, the notice of a level that becomes present is pending, and stays so (R170, R173). -/
theorem LevelMove.enabled {d : Condition} (hd : d.isLevel = true)
    (h : LevelMove (fun x => conditionBit x.site.mask d = true) E s t) (law : LevelLaw s)
    (takes : s.takesArisings = true) (hs : s.levelOf d = true → s.noticePending d = true) (ht : t.levelOf d = true) :
    t.noticePending d = true := by
  cases h with
  | unseen h => rw [noticePending_congr h.notices]; exact hs (h.levelOf d ▸ ht)
  | @report m h on =>
    have hm : m.takesArisings = true := h.takes.trans takes
    rw [reportLevels_levelOf] at ht
    have on : conditionBit m.site.mask d = true := by simpa using on
    rw [(reportLevels_spec m hm d).2.2, on, noticePending_congr h.notices, State.arises, hd, ht, h.levels,
      (law takes d hd).1]
    cases present : s.levelOf d
    · simp
    · simp [hs present]
  | event c => rw [arise_levelOf] at ht; exact arise_noticePending_mono c d (hs ht)
  | withdraw on =>
    rw [withdrawDisabled_levelOf] at ht
    rw [noticePending_iff, withdrawDisabled_notices, List.mem_filter]
    exact ⟨noticePending_iff.mp (hs ht), by simpa using on⟩

/-! ### Paths -/

/-- What every move keeps, a path keeps. -/
theorem LevelPath.keeps {Q : State → Prop} (h : LevelPath P E s t) (step : ∀ x y, LevelMove P E x y → Q x → Q y)
    (hs : Q s) : Q t := by
  induction h with
  | refl => exact hs
  | tail _ move ih => exact step _ _ move ih

theorem LevelPath.takes (h : LevelPath P E s t) : t.takesArisings = s.takesArisings :=
  h.keeps (Q := fun x => x.takesArisings = s.takesArisings) (fun _ _ k e => k.takes.trans e) rfl

theorem LevelPath.law (h : LevelPath P E s t) : LevelLaw s → LevelLaw t := h.keeps fun _ _ k => k.law

theorem LevelPath.once (h : LevelPath P E s t) : s.noticesOnce → t.noticesOnce := h.keeps fun _ _ k => k.once

theorem LevelPath.bufferLaw (h : LevelPath P E s t) : BufferLaw s → BufferLaw t := h.keeps fun _ _ k => k.bufferLaw

theorem LevelPath.latched (h : LevelPath P E s t) {d : Condition} : s.latched d = true → t.latched d = true :=
  h.keeps fun _ _ k => k.latched

theorem LevelPath.latched_event (h : LevelPath P E s t) {d : Condition} (hd : d.isLevel = false)
    (ht : t.latched d = true) : s.latched d = true ∨ E d :=
  h.keeps (Q := fun x => x.latched d = true → s.latched d = true ∨ E d)
    (fun _ _ k ih hy => (k.latched_event hd hy).elim ih .inr) .inl ht

theorem LevelPath.quiet {d : Condition} (hd : d.isLevel = true)
    (h : LevelPath (fun x => x.levelOf d = false) E s t) :
    t.latched d = s.latched d ∧ (t.noticePending d = true → s.noticePending d = true) :=
  h.keeps (Q := fun x => x.latched d = s.latched d ∧ (x.noticePending d = true → s.noticePending d = true))
    (fun _ _ k ih => ⟨(k.quiet hd).1.trans ih.1, fun hy => ih.2 ((k.quiet hd).2 hy)⟩) ⟨rfl, id⟩

theorem LevelPath.disabled {d : Condition} (hd : d.isLevel = true)
    (h : LevelPath (fun x => conditionBit x.site.mask d = false) E s t) :
    t.noticePending d = true → s.noticePending d = true :=
  h.keeps (Q := fun x => x.noticePending d = true → s.noticePending d = true)
    (fun _ _ k ih hy => ih (k.disabled hd hy)) id

theorem LevelPath.enabled {d : Condition} (hd : d.isLevel = true)
    (h : LevelPath (fun x => conditionBit x.site.mask d = true) E s t) (law : LevelLaw s)
    (takes : s.takesArisings = true) (absent : s.levelOf d = false) : t.levelOf d = true → t.noticePending d = true :=
  (h.keeps (Q := fun x => LevelLaw x ∧ x.takesArisings = true ∧ (x.levelOf d = true → x.noticePending d = true))
    (fun _ _ k ⟨law, takes, ih⟩ => ⟨k.law law, k.takes.trans takes, k.enabled hd law takes ih⟩)
    ⟨law, takes, by simp [absent]⟩).2.2

end

end Sys2Proof.Machine
end

section
/-! SUPPORT. How an operation moves the levels: up, down, or by one posting; and how such operations follow each other
(R133, R138, R170). -/

namespace Sys2Proof.Machine

/-! ### Levels that rise and fall -/

/-- The conditions whose level is that of sales-free (R138). -/
def Condition.isJournal : Condition → Bool
  | .journalHigh => true
  | .journalFull => true
  | _ => false

/-- No level becomes present from one state to the other, and the enables stand: sales-free is no lower. -/
structure Rises (s t : State) : Prop where
  mask : t.site.mask = s.site.mask
  salesFree : s.salesFree ≤ t.salesFree
  absent : ∀ d, d.isJournal = false → s.levelOf d = false → t.levelOf d = false

/-- A level absent in both states is absent between them, and the enables are those of the first. -/
structure LevelsBetween (x y z : State) : Prop where
  mask : z.site.mask = x.site.mask
  absent : ∀ d, x.levelOf d = false → y.levelOf d = false → z.levelOf d = false

/-- What holds at two states holds between them. The absence of a level is such, and an enable. -/
def Persists (P : State → Prop) : Prop := ∀ x y z, P x → P y → LevelsBetween x y z → P z

/-- The state with one open reservation more. -/
def State.lessRoom (s : State) : State :=
  { s with journal := { s.journal with reservations := s.journal.reservations + 1 } }

section

variable {P : State → Prop} {E : Condition → Prop} {q q' : Prop} {s t m x : State}

theorem levelOf_journal {d : Condition} (hd : d.isJournal = true) (h : s.salesFree ≤ t.salesFree)
    (hs : s.levelOf d = false) : t.levelOf d = false := by
  cases d <;> simp [Condition.isJournal, State.levelOf] at hd hs ⊢ <;> omega

/-- What the levels but those of the Journal depend on (R171). -/
theorem levelOf_of_parts {d : Condition} (hd : d.isJournal = false) (h : t.store.faulted = s.store.faulted ∧
    t.site.budget = s.site.budget ∧ t.site.floor = s.site.floor ∧ t.site.siteCode = s.site.siteCode ∧
    t.reserved = s.reserved ∧ t.calendar.valid = s.calendar.valid) : t.levelOf d = s.levelOf d := by
  obtain ⟨faulted, budget, floor, code, reserved, valid⟩ := h
  cases d with
  | journalHigh => cases hd
  | journalFull => cases hd
  | budgetLow => simp only [State.levelOf, State.commissioned, budget, floor, code, reserved]
  | storeFault => exact faulted
  | clockInvalid => simp only [State.levelOf, valid]
  | _ => rfl

theorem Rises.levelOf (h : Rises s t) (d : Condition) (hs : s.levelOf d = false) : t.levelOf d = false := by
  cases hd : d.isJournal
  · exact h.absent d hd hs
  · exact levelOf_journal hd h.salesFree hs

theorem Rises.trans (h : Rises s m) (k : Rises m t) : Rises s t :=
  ⟨k.mask.trans h.mask, h.salesFree.trans k.salesFree, fun d hd hs => k.absent d hd (h.absent d hd hs)⟩

theorem Persists.rises (hP : Persists P) (h : Rises s t) (hs : P s) : P t :=
  hP s s t hs hs ⟨h.mask, fun d hd _ => h.levelOf d hd⟩

theorem Persists.absent (d : Condition) : Persists fun x => x.levelOf d = false :=
  fun _ _ _ hx hy h => h.absent d hx hy

theorem Persists.enable (d : Condition) (b : Bool) : Persists fun x => conditionBit x.site.mask d = b :=
  fun _ _ _ hx _ h => (congrArg (conditionBit · d) h.mask).trans hx

theorem Persists.any : Persists fun _ => True := fun _ _ _ _ _ _ => trivial

theorem lessRoom_salesFree (s : State) : s.lessRoom.salesFree = s.salesFree - 1 := by
  show s.free - (s.journal.reservations + 1) = s.free - s.journal.reservations - 1
  omega

theorem lessRoom_levelOf (s : State) {d : Condition} (hd : d.isJournal = false) :
    s.lessRoom.levelOf d = s.levelOf d := by
  cases d <;> first | rfl | simp [Condition.isJournal] at hd

theorem Rises.lessRoom (h : Rises s t) : Rises s.lessRoom t.lessRoom where
  mask := h.mask
  salesFree := by have := h.salesFree; rw [lessRoom_salesFree, lessRoom_salesFree]; omega
  absent d hd hs := by rw [lessRoom_levelOf _ hd] at hs ⊢; exact h.absent d hd hs

/-- A state whose levels but those of the Journal stand, and that has at most one entry's room less. -/
theorem Rises.of_lessRoom (mask : t.site.mask = s.site.mask) (room : s.salesFree - 1 ≤ t.salesFree)
    (absent : ∀ d, d.isJournal = false → s.levelOf d = false → t.levelOf d = false) : Rises s.lessRoom t :=
  ⟨mask, by rwa [lessRoom_salesFree], fun d hd hs => absent d hd (by rwa [lessRoom_levelOf _ hd] at hs)⟩

/-! ### Changes that the Condition Unit does not see -/

theorem Untold.of_same (h : (t.supply.state = s.supply.state ∧ t.supply.started = s.supply.started) ∧
    t.conditions = s.conditions ∧
    t.officePort.order.filterMap TxItem.notice? = s.officePort.order.filterMap TxItem.notice? ∧
    t.buffer.length ≤ max s.buffer.length bufferSize) : Untold s t := by
  obtain ⟨⟨state, started⟩, conditions, notices, buffer⟩ := h
  exact ⟨by rw [State.takesArisings, state, started]; rfl, by rw [conditions], by rw [conditions], notices, buffer⟩

/-- The levels depend on these parts alone. -/
theorem Unseen.of_levels (h : Untold s t) (k : t.store.journal = s.store.journal ∧ t.store.faulted = s.store.faulted ∧
    t.site.mask = s.site.mask ∧ t.site.budget = s.site.budget ∧ t.site.floor = s.site.floor ∧
    t.site.siteCode = s.site.siteCode ∧ t.site.releasePoint = s.site.releasePoint ∧ t.buffered = s.buffered ∧
    t.journal = s.journal ∧ t.reserved = s.reserved ∧ t.calendar.valid = s.calendar.valid) : Unseen s t := by
  obtain ⟨entries, faulted, mask, budget, floor, code, release, buffered, counts, reserved, valid⟩ := k
  have room : t.salesFree = s.salesFree := by
    simp only [State.salesFree, State.free, State.held, State.heldEntries, entries, release, buffered, counts]
  refine ⟨h, mask, room, fun d => ?_⟩
  cases hd : d.isJournal
  · exact levelOf_of_parts hd ⟨faulted, budget, floor, code, reserved, valid⟩
  · cases d with
    | journalHigh => simp only [State.levelOf, room]
    | journalFull => simp only [State.levelOf, room]
    | _ => cases hd

/-- A change that leaves what the levels depend on and what the Condition Unit keeps. -/
theorem Unseen.of_same (h : (t.supply.state = s.supply.state ∧ t.supply.started = s.supply.started) ∧
    t.conditions = s.conditions ∧
    t.officePort.order.filterMap TxItem.notice? = s.officePort.order.filterMap TxItem.notice? ∧
    t.store.journal = s.store.journal ∧ t.store.faulted = s.store.faulted ∧ t.site.mask = s.site.mask ∧
    t.site.budget = s.site.budget ∧ t.site.floor = s.site.floor ∧ t.site.siteCode = s.site.siteCode ∧
    t.site.releasePoint = s.site.releasePoint ∧ t.buffer = s.buffer ∧ t.journal = s.journal ∧
    t.reserved = s.reserved ∧ t.calendar.valid = s.calendar.valid) : Unseen s t := by
  obtain ⟨supply, conditions, notices, entries, faulted, mask, budget, floor, code, release, buffer, counts, reserved,
    valid⟩ := h
  exact .of_levels (.of_same ⟨supply, conditions, notices, by rw [buffer]; exact le_max_left _ _⟩)
    ⟨entries, faulted, mask, budget, floor, code, release, by rw [State.buffered, buffer]; rfl, counts, reserved, valid⟩

theorem Unseen.refl (s : State) : Unseen s s := .of_same (by simp)

theorem Untold.trans (h : Untold s m) (k : Untold m t) : Untold s t :=
  ⟨k.takes.trans h.takes, k.latches.trans h.latches, k.levels.trans h.levels, k.notices.trans h.notices,
    by have := h.buffer; have := k.buffer; omega⟩

theorem Unseen.trans (h : Unseen s m) (k : Unseen m t) : Unseen s t :=
  ⟨h.toUntold.trans k.toUntold, k.mask.trans h.mask, k.salesFree.trans h.salesFree,
    fun d => (k.levelOf d).trans (h.levelOf d)⟩

theorem Unseen.rises (h : Unseen s t) : Rises s t :=
  ⟨h.mask, h.salesFree.ge, fun d _ hs => (h.levelOf d).trans hs⟩

theorem Unseen.falls (h : Unseen s t) : Rises t s :=
  ⟨h.mask.symm, h.salesFree.le, fun d _ ht => (h.levelOf d).symm.trans ht⟩

theorem Unseen.path (h : Unseen s t) : LevelPath P E s t := .single (.unseen h)

/-! ### Operations -/

/-- An operation by which no level becomes present, at any of its reports. -/
structure Raises (E : Condition → Prop) (s t : State) : Prop where
  rises : Rises s t
  path : ∀ P, Persists P → P s → LevelPath P E s t

/-- An operation by which no level goes, at any of its reports. -/
structure Lowers (E : Condition → Prop) (s t : State) : Prop where
  falls : Rises t s
  path : ∀ P, Persists P → P t → LevelPath P E s t

/-- An operation that tells the levels as it leaves them, with no more room than before. -/
structure PostsOnce (E : Condition → Prop) (s t : State) : Prop where
  salesFree : t.salesFree ≤ s.salesFree
  path : ∀ P, Persists P → P t → LevelPath P E s t

/-- An operation by which a level that is absent before and after never passes, unless `q` holds: then one may pass
that a reservation more makes present. -/
def Course (E : Condition → Prop) (q : Prop) (s t : State) : Prop :=
  ∀ P, Persists P → P s → P t → (q → P s.lessRoom) → LevelPath P E s t

theorem Unseen.raises (h : Unseen s t) : Raises E s t := ⟨h.rises, fun _ _ _ => h.path⟩

theorem Unseen.lowers (h : Unseen s t) : Lowers E s t := ⟨h.falls, fun _ _ _ => h.path⟩

theorem Lowers.posts (h : Lowers E s t) : PostsOnce E s t := ⟨h.falls.salesFree, h.path⟩

theorem Raises.course (h : Raises E s t) : Course E q s t := fun P hP hs _ _ => h.path P hP hs

theorem PostsOnce.course (h : PostsOnce E s t) : Course E q s t := fun P hP _ ht _ => h.path P hP ht

theorem Lowers.course (h : Lowers E s t) : Course E q s t := h.posts.course

theorem Unseen.course (h : Unseen s t) : Course E q s t := fun _ _ _ _ _ => h.path

theorem Raises.trans (h : Raises E s m) (k : Raises E m t) : Raises E s t :=
  ⟨h.rises.trans k.rises, fun P hP hs => (h.path P hP hs).trans (k.path P hP (hP.rises h.rises hs))⟩

theorem Lowers.trans (h : Lowers E s m) (k : Lowers E m t) : Lowers E s t :=
  ⟨k.falls.trans h.falls, fun P hP ht => (h.path P hP (hP.rises k.falls ht)).trans (k.path P hP ht)⟩

theorem PostsOnce.lowers (h : PostsOnce E s m) (k : Lowers E m t) : PostsOnce E s t :=
  ⟨k.falls.salesFree.trans h.salesFree,
    fun P hP ht => (h.path P hP (hP.rises k.falls ht)).trans (k.path P hP ht)⟩

theorem PostsOnce.after (h : Unseen s m) (k : PostsOnce E m t) : PostsOnce E s t :=
  ⟨k.salesFree.trans h.salesFree.le, fun P hP ht => h.path.trans (k.path P hP ht)⟩

theorem Course.mono (h : Course E q s t) (k : q → q') : Course E q' s t :=
  fun P hP hs ht hq => h P hP hs ht fun a => hq (k a)

/-- Levels that only go before an operation do not pass. -/
theorem Course.after (h : Raises E s m) (k : Course E q m t) : Course E q s t := fun P hP hs ht hq =>
  (h.path P hP hs).trans (k P hP (hP.rises h.rises hs) ht fun a => hP.rises h.rises.lessRoom (hq a))

/-- Levels that only become present behind an operation do not pass. -/
theorem Course.before (h : Course E q s m) (k : Lowers E m t) : Course E q s t := fun P hP hs ht hq =>
  (h P hP hs (hP.rises k.falls ht) hq).trans (k.path P hP ht)

/-- An operation that may begin with a level that passes: one entry's room is taken, and given back behind it. -/
structure Dips (E : Condition → Prop) (s m : State) : Prop where
  course : Course E False s m
  rises : Rises s.lessRoom m

theorem Dips.course_of (h : Dips E s m) (k : Unseen m t ∨ q ∧ Course E False m t) : Course E q s t := by
  rcases k with k | ⟨a, k⟩
  · exact (h.course.mono False.elim).before k.lowers
  · intro P hP hs ht hq
    have hm := hP.rises h.rises (hq a)
    exact (h.course P hP hs hm False.elim).trans (k P hP hm ht False.elim)

/-! ### Reports and arisings -/

theorem reportLevels_rises (h : Rises s m) : Rises s (reportLevels m) :=
  ⟨by simpa using h.mask, by rw [reportLevels_salesFree]; exact h.salesFree,
    fun d hd hs => (reportLevels_levelOf m d).trans (h.absent d hd hs)⟩

theorem reportLevels_falls (h : Rises m s) : Rises (reportLevels m) s :=
  ⟨by simpa using h.mask, by rw [reportLevels_salesFree]; exact h.salesFree,
    fun d hd hm => h.absent d hd ((reportLevels_levelOf m d).symm.trans hm)⟩

theorem Untold.raises (h : Untold s m) (k : Rises s m) : Raises E s (reportLevels m) :=
  ⟨reportLevels_rises k, fun _ hP hs => .single (.report h (hP.rises (reportLevels_rises k) hs))⟩

theorem Untold.lowers (h : Untold s m) (k : Rises m s) : Lowers E s (reportLevels m) :=
  ⟨reportLevels_falls k, fun _ _ ht => .single (.report h ht)⟩

theorem Untold.posts (h : Untold s m) (k : m.salesFree ≤ s.salesFree) : PostsOnce E s (reportLevels m) :=
  ⟨by rwa [reportLevels_salesFree], fun _ _ ht => .single (.report h ht)⟩

/-- The arising of an event condition changes no level (R170). -/
theorem arise_rises (c : Condition) (s : State) : Rises s (arise c s) ∧ Rises (arise c s) s := by
  have room : (arise c s).salesFree = s.salesFree := by
    simp [State.salesFree, State.free, State.held, State.heldEntries, State.buffered]
  exact ⟨⟨by simp, room.ge, fun d _ h => (arise_levelOf c s d).trans h⟩,
    ⟨by simp, room.le, fun d _ h => (arise_levelOf c s d).symm.trans h⟩⟩

theorem arise_raises {c : Condition} (hc : c.isLevel = false) (he : E c) (s : State) : Raises E s (arise c s) :=
  ⟨(arise_rises c s).1, fun _ _ _ => .single (.event c hc he)⟩

theorem arise_lowers {c : Condition} (hc : c.isLevel = false) (he : E c) (s : State) : Lowers E s (arise c s) :=
  ⟨(arise_rises c s).2, fun _ _ _ => .single (.event c hc he)⟩

end

end Sys2Proof.Machine
end

section
/-! SUPPORT. What the shared operations do to the levels: reservations, quotes that close, units that enter the buffer
and leave it, waiters that are refused (R65, R110, R121 to R124, R134). -/

namespace Sys2Proof.Machine

section

variable {E : Condition → Prop} {q : Prop} {s t m x : State}

/-! ### The Journal's room -/

theorem buffered_append (units : List CommitUnit) (u : CommitUnit) :
    ((units ++ [u]).filter fun u => u.entry.isSome).length =
      (units.filter fun u => u.entry.isSome).length + (if u.entry.isSome = true then 1 else 0) := by
  rw [List.filter_append, List.length_append]
  cases h : u.entry <;> simp [h]

/-- A unit with an entry is posted before a report of the levels: its entry takes one place and a reservation
(R121, R133, R134). -/
theorem addUnit_reports (kind : UnitKind) (part : Option RecordPart) (e : Source × EntryBody) (sm : Option DaySummary)
    {s : State} (room : s.buffer.length < bufferSize) : ∃ m, addUnit kind part (some e) sm s = reportLevels m ∧
      Untold s m ∧ m.salesFree = s.free - 1 - (s.journal.reservations - 1) ∧
      m.site = { s.site with unlogged := 0 } ∧ m.store = s.store ∧ m.reserved = s.reserved ∧
      m.calendar = s.calendar := by
  obtain ⟨source, body⟩ := e
  refine ⟨_, rfl, .of_same ⟨⟨rfl, rfl⟩, rfl, rfl, ?_⟩, ?_, rfl, rfl, rfl, rfl⟩
  · simp [Nat.succ_le_of_lt room]
  · simp only [State.salesFree, State.free, State.held, State.heldEntries, State.buffered, buffered_append,
      Option.isSome_some, if_true, journalPlaces]
    split <;> split <;> omega

/-- Reservations alone change: sales-free with the levels of the Journal. -/
theorem reservations_rises {s : State} {n : Nat} (h : n ≤ s.journal.reservations) :
    Rises s { s with journal := { s.journal with reservations := n } } := by
  refine ⟨rfl, ?_, fun d hd hs => (levelOf_of_parts hd (by simp)).trans hs⟩
  show s.free - s.journal.reservations ≤ s.free - n
  omega

theorem reservations_falls {s : State} {n : Nat} (h : s.journal.reservations ≤ n) :
    Rises { s with journal := { s.journal with reservations := n } } s := by
  refine ⟨rfl, ?_, fun d hd hs => (levelOf_of_parts hd (by simp)).trans hs⟩
  show s.free - n ≤ s.free - s.journal.reservations
  omega

theorem takeReservation_lowers (s : State) : Lowers E s (takeReservation s) :=
  Untold.lowers (.of_same (by simp)) (reservations_falls (Nat.le_succ _))

theorem giveReservation_raises (s : State) : Raises E s (giveReservation s) :=
  Untold.raises (.of_same (by simp)) (reservations_rises (Nat.sub_le _ _))

theorem dropWaiterReservation_raises (w : Waiter) (s : State) : Raises E s (dropWaiterReservation w s) := by
  unfold dropWaiterReservation
  split
  · exact giveReservation_raises s
  · exact (Unseen.refl s).raises

theorem addUnit_unseen (kind : UnitKind) (part : Option RecordPart) (sm : Option DaySummary) {s : State}
    (room : s.buffer.length < bufferSize) : Unseen s (addUnit kind part none sm s) := by
  refine .of_levels (.of_same ⟨⟨rfl, rfl⟩, rfl, rfl, ?_⟩) ⟨rfl, rfl, rfl, rfl, rfl, rfl, rfl, ?_, rfl, rfl, rfl⟩
  · simp [addUnit, Nat.succ_le_of_lt room]
  · simp only [State.buffered, addUnit, buffered_append]; rfl

/-- A unit that enters the buffer where its poster has changed the site state (R120, R138, R171). -/
theorem addUnit_changed (kind : UnitKind) (part : Option RecordPart) (e : Source × EntryBody) (sm : Option DaySummary)
    (h : Untold s x) (k : x.salesFree = s.salesFree) (room : x.buffer.length < bufferSize) :
    PostsOnce E s (addUnit kind part (some e) sm x) := by
  obtain ⟨m, reported, untold, free, -⟩ := addUnit_reports kind part e sm room
  rw [reported]
  refine (h.trans untold).posts ?_
  rw [free, ← k, State.salesFree]
  omega

/-- A unit that enters the buffer as its poster's site state stands (R121). -/
theorem addUnit_lowers (kind : UnitKind) (part : Option RecordPart) (entry : Option (Source × EntryBody))
    (sm : Option DaySummary) (room : s.buffer.length < bufferSize) :
    Lowers E s (addUnit kind part entry sm s) := by
  cases entry with
  | none => exact (addUnit_unseen kind part sm room).lowers
  | some e =>
    obtain ⟨m, reported, untold, free, site, store, reserved, calendar⟩ := addUnit_reports kind part e sm room
    rw [reported]
    exact untold.lowers ⟨by rw [site], by rw [free, State.salesFree]; omega, fun d hd hm =>
      (levelOf_of_parts hd (by simp [site, store, reserved, calendar])).symm.trans hm⟩

/-! ### Quotes that close -/

/-- Reservations given back with a quote's budget (R65): B − R and sales-free only rise. -/
theorem giveBack_raises (v : QuoteRecord) (s : State) : Raises E s (giveBack v s) := by
  refine Untold.raises (.of_same (by simp)) ⟨rfl, ?_, fun d hd hs => ?_⟩
  · show s.free - s.journal.reservations ≤ s.free - (s.journal.reservations - _)
    omega
  · cases d with
    | journalHigh => cases hd
    | journalFull => cases hd
    | budgetLow =>
      simp only [State.levelOf, State.commissioned, Bool.and_eq_false_iff, decide_eq_false_iff_not, not_lt] at hs ⊢
      exact hs.imp_right fun h => by omega
    | _ => exact hs

/-- A quote that holds nothing gives nothing back. -/
theorem giveBack_nothing {v : QuoteRecord} (hr : v.reservedBudget = none) (hj : v.journalReservation = false)
    (s : State) : Lowers E s (giveBack v s) := by
  refine Untold.lowers (.of_same (by simp)) ?_
  simp only [hr, hj, Option.getD_none, Nat.sub_zero, Bool.false_eq_true, if_false]
  exact (Unseen.refl s).rises

/-- What follows the giving back at the close of a quote (R65, R73). -/
theorem closeQuote_eq {k : Till} {o : CloseOutcome} {s : State} {v : QuoteRecord} (h : (s.slot k).quote = some v) :
    Unseen (giveBack v s) (closeQuote k o s) := by
  unfold closeQuote
  rw [h]
  dsimp only
  split <;> exact .of_same (by simp)

theorem closeQuote_raises (k : Till) (o : CloseOutcome) (s : State) : Raises E s (closeQuote k o s) := by
  cases h : (s.slot k).quote with
  | none => unfold closeQuote; rw [h]; exact (Unseen.refl s).raises
  | some v => exact (giveBack_raises v s).trans (closeQuote_eq h).raises

theorem abandonQuote_raises (k : Till) (v : QuoteRecord) (c : AbandonCause) (s : State) :
    Raises E s (abandonQuote k v c s) :=
  (closeQuote_raises k c.outcome s).trans (Unseen.of_same (by simp [abandonQuote])).raises

theorem refuseQuote_raises (k : Till) (v : QuoteRecord) (c : RefusalCode) (n : Nat) (s : State) :
    Raises E s (refuseQuote k v c n s) := by
  unfold refuseQuote
  split
  · exact abandonQuote_raises k v _ s
  · exact (closeQuote_raises k .refused s).trans (Unseen.of_same (by simp)).raises

/-! ### Units that leave the buffer -/

/-- Of the entries held, an entry added adds one at most (R132, log 25). -/
theorem appendEntry_held (p : JournalEntry → Bool) (e : JournalEntry) (j : List JournalEntry) :
    ((appendEntry e j).filter p).length ≤ (j.filter p).length + 1 := by
  have added : ((j ++ [e]).filter p).length ≤ (j.filter p).length + 1 := by
    rw [List.filter_append, List.length_append]
    exact Nat.add_le_add_left (List.length_filter_le _ _) _
  exact (((List.drop_sublist _ _).filter p).length_le).trans added

/-- A verified unit becomes durable, or its place is free (R110, R132, R133). -/
theorem completeUnit_raises {u : CommitUnit} {rest : List CommitUnit} (h : s.buffer = u :: rest) :
    Raises E s (completeUnit u s) := by
  refine Untold.raises (.of_same (by simp)) ⟨by simp, ?_, fun d hd hs => ?_⟩
  · have held : (State.held { s with store := s.store.written u, buffer := s.buffer.tail }) +
        (State.buffered { s with store := s.store.written u, buffer := s.buffer.tail }) ≤ s.held + s.buffered := by
      simp only [State.held, State.heldEntries, State.buffered, RecordStore.written, h, List.tail_cons,
        List.filter_cons]
      cases he : u.entry with
      | none => simp
      | some e =>
        have := appendEntry_held (fun e => decide (s.site.releasePoint < e.seq)) e s.store.journal
        simp only [Option.isSome_some, if_true, List.length_cons]
        omega
    have free : s.free ≤ State.free { s with store := s.store.written u, buffer := s.buffer.tail } := by
      simp only [State.free]
      split <;> omega
    have same : State.salesFree (lowerDirty u { s with store := s.store.written u, buffer := s.buffer.tail }) =
        State.salesFree { s with store := s.store.written u, buffer := s.buffer.tail } :=
      (Unseen.of_same (by simp)).salesFree
    rw [same]
    simp only [State.salesFree]
    omega
  · exact (levelOf_of_parts hd (by simp [RecordStore.written])).trans hs

/-! ### Waiters that are refused -/

/-- What follows the reservation of a waiter that is refused. -/
theorem refuseJob_raises (w : Waiter) (c : RefusalCode) (s : State) : Raises E s (refuseJob w c s) := by
  refine (dropWaiterReservation_raises w s).trans ?_
  unfold refuseJob
  dsimp only
  split
  case h_1 => split <;> exact (Unseen.of_same (by simp)).raises
  all_goals exact (Unseen.of_same (by simp)).raises

theorem withdrawWaiters_raises (f : Job → Bool) (c : RefusalCode) (s : State) :
    Raises E s (withdrawWaiters f c s) := by
  have each : ∀ (l : List Waiter) (x : State), Raises E x (l.foldl (fun s w => refuseJob w c s) x) := by
    intro l
    induction l with
    | nil => exact fun x => (Unseen.refl x).raises
    | cons w l ih => exact fun x => (refuseJob_raises w c x).trans (ih _)
  exact Raises.trans (Unseen.of_same (by simp)).raises (each _ _)

end

end Sys2Proof.Machine
end

section
/-! SUPPORT. What the posting of each poster's unit does to the levels, with the day rollover and the taking of link
settings (R121, R147, R204). -/

namespace Sys2Proof.Machine

section

variable {E : Condition → Prop} {q : Prop} {s t m x : State}

/-! ### The day rollover -/

theorem runSystemJob_lowers (w : Waiter) (room : s.buffer.length < bufferSize) : Lowers E s (runSystemJob w s) := by
  unfold runSystemJob
  split <;> exact addUnit_lowers _ _ _ _ room

theorem room_of_postsAtOnce (h : s.postsAtOnce = true) : s.buffer.length < bufferSize :=
  of_decide_eq_true (Bool.and_eq_true_iff.mp h).1

theorem postSystem_lowers (w : Waiter) (s : State) : Lowers E s (postSystem w s) := by
  unfold postSystem
  split
  · rename_i h
    exact runSystemJob_lowers w (room_of_postsAtOnce h)
  · exact (Unseen.of_same (by simp)).lowers

theorem raiseUnlogged_unseen (n : Nat) (s : State) : Unseen s (raiseUnlogged n s) :=
  .of_same (by simp [raiseUnlogged])

theorem postSystemEntry_lowers (j : Job) (b : Bool) (s : State) : Lowers E s (postSystemEntry j b s) := by
  unfold postSystemEntry
  split
  · exact postSystem_lowers _ s
  · split
    · exact (takeReservation_lowers s).trans (postSystem_lowers _ _)
    · split
      · exact (raiseUnlogged_unseen 1 s).lowers.trans (postSystem_lowers _ _)
      · exact (raiseUnlogged_unseen 1 s).lowers

theorem slotRollover_raises (k : Till) (s : State) : Raises E s (slotRollover k s) := by
  unfold slotRollover
  split
  · exact closeQuote_raises k _ s
  all_goals exact (Unseen.of_same (by simp)).raises

theorem tariffRollover_lowers (s : State) (he : s.site.pendingSet ≠ none → E .tariffShifted) :
    Lowers E s (tariffRollover s) := by
  unfold tariffRollover
  split
  · exact (Unseen.refl s).lowers
  · rename_i set pending
    split
    · exact (Unseen.refl s).lowers
    · exact (Unseen.of_same (by simp)).lowers.trans
        ((arise_lowers rfl (he (by simp [pending])) _).trans (postSystemEntry_lowers ..))

/-- The quotes close before the rollover's units are built (log 23). -/
theorem rollover_course (s : State) (he : s.site.pendingSet ≠ none → E .tariffShifted) :
    Course E q s (rollover s) := by
  unfold rollover
  split
  · exact (Unseen.refl s).course
  · rename_i d _
    have begun : Raises E s (beginDay d.day s) := (Unseen.of_same (by simp)).raises
    refine .after (begun.trans ((slotRollover_raises 0 _).trans ((slotRollover_raises 1 _).trans
      ((slotRollover_raises 2 _).trans (slotRollover_raises 3 _))))) ?_
    exact ((tariffRollover_lowers _ (by simpa using he)).trans (postSystemEntry_lowers ..)).course

theorem tariffRollover_businessDay (s : State) : (tariffRollover s).site.businessDay = s.site.businessDay := by
  unfold tariffRollover
  split
  · rfl
  · split
    · rfl
    · dsimp only
      rw [(postSystemEntry_slot _ _ _).2.2]
      simp

/-- A rollover that is due moves the business day on (R147). -/
theorem rollover_businessDay (h : s.rolloverDue = true) : s.site.businessDay < (rollover s).site.businessDay := by
  unfold State.rolloverDue at h
  unfold rollover closeDay
  split at h
  · cases h
  · rename_i d now
    rw [now]
    rw [(postSystemEntry_slot _ _ _).2.2]
    simpa [tariffRollover_businessDay] using h

/-! ### Link settings -/

/-- An OPEN quote closed because its link became OFF (R77). -/
def LinkCloses (s t : State) : Prop :=
  ∃ k id, (s.slot k).state = .opened ∧ (t.slot k).lastClosed = some (id, .linkOff)

/-- A link that becomes OFF closes an OPEN quote, or no level changes (R77). -/
theorem slotLinkOff_cases (k : Till) (s : State) :
    Unseen s (slotLinkOff k s) ∨ Raises E s (slotLinkOff k s) ∧ LinkCloses s (slotLinkOff k s) := by
  have tags : Unseen s (dropReplyTags k s) := .of_same (by simp)
  have state : ((dropReplyTags k s).slot k).state = (s.slot k).state := by simp [dropReplyTags]
  unfold slotLinkOff
  dsimp only
  split
  · rename_i opened
    cases quote : ((dropReplyTags k s).slot k).quote with
    | none => left; unfold closeQuote; rw [quote]; exact tags
    | some v =>
      exact .inr ⟨tags.raises.trans (closeQuote_raises ..), k, v.id, state ▸ opened,
        ((closeQuote_slot k .linkOff _).2 v quote).2.2⟩
  · exact .inl (tags.trans (.of_same (by simp)))
  · exact .inl (tags.trans (.of_same (by simp)))
  · exact .inl tags

theorem takeSettings_cases (k : Till) (s : State) :
    Unseen s (takeSettings k s) ∨ Raises E s (takeSettings k s) ∧ LinkCloses s (takeSettings k s) := by
  have port : ∀ v, Unseen s (s.setPort (.till k) v) := fun v => .of_same (by simp)
  unfold takeSettings
  dsimp only
  split
  · exact .inl (port _)
  · split
    · exact .inl (port _)
    · refine (slotLinkOff_cases k _).imp (port _).trans (.imp (port _).raises.trans fun ⟨j, id, opened, closed⟩ => ?_)
      exact ⟨j, id, by simpa [State.slot] using opened, closed⟩

theorem offerSettings_cases (k : Till) (s : State) :
    Unseen s (offerSettings k s) ∨ Raises E s (offerSettings k s) ∧ LinkCloses s (offerSettings k s) := by
  unfold offerSettings
  dsimp only
  split
  · split
    · exact .inl (.refl s)
    · split
      · exact .inl (.of_same (by simp))
      · have count : Unseen s { s with freeCount := s.freeCount + 1 } := .of_same (by simp)
        exact (takeSettings_cases k _).imp count.trans (.imp_left count.raises.trans)
  · exact takeSettings_cases k s

theorem takeSettings_raises (k : Till) (s : State) : Raises E s (takeSettings k s) :=
  (takeSettings_cases k s).elim Unseen.raises And.left

/-! ### One posting -/

/-- A posting followed by what the Condition Unit does not see. -/
theorem PostsOnce.unseen (h : PostsOnce E s m) (k : Unseen m t) : PostsOnce E s t := h.lowers k.lowers

theorem PostsOnce.reply (h : PostsOnce E s m) (r : Reply) : PostsOnce E s (officeReply r m) :=
  h.unseen (.of_same (by simp))

theorem PostsOnce.tillReply (h : PostsOnce E s m) (k : Till) (tag : Option Byte) (r : Reply) :
    PostsOnce E s (tillReply k tag r m) := h.unseen (.of_same (by simp))

theorem PostsOnce.directory (h : PostsOnce E s m) (d : List DirEntry) : PostsOnce E s { m with directory := d } :=
  h.unseen (.of_same (by simp))

theorem PostsOnce.endReprint (h : PostsOnce E s m) (k : Till) : PostsOnce E s (endReprint k m) :=
  h.unseen (.of_same (by simp))

theorem PostsOnce.lineTakesImage (h : PostsOnce E s m) (meter : Nat) (r : Record) :
    PostsOnce E s (lineTakesImage meter r m) := h.unseen (.of_same (by simp))

theorem PostsOnce.releasePin (h : PostsOnce E s m) (o : Owner) : PostsOnce E s (releasePin o m) :=
  h.unseen (.of_same (by simp))

theorem PostsOnce.freeOfficeLine (h : PostsOnce E s m) : PostsOnce E s (freeOfficeLine m) :=
  h.unseen (.of_same (by simp))

/-- A unit whose poster has changed parts of the site state that no level depends on. -/
theorem addUnit_posts (kind : UnitKind) (part : Option RecordPart) (entry : Option (Source × EntryBody))
    (sm : Option DaySummary) (h : Unseen s x) (room : x.buffer.length < bufferSize) :
    PostsOnce E s (addUnit kind part entry sm x) :=
  (addUnit_lowers kind part entry sm room).posts.after h

/-- The close of a quote that holds nothing changes no level. -/
theorem closeQuote_lowers {k : Till} {v : QuoteRecord} (o : CloseOutcome) (quote : (s.slot k).quote = some v)
    (budget : v.reservedBudget = none) (reservation : v.journalReservation = false) :
    Lowers E s (closeQuote k o s) :=
  (giveBack_nothing budget reservation s).trans (closeQuote_eq quote).lowers

/-- What follows the unit of a SALE: its line, its quote, which holds nothing now, and its reply (R65, R70, R103). -/
theorem saleClosed_lowers (k : Till) (v : QuoteRecord) (image : Record) (reply : Reply) (s : State) :
    Lowers E s (tillReply k v.replyTag reply (closeQuote k .committed ((lineTakesImage v.meter image s).modSlot k
      fun y => { y with quote := some { v with reservedBudget := none, journalReservation := false } }))) := by
  generalize hx : (lineTakesImage v.meter image s).modSlot k
    (fun y => { y with quote := some { v with reservedBudget := none, journalReservation := false } }) = x
  have before : Unseen s x := hx ▸ .of_same (by simp)
  have quote : (x.slot k).quote = some { v with reservedBudget := none, journalReservation := false } := by simp [← hx]
  exact before.lowers.trans ((closeQuote_lowers .committed quote rfl rfl).trans (Unseen.of_same (by simp)).lowers)

/-- A SALE takes its tender out of R, and what it consumes out of B (R164). -/
theorem postSale_posts (k : Till) (room : s.buffer.length < bufferSize) : PostsOnce E s (postSale k s) := by
  unfold postSale
  split
  · exact (Unseen.refl s).lowers.posts
  · rename_i v _
    split
    · have sold : ∀ p part entry, PostsOnce E s (addUnit .sale part (some entry) none (takeSale k v.tender p s)) :=
        fun p part entry => addUnit_changed _ _ _ _ (.of_same (by simp)) rfl (by simpa using room)
      exact (sold _ _ _).lowers (saleClosed_lowers ..)
    · exact (Unseen.refl s).lowers.posts

theorem postReprint_posts (k : Till) (meter index : Nat) (r : RecentToken) (again : Bool)
    (room : s.buffer.length < bufferSize) : PostsOnce E s (postReprint k meter index r again s) := by
  unfold postReprint
  split
  · exact (Unseen.refl s).lowers.posts
  · exact ((addUnit_lowers _ _ _ _ room).posts.endReprint k).tillReply k _ _

theorem postImage_posts (slot : Nat) (r : Record) (body : EntryBody) (room : s.buffer.length < bufferSize) :
    PostsOnce E s (postImage slot r body s) :=
  ((addUnit_lowers _ _ _ _ room).posts.lineTakesImage _ _).releasePin _

theorem postPurge_posts (slot meter : Nat) (room : s.buffer.length < bufferSize) :
    PostsOnce E s (postPurge slot meter s) :=
  (((addUnit_lowers _ _ _ _ room).posts.directory _).freeOfficeLine).reply _

/-- The mask in force at the report is the new one, and the notices it disables are withdrawn (R176). -/
theorem postMask_posts (v : ConditionSet) (room : s.buffer.length < bufferSize) : PostsOnce E s (postMask v s) := by
  generalize hx : postSetting true (.settings (.noticeMask s.site.mask v))
    { s with site := { s.site with mask := v } } = x
  have posted : PostsOnce E s x := hx ▸ addUnit_changed _ _ _ _ (.of_same (by simp)) rfl room
  have mask : x.site.mask = v := by rw [← hx]; simp [postSetting, addUnit, entryIf]
  have falls : Rises (withdrawDisabled v x) x :=
    ⟨by simp, le_of_eq (by simp [State.salesFree, State.free, State.held, State.heldEntries, State.buffered]),
      fun d _ h => (withdrawDisabled_levelOf v x d).symm.trans h⟩
  have withdrawn : Lowers E x (withdrawDisabled v x) := by
    subst mask
    exact ⟨falls, fun _ _ ht => .single (.withdraw ht)⟩
  have reply : Unseen (withdrawDisabled v x) (postMask v s) := by
    rw [← hx]
    exact .of_same (by simp [postMask])
  exact (posted.lowers withdrawn).lowers reply.lowers

/-- A poster but CLOCK_SET and LINK_SET brings one report of the levels (R121, R138). -/
theorem runJob_posts {w : Waiter} (clock : ∀ old v n, w.job ≠ .clockSet old v n) (link : ∀ k v, w.job ≠ .linkSet k v)
    (room : s.buffer.length < bufferSize) : PostsOnce E s (runJob w s) := by
  have changed : ∀ kind e x, Untold s x → x.salesFree = s.salesFree → x.buffer = s.buffer →
      PostsOnce E s (addUnit kind none (some e) none x) :=
    fun kind e x h k b => addUnit_changed _ _ _ _ h k (b ▸ room)
  have unchanged : ∀ kind e x, Unseen s x → x.buffer = s.buffer → PostsOnce E s (addUnit kind none e none x) :=
    fun kind e x h b => addUnit_posts _ _ _ _ h (b ▸ room)
  unfold runJob
  split
  case h_1 k _ => exact postSale_posts k room
  case h_2 => exact postReprint_posts _ _ _ _ _ room
  case h_3 => exact ((postImage_posts _ _ _ room).directory _).reply _
  case h_4 => exact (postImage_posts _ _ _ room).reply _
  case h_5 => exact (postImage_posts _ _ _ room).reply _
  case h_6 => exact postPurge_posts _ _ room
  case h_7 => exact ((postImage_posts _ _ _ room).directory _).reply _
  case h_8 => exact .reply (unchanged _ _ _ (.of_same (by simp)) (by rfl)) _
  case h_9 => exact .reply (unchanged _ _ _ (.of_same (by simp)) (by rfl)) _
  case h_10 => exact .reply (unchanged _ _ _ (.of_same (by simp)) (by rfl)) _
  case h_11 => exact .reply (changed _ _ _ (.of_same (by simp)) (by rfl) (by rfl)) _
  case h_12 => exact .reply (changed _ _ _ (.of_same (by simp)) (by rfl) (by rfl)) _
  case h_13 => exact .reply (unchanged _ _ _ (.of_same (by simp)) (by rfl)) _
  case h_14 v _ => exact postMask_posts v room
  case h_15 k v h => exact absurd h (link k v)
  case h_16 old v n h => exact absurd h (clock old v n)
  case h_17 => exact .reply (unchanged _ _ _ (.of_same (by simp)) (by rfl)) _
  case h_18 => exact .reply (changed _ _ _ (.of_same (by simp)) (by rfl) (by rfl)) _
  all_goals exact (runSystemJob_lowers w room).posts

end

end Sys2Proof.Machine
end

section
/-! SUPPORT. CLOCK_SET and LINK_SET at their posting, and the post wait list: what a command's posting does to the
levels (R77, R121 to R124, R149, R204). -/

namespace Sys2Proof.Machine

section

variable {E : Condition → Prop} {q : Prop} {s t m x : State}

/-! ### A reservation taken before the posting -/

/-- The room that a posting finds: the state itself, or the state with the unit's reservation taken (R134). -/
def Reserved (s x : State) : Prop := x = s ∨ x = takeReservation s

theorem Reserved.same (h : Reserved s x) : x.site = s.site ∧ x.buffer = s.buffer ∧ x.slots = s.slots := by
  rcases h with rfl | rfl <;> simp

theorem Reserved.levelOf (h : Reserved s x) {d : Condition} (hd : d.isJournal = false) :
    x.levelOf d = s.levelOf d := by
  rcases h with rfl | rfl
  · rfl
  · exact levelOf_of_parts hd (by simp)

/-- A unit posted leaves at most one entry's room less than there was before its reservation. -/
theorem Reserved.room (h : Reserved s x) : s.salesFree - 1 ≤ x.free - 1 - (x.journal.reservations - 1) := by
  have bound : ∀ n : Nat,
      s.free - s.journal.reservations - 1 ≤ s.free - 1 - (s.journal.reservations + n - 1) ∨ 1 < n := by omega
  rcases h with rfl | rfl
  · exact (bound 0).resolve_right (by omega)
  · have free : (takeReservation s).free = s.free := by
      simp [takeReservation, State.free, State.held, State.heldEntries, State.buffered]
    have taken : (takeReservation s).journal.reservations = s.journal.reservations + 1 := by simp [takeReservation]
    rw [free, taken]
    exact (bound 1).resolve_right (by omega)

theorem Reserved.course (h : Reserved s x) (k : PostsOnce E x t) : Course E q s t := by
  rcases h with rfl | rfl
  · exact k.course
  · intro P hP hs ht _
    have taken : P (takeReservation s) := hP s t _ hs ht ⟨by simp, fun d hd hd' => by
      cases hj : d.isJournal
      · exact (levelOf_of_parts hj (by simp)).trans hd
      · exact levelOf_journal hj k.salesFree hd'⟩
    exact ((takeReservation_lowers s).path P hP taken).trans (k.path P hP ht)

/-- The postings of CLOCK_SET and of LINK_SET up to what follows their unit. -/
theorem Reserved.dips (h : Reserved s x) (k : PostsOnce E x m) (mask : m.site.mask = x.site.mask)
    (room : x.free - 1 - (x.journal.reservations - 1) ≤ m.salesFree)
    (absent : ∀ d, d.isJournal = false → x.levelOf d = false → m.levelOf d = false) : Dips E s m :=
  ⟨h.course k, .of_lessRoom (by rw [mask, h.same.1]) (h.room.trans room)
    fun d hd hs => absent d hd ((h.levelOf hd).trans hs)⟩

/-! ### CLOCK_SET and LINK_SET -/

/-- The unit of a setting, posted where its poster has changed what no entry's room depends on. -/
theorem postSetting_posts (b : Bool) (body : EntryBody) (h : Untold s x) (k : x.free = s.free)
    (j : x.journal = s.journal) (room : x.buffer.length < bufferSize) :
    PostsOnce E s (reportLevels (postSetting b body x)) ∧
      s.free - 1 - (s.journal.reservations - 1) ≤ (postSetting b body x).salesFree := by
  have before : x.salesFree = s.salesFree := by rw [State.salesFree, State.salesFree, k, j]
  cases b with
  | false =>
    have unseen : Unseen x (postSetting false body x) := addUnit_unseen .journalOnly none none room
    have salesFree : (postSetting false body x).salesFree = s.salesFree := unseen.salesFree.trans before
    refine ⟨(h.trans unseen.toUntold).posts salesFree.le, ?_⟩
    rw [salesFree, State.salesFree]
    omega
  | true =>
    obtain ⟨m, reported, -, salesFree, -⟩ :=
      addUnit_reports .journalOnly none (Source.office, body) none room
    have posted : PostsOnce E s (postSetting true body x) := addUnit_changed _ _ _ _ h before room
    refine ⟨posted.lowers (Untold.lowers (Unseen.refl _).toUntold (Unseen.refl _).rises), ?_⟩
    show _ ≤ (addUnit .journalOnly none (some (Source.office, body)) none x).salesFree
    rw [reported, reportLevels_salesFree, salesFree, k, j]

/-- A unit takes the unlogged count out of the site state, and nothing else (R137). -/
theorem postSetting_site (b : Bool) (body : EntryBody) (x : State) :
    (postSetting b body x).site.mask = x.site.mask ∧ (postSetting b body x).site.budget = x.site.budget ∧
      (postSetting b body x).site.floor = x.site.floor ∧ (postSetting b body x).site.siteCode = x.site.siteCode ∧
      (postSetting b body x).site.businessDay = x.site.businessDay ∧
      (postSetting b body x).site.pendingSet = x.site.pendingSet := by
  cases b <;> simp [postSetting, addUnit, entryIf]

/-- A CLOCK_SET up to its rollover: its unit is posted and the valid flag is yes (R149). -/
theorem clockTaken_dips (h : Reserved s x) (b : Bool) (old : Option DateTime) (d : DateTime)
    (room : x.buffer.length < bufferSize) : Dips E s (reportLevels (postSetting b (.clockSet old d)
      { x with calendar := ⟨some d, true⟩, cell := ⟨true, some d⟩ })) := by
  obtain ⟨posted, free⟩ := postSetting_posts (E := E) (s := x) (x := { x with
    calendar := ⟨some d, true⟩, cell := ⟨true, some d⟩ }) b (.clockSet old d) (.of_same (by simp)) rfl rfl room
  refine h.dips posted (by simp [postSetting_site]) (by rwa [reportLevels_salesFree]) fun c hc hx => ?_
  rw [reportLevels_levelOf]
  by_cases clock : c = .clockInvalid
  · simp [clock, State.levelOf]
  · rw [← hx]
    cases c with
    | journalHigh => cases hc
    | journalFull => cases hc
    | clockInvalid => exact absurd rfl clock
    | budgetLow => simp [State.levelOf, State.commissioned, postSetting_site]
    | storeFault => simp [State.levelOf]
    | _ => rfl

/-- A later day takes the rollover behind the unit of a CLOCK_SET: then levels of its reservation may pass (R149). -/
theorem postClockSet_course (h : Reserved s x) (b : Bool) (old : Option DateTime) (v : DateTime) (n : Nat)
    (room : x.buffer.length < bufferSize)
    (later : s.site.businessDay < (postClockSet b old v n x).site.businessDay →
      q ∧ (s.site.pendingSet ≠ none → E .tariffShifted)) : Course E q s (postClockSet b old v n x) := by
  have dips := clockTaken_dips (E := E) h b old (addSeconds v n) room
  generalize hm : reportLevels (postSetting b (.clockSet old (addSeconds v n))
    { x with calendar := ⟨some (addSeconds v n), true⟩, cell := ⟨true, some (addSeconds v n)⟩ }) = m at dips
  have day : m.site.businessDay = s.site.businessDay := by rw [← hm, ← h.same.1]; simp [postSetting_site]
  have pending : m.site.pendingSet = s.site.pendingSet := by rw [← hm, ← h.same.1]; simp [postSetting_site]
  have result : postClockSet b old v n x = officeReply (.clockOk (addSeconds v n)
      (if m.rolloverDue then rollover m else m).site.businessDay m.rolloverDue (seqIf b x))
      (if m.rolloverDue then rollover m else m) := by rw [← hm]; rfl
  rw [result] at later ⊢
  refine dips.course_of ?_
  cases due : m.rolloverDue
  · exact .inl (.of_same (by simp))
  · simp only [due, if_true] at later
    obtain ⟨a, shift⟩ := later (by simpa [day] using rollover_businessDay due)
    exact .inr ⟨a, (rollover_course m (pending ▸ shift)).before (Unseen.of_same (by simp)).lowers⟩

/-- A link made OFF behind the unit of a LINK_SET closes an OPEN quote: then levels of its reservation may pass
(R77). -/
theorem postLinkSet_course (h : Reserved s x) (b : Bool) (k : Till) (v : LinkSettings)
    (room : x.buffer.length < bufferSize) (closes : LinkCloses s (postLinkSet b k v x) → q) :
    Course E q s (postLinkSet b k v x) := by
  generalize hy : ({ x with site := { x.site with links := x.site.links.set k.val v k.isLt } } : State) = y
  generalize hm : postSetting b (.settings (.tillLink k (x.site.links.get k) v)) y = m
  have unseen : Unseen x y := hy ▸ .of_same (by simp)
  have lowers : Lowers E y m := by
    rw [← hm]
    exact addUnit_lowers _ _ _ _ (by rw [← hy]; exact room)
  have free := (postSetting_posts (E := E) b (.settings (.tillLink k (x.site.links.get k) v)) unseen.toUntold (hy ▸ rfl)
    (hy ▸ rfl) (by rw [← hy]; exact room)).2
  have same : ∀ d, d.isJournal = false → m.levelOf d = x.levelOf d := fun d hd =>
    levelOf_of_parts hd (by rw [← hm, ← hy]; cases b <;> simp [postSetting, addUnit, entryIf])
  have dips : Dips E s m := h.dips (lowers.posts.after unseen)
    (by rw [lowers.falls.mask.symm, unseen.mask]) (hm ▸ free) fun d hd hx => (same d hd).trans hx
  have slots : m.slots = s.slots := by rw [← hm, ← hy, ← h.same.2.2]; simp
  have result : postLinkSet b k v x = officeReply (.linkOk k v ((offerSettings k m).port (.till k)).link (seqIf b x))
      (offerSettings k m) := by rw [← hm, ← hy]; rfl
  rw [result] at closes ⊢
  refine dips.course_of ((offerSettings_cases (E := E) k m).imp (fun a => a.trans (.of_same (by simp))) ?_)
  rintro ⟨raises, j, id, opened, last⟩
  refine ⟨closes ⟨j, id, ?_, ?_⟩, raises.course.before (Unseen.of_same (by simp)).lowers⟩
  · rw [← State.slot_congr slots]; exact opened
  · simpa [State.slot] using last

/-! ### Every poster -/

/-- What the operations of a command from `s` to `t` may do: a rollover that moves the day on, or a link made OFF, lets
levels pass, and a rollover may shift a pending set (R33, R77, R149). -/
structure Allows (E : Condition → Prop) (q : Prop) (s t : State) : Prop where
  later : s.site.businessDay < t.site.businessDay → q ∧ (s.site.pendingSet ≠ none → E .tariffShifted)
  closes : LinkCloses s t → q

/-- What is allowed from a state is allowed from a later one with the same day, pending set and slot states. -/
theorem Allows.onward (h : Allows E q s t) (day : m.site.businessDay = s.site.businessDay)
    (set : m.site.pendingSet = s.site.pendingSet) (slots : ∀ k, (m.slot k).state = (s.slot k).state) :
    Allows E q m t :=
  ⟨by rw [day, set]; exact h.later, fun ⟨k, id, opened, closed⟩ => h.closes ⟨k, id, slots k ▸ opened, closed⟩⟩

/-- The posting of a poster's unit, its reservation taken before or not (R121, R134). -/
theorem runJob_course (h : Reserved s x) (w : Waiter) (room : x.buffer.length < bufferSize)
    (allows : Allows E q s (runJob w x)) : Course E q s (runJob w x) := by
  by_cases clock : ∃ old v n, w.job = .clockSet old v n
  · obtain ⟨old, v, n, job⟩ := clock
    have run : runJob w x = postClockSet w.hasEntry old v n x := by unfold runJob; rw [job]
    rw [run] at allows ⊢
    exact postClockSet_course h _ _ _ _ room allows.later
  · by_cases link : ∃ k v, w.job = .linkSet k v
    · obtain ⟨k, v, job⟩ := link
      have run : runJob w x = postLinkSet w.hasEntry k v x := by unfold runJob; rw [job]
      rw [run] at allows ⊢
      exact postLinkSet_course h _ _ _ room allows.closes
    · push Not at clock link
      exact h.course (runJob_posts clock link room)

end

end Sys2Proof.Machine
end

section
/-! SUPPORT. The post wait list and the room that a verified write offers: what they do to the levels (R121 to R124). -/

namespace Sys2Proof.Machine

section

variable {E : Condition → Prop} {q : Prop} {s t m x : State}

/-- A poster that is neither a CLOCK_SET nor a LINK_SET: what follows its unit gives no reservation back. -/
def Job.plain : Job → Bool
  | .clockSet _ _ _ => false
  | .linkSet _ _ => false
  | _ => true

/-- The posting of a poster's unit, where it may be a CLOCK_SET or a LINK_SET. -/
theorem runJob_plain (h : Reserved s x) (w : Waiter) (room : x.buffer.length < bufferSize)
    (allows : w.job.plain = false → Allows E q s (runJob w x)) : Course E q s (runJob w x) := by
  cases plain : w.job.plain
  · exact runJob_course h w room (allows plain)
  · refine h.course (runJob_posts (fun _ _ _ e => ?_) (fun _ _ e => ?_) room) <;> simp [e, Job.plain] at plain

/-- STORE_FAULT is latched, or the next report latches it (R112, R170). -/
def State.faultStands (s : State) : Prop :=
  s.latched .storeFault = true ∨ s.levelOf .storeFault = true ∧ conditionBit s.conditions.levels .storeFault = false

theorem Unseen.faultStands (h : Unseen s t) (k : t.faultStands) : s.faultStands := by
  rw [State.faultStands, latched_congr h.latches, h.levelOf, h.levels] at k
  exact k

/-- With the levels at rest a fault that stands is latched (R170). -/
theorem latched_of_faultStands (law : LevelLaw s) (takes : s.takesArisings = true) (h : s.faultStands) :
    s.storeFaultLatched = true := by
  rcases h with h | ⟨present, told⟩
  · exact h
  · rw [(law takes .storeFault rfl).1, present] at told
    cases told

theorem faultStands_of_latched (h : s.storeFaultLatched = true) : s.faultStands := .inl h

theorem takeReservation_faultStands (h : (takeReservation s).storeFaultLatched = true) : s.faultStands := by
  generalize hm : ({ s with journal := { s.journal with reservations := s.journal.reservations + 1 } } : State) = m
  have taken : takeReservation s = reportLevels m := by rw [← hm]; rfl
  have same : m.latched .storeFault = s.latched .storeFault ∧ m.arises .storeFault = s.arises .storeFault := by
    rw [← hm]; exact ⟨rfl, rfl⟩
  replace h : (takeReservation s).latched .storeFault = true := h
  rw [taken] at h
  cases takes : m.takesArisings
  · rw [reportLevels_of_stopped takes, same.1] at h
    exact .inl h
  · rw [(reportLevels_spec m takes _).2.1, same.1, same.2, Bool.or_eq_true] at h
    exact h.imp_right fun h => by simpa [State.arises, Condition.isLevel] using h

theorem lessRoom_rises_taken (s : State) : Rises s.lessRoom (takeReservation s) :=
  reportLevels_rises (s := s.lessRoom) (m := s.lessRoom) (Unseen.refl _).rises

/-- A poster posts at once, waits, or is withdrawn: then the levels of its reservation may pass (R121, R122, R124). -/
theorem postOrWait_course (h : Reserved s x) (w : Waiter) (fault : x.storeFaultLatched = true → q)
    (allows : w.job.plain = false → Allows E q s (postOrWait w x)) : Course E q s (postOrWait w x) := by
  unfold postOrWait at allows ⊢
  split
  · rename_i posts
    rw [if_pos posts] at allows
    exact runJob_plain h w (room_of_postsAtOnce posts) allows
  · split
    · rename_i latched
      rcases h with rfl | rfl
      · exact (refuseJob_raises w _ _).course
      · intro P hP hs _ hq
        have latch := (Bool.and_eq_true_iff.mp latched).1
        have taken : P (takeReservation s) := hP.rises (lessRoom_rises_taken s) (hq (fault latch))
        exact ((takeReservation_lowers s).path P hP taken).trans ((refuseJob_raises w _ _).path P hP taken)
    · exact h.course (Unseen.of_same (by simp)).lowers.posts

/-- A poster takes its reservation and asks to post (R134). -/
theorem reserveAndPost_course (j : Job) (fault : s.faultStands → q)
    (allows : j.plain = false → Allows E q s (reserveAndPost j s)) : Course E q s (reserveAndPost j s) :=
  postOrWait_course (.inr rfl) ⟨j, true⟩ (fun h => fault (takeReservation_faultStands h)) allows

theorem unreserved_course (w : Waiter) (fault : s.faultStands → q)
    (allows : w.job.plain = false → Allows E q s (postOrWait w s)) : Course E q s (postOrWait w s) :=
  postOrWait_course (.inl rfl) w (fun h => fault (faultStands_of_latched h)) allows

/-! ### The room that is offered -/

theorem releasePin_state (k j : Till) (s : State) : ((releasePin (.slot k) s).slot j).state = (s.slot j).state := by
  rw [releasePin_slot]
  split
  · rename_i e; rw [e]
  · rfl

theorem endReprint_state (k j : Till) (s : State) : ((endReprint k s).slot j).state = (s.slot j).state := by
  have ended : ∀ x : State, ((x.modSlot k fun v => { v with reprint := none }).slot j).state = (x.slot j).state := by
    intro x
    rw [State.slot_modSlot]
    split
    · rename_i e; rw [← e]
    · rfl
  unfold endReprint
  dsimp only
  rw [ended]
  split
  · rfl
  · exact releasePin_state k j s

/-- A refusal leaves the state of every slot (R73, R124). -/
theorem refuseJob_state (w : Waiter) (c : RefusalCode) (s : State) (k : Till) :
    ((refuseJob w c s).slot k).state = (s.slot k).state := by
  have dropped : (dropWaiterReservation w s).slots = s.slots := by simp
  have unpinned : (releasePin .office (dropWaiterReservation w s)).slots = s.slots := by
    unfold releasePin
    split <;> simp [notePin]
  unfold refuseJob
  dsimp only
  split
  case h_1 =>
    split
    · rw [State.slot_congr dropped]
    · simp only [refuseReprint, State.slot, tillReply_frame]
      exact (endReprint_state _ k _).trans (by rw [State.slot_congr dropped]; rfl)
  all_goals simp [State.slot, unpinned]

/-- Waiters that are refused give their reservations back before one posts (R123). -/
theorem offerRoomTo_course (n : Nat) :
    ∀ s : State, Allows E q s (offerRoomTo n s) → Course E q s (offerRoomTo n s) := by
  induction n with
  | zero => exact fun s _ => (Unseen.refl s).course
  | succ n ih =>
    intro s allows
    unfold offerRoomTo at allows ⊢
    cases waiting : s.waiters with
    | nil => exact (Unseen.refl s).course
    | cons w rest =>
      rw [waiting] at allows
      dsimp only at allows ⊢
      have left : Unseen s { s with waiters := rest } := .of_same (by simp)
      split
      · rename_i room
        rw [if_pos room] at allows
        cases test : postingTest w.job { s with waiters := rest } with
        | none =>
          rw [test] at allows
          exact .after left.raises
            (runJob_plain (.inl rfl) w room fun _ => allows.onward rfl rfl fun _ => rfl)
        | some code =>
          rw [test] at allows
          refine .after (left.raises.trans (refuseJob_raises w code _)) (ih _ ?_)
          exact allows.onward (by simp) (by simp) fun k => refuseJob_state w code _ k
      · exact (Unseen.refl s).course

theorem offerRoom_course (s : State) (allows : Allows E q s (offerRoom s)) : Course E q s (offerRoom s) :=
  offerRoomTo_course _ s allows

end

end Sys2Proof.Machine
end

section
/-! SUPPORT. The requests and the engine's stages: what they do to the levels (01.5, 02.4, 04, 07.7, 08, 09, 11.4). -/

namespace Sys2Proof.Machine

section

variable {E : Condition → Prop} {q : Prop} {s t m x : State}

/-- An operation after a change that the Condition Unit does not see. -/
theorem Course.unseen (h : Unseen s m) (k : Course E q m t) : Course E q s t := .after h.raises k

theorem officeRefuse_course (c : RefusalCode) (s : State) : Course E q s (officeRefuse c s) :=
  (Unseen.of_same (by simp)).course

theorem officeReply_course (r : Reply) (s : State) : Course E q s (officeReply r s) :=
  (Unseen.of_same (by simp)).course

/-! ### The office requests that post -/

theorem postOffice_course (j : Job) (fault : s.faultStands → q)
    (allows : j.plain = false → Allows E q s (postOffice j s)) : Course E q s (postOffice j s) := by
  unfold postOffice at allows ⊢
  split
  · rename_i room
    rw [if_pos room] at allows
    exact reserveAndPost_course j fault allows
  · exact officeRefuse_course _ s

theorem serveVoucher_course (body : List Byte) (fault : s.faultStands → q) : Course E q s (serveVoucher body s) := by
  unfold serveVoucher
  repeat' split
  on_goal 5 => exact postOffice_course _ fault nofun
  all_goals exact (Unseen.of_same (by simp)).course

theorem serveFloor_course (body : List Byte) (fault : s.faultStands → q) : Course E q s (serveFloor body s) := by
  unfold serveFloor
  repeat' split
  on_goal 4 => exact postOffice_course _ fault nofun
  all_goals exact (Unseen.of_same (by simp)).course

theorem serveQuoteTime_course (body : List Byte) (fault : s.faultStands → q) :
    Course E q s (serveQuoteTime body s) := by
  unfold serveQuoteTime
  repeat' split
  on_goal 4 => exact postOffice_course _ fault nofun
  all_goals exact (Unseen.of_same (by simp)).course

theorem serveMask_course (body : List Byte) (fault : s.faultStands → q) : Course E q s (serveMask body s) := by
  unfold serveMask
  dsimp only
  repeat' split
  on_goal 4 => exact postOffice_course _ fault nofun
  all_goals exact (Unseen.of_same (by simp)).course

theorem serveTillClose_course (body : List Byte) (fault : s.faultStands → q) :
    Course E q s (serveTillClose body s) := by
  unfold serveTillClose
  repeat' split
  on_goal 3 => exact postOffice_course _ fault nofun
  all_goals exact officeRefuse_course _ s

theorem serveSiteCode_course (body : List Byte) (fault : s.faultStands → q) :
    Course E q s (serveSiteCode body s) := by
  unfold serveSiteCode
  repeat' split
  on_goal 5 => exact reserveAndPost_course _ fault nofun
  all_goals exact officeRefuse_course _ s

theorem serveUnstage_course (body : List Byte) (fault : s.faultStands → q) :
    Course E q s (serveUnstage body s) := by
  unfold serveUnstage
  repeat' split
  on_goal 5 => exact reserveAndPost_course _ fault nofun
  all_goals exact officeRefuse_course _ s

theorem changeLink_course (k : Till) (v : LinkSettings) (fault : s.faultStands → q)
    (allows : Allows E q s (changeLink k v s)) : Course E q s (changeLink k v s) := by
  unfold changeLink at allows ⊢
  split
  · rename_i commissioned
    rw [if_pos commissioned] at allows
    exact postOffice_course _ fault fun _ => allows
  · rename_i blank
    rw [if_neg blank] at allows
    exact unreserved_course _ fault fun _ => allows

theorem serveLinkSet_course (body : List Byte) (fault : s.faultStands → q)
    (allows : Allows E q s (serveLinkSet body s)) : Course E q s (serveLinkSet body s) := by
  unfold serveLinkSet at allows ⊢
  split
  · exact officeRefuse_course _ s
  · rename_i k v fields
    simp only [fields] at allows
    split
    · exact officeRefuse_course _ s
    · rename_i latched
      rw [if_neg latched] at allows
      split
      · exact officeReply_course _ s
      · rename_i change
        rw [if_neg change] at allows
        exact changeLink_course k v fault allows

theorem buildClockSet_course (d : DateTime) (fault : s.faultStands → q)
    (allows : Allows E q s (buildClockSet d s)) : Course E q s (buildClockSet d s) := by
  unfold buildClockSet at allows ⊢
  split
  · rename_i commissioned
    rw [if_pos commissioned] at allows
    exact postOffice_course _ fault fun _ => allows
  · rename_i blank
    rw [if_neg blank] at allows
    exact unreserved_course _ fault fun _ => allows

theorem serveClockSet_course (body : List Byte) (fault : s.faultStands → q)
    (allows : Allows E q s (serveClockSet body s)) : Course E q s (serveClockSet body s) := by
  unfold serveClockSet at allows ⊢
  split
  · exact officeRefuse_course _ s
  · rename_i d fields
    simp only [fields] at allows
    split
    · exact officeRefuse_course _ s
    · rename_i latched
      rw [if_neg latched] at allows
      split
      · exact officeRefuse_course _ s
      · rename_i later
        rw [if_neg later] at allows
        exact buildClockSet_course d fault allows

/-! ### The tariff quarters -/

theorem refuseQuarterWith_course (c : RefusalCode) (n : Nat) (s : State) :
    Course E q s (refuseQuarterWith c n s) := (Unseen.of_same (by simp [refuseQuarterWith])).course

theorem assembly_unseen (a : Option Assembly) (s : State) : Unseen s { s with assembly := a } := .of_same (by simp)

theorem completeStage_course (a : Assembly) (day : Nat) (fault : s.faultStands → q) :
    Course E q s (completeStage a day s) := by
  unfold completeStage
  split
  · exact reserveAndPost_course _ fault nofun
  · exact unreserved_course _ fault nofun

theorem takeStage_course (quarter : Nat) (es : List RawEntry) (day : Nat) (fault : s.faultStands → q) :
    Course E q s (takeStage quarter es day s) := by
  have area := assembly_unseen (some (addQuarter (.stage day) quarter es s.assembly)) s
  unfold takeStage
  dsimp only
  split
  · exact .unseen area (completeStage_course _ _ fun h => fault (area.faultStands h))
  · exact .unseen area (officeReply_course _ _)

theorem takeLoad_course (quarter : Nat) (es : List RawEntry) (fault : s.faultStands → q) :
    Course E q s (takeLoad quarter es s) := by
  have area := assembly_unseen (some (addQuarter .load quarter es s.assembly)) s
  unfold takeLoad
  dsimp only
  split
  · exact .unseen area (reserveAndPost_course _ (fun h => fault (area.faultStands h)) nofun)
  · exact .unseen area (officeReply_course _ _)

theorem serveStage_course (body : List Byte) (fault : s.faultStands → q) : Course E q s (serveStage body s) := by
  unfold serveStage
  repeat' split
  on_goal 4 => exact takeStage_course _ _ _ fault
  all_goals exact refuseQuarterWith_course _ _ s

theorem serveLoad_course (body : List Byte) (fault : s.faultStands → q) : Course E q s (serveLoad body s) := by
  unfold serveLoad
  repeat' split
  on_goal 6 => exact takeLoad_course _ _ fault
  all_goals exact refuseQuarterWith_course _ _ s

/-! ### The record requests -/

@[simp] theorem startFetch_store (o : Owner) (meter slot : Nat) (s : State) :
    (startFetch o meter slot s).store.journal = s.store.journal ∧
      (startFetch o meter slot s).store.faulted = s.store.faulted := by
  cases o <;> exact ⟨rfl, rfl⟩

theorem refuseRecord_course (c : RefusalCode) (s : State) : Course E q s (refuseRecord c s) :=
  (Unseen.of_same (by simp [refuseRecord])).course

theorem postRecord_course (j : Job) (plain : j.plain = true) (fault : s.faultStands → q) :
    Course E q s (postRecord j s) := by
  unfold postRecord
  split
  · exact reserveAndPost_course j fault (by simp [plain])
  · exact refuseRecord_course _ s

theorem postTaken_course (j : Job) (plain : j.plain = true) (fault : s.faultStands → q) :
    Course E q s (postTaken j s) := by
  unfold postTaken
  split
  · exact reserveAndPost_course j fault (by simp [plain])
  · exact (Unseen.of_same (by simp)).course

theorem continueRecord_course (req : RecordRequest) (slot : Nat) (r : Record) (fault : s.faultStands → q) :
    Course E q s (continueRecord req slot r s) := by
  have change : ∀ next, Course E q s (continueState next slot r s) := by
    intro next
    unfold continueState
    split
    · exact refuseRecord_course _ s
    · exact postRecord_course _ rfl fault
  unfold continueRecord
  split
  · unfold continueEdit
    repeat' split
    · exact refuseRecord_course _ s
    · exact (Unseen.of_same (by simp)).course
    · exact postRecord_course _ rfl fault
  · exact change _
  · exact change _
  · exact change _
  · unfold continuePurge
    repeat' split
    on_goal 4 => exact postRecord_course _ rfl fault
    all_goals exact refuseRecord_course _ s
  · exact (Unseen.of_same (by simp)).course

theorem continueFromLine_course (req : RecordRequest) (slot : Nat) (fault : s.faultStands → q) :
    Course E q s (continueFromLine req slot s) := by
  unfold continueFromLine
  split
  · exact (Unseen.refl s).course
  · exact continueRecord_course _ _ _ fault

theorem lookupRecord_course (req : RecordRequest) (fault : s.faultStands → q) :
    Course E q s (lookupRecord req s) := by
  unfold lookupRecord
  repeat' split
  on_goal 4 =>
    have pinned : ∀ l, Unseen s (pinLine .office l req.meter s) := fun l => .of_same (by simp)
    exact .unseen (pinned _) (continueFromLine_course _ _ fun h => fault ((pinned _).faultStands h))
  all_goals exact (Unseen.of_same (by simp)).course

theorem serveChange_course (b : Bool) (req : RecordRequest) (fault : s.faultStands → q) :
    Course E q s (serveChange b req s) := by
  unfold serveChange
  split
  · exact officeRefuse_course _ s
  · exact lookupRecord_course req fault

theorem serveMeter_course (body : List Byte) {serve : Nat → State → State} (h : ∀ n, Course E q s (serve n s)) :
    Course E q s (serveMeter body serve s) := by
  unfold serveMeter
  split
  · exact officeRefuse_course _ s
  · exact h _

theorem serveEdit_course (body : List Byte) (fault : s.faultStands → q) : Course E q s (serveEdit body s) := by
  unfold serveEdit
  split
  · exact officeRefuse_course _ s
  · exact serveChange_course _ _ fault

theorem serveRead_course (meter : Nat) (s : State) : Course E q s (serveRead meter s) := by
  unfold serveRead
  repeat' split
  all_goals exact (Unseen.of_same (by simp)).course

theorem serveEnrol_course (body : List Byte) (fault : s.faultStands → q) : Course E q s (serveEnrol body s) := by
  unfold serveEnrol enrolMeter
  dsimp only
  repeat' split
  on_goal 5 =>
    have taken : ∀ meter r, Unseen s (takeLineValid meter r s) := fun meter r => .of_same (by simp)
    exact .unseen (taken _ _) (postTaken_course _ rfl fun h => fault ((taken _ _).faultStands h))
  all_goals exact officeRefuse_course _ s

theorem serveRestore_course (body : List Byte) (fault : s.faultStands → q) : Course E q s (serveRestore body s) := by
  unfold serveRestore restoreMeter
  repeat' split
  on_goal 4 =>
    have taken : ∀ meter r, Unseen s (takeLineValid meter r s) := fun meter r => .of_same (by simp)
    exact .unseen (taken _ _) (postTaken_course _ rfl fun h => fault ((taken _ _).faultStands h))
  all_goals exact officeRefuse_course _ s

/-! ### The other office requests -/

/-- Entries released from the hold make room (R133, R140). -/
theorem releaseJournal_raises (n : Nat) (s : State) : Raises E s (releaseJournal n s) := by
  unfold releaseJournal
  split
  · exact (Unseen.refl s).raises
  · rename_i above
    refine Untold.raises (.of_same (by simp)) ⟨rfl, ?_, fun d hd hs => (levelOf_of_parts hd (by simp)).trans hs⟩
    have held : State.held { s with site := { s.site with releasePoint := n } } ≤ s.held := by
      refine (List.monotone_filter_right _ fun e he => ?_).length_le
      simp only [decide_eq_true_eq] at he ⊢
      omega
    simp only [State.salesFree, State.free, State.buffered] at held ⊢
    split <;> omega

theorem serveRelease_course (body : List Byte) (s : State) : Course E q s (serveRelease body s) := by
  have released : ∀ n r, Course E q s (officeReply r (releaseJournal n s)) := fun n r =>
    (releaseJournal_raises n s).course.before (Unseen.of_same (by simp)).lowers
  unfold serveRelease
  dsimp only
  repeat' split
  on_goal 5 => exact released _ _
  all_goals exact officeRefuse_course _ s

/-! ### The engine -/

theorem computeQuote_course (k : Till) (v : QuoteRecord) (r : Record) (s : State) :
    Course E q s (computeQuote k v r s) := by
  have refused : ∀ c n, Course E q s (refuseQuote k v c n s) := fun c n => (refuseQuote_raises k v c n s).course
  unfold computeQuote
  repeat' split
  on_goal 6 =>
    have reserved : Lowers E s (reserveQuote v.tender s) := by
      refine Untold.lowers (.of_same (by simp)) ⟨rfl, ?_, fun d hd hm => ?_⟩
      · show s.free - (s.journal.reservations + 1) ≤ s.free - s.journal.reservations
        omega
      · cases d with
        | journalHigh => cases hd
        | journalFull => cases hd
        | budgetLow =>
          simp only [State.levelOf, State.commissioned, Bool.and_eq_false_iff, decide_eq_false_iff_not, not_lt] at hm ⊢
          exact hm.imp_right fun h => by omega
        | _ => exact hm
    exact (reserved.trans (Unseen.of_same (by simp [openQuote])).lowers).course
  all_goals exact refused _ _

theorem computeFromLine_course (k : Till) (v : QuoteRecord) (s : State) : Course E q s (computeFromLine k v s) := by
  unfold computeFromLine
  split
  · exact (Unseen.refl s).course
  · exact computeQuote_course k v _ s

theorem quoteStage_course (k : Till) (s : State) : Course E q s (quoteStage k s) := by
  have refused : ∀ v c, Course E q s (refuseQuote k v c 0 s) := fun v c => (refuseQuote_raises k v c 0 s).course
  have pinned : ∀ l meter, Unseen s (pinLine (.slot k) l meter s) := fun l meter => .of_same (by simp)
  unfold quoteStage lookupQuote
  repeat' split
  · exact (Unseen.refl s).course
  · exact (abandonQuote_raises k _ _ s).course
  · exact computeFromLine_course k _ s
  · exact refused _ _
  · exact refused _ _
  · exact refused _ _
  · exact .unseen (pinned _ _) (computeFromLine_course k _ _)
  · exact (Unseen.of_same (by simp)).course

theorem confirmStage_course (k : Till) (fault : s.faultStands → q) : Course E q s (confirmStage k s) := by
  have built : ∀ f, Unseen s (s.modSlot k f) := fun f => .of_same (by simp)
  unfold confirmStage
  repeat' split
  · exact (Unseen.refl s).course
  · exact .unseen (built _) (unreserved_course _ (fun h => fault ((built _).faultStands h)) nofun)
  · exact (Unseen.refl s).course

theorem refuseReprint_course (k : Till) (w : ReprintWork) (c : RefusalCode) (n : Nat) (s : State) :
    Course E q s (refuseReprint k w c n s) := (Unseen.of_same (by simp)).course

theorem issueReprint_course (k : Till) (w : ReprintWork) (index : Nat) (r : RecentToken) (again : Bool)
    (fault : s.faultStands → q) : Course E q s (issueReprint k w index r again s) := by
  unfold issueReprint
  split
  · exact reserveAndPost_course _ fault nofun
  · exact refuseReprint_course k w _ _ s

theorem presentFromLine_course (k : Till) (w : ReprintWork) (fault : s.faultStands → q) :
    Course E q s (presentFromLine k w s) := by
  unfold presentFromLine presentReprint
  repeat' split
  · exact (Unseen.refl s).course
  · exact refuseReprint_course k w _ _ s
  · exact refuseReprint_course k w _ _ s
  · exact issueReprint_course _ _ _ _ _ fault
  · exact issueReprint_course _ _ _ _ _ fault
  · exact refuseReprint_course k w _ _ s
  · exact refuseReprint_course k w _ _ s

theorem lookupReprint_course (k : Till) (w : ReprintWork) (fault : s.faultStands → q) :
    Course E q s (lookupReprint k w s) := by
  have pinned : ∀ l, Unseen s (setReprintStage k .present (pinLine (.slot k) l w.meter s)) :=
    fun l => .of_same (by simp)
  unfold lookupReprint
  repeat' split
  · exact refuseReprint_course k w _ _ s
  · exact (Unseen.of_same (by simp)).course
  · exact refuseReprint_course k w _ _ s
  · exact .unseen (pinned _) (presentFromLine_course k w fun h => fault ((pinned _).faultStands h))
  · exact (Unseen.of_same (by simp)).course

theorem slotStage_course (k : Till) (fault : s.faultStands → q) : Course E q s (slotStage k s) := by
  unfold slotStage
  split
  · exact quoteStage_course k s
  · exact confirmStage_course k fault
  · unfold reprintStage
    repeat' split
    · exact (Unseen.refl s).course
    · exact lookupReprint_course k _ fault
    · exact presentFromLine_course k _ fault
    · exact (Unseen.refl s).course

/-! ### The ports -/

theorem endFrame_raises (p : PortId) (s : State) : Raises E s (endFrame p s) := by
  unfold endFrame
  repeat' split
  · exact (Unseen.refl s).raises
  · exact takeSettings_raises _ s
  · exact (Unseen.refl s).raises

/-- A frame at its port changes no level before the block that serves it (R199, R204). -/
theorem portTake_course (p : PortId) (kind tag : Byte) (body : List Byte) {busy serve : State → State}
    (hb : Course E q s (busy s)) (allows : Allows E q s (portTake p kind tag body busy serve s))
    (hs : ∀ x, Unseen s x → Allows E q x (serve x) → Course E q x (serve x)) :
    Course E q s (portTake p kind tag body busy serve s) := by
  have taken : Unseen s (s.modPort p fun v => { v with outstanding := some ⟨tag, kind⟩ }) := .of_same (by simp)
  revert allows
  unfold portTake
  repeat' split
  · exact fun _ => (Unseen.refl s).course
  · exact fun _ => (endFrame_raises p s).course
  · exact fun _ => (Unseen.refl s).course
  · exact fun _ => hb
  · exact fun _ => (Unseen.refl s).course
  · exact fun allows => .unseen taken (hs _ taken (allows.onward (by simp) (by simp) fun k => by simp [State.slot]))

theorem refuseBusy_unseen (p : PortId) (kind tag : Byte) (body : List Byte) (s : State) :
    Unseen s (refuseBusy p kind tag body s) := .of_same (by simp [refuseBusy])

theorem cancelOutcome_raises (k : Till) (body : List Byte) (s : State) : Raises E s (cancelOutcome k body s).2 := by
  unfold cancelOutcome cancelSlot
  repeat' split
  on_goal 3 => exact closeQuote_raises k _ s
  all_goals exact (Unseen.of_same (by simp)).raises

end

end Sys2Proof.Machine
end

section
/-! SUPPORT. The Record Store's completions and the supply: what they do to the levels (R101, R107, R110 to R116,
R181 to R191). -/

namespace Sys2Proof.Machine

section

variable {E : Condition → Prop} {q : Prop} {s t m x : State}

/-! ### The completions -/

theorem afterOperation_supply (s : State) : (afterOperation s).supply.state = s.supply.state ∧
    (afterOperation s).supply.started = s.supply.started := by
  unfold afterOperation startDrain drainNext endDrain setDrain setService
  repeat' split
  all_goals exact ⟨rfl, rfl⟩

theorem afterOperation_store (s : State) : (afterOperation s).store.journal = s.store.journal ∧
    (afterOperation s).store.faulted = s.store.faulted := by
  unfold afterOperation startDrain drainNext endDrain setDrain setService
  repeat' split
  all_goals exact ⟨rfl, rfl⟩

theorem afterOperation_unseen (s : State) : Unseen s (afterOperation s) :=
  .of_same (by simp [afterOperation_supply, afterOperation_store])

theorem setService_unseen (v : Service) (s : State) : Unseen s (setService v s) := .of_same (by simp [setService])

theorem slotFetched_raises (k : Till) (s : State) : Raises E s (slotFetched k s) := by
  unfold slotFetched
  dsimp only
  repeat' split
  on_goal 1 => exact abandonQuote_raises k _ _ s
  all_goals exact (Unseen.of_same (by simp)).raises

theorem slotFetchFailed_raises (k : Till) (s : State) : Raises E s (slotFetchFailed k s) := by
  unfold slotFetchFailed
  dsimp only
  repeat' split
  on_goal 1 => exact refuseQuote_raises k _ _ _ s
  all_goals exact (Unseen.of_same (by simp)).raises

theorem ownerFetched_course (o : Option Owner) (slot : Nat) (fault : s.faultStands → q) :
    Course E q s (ownerFetched o slot s) := by
  have served : ∀ r, Unseen s { s with officeRequest := r } := fun r => .of_same (by simp)
  unfold ownerFetched
  repeat' split
  · exact (Unseen.refl s).course
  · exact (slotFetched_raises _ s).course
  · exact (Unseen.refl s).course
  · exact .unseen (served _) (continueFromLine_course _ _ fun h => fault ((served _).faultStands h))

theorem ownerFetchFailed_raises (o : Option Owner) (s : State) : Raises E s (ownerFetchFailed o s) := by
  unfold ownerFetchFailed
  split
  · exact (Unseen.refl s).raises
  · exact slotFetchFailed_raises _ s
  · exact (Unseen.of_same (by simp)).raises

theorem fillLine_course (l : LineNo) (meter slot : Nat) (r : Option Record) (fault : s.faultStands → q) :
    Course E q s (fillLine l meter slot r s) := by
  have filled : ∀ f, Unseen s (touchLine l (s.modLine l f)) := fun f => .of_same (by simp)
  have freed : ∀ d, Unseen s { freeLine l s with directory := d } := fun d => .of_same (by simp)
  unfold fillLine
  dsimp only
  split
  · exact .unseen (filled _) (ownerFetched_course _ _ fun h => fault ((filled _).faultStands h))
  · exact .unseen (freed _) (ownerFetchFailed_raises _ _).course

theorem refusePendingHold_unseen (s : State) : Unseen s (refusePendingHold s) := by
  unfold refusePendingHold
  split
  · exact .of_same (by simp)
  · exact .refl s

/-- The state of a store whose second failure has been reported (R112): its level lies between those of the step. -/
theorem storeFault_course (s : State) : Course E q s (storeFault s) := by
  generalize hm : setService .idle (setFaulted true s) = m
  have untold : Untold s m := hm ▸ .of_same (by simp)
  have levels : ∀ d, d ≠ .storeFault → m.levelOf d = s.levelOf d := by
    intro d hd
    rw [← hm]
    cases d <;> first | rfl | exact absurd rfl hd
  have ends : storeFault s = (if s.running then refusePendingHold (withdrawWaiters Job.withdrawable .suspended
      (reportLevels m)) else afterOperation (reportLevels m)) := by rw [← hm]; rfl
  have behind : Raises E (reportLevels m) (storeFault s) := by
    rw [ends]
    split
    · exact (withdrawWaiters_raises _ _ _).trans (refusePendingHold_unseen _).raises
    · exact (afterOperation_unseen _).raises
  have faulted : (storeFault s).levelOf .storeFault = true := by
    rw [ends]
    split <;> simp [State.levelOf, afterOperation_store, ← hm, setFaulted, setService]
  intro P hP hs ht _
  have reported : P (reportLevels m) := by
    refine hP s _ _ hs ht ⟨by rw [← hm]; simp, fun d hd hd' => ?_⟩
    rw [reportLevels_levelOf]
    by_cases store : d = .storeFault
    · rw [store, faulted] at hd'
      cases hd'
    · rw [levels d store, hd]
  exact (Relation.ReflTransGen.single (.report untold reported)).trans (behind.path P hP reported)

theorem writeVerified_course {u : CommitUnit} {rest : List CommitUnit} (h : s.buffer = u :: rest)
    (allows : Allows E q s (writeVerified u s)) : Course E q s (writeVerified u s) := by
  have completed : Raises E s (setService .idle (completeUnit u s)) :=
    (completeUnit_raises h).trans (setService_unseen .idle _).raises
  unfold writeVerified at allows ⊢
  dsimp only at allows ⊢
  split
  · rename_i running
    rw [if_pos running] at allows
    exact .after completed (offerRoom_course _ (allows.onward (by simp) (by simp) fun k => by simp [State.slot]))
  · exact .after completed (afterOperation_unseen _).course

theorem unitWrite_course {u : CommitUnit} {rest : List CommitUnit} (r : ReadBack) (h : s.buffer = u :: rest)
    (allows : Allows E q s (unitWrite u r s)) : Course E q s (unitWrite u r s) := by
  have failed : ∀ a, Unseen s (failUnit u a s) := fun a => .of_same (by simp [failUnit, RecordStore.failed])
  unfold unitWrite at allows ⊢
  split at allows
  · exact writeVerified_course h allows
  · exact writeVerified_course h allows
  · exact ((failed _).trans (setService_unseen _ _)).course
  · exact .unseen (failed _) (storeFault_course _)
  · exact (Unseen.refl s).course

theorem retryVerified_course {u : CommitUnit} {rest : List CommitUnit} (h : s.buffer = u :: rest)
    (allows : Allows E q s (retryVerified u s)) : Course E q s (retryVerified u s) := by
  generalize hm : setService .idle (setFaulted false (completeUnit u s)) = m
  have untold : Untold (completeUnit u s) m := hm ▸ .of_same (by simp)
  have rises : Rises (completeUnit u s) m := by
    refine ⟨by simp [← hm], le_of_eq (by rw [← hm]; rfl), fun d _ hd => ?_⟩
    rw [← hm]
    cases d <;> first | exact hd | rfl
  have normal : Raises E s (reportLevels m) := (completeUnit_raises h).trans (untold.raises rises)
  have result : retryVerified u s = if s.running then offerRoom (officeReply (.retryOk true (u.entry.map (·.seq)))
      (reportLevels m)) else afterOperation (reportLevels m) := by rw [← hm]; rfl
  rw [result] at allows ⊢
  split
  · rename_i running
    rw [if_pos running] at allows
    refine .after (normal.trans (Unseen.of_same (by simp)).raises)
      (offerRoom_course _ (allows.onward ?_ ?_ fun k => ?_))
    all_goals simp [← hm, State.slot]
  · exact .after normal (afterOperation_unseen _).course

theorem retryFailed_unseen (s : State) : Unseen s (retryFailed s) := by
  unfold retryFailed
  dsimp only
  split
  · exact (setService_unseen .idle s).trans (.of_same (by simp))
  · exact (setService_unseen .idle s).trans (afterOperation_unseen _)

theorem retryAttempt_course {u : CommitUnit} {rest : List CommitUnit} (r : ReadBack) (h : s.buffer = u :: rest)
    (allows : Allows E q s (retryAttempt u r s)) : Course E q s (retryAttempt u r s) := by
  have failed : ∀ a, Unseen s (failUnit u a s) := fun a => .of_same (by simp [failUnit, RecordStore.failed])
  unfold retryAttempt at allows ⊢
  split at allows
  · exact retryVerified_course h allows
  · exact ((failed _).trans (setService_unseen _ _)).course
  · exact .unseen (failed _) (retryFailed_unseen _).course
  · exact (Unseen.refl s).course

theorem areaReply_unseen (f : Fetch) (s : State) : Unseen s (areaReply f s) := by
  unfold areaReply
  repeat' split
  all_goals exact .of_same (by simp)

theorem alterSlot_unseen (b : Bool) (slot : Nat) (s : State) : Unseen s (alterSlot b slot s) := by
  unfold alterSlot
  split
  · exact .of_same (by simp)
  · exact .refl s

/-! ### The end of a step -/

theorem grantHold_unseen (s : State) : Unseen s (grantHold s) := by
  unfold grantHold
  split
  · exact .of_same (by simp)
  · exact .refl s

theorem chooseOperation_unseen (s : State) : Unseen s (chooseOperation s) := by
  have areas := chooseOperation_areas s
  simp only [RecordStore.areas, Prod.mk.injEq] at areas
  obtain ⟨-, entries, -, -, -, faulted⟩ := areas
  exact .of_same (by simp [entries, faulted])

end

end Sys2Proof.Machine
end

section
/-! SUPPORT. Every command as a course of the levels and the frames that begin behind it (R109, R170, R201). -/

namespace Sys2Proof.Machine

section

variable {E : Condition → Prop} {q : Prop} {s t m x y : State}

/-! ### The transmitters -/

/-- What follows a step's own work at the ports: a notice that leaves the order is in transmission (R173, R201). -/
structure Pumped (x t : State) : Prop where
  takes : t.takesArisings = x.takesArisings
  site : t.site = x.site
  slots : t.slots = x.slots
  buffer : t.buffer = x.buffer
  conditions : t.conditions = x.conditions
  levelOf : ∀ d, t.levelOf d = x.levelOf d
  sub : t.notices.Sublist x.notices
  queued : ∀ d, x.noticePending d = true → t.noticeQueued d

theorem frameOf_notice (s : State) (c : Condition) : (frameOf s (.notice c)).kind = kindNotice ∧
    (frameOf s (.notice c)).body.head? = some (BitVec.ofNat 8 (conditionNumber c)) := by
  cases c <;> exact ⟨rfl, rfl⟩

/-- A port other than the office port takes nothing from the office port's order. -/
theorem pumpPort_till_officePort (k : Till) (s : State) : (pumpPort (.till k) s).officePort = s.officePort :=
  pumpPort_port_other (.till k) .office s nofun

theorem pumpOffice_notices (s : State) : (pumpPort .office s).notices.Sublist s.notices := by
  unfold pumpPort
  dsimp only
  split
  · rename_i i rest _ _ order
    replace order : s.officePort.order = i :: rest := order
    split
    · rw [State.notices, State.notices, order]
      exact List.Sublist.filterMap _ (List.sublist_cons_self i rest)
    · exact List.Sublist.refl _
  · exact List.Sublist.refl _

theorem pumpOffice_queued (s : State) (d : Condition) (h : s.noticePending d = true) :
    (pumpPort .office s).noticeQueued d := by
  unfold pumpPort
  dsimp only
  split
  · rename_i i rest _ _ order
    replace order : s.officePort.order = i :: rest := order
    split
    · simp only [State.noticePending, order, List.contains_cons, Bool.or_eq_true, beq_iff_eq] at h
      rcases h with rfl | h
      · exact .inr ⟨_, rfl, frameOf_notice s d⟩
      · exact .inl h
    · exact .inl h
  · exact .inl h

theorem pumpAll_officePort (s : State) : (pumpAll s).officePort = (pumpPort .office s).officePort := by
  simp only [pumpAll, pumpPort_till_officePort]

theorem pumpAll_pumped (s : State) : Pumped s (pumpAll s) where
  takes := takesArisings_congr (by simp)
  site := by simp
  slots := by simp
  buffer := by simp
  conditions := by simp
  levelOf d := levelOf_congr (by simp) (by simp) (by simp) (by simp) (by simp) (by simp) d
  sub := by rw [notices_congr (pumpAll_officePort s)]; exact pumpOffice_notices s
  queued d h := by
    have queued := pumpOffice_queued s d h
    rwa [State.noticeQueued, State.noticePending, ← pumpAll_officePort s] at queued

theorem Pumped.once (h : Pumped x t) (k : x.noticesOnce) : t.noticesOnce := by
  rw [noticesOnce_iff] at k ⊢
  exact k.sublist h.sub

theorem Pumped.law (h : Pumped x t) (k : LevelLaw x) : LevelLaw t := by
  intro takes c hc
  rw [h.conditions, h.levelOf, latched_congr (congrArg _ h.conditions)]
  exact k (h.takes ▸ takes) c hc

theorem Pumped.bufferLaw (h : Pumped x t) (k : BufferLaw x) : BufferLaw t := by
  rwa [BufferLaw, h.buffer]

/-- A notice that is pending behind the transmitters was pending before them. -/
theorem Pumped.pending (h : Pumped x t) {d : Condition} (k : t.noticePending d = true) : x.noticePending d = true := by
  rw [noticePending_iff] at k ⊢
  exact h.sub.subset k

/-- The end of a step: no level changes by it, and the frames begin (R81, R109, R201). -/
theorem settle_unseen_pumped (y : State) :
    Unseen y (chooseOperation (grantHold y)) ∧ Pumped (chooseOperation (grantHold y)) (settle y) :=
  ⟨(grantHold_unseen y).trans (chooseOperation_unseen _), pumpAll_pumped _⟩

end

end Sys2Proof.Machine
end

section
/-! SUPPORT. What every command but CONDITION_CLEAR does to the levels (R169 to R173). -/

namespace Sys2Proof.Machine

section

variable {E : Condition → Prop} {q : Prop} {s t x y : State} {c : Instr}

/-- What a command may do from `s` to `t`: the events that it reports (R172), the rollover and the link made OFF that
let levels pass, and the refusal of a waiter by the STORE_FAULT latch (R124). -/
structure Licence (E : Condition → Prop) (q : Prop) (c : Instr) (s t : State) : Prop where
  fault : s.faultStands → q
  allows : Allows E q s t
  lineFault : (∃ k, c = .linkEntersFault (.till k)) → E .lineFault
  holdLapsed : c = .officeHoldLapse → E .holdLapsed
  powerUp : c = .startUpComplete → E .powerUp

/-- A course of the levels, and the frames that begin behind it. -/
def Told (E : Condition → Prop) (q : Prop) (s t : State) : Prop := ∃ x, Course E q s x ∧ Pumped x t

/-- The end of a step changes neither the business day nor a slot. -/
theorem Allows.of_settle (h : Allows E q s (settle y)) : Allows E q s y :=
  ⟨fun later => h.later (by simpa using later), fun ⟨k, id, opened, closed⟩ =>
    h.closes ⟨k, id, opened, by rwa [settle_slot]⟩⟩

theorem Course.told (h : Course E q s y) (ht : finish y = .next t) : Told E q s t := by
  cases ht
  obtain ⟨unseen, pumped⟩ := settle_unseen_pumped y
  exact ⟨_, h.before unseen.lowers, pumped⟩

theorem Allows.of_finish (h : Allows E q s t) (ht : finish y = .next t) : Allows E q s y := by
  cases ht
  exact h.of_settle

/-! ### Requests -/

/-- A request whose service is a course of the levels (R199). -/
theorem takeRequest_told (l : Licence E q c s t) (p : PortId) (kind tag : Byte) (body : List Byte)
    {serve : State → State} (hs : ∀ x, (x.faultStands → q) → Allows E q x (serve x) → Course E q x (serve x))
    (ht : finish (takeRequest p kind tag body serve s) = .next t) : Told E q s t :=
  (portTake_course p kind tag body (refuseBusy_unseen p kind tag body s).course (l.allows.of_finish ht)
    fun x unseen allows => hs x (fun h => l.fault (unseen.faultStands h)) allows).told ht

/-- A request whose service changes no level. -/
theorem takeRequest_unseen (l : Licence E q c s t) (p : PortId) (kind tag : Byte) (body : List Byte)
    {serve : State → State} (hs : ∀ x, Unseen x (serve x))
    (ht : finish (takeRequest p kind tag body serve s) = .next t) : Told E q s t :=
  takeRequest_told l p kind tag body (fun x _ _ => (hs x).course) ht

/-! ### Reads, the hold and the retry: no level changes when they are taken -/

theorem serveTariffRead_unseen (body : List Byte) (s : State) : Unseen s (serveTariffRead body s) := by
  unfold serveTariffRead
  repeat' split
  all_goals exact .of_same (by simp)

theorem serveJournalRead_unseen (body : List Byte) (s : State) : Unseen s (serveJournalRead body s) := by
  unfold serveJournalRead
  repeat' split
  all_goals exact .of_same (by simp)

theorem serveClockRead_unseen (body : List Byte) (s : State) : Unseen s (serveClockRead body s) := by
  unfold serveClockRead
  repeat' split
  all_goals exact .of_same (by simp)

theorem serveSummaryRead_unseen (body : List Byte) (s : State) : Unseen s (serveSummaryRead body s) := by
  unfold serveSummaryRead
  repeat' split
  all_goals exact .of_same (by simp)

theorem serveTotals_unseen (body : List Byte) (s : State) : Unseen s (serveTotals body s) := by
  unfold serveTotals
  repeat' split
  all_goals exact .of_same (by simp)

theorem serveHoldRequest_unseen (body : List Byte) (s : State) : Unseen s (serveHoldRequest body s) := by
  unfold serveHoldRequest
  repeat' split
  all_goals exact .of_same (by simp)

theorem serveHoldRelease_unseen (body : List Byte) (s : State) : Unseen s (serveHoldRelease body s) := by
  unfold serveHoldRelease
  repeat' split
  all_goals exact .of_same (by simp [endHold])

theorem serveStatus_unseen (body : List Byte) (s : State) : Unseen s (serveStatus body s) := by
  unfold serveStatus
  repeat' split
  all_goals exact .of_same (by simp)

theorem serveRetry_unseen (body : List Byte) (s : State) : Unseen s (serveRetry body s) := by
  unfold serveRetry
  repeat' split
  all_goals exact .of_same (by simp)

theorem cancel_told (l : Licence E q c s t) (k : Till) (tag : Byte) (body : List Byte)
    (ht : execCancel k tag body s = .next t) : Told E q s t := by
  have outcome : ∀ x y, Unseen (cancelOutcome k body x).2 y → Course E q x y :=
    fun x y h => ((cancelOutcome_raises k body x).trans h.raises).course
  exact (portTake_course _ _ _ _ (outcome s _ (.of_same (by simp [cancelAtOnce]))) (l.allows.of_finish ht)
    fun x _ _ => outcome x _ (.of_same (by simp [serveCancel]))).told ht

/-! ### Events -/

theorem enterFault_course (p : PortId) (he : ∀ k, p = .till k → E .lineFault) (s : State) :
    Course E q s (enterFault p s) := by
  have fault : ∀ p x, Unseen x (setFault p x) := fun p x => .of_same (by simp [setFault])
  have joined : ∀ (k : Till) (x : State), Unseen x { x with conditions := { x.conditions with
      tillSet := x.conditions.tillSet.set k.val true k.isLt } } := fun k x =>
    .of_levels ⟨rfl, rfl, rfl, rfl, le_max_left _ _⟩ (by simp [State.buffered])
  refine .after (endFrame_raises p s) ?_
  unfold enterFault
  dsimp only
  split
  · split
    · exact (fault _ _).course
    · rename_i k _
      exact .unseen ((fault _ _).trans (joined k _)) (arise_raises rfl (he k rfl) _).course
  · exact (Unseen.refl _).course

theorem lapseHold_course (he : E .holdLapsed) (s : State) : Course E q s (lapseHold s) := by
  have ended : Unseen s (endHold s) := .of_same (by simp [endHold])
  exact .unseen ended ((arise_raises rfl he _).trans (withdrawWaiters_raises _ _ _)).course

theorem engineGrant_told (l : Licence E q c s t) (ht : execEngineGrant s = .next t) : Told E q s t := by
  refine Course.told ?_ ht
  split
  · exact (Unseen.refl s).course
  · rename_i k _
    have pointed : Unseen s { s with arbiter := { s.arbiter with pointer := k } } := .of_same (by simp)
    exact .before (.unseen pointed (slotStage_course k fun h => l.fault (pointed.faultStands h)))
      (Unseen.of_same (by simp)).lowers

theorem recordFetchComplete_told (l : Licence E q c s t) (d : Bool) (ht : execRecordFetchComplete d s = .next t) :
    Told E q s t := by
  refine Course.told ?_ ht
  split
  · rename_i line meter slot _
    have read : Unseen s (setService .idle (alterSlot d slot s)) :=
      (alterSlot_unseen d slot s).trans (setService_unseen _ _)
    refine .unseen read ?_
    split
    · exact fillLine_course _ _ _ _ fun h => l.fault (read.faultStands h)
    · exact (afterOperation_unseen _).course
  · exact (Unseen.refl s).course

theorem areaReadComplete_told (ht : execAreaReadComplete s = .next t) : Told E q s t := by
  refine Course.told ?_ ht
  have read := setService_unseen .idle s
  repeat' split
  · exact (read.trans (areaReply_unseen _ _)).course
  · exact (read.trans (afterOperation_unseen _)).course
  · exact (Unseen.refl s).course
  · exact (Unseen.refl s).course

theorem unitWriteComplete_told (l : Licence E q c s t) (r : ReadBack) (ht : execUnitWriteComplete r s = .next t) :
    Told E q s t := by
  have allows := l.allows.of_finish ht
  refine Course.told ?_ ht
  revert allows
  repeat' split
  · exact fun _ => (Unseen.refl s).course
  · exact fun _ => (Unseen.refl s).course
  · rename_i units _
    exact unitWrite_course r units

theorem retryAttemptComplete_told (l : Licence E q c s t) (r : ReadBack)
    (ht : execRetryAttemptComplete r s = .next t) : Told E q s t := by
  have allows := l.allows.of_finish ht
  refine Course.told ?_ ht
  revert allows
  split
  · exact fun _ => (Unseen.refl s).course
  · rename_i units
    exact retryAttempt_course r units

theorem dayRollover_told (l : Licence E q c s t) (ht : execDayRollover s = .next t) : Told E q s t := by
  have allows := l.allows.of_finish ht
  refine Course.told ?_ ht
  revert allows
  split
  · rename_i due
    exact fun allows => rollover_course s (allows.later (rollover_businessDay (Bool.and_eq_true_iff.mp due).2)).2
  · exact fun _ => (Unseen.refl s).course

theorem backupCellLost_lowers (s : State) :
    Lowers E s (reportLevels { s with cell := ⟨false, none⟩, calendar := ⟨none, false⟩ }) := by
  refine Untold.lowers (.of_same (by simp)) ⟨rfl, le_of_eq rfl, fun d _ absent => ?_⟩
  by_cases clock : d = .clockInvalid
  · subst clock
    simp [State.levelOf] at absent
  · cases d <;> first | exact absent | exact absurd rfl clock

/-- The backup cell fails: the valid flag may become no, and CLOCK_INVALID present (R145). -/
theorem backupCellFailed_told (ht : execBackupCellFailed s = .next t) : Told E q s t := by
  refine Course.told ?_ ht
  split
  · exact (Unseen.of_same (by simp)).course
  · exact (backupCellLost_lowers s).course

/-- START_UP_COMPLETE: POWER_UP arises (R190). -/
theorem startUpComplete_told (l : Licence E q .startUpComplete s t) (ht : execStartUpComplete s = .next t) :
    Told E q s t := by
  refine Course.told ?_ ht
  split
  · rename_i h
    simp only [Bool.and_eq_true, beq_iff_eq] at h
    have begun : Unseen s { s with supply := { s.supply with state := .run, started := false } } :=
      .of_levels ⟨by simp [State.takesArisings, h.1, h.2], rfl, rfl, rfl, le_max_left _ _⟩ (by simp [State.buffered])
    exact .unseen begun (arise_raises rfl (l.powerUp rfl) _).course
  · exact (Unseen.refl s).course

/-! ### The commands -/

/-- A command that may stop or begin the taking of arisings, other than by START_UP_COMPLETE, or that writes in HOLD
(10, R177). -/
def movesSupply : Instr → Bool
  | .supplyLow => true
  | .supplyOk => true
  | .resetAsserted => true
  | .resetReleased => true
  | .drainWriteComplete _ => true
  | .holdCellWriteComplete _ => true
  | .startUp => true
  | _ => false

/-- Every command but CONDITION_CLEAR and those of the supply is a course of the levels (R170). -/
theorem exec_told (l : Licence E q c s t) (clear : ∀ g b, c ≠ .conditionClear g b)
    (supply : movesSupply c = false) (ht : exec c s = .next t) : Told E q s t := by
  cases c with
  | quote k g b => exact takeRequest_unseen l _ _ _ _ (fun x => .of_same (by simp)) ht
  | confirm k g b => exact takeRequest_unseen l _ _ _ _ (fun x => .of_same (by simp)) ht
  | cancel k g b => exact cancel_told l k g b ht
  | reprint k g b => exact takeRequest_unseen l _ _ _ _ (fun x => .of_same (by simp)) ht
  | tillStatus k g b => exact takeRequest_unseen l _ _ _ _ (fun x => .of_same (by simp)) ht
  | meterEnrol g b => exact takeRequest_told l _ _ _ _ (fun x h _ => serveEnrol_course b h) ht
  | meterEdit g b => exact takeRequest_told l _ _ _ _ (fun x h _ => serveEdit_course b h) ht
  | meterBlock g b =>
    exact takeRequest_told l _ _ _ _ (fun x h _ => serveMeter_course b fun _ => serveChange_course _ _ h) ht
  | meterUnblock g b =>
    exact takeRequest_told l _ _ _ _ (fun x h _ => serveMeter_course b fun _ => serveChange_course _ _ h) ht
  | meterRetire g b =>
    exact takeRequest_told l _ _ _ _ (fun x h _ => serveMeter_course b fun _ => serveChange_course _ _ h) ht
  | meterPurge g b =>
    exact takeRequest_told l _ _ _ _ (fun x h _ => serveMeter_course b fun _ => serveChange_course _ _ h) ht
  | meterRestore g b => exact takeRequest_told l _ _ _ _ (fun x h _ => serveRestore_course b h) ht
  | meterRead g b =>
    exact takeRequest_told l _ _ _ _ (fun x _ _ => serveMeter_course b fun m => serveRead_course m x) ht
  | tariffStage g b => exact takeRequest_told l _ _ _ _ (fun x h _ => serveStage_course b h) ht
  | tariffUnstage g b => exact takeRequest_told l _ _ _ _ (fun x h _ => serveUnstage_course b h) ht
  | tariffLoadNow g b => exact takeRequest_told l _ _ _ _ (fun x h _ => serveLoad_course b h) ht
  | tariffRead g b => exact takeRequest_unseen l _ _ _ _ (serveTariffRead_unseen b) ht
  | budgetVoucher g b => exact takeRequest_told l _ _ _ _ (fun x h _ => serveVoucher_course b h) ht
  | budgetFloorSet g b => exact takeRequest_told l _ _ _ _ (fun x h _ => serveFloor_course b h) ht
  | journalRead g b => exact takeRequest_unseen l _ _ _ _ (serveJournalRead_unseen b) ht
  | journalRelease g b => exact takeRequest_told l _ _ _ _ (fun x _ _ => serveRelease_course b x) ht
  | clockSet g b => exact takeRequest_told l _ _ _ _ (fun x h allows => serveClockSet_course b h allows) ht
  | clockRead g b => exact takeRequest_unseen l _ _ _ _ (serveClockRead_unseen b) ht
  | summaryRead g b => exact takeRequest_unseen l _ _ _ _ (serveSummaryRead_unseen b) ht
  | totalsSnapshot g b => exact takeRequest_unseen l _ _ _ _ (serveTotals_unseen b) ht
  | tillClose g b => exact takeRequest_told l _ _ _ _ (fun x h _ => serveTillClose_course b h) ht
  | holdRequest g b => exact takeRequest_unseen l _ _ _ _ (serveHoldRequest_unseen b) ht
  | holdRelease g b => exact takeRequest_unseen l _ _ _ _ (serveHoldRelease_unseen b) ht
  | linkSet g b => exact takeRequest_told l _ _ _ _ (fun x h allows => serveLinkSet_course b h allows) ht
  | quoteTimeSet g b => exact takeRequest_told l _ _ _ _ (fun x h _ => serveQuoteTime_course b h) ht
  | noticeMaskSet g b => exact takeRequest_told l _ _ _ _ (fun x h _ => serveMask_course b h) ht
  | conditionClear g b => exact absurd rfl (clear g b)
  | statusRead g b => exact takeRequest_unseen l _ _ _ _ (serveStatus_unseen b) ht
  | siteCodeLoad g b => exact takeRequest_told l _ _ _ _ (fun x h _ => serveSiteCode_course b h) ht
  | storeRetry g b => exact takeRequest_unseen l _ _ _ _ (serveRetry_unseen b) ht
  | unknownKind p kind g b => exact takeRequest_unseen l _ _ _ _ (fun x => .of_same (by simp)) ht
  | frameDiscarded p cs =>
    refine Course.told ?_ ht
    split
    · exact (endFrame_raises p s).course
    · exact (Unseen.refl s).course
  | frameTimeLimit p cs n =>
    refine Course.told ?_ ht
    split
    · exact (endFrame_raises p s).course
    · exact (Unseen.refl s).course
  | frameTransmitted p => exact Course.told (Unseen.of_same (by simp)).course ht
  | linkEntersFault p =>
    refine Course.told ?_ ht
    split
    · exact enterFault_course p (fun k e => l.lineFault ⟨k, e ▸ rfl⟩) s
    · exact (Unseen.refl s).course
  | linkFaultEnd p =>
    refine Course.told ?_ ht
    split
    · exact (Unseen.of_same (by simp)).course
    · exact (Unseen.refl s).course
  | linkSettingsTaken k =>
    refine Course.told ?_ ht
    split
    · exact (takeSettings_raises k s).course
    · exact (Unseen.refl s).course
  | engineGrant => exact engineGrant_told l ht
  | quoteHoldExpiry k =>
    refine Course.told ?_ ht
    split
    · exact (closeQuote_raises k _ s).course
    · exact (Unseen.refl s).course
  | officeHoldLapse =>
    refine Course.told ?_ ht
    split
    · exact lapseHold_course (l.holdLapsed rfl) s
    · exact (Unseen.refl s).course
  | dayRollover => exact dayRollover_told l ht
  | recordFetchComplete d => exact recordFetchComplete_told l d ht
  | areaReadComplete => exact areaReadComplete_told ht
  | unitWriteComplete r => exact unitWriteComplete_told l r ht
  | retryAttemptComplete r => exact retryAttemptComplete_told l r ht
  | startUpComplete => exact startUpComplete_told l ht
  | calendarSecond => exact Course.told (Unseen.of_same (by simp)).course ht
  | backupCellFailed => exact backupCellFailed_told ht
  | _ => cases supply

end

end Sys2Proof.Machine
end

section
/-! SUPPORT. What every command keeps: the levels at rest, one notice of a condition, four units (R121, R170, R173). -/

namespace Sys2Proof.Machine

section

variable {E : Condition → Prop} {P : State → Prop} {q : Prop} {s t m x y : State} {c : Instr}

/-! ### What is kept -/

/-- At most one notice of a condition stays pending, and the Commit Buffer stays within its four units (R121, R173). -/
structure Carries (s t : State) : Prop where
  once : s.noticesOnce → t.noticesOnce
  bufferLaw : BufferLaw s → BufferLaw t

/-- The levels stay at rest besides (R170). -/
structure KeepsLevels (s t : State) : Prop extends Carries s t where
  law : LevelLaw s → LevelLaw t

/-- A change of the supply: arisings are not taken before it, or not behind it (R177). -/
structure Halts (s t : State) : Prop extends Carries s t where
  law : LevelLaw t
  stopped : s.takesArisings = false ∨ t.takesArisings = false

theorem Carries.trans (h : Carries s m) (k : Carries m t) : Carries s t :=
  ⟨fun a => k.once (h.once a), fun a => k.bufferLaw (h.bufferLaw a)⟩

theorem KeepsLevels.trans (h : KeepsLevels s m) (k : KeepsLevels m t) : KeepsLevels s t :=
  ⟨h.toCarries.trans k.toCarries, fun a => k.law (h.law a)⟩

theorem LevelPath.keepsLevels (h : LevelPath P E s t) : KeepsLevels s t := ⟨⟨h.once, h.bufferLaw⟩, h.law⟩

theorem Pumped.keepsLevels (h : Pumped s t) : KeepsLevels s t := ⟨⟨h.once, h.bufferLaw⟩, h.law⟩

theorem Untold.carries (h : Untold s t) : Carries s t where
  once k := by rw [noticesOnce_iff] at k ⊢; rwa [h.notices]
  bufferLaw k := by
    have := h.buffer
    rw [BufferLaw] at k ⊢
    omega

theorem Course.keepsLevels (h : Course (fun _ => True) True s t) : KeepsLevels s t :=
  (h (fun _ => True) .any trivial trivial fun _ => trivial).keepsLevels

theorem Unseen.keepsLevels (h : Unseen s t) : KeepsLevels s t := h.course.keepsLevels

theorem Raises.keepsLevels (h : Raises (fun _ => True) s t) : KeepsLevels s t := h.course.keepsLevels

theorem Told.keepsLevels (h : Told (fun _ => True) True s t) : KeepsLevels s t := by
  obtain ⟨x, course, pumped⟩ := h
  exact course.keepsLevels.trans pumped.keepsLevels

theorem settle_keepsLevels (y : State) : KeepsLevels y (settle y) :=
  (settle_unseen_pumped y).1.keepsLevels.trans (settle_unseen_pumped y).2.keepsLevels

/-! ### The supply -/

theorem settle_takes (y : State) : (settle y).takesArisings = y.takesArisings :=
  (settle_unseen_pumped y).2.takes.trans (settle_unseen_pumped y).1.takes

theorem Halts.finish (h : Halts s y) (ht : finish y = .next t) : Halts s t := by
  cases ht
  exact ⟨h.toCarries.trans (settle_keepsLevels y).toCarries, (settle_keepsLevels y).law h.law,
    h.stopped.imp_right (settle_takes y).trans⟩

/-- Where no arising is taken the levels are at rest. -/
theorem Halts.of_stopped (h : Carries s t) (k : t.takesArisings = false) : Halts s t :=
  ⟨h, fun takes => by simp [k] at takes, .inr k⟩

/-- The office port closes, and the buffer does not grow (R180, R181, R190). -/
theorem Carries.of_closed (order : t.officePort.order = []) (buffer : t.buffer.length ≤ s.buffer.length) :
    Carries s t where
  once _ := by rw [noticesOnce_iff, State.notices, order]; exact List.nodup_nil
  bufferLaw k := buffer.trans k

theorem startDrain_supply (s : State) : (startDrain s).supply.state = s.supply.state := by
  unfold startDrain drainNext endDrain setDrain
  repeat' split
  all_goals rfl

theorem enterHold_halts (c : OutageCause) (buffer : x.buffer = s.buffer) : Halts s (enterHold c x) := by
  have port : (enterHold c x).officePort.order = [] := by
    unfold enterHold
    dsimp only
    split <;> simp [raiseUnlogged, abandonWork, LinkPort.closed]
  have state : (enterHold c x).supply.state = .hold := by
    unfold enterHold
    dsimp only
    split
    · exact startDrain_supply _
    · rfl
  exact .of_stopped (.of_closed port (by simp [buffer])) (by simp [State.takesArisings, state])

theorem abandonStart_halts (v : SupplyState) (h : v ≠ .run) (s x : State) : Halts s (setSupply v (abandonStart x)) :=
  .of_stopped (.of_closed rfl (Nat.zero_le _))
    (by cases v <;> simp [State.takesArisings, setSupply, abandonStart] at h ⊢)

theorem drainNext_unseen (s : State) : Unseen s (drainNext s) := by
  unfold drainNext endDrain setDrain setService
  split <;> exact .of_same (by simp)

/-- A drain write takes the head unit out, leaves it, or drops every unit (R182). -/
theorem drainWrite_halts {u : CommitUnit} {rest : List CommitUnit} (r : ReadBack) (units : s.buffer = u :: rest)
    (drains : s.draining = true) : Halts s (drainWrite u r s) := by
  have hold : s.supply.state = .hold := by simp_all [State.draining]
  have completed : Carries s (completeUnit u s) := (completeUnit_raises units).keepsLevels.toCarries
  have faulted : ∀ b x, Carries x (setFaulted b x) := fun b x => Untold.carries (.of_same (by simp))
  have next : ∀ x, Carries x (drainNext x) := fun x => (drainNext_unseen x).keepsLevels.toCarries
  have failed : ∀ a, Carries s (failUnit u a s) := fun a => Untold.carries (.of_same (by simp))
  have rewrites : ∀ x, Carries x (setService .rewriting x) := fun x => (setService_unseen _ x).keepsLevels.toCarries
  have dropped : ∀ x, Carries x (dropAll x) := fun x =>
    Untold.carries (.of_same (by simp [dropAll, endDrain, setDrain, setService]))
  have state : (drainWrite u r s).supply.state = .hold := by
    unfold drainWrite drainNext dropAll endDrain setDrain setService
    repeat' split
    all_goals simp [hold]
  refine .of_stopped ?_ (by simp [State.takesArisings, state])
  unfold drainWrite
  split
  · exact completed.trans ((faulted _ _).trans (next _))
  · exact completed.trans (next _)
  · exact (failed _).trans (rewrites _)
  · exact (failed _).trans (dropped _)

/-! ### Start-up -/

/-- The levels are reported first at start-up, with nothing latched and nothing pending (R188). -/
theorem startUp_tested (h : x.takesArisings = true) (conditions : x.conditions = ConditionUnit.initial)
    (order : x.officePort.order = []) (buffer : x.buffer = []) :
    LevelLaw (reportLevels x) ∧ (reportLevels x).noticesOnce ∧ BufferLaw (reportLevels x) := by
  refine ⟨fun _ => reportLevels_rest x h fun c _ told _ => ?_, reportLevels_once ?_, ?_⟩
  · rw [conditions] at told
    cases c <;> cases told
  · rw [noticesOnce_iff, State.notices, order]
    exact List.nodup_nil
  · rw [BufferLaw, (reportLevels_frame x).2.2.2.2.2.2.2.2.1, buffer]
    exact Nat.zero_le _

theorem startUp_halts (state : s.supply.state = .start) (begun : s.supply.started = false) : Halts s (startUp s) := by
  generalize hx : testCalendar (resetVolatile (readStore s)) = x
  have tested : x.supply = { s.supply with started := true } ∧ x.conditions = ConditionUnit.initial ∧
      x.officePort.order = [] ∧ x.buffer = [] := by
    rw [← hx]
    unfold testCalendar
    split <;> exact ⟨rfl, rfl, rfl, rfl⟩
  obtain ⟨supply, conditions, order, buffer⟩ := tested
  have takes : x.takesArisings = true := by simp [State.takesArisings, supply, state]
  obtain ⟨law, once, bufferLaw⟩ := startUp_tested takes conditions order buffer
  have powered : KeepsLevels (reportLevels x) (postPowerUp s.describingCell (reportLevels x)) := by
    unfold postPowerUp
    split
    · exact (postSystemEntry_lowers _ _ _).course.keepsLevels
    · exact (Unseen.refl _).keepsLevels
  have linked : ∀ x, Unseen x (startLinks x) := fun x => .of_same (by simp [startLinks])
  have rolled : ∀ x, KeepsLevels x (startRollover x) := by
    intro x
    unfold startRollover
    split
    · exact (rollover_course x fun _ => trivial).keepsLevels
    · exact (Unseen.refl x).keepsLevels
  have result : startUp s = startRollover (startLinks (postPowerUp s.describingCell (reportLevels x))) := by
    rw [← hx]; rfl
  have all := (powered.trans (linked _).keepsLevels).trans (rolled _)
  rw [result]
  exact ⟨⟨fun _ => all.once once, fun _ => all.bufferLaw bufferLaw⟩, all.law law,
    .inl (by simp [State.takesArisings, state, begun])⟩

/-! ### The commands of the supply -/

/-- Only the supply changes, to a state that takes no arisings. -/
theorem Halts.of_same (port : t.officePort = s.officePort) (buffer : t.buffer = s.buffer)
    (k : t.takesArisings = false) : Halts s t :=
  .of_stopped ⟨fun h => by rwa [State.noticesOnce, port], fun h => by rwa [BufferLaw, buffer]⟩ k

theorem exec_supply (supply : movesSupply c = true) (ht : exec c s = .next t) : Told E q s t ∨ Halts s t := by
  have told : ∀ {y}, Unseen s y → finish y = .next t → Told E q s t ∨ Halts s t := fun h ht => .inl (h.course.told ht)
  have halts : ∀ {y}, Halts s y → finish y = .next t → Told E q s t ∨ Halts s t := fun h ht => .inr (h.finish ht)
  cases c with
  | supplyLow =>
    revert ht
    unfold exec execSupplyLow
    dsimp only
    split
    · exact halts (enterHold_halts .supply rfl)
    · exact halts (.of_same rfl rfl rfl)
    · exact halts (abandonStart_halts .down nofun _ _)
    · exact told (.of_same (by simp))
    · exact told (.of_same (by simp))
  | supplyOk =>
    revert ht
    unfold exec execSupplyOk
    dsimp only
    repeat' split
    · exact halts (.of_same rfl rfl rfl)
    · exact halts (.of_same rfl rfl rfl)
    · exact told (.of_same (by simp))
  | resetAsserted =>
    revert ht
    unfold exec execResetAsserted
    dsimp only
    split
    · exact halts (enterHold_halts .resetLine rfl)
    · exact halts (abandonStart_halts .resetWait nofun _ _)
    · exact told (.of_same (by simp))
  | resetReleased =>
    revert ht
    unfold exec execResetReleased
    dsimp only
    split
    · exact halts (.of_same rfl rfl rfl)
    · exact told (.of_same (by simp))
  | drainWriteComplete r =>
    revert ht
    unfold exec execDrainWriteComplete
    dsimp only
    repeat' split
    · exact told (.refl s)
    · rename_i units drains
      exact halts (drainWrite_halts r units drains)
    · exact told (.refl s)
  | holdCellWriteComplete r =>
    revert ht
    unfold exec execHoldCellWriteComplete endHoldState
    dsimp only
    repeat' split
    · exact told (.refl s)
    · exact halts (.of_same rfl rfl rfl)
    · exact halts (.of_same rfl rfl rfl)
    · exact halts (.of_same rfl rfl rfl)
    · exact told (.refl s)
  | startUp =>
    revert ht
    unfold exec execStartUp
    dsimp only
    split
    · rename_i h
      simp only [Bool.and_eq_true, beq_iff_eq, Bool.not_eq_true'] at h
      exact halts (startUp_halts h.1 h.2)
    · exact told (.refl s)
  | _ => cases supply

/-! ### CONDITION_CLEAR -/

/-- A condition cleared: its notice is withdrawn, and a level still present arises again (R175). -/
theorem clearCondition_withdraws (s : State) (c : Condition) : ∃ m,
    (clearCondition s c = m ∨ clearCondition s c = arise c m) ∧ m.conditions.levels = s.conditions.levels ∧
      m.officePort = (withdrawNotice c s).officePort := by
  generalize hm : (if c = .lineFault then { withdrawNotice c (s.setLatch c false) with conditions :=
    { (withdrawNotice c (s.setLatch c false)).conditions with tillSet := Vector.replicate 4 false } }
    else withdrawNotice c (s.setLatch c false)) = m
  have result : clearCondition s c = if m.levelOf c then arise c m else m := by rw [← hm]; rfl
  refine ⟨m, ?_, ?_, ?_⟩
  · rw [result]
    split
    · exact .inr rfl
    · exact .inl rfl
  all_goals rw [← hm]; split <;> rfl

theorem withdrawNotice_once (c : Condition) {s : State} (h : s.noticesOnce) : (withdrawNotice c s).noticesOnce := by
  intro d
  rw [withdrawNotice, State.modPort_office_officePort]
  exact (((List.filter_sublist).filter _).length_le).trans (h d)

theorem clearCondition_keepsLevels (s : State) (c : Condition) : KeepsLevels s (clearCondition s c) := by
  have takes : (clearCondition s c).takesArisings = s.takesArisings := takesArisings_congr (by simp)
  have levelOf : ∀ d, (clearCondition s c).levelOf d = s.levelOf d :=
    levelOf_congr (by simp) (by simp) (by simp) (by simp) (by simp) (by simp)
  obtain ⟨m, result, told, port⟩ := clearCondition_withdraws s c
  have levels : (clearCondition s c).conditions.levels = s.conditions.levels := by
    rcases result with e | e
    · rw [e, told]
    · rw [e, arise_levels, told]
  refine ⟨⟨fun h => ?_, fun h => by rwa [BufferLaw, (clearCondition_frame s c).2.2.2.2.2.2.2.2.1]⟩, fun h ht d hd => ?_⟩
  · have once : m.noticesOnce := by
      rw [State.noticesOnce, port]
      exact withdrawNotice_once c h
    rcases result with e | e
    · rwa [e]
    · rw [e]
      exact arise_once c once
  · rw [takes] at ht
    obtain ⟨told, latch⟩ := h ht d hd
    rw [levels, levelOf, (clearCondition_spec s c ht).1]
    refine ⟨told, fun present => ?_⟩
    split
    · rename_i e; rwa [← e]
    · exact latch present

theorem clearConditions_keepsLevels (cs : List Condition) (s : State) :
    KeepsLevels s (cs.foldl clearCondition s) := by
  induction cs generalizing s with
  | nil => exact (Unseen.refl s).keepsLevels
  | cons c cs ih => exact (clearCondition_keepsLevels s c).trans (ih _)

theorem serveClear_keepsLevels (body : List Byte) (s : State) : KeepsLevels s (serveClear body s) := by
  have replied : ∀ r x, KeepsLevels x (officeReply r x) := fun r x => (Unseen.of_same (by simp)).keepsLevels
  unfold serveClear
  dsimp only
  repeat' split
  · exact (Unseen.of_same (by simp)).keepsLevels
  · exact (clearConditions_keepsLevels _ s).trans (replied _ _)
  · exact (Unseen.of_same (by simp)).keepsLevels

theorem conditionClear_keepsLevels (tag : Byte) (body : List Byte) (ht : execConditionClear tag body s = .next t) :
    KeepsLevels s t := by
  cases ht
  refine KeepsLevels.trans ?_ (settle_keepsLevels _)
  unfold takeOffice takeRequest portTake
  repeat' split
  · exact (Unseen.refl s).keepsLevels
  · exact (endFrame_raises _ s).keepsLevels
  · exact (Unseen.refl s).keepsLevels
  · exact (refuseBusy_unseen ..).keepsLevels
  · exact (Unseen.refl s).keepsLevels
  · exact (Unseen.of_same (by simp)).keepsLevels.trans (serveClear_keepsLevels body _)

/-! ### Every command -/

/-- A licence for whatever a command does. -/
theorem Licence.any (c : Instr) (s t : State) : Licence (fun _ => True) True c s t where
  fault _ := trivial
  allows := ⟨fun _ => ⟨trivial, fun _ => trivial⟩, fun _ => trivial⟩
  lineFault _ := trivial
  holdLapsed _ := trivial
  powerUp _ := trivial

theorem Halts.keepsLevels (h : Halts s t) : KeepsLevels s t := ⟨h.toCarries, fun _ => h.law⟩

theorem exec_keepsLevels (ht : exec c s = .next t) : KeepsLevels s t := by
  by_cases clear : ∃ g b, c = .conditionClear g b
  · obtain ⟨g, b, rfl⟩ := clear
    exact conditionClear_keepsLevels g b ht
  · push Not at clear
    cases supply : movesSupply c
    · exact (exec_told (.any c s t) clear supply ht).keepsLevels
    · exact (exec_supply supply ht).elim Told.keepsLevels Halts.keepsLevels

/-- Every step keeps the levels at rest, one notice of a condition, and four units (R121, R170, R173). -/
theorem step_keepsLevels (ht : step s = .next t) : KeepsLevels s t := by
  unfold step at ht
  split at ht
  · cases ht
    exact (Unseen.refl s).keepsLevels
  · exact (Unseen.of_same (by simp)).keepsLevels.trans (exec_keepsLevels ht)

end

/-- Settles O6: no path of moves of the Condition Unit fills the buffer beyond its four units. -/
theorem stepKeepsBufferLaw : Obligations.StepKeepsBufferLaw := fun _ _ law ht => (step_keepsLevels ht).bufferLaw law

end Sys2Proof.Machine
end

section
/-! SUPPORT. The levels from one step to the next, while arisings are taken (R138, R169 to R173). -/

namespace Sys2Proof.Machine

/-- The event of an event condition (R172). -/
def eventReported (c : Instr) (s t : State) (d : Condition) : Prop :=
  (d = .lineFault ∧ ∃ k, c = .linkEntersFault (.till k)) ∨
    (d = .tariffShifted ∧ s.site.businessDay < t.site.businessDay ∧ s.site.pendingSet ≠ none) ∨
    (d = .holdLapsed ∧ c = .officeHoldLapse) ∨ (d = .powerUp ∧ c = .startUpComplete)

/-- What lets a level of the Journal pass within a step (R77, R124, R149). -/
def reservationPasses (s t : State) : Prop :=
  s.storeFaultLatched = true ∨ s.site.businessDay < t.site.businessDay ∨ LinkCloses s t

section

variable {s t x : State} {c : Instr} {d : Condition}

theorem licence_of_law (c : Instr) (t : State) (law : LevelLaw s) (takes : s.takesArisings = true) :
    Licence (eventReported c s t) (reservationPasses s t) c s t where
  fault h := .inl (latched_of_faultStands law takes h)
  allows := ⟨fun later => ⟨.inr (.inl later), fun pending => .inr (.inl ⟨rfl, later, pending⟩)⟩,
    fun closes => .inr (.inr closes)⟩
  lineFault h := .inl ⟨rfl, h⟩
  holdLapsed h := .inr (.inr (.inl ⟨rfl, h⟩))
  powerUp h := .inr (.inr (.inr ⟨rfl, h⟩))

/-- While arisings are taken before and behind it, a command is a course of the levels. -/
theorem exec_running (law : LevelLaw s) (takes : s.takesArisings = true) (after : t.takesArisings = true)
    (clear : ∀ g b, c ≠ .conditionClear g b) (ht : exec c s = .next t) :
    Told (eventReported c s t) (reservationPasses s t) s t := by
  cases supply : movesSupply c
  · exact exec_told (licence_of_law c t law takes) clear supply ht
  · refine (exec_supply supply ht).resolve_right fun halts => ?_
    rcases halts.stopped with h | h
    · rw [takes] at h; cases h
    · rw [after] at h; cases h

/-- One reservation more makes no level present but one that passes. -/
theorem lessRoom_absent (absent : s.levelOf d = false) (still : ¬ passingLevel d s t) (h : reservationPasses s t) :
    s.lessRoom.levelOf d = false := by
  cases journal : d.isJournal
  · rw [lessRoom_levelOf s journal, absent]
  · refine Bool.eq_false_iff.mpr fun present => still ⟨?_, h, present⟩
    cases d <;> simp [Condition.isJournal] at journal ⊢

variable {E : Condition → Prop} {q : Prop}

theorem Pumped.latched (h : Pumped x t) (d : Condition) : t.latched d = x.latched d :=
  latched_congr (congrArg _ h.conditions) d

/-- No latch is cleared (R169). -/
theorem Told.latched (h : Told E q s t) (hd : s.latched d = true) : t.latched d = true := by
  obtain ⟨x, course, pumped⟩ := h
  rw [pumped.latched]
  exact (course (fun _ => True) .any trivial trivial fun _ => trivial).latched hd

/-- An event condition is latched by its event (R172). -/
theorem Told.latched_event (h : Told E q s t) (hd : d.isLevel = false) (clear : s.latched d = false)
    (ht : t.latched d = true) : E d := by
  obtain ⟨x, course, pumped⟩ := h
  rw [pumped.latched] at ht
  refine ((course (fun _ => True) .any trivial trivial fun _ => trivial).latched_event hd ht).resolve_left ?_
  simp [clear]

/-- The notice of a level that becomes present is queued while its enable is on (R170, R173). -/
theorem Told.queued (h : Told E q s t) (hd : d.isLevel = true) (law : LevelLaw s) (takes : s.takesArisings = true)
    (absent : s.levelOf d = false) (present : t.levelOf d = true) (on : conditionBit s.site.mask d = true)
    (still : conditionBit t.site.mask d = true) : t.noticeQueued d := by
  obtain ⟨x, course, pumped⟩ := h
  rw [pumped.site] at still
  rw [pumped.levelOf] at present
  exact pumped.queued d ((course _ (.enable d true) on still fun _ => on).enabled hd law takes absent present)

/-- A level that stays absent is not latched, and no notice of it is queued (R170, R173). -/
theorem Told.quiet (h : Told E q s t) (hd : d.isLevel = true) (absent : s.levelOf d = false)
    (still : t.levelOf d = false) (room : q → s.lessRoom.levelOf d = false) :
    t.latched d = s.latched d ∧ (t.noticePending d = true → s.noticePending d = true) := by
  obtain ⟨x, course, pumped⟩ := h
  rw [pumped.levelOf] at still
  obtain ⟨latch, notice⟩ := (course _ (.absent d) absent still room).quiet hd
  exact ⟨(pumped.latched d).trans latch, fun k => notice (pumped.pending k)⟩

/-- With its enable off no notice of a level is queued (R173). -/
theorem Told.disabled (h : Told E q s t) (hd : d.isLevel = true) (off : conditionBit s.site.mask d = false)
    (still : conditionBit t.site.mask d = false) (k : t.noticePending d = true) : s.noticePending d = true := by
  obtain ⟨x, course, pumped⟩ := h
  rw [pumped.site] at still
  exact (course _ (.enable d false) off still fun _ => off).disabled hd (pumped.pending k)

end

/-- Settles O5: a command is a course of the levels, read for each condition with the property that its reports keep. -/
theorem levelsReported : Obligations.LevelsReported := by
  refine ⟨fun s t law ht => (step_keepsLevels ht).law law, fun s t once ht => (step_keepsLevels ht).once once,
    fun c s t law takes after clear ht => ?_⟩
  have told := exec_running law takes after clear ht
  refine ⟨fun d => told.latched, fun d hd => ⟨fun absent present => ⟨?_, told.queued hd law takes absent present⟩,
    fun absent still => ?_, told.disabled hd⟩, fun d hd => told.latched_event hd⟩
  · exact ((exec_keepsLevels ht).law law after d hd).2 present
  · by_cases passes : passingLevel d s t
    · exact .inl passes
    · exact .inr (told.quiet hd absent still (lessRoom_absent absent passes))

end Sys2Proof.Machine
end

section
/-! SUPPORT. The area reads and JOURNAL_RELEASE (R139, R140, R156, R206). -/

namespace Sys2Proof.Machine

section

variable {s : State} {tag : Byte} {body : List Byte}

/-! ### The area reads queued -/

/-- JOURNAL_READ by R139: refused, or queued. -/
theorem serveJournalRead_cases (served : s.commissioned = true) {start count : Nat}
    (fields : parseJournalRead body = some (start, count)) :
    (s.heldEntries ≠ [] → s.site.releasePoint < start → start ≤ s.newestDurable.getD 0 →
      serveJournalRead body s = { s with store := { s.store with queue := s.store.queue ++ [.journal start count] } }) ∧
    (s.heldEntries = [] ∨ start ≤ s.site.releasePoint ∨ s.newestDurable.getD 0 < start →
      serveJournalRead body s = officeRefuse .fieldRange s) := by
  unfold serveJournalRead
  simp only [fields]
  refine ⟨fun held above durable => ?_, fun refused => ?_⟩
  · have passes : journalReadRefusal start s = none := by
      simp [journalReadRefusal, served, held, above, durable]
    rw [passes]
  · have refuses : journalReadRefusal start s = some .fieldRange := by
      simp only [journalReadRefusal, served, Bool.not_true, Bool.false_eq_true, if_false]
      rw [if_pos]
      simpa [or_assoc] using refused
    rw [refuses]

/-! ### The area reads answered -/

/-- A body of journal entries: the count, and each entry behind its length (R206). -/
theorem journalData_length (es : List JournalEntry) :
    (replyBody (.journalData es)).length = 1 + (es.map fun e => 1 + (journalEntryBytes e).length).sum := by
  have entries := entryBytes_total es
  simp only [replyBody, listBytes, List.length_append, beBytes_length]
  rw [← entries]

/-- The entries returned: the first of those asked for, as many as fit (R139, R206). -/
theorem entriesFrom_spec (s : State) (start count : Nat) :
    let asked := (s.heldEntries.filter fun e => decide (start ≤ e.seq)).take count
    s.entriesFrom start count <+: asked ∧ (replyBody (.journalData (s.entriesFrom start count))).length ≤ 200 ∧
      ∀ e, s.entriesFrom start count ++ [e] <+: asked →
        200 < (replyBody (.journalData (s.entriesFrom start count ++ [e]))).length := by
  refine ⟨fitEntries_prefix _ 1, ?_, fun e more => ?_⟩
  · rw [journalData_length]
    exact fitEntries_fits _ 1 (by decide)
  · rw [journalData_length]
    exact fitEntries_longest _ 1 e more

/-- AREA_READ_COMPLETE makes the reply of the area read that was in progress (R107, R139, R156). -/
theorem areaRead_answered (rest : s.holdAtRest) (receives : s.receives .office = true) {o : Outstanding}
    (outstanding : s.officePort.outstanding = some o) {f : Fetch} (reading : s.store.service = .reading f)
    (area : f.isArea = true) {r : Reply}
    (reply : ∀ x : State, x.store.areas = s.store.areas → x.site = s.site → x.officePort.outstanding = some o →
      areaReply f x = answer .office o.tag r x) :
    ∃ t, exec .areaReadComplete s = .next t ∧ replied .office o.tag r s t ∧
      keepsAllBut [.outstanding .office, .replies .office] s t := by
  have running : s.running = true := receives_running receives
  have step : exec .areaReadComplete s = finish (areaReply f (setService .idle s)) := by
    simp [exec, execAreaReadComplete, reading, area, running]
  rw [step, reply (setService .idle s) rfl rfl outstanding]
  have kept : keepsAllBut [.outstanding .office, .replies .office] s
      (answer .office o.tag r (setService .idle s)) :=
    keepsAllBut_trans (keepsAllBut_mono (setService_keeps .idle s) (by simp)) (answer_keeps .office o.tag r _)
  have ready : (setService .idle s).receives .office = true := receives
  have made : replied .office o.tag r s (answer .office o.tag r (setService .idle s)) :=
    replied_of_kept (setService_keeps .idle s) (by simp) (answer_replied ready o.tag r)
  have rest : (answer .office o.tag r (setService .idle s)).holdAtRest := holdAtRest_congr rest (by simp) (by simp)
  exact ⟨_, rfl, settle_replied rest made, keepsAllBut_settle rest kept⟩

/-! ### JOURNAL_RELEASE -/

/-- The release point is raised, and never lowered (R140). -/
theorem releaseJournal_releases (upto : Nat) (s : State) :
    (releaseJournal upto s).site = { s.site with releasePoint := max s.site.releasePoint upto } ∧
      onlyLevels s (releaseJournal upto s) ∧ keepsAllBut [.site, .conditions] s (releaseJournal upto s) := by
  unfold releaseJournal
  split
  · rename_i below
    rw [max_eq_left below]
    exact ⟨rfl, onlyLevels_refl s, keepsAllBut_refl _ _⟩
  · rename_i above
    rw [max_eq_right (le_of_not_ge above)]
    exact ⟨by simp, onlyLevels_report rfl, keepsAllBut_trans (keepsAllBut_mono (site_keeps s _) (by simp))
      (keepsAllBut_mono (reportLevels_keeps _) (by simp))⟩

/-- What is held behind a release (R133, R140). -/
theorem releaseJournal_held (upto : Nat) (s : State) : (releaseJournal upto s).held =
    (s.store.journal.filter fun e => decide (max s.site.releasePoint upto < e.seq)).length := by
  simp [State.held, State.heldEntries, (releaseJournal_releases upto s).1]

/-- JOURNAL_RELEASE by R140: refused, or the release point raised and the reply made. -/
theorem serveRelease_cases (served : s.commissioned = true) {upto : Nat} (fields : parseRelease body = some upto) :
    (∀ m, s.newestDurable = some m → upto ≤ m → serveRelease body s = officeReply
      (.journalReleaseOk (max s.site.releasePoint upto)
        (s.store.journal.filter fun e => decide (max s.site.releasePoint upto < e.seq)).length)
      (releaseJournal upto s)) ∧
    (s.newestDurable.getD 0 < upto ∨ s.newestDurable = none → serveRelease body s = officeRefuse .fieldRange s) := by
  unfold serveRelease
  simp only [fields, served, Bool.not_true, Bool.false_eq_true, if_false]
  refine ⟨fun m newest durable => ?_, fun refused => ?_⟩
  · rw [← releaseJournal_held, newest]
    simp [not_lt.mpr durable, (releaseJournal_releases upto s).1]
  · cases newest : s.newestDurable with
    | none => rfl
    | some m => simp_all

theorem journalRelease_releases (h : s.takes .office tag body) (rest : s.holdAtRest) {upto : Nat} {r : Reply}
    (serves : serveRelease body (s.serving .office kindJournalRelease tag) =
      officeReply r (releaseJournal upto (s.serving .office kindJournalRelease tag))) :
    ∃ t, exec (.journalRelease tag body) s = .next t ∧
      t.site = { s.site with releasePoint := max s.site.releasePoint upto } ∧ replied .office tag r s t ∧
      onlyLevels s t ∧ keepsAllBut [.site, .conditions, .replies .office] s t := by
  generalize hx : releaseJournal upto (s.serving .office kindJournalRelease tag) = x at serves
  obtain ⟨site, levels, kept⟩ := releaseJournal_releases upto (s.serving .office kindJournalRelease tag)
  rw [hx] at site levels kept
  have step : exec (.journalRelease tag body) s = .next (settle (answer .office tag r x)) := by
    rw [← officeReply_eq (after_outstanding kept (by simp)) r, ← serves]
    exact takeOffice_exec h _
  have hold : (answer .office tag r x).holdAtRest := holdAtRest_congr rest (by simp [← hx]) (by simp [← hx])
  have made : replied .office tag r s (answer .office tag r x) := by
    refine end_replied kindJournalRelease r h ?_ (by simp [← hx]) ?_
    · exact (standing_link (kept (.link .office) (by simp))).trans (serving_link s .office .office _ _)
    · exact (kept (.replies .office) (by simp)).trans (serving_replies ..)
  have ends : keepsAllBut [.site, .conditions, .replies .office] s (answer .office tag r x) :=
    end_keeps kindJournalRelease r h (by simp) (keepsAllBut_mono kept (by simp))
  refine ⟨_, step, by simp [site], settle_replied hold made, settle_onlyLevels ?_, keepsAllBut_settle hold ends⟩
  exact onlyLevels_congr levels (by simp) (by simp)

end

/-- Settles O47: each request by the cases of its service, each area read by the reply of its area. -/
theorem journalAndSummaries : Obligations.JournalAndSummaries := by
  intro s tag body rest served
  have refused {kind : Byte} {serve : State → State} (h : s.takes .office tag body)
      (quarter : Request.isQuarter kind = false)
      (hs : serve (s.serving .office kind tag) = officeRefuse .fieldRange (s.serving .office kind tag)) :=
    takeOffice_refused h rest serve .fieldRange 0 quarter hs
  have queued {kind : Byte} {serve : State → State} {f : Fetch} (h : s.takes .office tag body)
      (hs : serve (s.serving .office kind tag) =
        { s.serving .office kind tag with store := { s.store with queue := s.store.queue ++ [f] } }) :=
    And.intro (takeOffice_exec (kind := kind) h serve) (areaRead_queued h rest hs)
  refine ⟨fun start count h fields => ?_, fun i h fields => ?_, fun o receives outstanding => ?_,
    fun upto h fields => ?_⟩
  · obtain ⟨queues, refuses⟩ := serveJournalRead_cases (s := s.serving .office kindJournalRead tag)
      (by simpa using served) fields
    simp only [serving_held, serving_newest, State.modPort_site, State.modPort_store] at queues refuses
    exact ⟨fun held above durable => ⟨_, queued h (queues held above durable)⟩, fun out => refused h rfl (refuses out)⟩
  · exact ⟨_, queued h (by simp [serveSummaryRead, fields, served])⟩
  · refine ⟨fun start count reading => ?_, fun i reading => ⟨fun d summary => ?_, fun absent => ?_⟩⟩
    · obtain ⟨t, step, answered⟩ := areaRead_answered rest receives outstanding reading rfl
        (r := .journalData (s.entriesFrom start count)) fun x areas site out => by
          obtain ⟨-, entries, -⟩ := areas_same areas
          simp [areaReply, State.entriesFrom, State.heldEntries, entries, site, officeReply_eq out]
      exact ⟨t, _, step, answered, entriesFrom_spec s start count⟩
    · refine areaRead_answered rest receives outstanding reading rfl fun x areas _ out => ?_
      obtain ⟨-, -, summaries, -⟩ := areas_same areas
      simp [areaReply, summaries, summary, officeReply_eq out]
    · refine areaRead_answered rest receives outstanding reading rfl fun x areas _ out => ?_
      obtain ⟨-, -, summaries, -⟩ := areas_same areas
      simp [areaReply, summaries, absent, officeRefuse_eq out]
  · obtain ⟨releases, refuses⟩ := serveRelease_cases (s := s.serving .office kindJournalRelease tag)
      (by simpa using served) fields
    refine ⟨fun m newest durable => ?_, fun out => refused h rfl (refuses (by simpa using out))⟩
    simpa using journalRelease_releases h rest (releases m (by simpa using newest) durable)

end Sys2Proof.Machine
end

section
/-! SUPPORT. The Calendar and the business day: which operations leave them, and the law of R144 and R146. -/

namespace Sys2Proof.Machine

section

variable {s t : State}

/-! ### Operations that leave both -/

@[simp] theorem addUnit_businessDay (kind : UnitKind) (part : Option RecordPart) (entry : Option (Source × EntryBody))
    (sm : Option DaySummary) (s : State) :
    (addUnit kind part entry sm s).site.businessDay = s.site.businessDay := by
  unfold addUnit
  split <;> simp

@[simp] theorem runSystemJob_businessDay (w : Waiter) (s : State) :
    (runSystemJob w s).site.businessDay = s.site.businessDay := by
  unfold runSystemJob
  split <;> exact addUnit_businessDay ..

@[simp] theorem postSystemEntry_businessDay (j : Job) (b : Bool) (s : State) :
    (postSystemEntry j b s).site.businessDay = s.site.businessDay := by
  rw [(postSystemEntry_slot j b s).2.2]

@[simp] theorem postSetting_businessDay (b : Bool) (e : EntryBody) (s : State) :
    (postSetting b e s).site.businessDay = s.site.businessDay := addUnit_businessDay ..

@[simp] theorem postImage_businessDay (slot : Nat) (r : Record) (e : EntryBody) (s : State) :
    (postImage slot r e s).site.businessDay = s.site.businessDay := by simp [postImage]

@[simp] theorem postSale_clock (k : Till) (s : State) : (postSale k s).calendar = s.calendar ∧
    (postSale k s).site.businessDay = s.site.businessDay := by
  unfold postSale
  repeat' split
  all_goals simp [takeSale]

@[simp] theorem postReprint_businessDay (k : Till) (m i : Nat) (x : RecentToken) (b : Bool) (s : State) :
    (postReprint k m i x b s).site.businessDay = s.site.businessDay := by
  unfold postReprint
  split <;> simp

/-- Every unit but a CLOCK_SET's posts under the Calendar and the business day as they stand (R121). -/
@[simp] theorem runJob_clock {w : Waiter} (hw : ∀ old v n, w.job ≠ .clockSet old v n) (s : State) :
    (runJob w s).calendar = s.calendar ∧ (runJob w s).site.businessDay = s.site.businessDay := by
  unfold runJob
  cases hj : w.job with
  | clockSet old v n => simp [hj] at hw
  | sale k => simp
  | reprint k m i x b => simp
  | enrol slot r => simp [postEnrol]
  | edit slot r items => simp [postEdit]
  | accountState slot r old => simp [postAccountState]
  | purge slot m => simp [postPurge]
  | restore slot r => simp [postRestore]
  | tariffStage es d => simp [postTariffStage]
  | tariffUnstage => simp [postTariffUnstage]
  | tariffLoad es => simp [postTariffLoad]
  | voucher a b => simp [postVoucher]
  | floorSet v => simp [postFloor]
  | quoteTimeSet v => simp [postQuoteTime]
  | maskSet v => simp [postMask]
  | linkSet k v => simp [postLinkSet]
  | tillClose k c => simp [postTillClose]
  | siteCode c => simp [postSiteCode]
  | dayClose d => simp
  | tariffShift g d => simp
  | imageOnly => simp
  | powerUp f => simp

@[simp] theorem postOrWait_clock {w : Waiter} (hw : ∀ old v n, w.job ≠ .clockSet old v n) (s : State) :
    (postOrWait w s).calendar = s.calendar ∧ (postOrWait w s).site.businessDay = s.site.businessDay := by
  unfold postOrWait
  repeat' split
  all_goals simp [hw]

@[simp] theorem reserveAndPost_clock {j : Job} (hj : ∀ old v n, j ≠ .clockSet old v n) (s : State) :
    (reserveAndPost j s).calendar = s.calendar ∧ (reserveAndPost j s).site.businessDay = s.site.businessDay := by
  simp [reserveAndPost, hj]

@[simp] theorem postOffice_clock {j : Job} (hj : ∀ old v n, j ≠ .clockSet old v n) (s : State) :
    (postOffice j s).calendar = s.calendar ∧ (postOffice j s).site.businessDay = s.site.businessDay := by
  unfold postOffice
  split <;> simp [hj]

@[simp] theorem postRecord_clock {j : Job} (hj : ∀ old v n, j ≠ .clockSet old v n) (s : State) :
    (postRecord j s).calendar = s.calendar ∧ (postRecord j s).site.businessDay = s.site.businessDay := by
  unfold postRecord
  split <;> simp [hj]

@[simp] theorem postTaken_clock {j : Job} (hj : ∀ old v n, j ≠ .clockSet old v n) (s : State) :
    (postTaken j s).calendar = s.calendar ∧ (postTaken j s).site.businessDay = s.site.businessDay := by
  unfold postTaken
  split <;> simp [hj]

@[simp] theorem confirmStage_clock (k : Till) (s : State) : (confirmStage k s).calendar = s.calendar ∧
    (confirmStage k s).site.businessDay = s.site.businessDay := by
  unfold confirmStage
  repeat' split
  all_goals simp

@[simp] theorem presentFromLine_clock (k : Till) (w : ReprintWork) (s : State) :
    (presentFromLine k w s).calendar = s.calendar ∧
      (presentFromLine k w s).site.businessDay = s.site.businessDay := by
  unfold presentFromLine presentReprint issueReprint
  repeat' split
  all_goals simp

@[simp] theorem reprintStage_clock (k : Till) (s : State) : (reprintStage k s).calendar = s.calendar ∧
    (reprintStage k s).site.businessDay = s.site.businessDay := by
  unfold reprintStage lookupReprint
  repeat' split
  all_goals simp

@[simp] theorem slotStage_clock (k : Till) (s : State) : (slotStage k s).calendar = s.calendar ∧
    (slotStage k s).site.businessDay = s.site.businessDay := by
  unfold slotStage
  split <;> simp

@[simp] theorem continueFromLine_clock (req : RecordRequest) (slot : Nat) (s : State) :
    (continueFromLine req slot s).calendar = s.calendar ∧
      (continueFromLine req slot s).site.businessDay = s.site.businessDay := by
  unfold continueFromLine continueRecord continueEdit continueState continuePurge
  repeat' split
  all_goals simp

@[simp] theorem serveChange_clock (b : Bool) (req : RecordRequest) (s : State) :
    (serveChange b req s).calendar = s.calendar ∧ (serveChange b req s).site.businessDay = s.site.businessDay := by
  unfold serveChange lookupRecord
  repeat' split
  all_goals simp

@[simp] theorem serveMeter_clock (body : List Byte) {serve : Nat → State → State} {s : State}
    (hs : ∀ m, (serve m s).calendar = s.calendar ∧ (serve m s).site.businessDay = s.site.businessDay) :
    (serveMeter body serve s).calendar = s.calendar ∧
      (serveMeter body serve s).site.businessDay = s.site.businessDay := by
  unfold serveMeter
  split
  · simp
  · exact hs _

@[simp] theorem serveEdit_clock (body : List Byte) (s : State) : (serveEdit body s).calendar = s.calendar ∧
    (serveEdit body s).site.businessDay = s.site.businessDay := by
  unfold serveEdit
  split <;> simp

@[simp] theorem serveEnrol_clock (body : List Byte) (s : State) : (serveEnrol body s).calendar = s.calendar ∧
    (serveEnrol body s).site.businessDay = s.site.businessDay := by
  unfold serveEnrol enrolMeter
  repeat' split
  all_goals simp

@[simp] theorem serveRestore_clock (body : List Byte) (s : State) : (serveRestore body s).calendar = s.calendar ∧
    (serveRestore body s).site.businessDay = s.site.businessDay := by
  unfold serveRestore restoreMeter
  repeat' split
  all_goals simp

@[simp] theorem serveStage_clock (body : List Byte) (s : State) : (serveStage body s).calendar = s.calendar ∧
    (serveStage body s).site.businessDay = s.site.businessDay := by
  unfold serveStage takeStage completeStage
  dsimp only
  repeat' split
  all_goals simp

@[simp] theorem serveLoad_clock (body : List Byte) (s : State) : (serveLoad body s).calendar = s.calendar ∧
    (serveLoad body s).site.businessDay = s.site.businessDay := by
  unfold serveLoad takeLoad
  dsimp only
  repeat' split
  all_goals simp

@[simp] theorem serveUnstage_clock (body : List Byte) (s : State) : (serveUnstage body s).calendar = s.calendar ∧
    (serveUnstage body s).site.businessDay = s.site.businessDay := by
  unfold serveUnstage
  repeat' split
  all_goals simp

@[simp] theorem serveVoucher_clock (body : List Byte) (s : State) : (serveVoucher body s).calendar = s.calendar ∧
    (serveVoucher body s).site.businessDay = s.site.businessDay := by
  unfold serveVoucher
  repeat' split
  all_goals simp

@[simp] theorem serveFloor_clock (body : List Byte) (s : State) : (serveFloor body s).calendar = s.calendar ∧
    (serveFloor body s).site.businessDay = s.site.businessDay := by
  unfold serveFloor
  repeat' split
  all_goals simp

@[simp] theorem serveQuoteTime_clock (body : List Byte) (s : State) : (serveQuoteTime body s).calendar = s.calendar ∧
    (serveQuoteTime body s).site.businessDay = s.site.businessDay := by
  unfold serveQuoteTime
  repeat' split
  all_goals simp

@[simp] theorem serveMask_clock (body : List Byte) (s : State) : (serveMask body s).calendar = s.calendar ∧
    (serveMask body s).site.businessDay = s.site.businessDay := by
  unfold serveMask
  dsimp only
  repeat' split
  all_goals simp

@[simp] theorem serveTillClose_clock (body : List Byte) (s : State) : (serveTillClose body s).calendar = s.calendar ∧
    (serveTillClose body s).site.businessDay = s.site.businessDay := by
  unfold serveTillClose
  repeat' split
  all_goals simp

@[simp] theorem serveLinkSet_clock (body : List Byte) (s : State) : (serveLinkSet body s).calendar = s.calendar ∧
    (serveLinkSet body s).site.businessDay = s.site.businessDay := by
  unfold serveLinkSet changeLink
  repeat' split
  all_goals simp

@[simp] theorem serveSiteCode_clock (body : List Byte) (s : State) : (serveSiteCode body s).calendar = s.calendar ∧
    (serveSiteCode body s).site.businessDay = s.site.businessDay := by
  unfold serveSiteCode
  repeat' split
  all_goals simp

@[simp] theorem releaseJournal_businessDay (n : Nat) (s : State) :
    (releaseJournal n s).site.businessDay = s.site.businessDay := by rw [releaseJournal_site]

@[simp] theorem serveRelease_businessDay (body : List Byte) (s : State) :
    (serveRelease body s).site.businessDay = s.site.businessDay := by
  unfold serveRelease
  dsimp only
  repeat' split
  all_goals simp

@[simp] theorem portTake_clock {p : PortId} {kind tag : Byte} {body : List Byte} {busy serve : State → State}
    {s : State} (hb : (busy s).calendar = s.calendar ∧ (busy s).site.businessDay = s.site.businessDay)
    (hs : ∀ x, (serve x).calendar = x.calendar ∧ (serve x).site.businessDay = x.site.businessDay) :
    (portTake p kind tag body busy serve s).calendar = s.calendar ∧
      (portTake p kind tag body busy serve s).site.businessDay = s.site.businessDay := by
  unfold portTake
  repeat' split
  on_goal 6 => simp [hs]
  on_goal 4 => exact hb
  all_goals simp

@[simp] theorem raiseUnlogged_businessDay (n : Nat) (s : State) :
    (raiseUnlogged n s).site.businessDay = s.site.businessDay := rfl

@[simp] theorem enterHold_clock (cause : OutageCause) (s : State) : (enterHold cause s).calendar = s.calendar ∧
    (enterHold cause s).site.businessDay = s.site.businessDay := by
  unfold enterHold
  dsimp only
  split <;> simp

@[simp] theorem fillLine_clock (l : LineNo) (meter slot : Nat) (r : Option Record) (s : State) :
    (fillLine l meter slot r s).calendar = s.calendar ∧
      (fillLine l meter slot r s).site.businessDay = s.site.businessDay := by
  unfold fillLine ownerFetched
  dsimp only
  repeat' split
  all_goals simp

/-- The commands that may move the Calendar or the business day: those that set the clock, that offer room to a waiting
CLOCK_SET, or that bring a second, a rollover, a start-up or the loss of the backup cell (R144 to R149). -/
def movesClock : Instr → Bool
  | .clockSet _ _ => true
  | .unitWriteComplete _ => true
  | .retryAttemptComplete _ => true
  | .dayRollover => true
  | .startUp => true
  | .calendarSecond => true
  | .backupCellFailed => true
  | _ => false

theorem finish_clock {x : State} (ht : finish x = .next t)
    (hx : x.calendar = s.calendar ∧ x.site.businessDay = s.site.businessDay) :
    t.calendar = s.calendar ∧ t.site.businessDay = s.site.businessDay := by
  cases ht
  simpa using hx

/-- Every other command leaves the Calendar and the business day (R144, R147). -/
theorem exec_clock (c : Instr) (hc : movesClock c = false) (ht : exec c s = .next t) :
    t.calendar = s.calendar ∧ t.site.businessDay = s.site.businessDay := by
  cases c
  case clockSet | unitWriteComplete | retryAttemptComplete | dayRollover | startUp | calendarSecond |
      backupCellFailed => cases hc
  case engineGrant =>
    refine finish_clock ht ?_
    split <;> simp
  case recordFetchComplete =>
    refine finish_clock ht ?_
    dsimp only
    repeat' split
    all_goals simp
  case drainWriteComplete =>
    refine finish_clock ht ?_
    repeat' split
    all_goals simp
  case supplyLow | resetAsserted =>
    refine finish_clock ht ?_
    dsimp only
    split <;> simp
  case frameTransmitted => exact finish_clock ht (by simp)
  case frameDiscarded | frameTimeLimit | linkEntersFault | linkFaultEnd | linkSettingsTaken | quoteHoldExpiry |
      officeHoldLapse | areaReadComplete | supplyOk | resetReleased | holdCellWriteComplete | startUpComplete =>
    refine finish_clock ht ?_
    repeat' split
    all_goals simp
  all_goals exact finish_clock ht (portTake_clock (by simp) (by simp))

/-! ### The law of the Calendar -/

theorem CalendarLaw.same (h : CalendarLaw s)
    (k : t.calendar = s.calendar ∧ t.site.businessDay = s.site.businessDay) : CalendarLaw t := by
  rw [CalendarLaw, k.1, k.2]
  exact h

/-- A Calendar that is set to a date-time in range, on a day that is not passed (R146). -/
theorem CalendarLaw.of_set {d : DateTime} (hc : t.calendar = ⟨some d, true⟩) (hr : inRange d = true)
    (hd : t.site.businessDay ≤ d.day) : CalendarLaw t := by
  rw [CalendarLaw, hc]
  exact ⟨rfl, hr, hd⟩

/-- A Calendar without a date-time (R144). -/
theorem CalendarLaw.of_lost (hc : t.calendar = ⟨none, false⟩) : CalendarLaw t := by
  rw [CalendarLaw, hc]

theorem CalendarLaw.settled (h : CalendarLaw s) (ht : finish s = .next t) : CalendarLaw t := by
  cases ht
  exact h.same (by simp)

theorem inRange_addSeconds (d : DateTime) (n : Nat) : inRange (addSeconds d n) = true := by
  rw [inRange_iff, addSeconds]
  split
  · rename_i h
    rw [totalSeconds_last] at h
    rw [ofTotal_eq]
    dsimp only
    omega
  · decide

/-- Seconds that pass never take a date-time in range to an earlier day (R144). -/
theorem day_le_addSeconds {d : DateTime} (h : inRange d = true) (n : Nat) : d.day ≤ (addSeconds d n).day := by
  obtain ⟨day, -⟩ := (inRange_iff d).mp h
  rw [addSeconds]
  split
  · rw [ofTotal_eq, totalSeconds_eq]
    dsimp only
    omega
  · exact day

/-- The rollover moves the business day to the Calendar's (R147). -/
theorem rollover_day {d : DateTime} (hn : s.now = some d) : (rollover s).site.businessDay = d.day := by
  unfold rollover closeDay
  rw [hn]
  simp [tariffRollover_businessDay, beginDay]

theorem rollover_lawful (h : CalendarLaw s) : CalendarLaw (rollover s) := by
  cases hn : s.now with
  | none =>
    unfold rollover
    rw [hn]
    exact h
  | some d =>
    have date : s.calendar.dateTime = some d := by
      unfold State.now at hn
      split at hn
      · exact hn
      · cases hn
    rw [CalendarLaw, date] at h
    obtain ⟨valid, range, -⟩ := h
    rw [CalendarLaw, rollover_day hn]
    simp [date, valid, range]

theorem postClockSet_lawful (b : Bool) (old : Option DateTime) (v : DateTime) (n : Nat)
    (hd : s.site.businessDay ≤ (addSeconds v n).day) : CalendarLaw (postClockSet b old v n s) := by
  have set : CalendarLaw (reportLevels (postSetting b (.clockSet old (addSeconds v n))
      { s with calendar := ⟨some (addSeconds v n), true⟩, cell := ⟨true, some (addSeconds v n)⟩ })) :=
    .of_set (by simp) (inRange_addSeconds v n) (by simpa using hd)
  unfold postClockSet
  dsimp only
  split
  · exact (rollover_lawful set).same (by simp)
  · exact set.same (by simp)

/-- A CLOCK_SET may post while its day is not before the business day (R150). -/
def Job.onTime (j : Job) (s : State) : Prop :=
  ∀ old v n, j = .clockSet old v n → s.site.businessDay ≤ (addSeconds v n).day

theorem runJob_lawful (h : CalendarLaw s) {w : Waiter} (hw : w.job.onTime s) : CalendarLaw (runJob w s) := by
  by_cases clock : ∃ old v n, w.job = .clockSet old v n
  · obtain ⟨old, v, n, hj⟩ := clock
    unfold runJob
    rw [hj]
    exact postClockSet_lawful _ old v n (hw old v n hj)
  · exact h.same (runJob_clock (fun old v n hj => clock ⟨old, v, n, hj⟩) s)

theorem postOrWait_lawful (h : CalendarLaw s) {w : Waiter} (hw : w.job.onTime s) : CalendarLaw (postOrWait w s) := by
  unfold postOrWait
  repeat' split
  · exact runJob_lawful h hw
  · exact h.same (by simp)
  · exact h.same (by simp)

/-- A CLOCK_SET that its test at the room lets post is on time (R150). -/
theorem Job.onTime_of_test {j : Job} (h : postingTest j s = none) : j.onTime s := by
  rintro old v n rfl
  by_contra late
  simp [postingTest, Nat.not_le.mp late] at h

theorem offerRoomTo_lawful : ∀ (n : Nat) {s : State}, CalendarLaw s → CalendarLaw (offerRoomTo n s)
  | 0, _, h => h
  | n + 1, s, h => by
    unfold offerRoomTo
    split
    · exact h
    · rename_i w rest _
      have left : CalendarLaw { s with waiters := rest } := h
      dsimp only
      repeat' split
      · rename_i test
        exact runJob_lawful left (Job.onTime_of_test test)
      · exact offerRoomTo_lawful n (left.same (by simp))
      · exact h

/-- A CLOCK_SET that passed its checks is on time (R148). -/
theorem serveClockSet_lawful (h : CalendarLaw s) (body : List Byte) : CalendarLaw (serveClockSet body s) := by
  have onTime {d : DateTime} (hp : parseClock body = some d) (hd : ¬ d.day < s.site.businessDay) :
      (Job.clockSet s.now d 0).onTime s := by
    rintro _ _ _ ⟨⟩
    rw [addSeconds_zero (parseClock_range hp)]
    exact Nat.not_lt.mp hd
  unfold serveClockSet buildClockSet postOffice reserveAndPost
  repeat' split
  on_goal 4 =>
    exact postOrWait_lawful (h.same (by simp)) fun old v n hj => by simpa using onTime ‹_› ‹_› old v n hj
  on_goal 5 => exact postOrWait_lawful h (onTime ‹_› ‹_›)
  all_goals exact h.same (by simp)

theorem offerRoom_lawful (h : CalendarLaw s) : CalendarLaw (offerRoom s) := offerRoomTo_lawful _ h

theorem writeVerified_lawful (h : CalendarLaw s) (u : CommitUnit) : CalendarLaw (writeVerified u s) := by
  unfold writeVerified
  dsimp only
  split
  · exact offerRoom_lawful (h.same (by simp))
  · exact h.same (by simp)

theorem clockSet_lawful (h : CalendarLaw s) (tag : Byte) (body : List Byte)
    (ht : execClockSet tag body s = .next t) : CalendarLaw t := by
  refine CalendarLaw.settled ?_ ht
  unfold takeOffice takeRequest portTake
  repeat' split
  on_goal 6 => exact serveClockSet_lawful (h.same (by simp)) body
  all_goals exact h.same (by simp)

theorem unitWriteComplete_lawful (h : CalendarLaw s) (r : ReadBack) (ht : execUnitWriteComplete r s = .next t) :
    CalendarLaw t := by
  refine CalendarLaw.settled ?_ ht
  unfold unitWrite
  repeat' split
  on_goal 3 => exact writeVerified_lawful h _
  on_goal 3 => exact writeVerified_lawful h _
  all_goals exact h.same (by simp)

theorem retryVerified_lawful (h : CalendarLaw s) (u : CommitUnit) : CalendarLaw (retryVerified u s) := by
  unfold retryVerified
  dsimp only
  split
  · exact offerRoom_lawful (h.same (by simp))
  · exact h.same (by simp)

theorem retryAttemptComplete_lawful (h : CalendarLaw s) (r : ReadBack) (ht : execRetryAttemptComplete r s = .next t) :
    CalendarLaw t := by
  refine CalendarLaw.settled ?_ ht
  unfold retryAttempt
  repeat' split
  on_goal 2 => exact retryVerified_lawful h _
  all_goals exact h.same (by simp)

/-- The date-time that the backup cell kept is taken when it passes the test, and none otherwise (R145, R146). -/
theorem testCalendar_lawful (s : State) : CalendarLaw (testCalendar s) := by
  unfold testCalendar testCell
  split
  · rename_i good
    cases hd : s.cell.dateTime with
    | none => simp [hd] at good
    | some d =>
      simp only [hd, Option.any_some, Bool.and_eq_true, decide_eq_true_eq] at good
      obtain ⟨-, range, day⟩ := good
      exact .of_set rfl range day
  · exact .of_lost rfl

theorem startUp_lawful (s : State) : CalendarLaw (startUp s) := by
  have tested := testCalendar_lawful (resetVolatile (readStore s))
  have powered : CalendarLaw (startLinks (postPowerUp s.describingCell
      (reportLevels (testCalendar (resetVolatile (readStore s)))))) := by
    unfold postPowerUp
    split
    · exact tested.same (by simp)
    · exact tested.same (by simp)
  unfold startUp startRollover
  dsimp only
  split
  · exact rollover_lawful powered
  · exact powered

/-- A second passes (R144). -/
theorem calendarSecond_lawful (h : CalendarLaw s) (ht : execCalendarSecond s = .next t) : CalendarLaw t := by
  refine CalendarLaw.settled ?_ ht
  cases hd : s.calendar.dateTime with
  | none =>
    rw [CalendarLaw, hd] at h
    exact .of_lost (by simp [h])
  | some d =>
    rw [CalendarLaw, hd] at h
    obtain ⟨valid, range, day⟩ := h
    exact .of_set (d := nextSecond d) (by simp [valid]) (inRange_addSeconds d 1)
      (day.trans (day_le_addSeconds range 1))

theorem backupCellFailed_lawful (h : CalendarLaw s) (ht : execBackupCellFailed s = .next t) : CalendarLaw t := by
  refine CalendarLaw.settled ?_ ht
  split
  · exact h
  · exact .of_lost (by simp)

theorem exec_lawful (h : CalendarLaw s) (c : Instr) (ht : exec c s = .next t) : CalendarLaw t := by
  by_cases moves : movesClock c = true
  · cases c
    case clockSet tag body => exact clockSet_lawful h tag body ht
    case unitWriteComplete r => exact unitWriteComplete_lawful h r ht
    case retryAttemptComplete r => exact retryAttemptComplete_lawful h r ht
    case dayRollover =>
      refine CalendarLaw.settled ?_ ht
      split
      · exact rollover_lawful h
      · exact h
    case startUp =>
      refine CalendarLaw.settled ?_ ht
      split
      · exact startUp_lawful s
      · exact h
    case calendarSecond => exact calendarSecond_lawful h ht
    case backupCellFailed => exact backupCellFailed_lawful h ht
    all_goals simp [movesClock] at moves
  · exact h.same (exec_clock c (by simpa using moves) ht)

end

/-- Settles O9: a CLOCK_SET posts on no day that has passed, start-up takes the backup cell's date-time under the same
test, and a rollover moves the business day to the Calendar's. -/
theorem stepKeepsCalendarLaw : Obligations.StepKeepsCalendarLaw := by
  intro s t h ht
  unfold step at ht
  split at ht
  · cases ht; exact h
  · exact exec_lawful (h.same (by simp)) _ ht

end Sys2Proof.Machine
end

section
/-! SUPPORT. A second of the Calendar, and the loss of the backup cell (R63, R82, R144, R145, R149). -/

namespace Sys2Proof.Machine

section

variable {s : State}

/-- The state a second later, before the step ends (R144). -/
def secondPassed (s : State) : State :=
  { s with
    calendar := { s.calendar with dateTime := s.calendar.dateTime.map nextSecond }
    cell := { s.cell with dateTime := s.cell.dateTime.map nextSecond }
    slots := #v[(s.slot 0).tick, (s.slot 1).tick, (s.slot 2).tick, (s.slot 3).tick]
    arbiter := { s.arbiter with lapse := s.arbiter.lapse.map (· - 1) }
    waiters := s.waiters.map Waiter.tick }

theorem calendarSecond_exec (s : State) : exec .calendarSecond s = .next (settle (secondPassed s)) := rfl

theorem secondPassed_slot (s : State) (k : Till) : (secondPassed s).slot k = (s.slot k).tick := by
  rcases four_tills k with rfl | rfl | rfl | rfl <;> rfl

theorem secondPassed_keeps (s : State) :
    keepsAllBut [.clock, .slot 0, .slot 1, .slot 2, .slot 3, .hold, .waiters] s (secondPassed s) := by
  intro p hp
  cases p with
  | slot k => rcases four_tills k with rfl | rfl | rfl | rfl <;> simp at hp
  | clock => simp at hp
  | hold => simp at hp
  | waiters => simp at hp
  | grants => exact ⟨rfl, rfl⟩
  | _ => rfl

/-- The backup cell without its mark and its date-time (R145). -/
def cellLost (s : State) : State := { s with cell := ⟨false, none⟩ }

/-- The Calendar without its date-time, its level reported (R144, R171). -/
def calendarLost (s : State) : State := reportLevels { s with calendar := ⟨none, false⟩ }

theorem calendarLost_keeps (s : State) : keepsAllBut [.clock, .conditions] s (calendarLost s) :=
  keepsAllBut_trans (keepsAllBut_mono (clock_keeps s ⟨none, false⟩ s.cell) (by simp))
    (keepsAllBut_mono (reportLevels_keeps _) (by simp))

theorem backupCellFailed_exec (s : State) : exec .backupCellFailed s =
    .next (settle (if s.running then cellLost s else calendarLost (cellLost s))) := rfl

/-- In RUN the Calendar runs on without its cell (R145, log 28). -/
theorem backupCellFailed_running (rest : s.holdAtRest) (running : s.running = true) :
    ∃ t, exec .backupCellFailed s = .next t ∧ t.cell = ⟨false, none⟩ ∧ t.calendar = s.calendar ∧
      keepsAllBut [.clock] s t := by
  refine ⟨settle (cellLost s), by rw [backupCellFailed_exec, if_pos running], by simp [cellLost],
    by simp [cellLost], ?_⟩
  exact keepsAllBut_settle rest (clock_keeps s s.calendar _)

/-- Outside RUN the Calendar runs from the cell, and loses its date-time with it (R144, R145, log 28). -/
theorem backupCellFailed_stopped (rest : s.holdAtRest) (stopped : s.running = false) :
    ∃ t, exec .backupCellFailed s = .next t ∧ t.cell = ⟨false, none⟩ ∧ t.calendar = ⟨none, false⟩ ∧
      onlyLevels s t ∧ keepsAllBut [.clock, .conditions] s t := by
  have lost : keepsAllBut [.clock, .conditions] s (calendarLost (cellLost s)) :=
    keepsAllBut_trans (keepsAllBut_mono (clock_keeps s s.calendar _) (by simp)) (calendarLost_keeps _)
  refine ⟨settle (calendarLost (cellLost s)), by simp [backupCellFailed_exec, stopped],
    by simp [calendarLost, cellLost], by simp [calendarLost], settle_onlyLevels (onlyLevels_report rfl), ?_⟩
  exact keepsAllBut_settle (holdAtRest_of_kept rest lost (by simp)) lost

end

/-- Settles O54: the arithmetic of a second, and the two events by what their step sets. -/
theorem calendarEvents : Obligations.CalendarEvents := by
  refine ⟨nextSecond_eq, fun s rest => ⟨⟨_, calendarSecond_exec s, ?_⟩, ?_⟩⟩
  · have after : keepsAllBut [] (secondPassed s) (settle (secondPassed s)) := settle_keeps rest
    obtain ⟨hold, lapse⟩ := after .hold (by simp)
    refine ⟨by simp [secondPassed], by simp [secondPassed], fun k => ?_, hold, lapse, ?_,
      keepsAllBut_settle rest (secondPassed_keeps s)⟩
    · exact (after (.slot k) (by simp)).trans (secondPassed_slot s k)
    · exact after .waiters (by simp)
  · cases running : s.running
    · obtain ⟨t, step, cell, calendar, levels, kept⟩ := backupCellFailed_stopped rest running
      exact ⟨t, step, cell, by simp, fun _ => ⟨calendar, levels, kept⟩⟩
    · obtain ⟨t, step, cell, calendar, kept⟩ := backupCellFailed_running rest running
      exact ⟨t, step, cell, fun _ => ⟨calendar, kept⟩, by simp⟩

end Sys2Proof.Machine
end

section
/-! SUPPORT. The day rollover by its parts: the slots, the tariff, the day's unit (R33, R76, R147, R154). -/

namespace Sys2Proof.Machine

section

variable {s x : State} {d : DateTime}

/-! ### The slots (R76) -/

/-- A slot after its response to a rollover (R76). -/
def VendSlot.rolledOver (v : VendSlot) : VendSlot :=
  match v.state with
  | .opened => v.quote.elim v fun q => v.closedWith q.id .rollover
  | .quoting => { v with abandon := some (v.abandon.getD .rollover) }
  | .fetching => { v with abandon := some (v.abandon.getD .rollover) }
  | _ => v

/-- A rollover finds no quote in the slot to close or to abandon. -/
abbrev VendSlot.unquoted (v : VendSlot) : Prop := v.state ≠ .opened ∧ v.state ≠ .quoting ∧ v.state ≠ .fetching

theorem VendSlot.rolledOver_opened {v : VendSlot} {q : QuoteRecord} (h : v.state = .opened) (quote : v.quote = some q) :
    v.rolledOver = v.closedWith q.id .rollover := by simp [rolledOver, h, quote]

theorem VendSlot.rolledOver_abandoned {v : VendSlot} (h : v.state = .quoting ∨ v.state = .fetching) :
    v.rolledOver = { v with abandon := some (v.abandon.getD .rollover) } := by
  rcases h with h | h <;> simp [rolledOver, h]

theorem VendSlot.rolledOver_unquoted {v : VendSlot} (h : v.unquoted) : v.rolledOver = v := by
  obtain ⟨opened, quoting, fetching⟩ := h
  unfold rolledOver
  split
  · contradiction
  · contradiction
  · contradiction
  · rfl

theorem abandon_or (a : Option AbandonCause) (c : AbandonCause) : a.or (some c) = some (a.getD c) := by cases a <;> rfl

theorem slotRollover_spec (k : Till) (s : State) : (slotRollover k s).slot k = (s.slot k).rolledOver ∧
    keepsAllBut (closedParts k) s (slotRollover k s) := by
  have abandons (h : (s.slot k).state = .quoting ∨ (s.slot k).state = .fetching) :
      let y := s.modSlot k fun v => { v with abandon := v.abandon.or (some .rollover) }
      y.slot k = (s.slot k).rolledOver ∧ keepsAllBut (closedParts k) s y :=
    ⟨by rw [VendSlot.rolledOver_abandoned h, State.slot_modSlot_same, abandon_or],
      keepsAllBut_mono (modSlot_keeps s k _) (by simp)⟩
  have stays (h : (s.slot k).rolledOver = s.slot k) :
      s.slot k = (s.slot k).rolledOver ∧ keepsAllBut (closedParts k) s s := ⟨h.symm, keepsAllBut_refl _ _⟩
  unfold slotRollover
  split
  · rename_i opened
    cases quote : (s.slot k).quote with
    | none =>
      have same : closeQuote k .rollover s = s := by simp [closeQuote, quote]
      exact same.symm ▸ stays (by simp [VendSlot.rolledOver, opened, quote])
    | some q =>
      obtain ⟨⟨slot, -⟩, kept⟩ := closeQuote_closes .rollover quote
      exact ⟨slot.trans (VendSlot.rolledOver_opened opened quote).symm, kept⟩
  · rename_i quoting
    exact abandons (.inl quoting)
  · rename_i fetching
    exact abandons (.inr fetching)
  · rename_i opened quoting fetching
    exact stays (VendSlot.rolledOver_unquoted ⟨opened, quoting, fetching⟩)

theorem slotRollover_slot_eq (j k : Till) (s : State) : (slotRollover j s).slot k =
    if j = k then (s.slot k).rolledOver else s.slot k := by
  split
  · rename_i same
    exact same ▸ (slotRollover_spec j s).1
  · rename_i other
    exact (slotRollover_slot j s).1 k (Ne.symm other)

theorem slotRollover_unquoted {k : Till} (h : (s.slot k).unquoted) : slotRollover k s = s := by
  obtain ⟨opened, quoting, fetching⟩ := h
  unfold slotRollover
  split <;> simp_all

/-- The responses of the four slots, in their order (R76). -/
def slotsRolled (s : State) : State := slotRollover 3 (slotRollover 2 (slotRollover 1 (slotRollover 0 s)))

/-- The parts that the slots' responses change. -/
abbrev slotParts : List Part := [.slot 0, .slot 1, .slot 2, .slot 3, .reserved, .journal, .lines, .conditions]

theorem slotsRolled_slot (s : State) (k : Till) : (slotsRolled s).slot k = (s.slot k).rolledOver := by
  rcases four_tills k with rfl | rfl | rfl | rfl <;> simp [slotsRolled, slotRollover_slot_eq]

theorem slotsRolled_keeps (s : State) : keepsAllBut slotParts s (slotsRolled s) := by
  have kept (k : Till) (x : State) : keepsAllBut slotParts x (slotRollover k x) :=
    keepsAllBut_mono (slotRollover_spec k x).2 (by rcases four_tills k with rfl | rfl | rfl | rfl <;> simp)
  exact keepsAllBut_trans (kept 0 _) (keepsAllBut_trans (kept 1 _) (keepsAllBut_trans (kept 2 _) (kept 3 _)))

theorem slotsRolled_unquoted (h : ∀ k, (s.slot k).unquoted) : slotsRolled s = s := by
  simp only [slotsRolled, slotRollover_unquoted (h _)]

/-! ### The day and the tariff (R33, R34, R147) -/

theorem beginDay_keeps (n : Nat) (s : State) : keepsAllBut [.site] s (beginDay n s) := site_keeps s _

theorem beginDay_blank (n : Nat) (blank : s.commissioned = false) :
    (beginDay n s).site = { s.site with businessDay := n } := by simp [beginDay, blank]

/-- The pending set's day, where there is one, is not reached (R33). -/
abbrev State.unreached (s : State) (day : Nat) : Prop := ∀ p, s.site.pendingSet = some p → day < p.effectiveDay

/-- The site state with a pending set in force (R33). -/
def SiteState.shifted (v : SiteState) (p : PendingSet) : SiteState :=
  { v with active := p.entries, generation := raiseNumber v.generation, pendingSet := none }

/-- The state of a shift before its unit is built (R33, R34). -/
def tariffShifted (p : PendingSet) (s : State) : State := arise .tariffShifted { s with site := s.site.shifted p }

theorem tariffShifted_keeps (p : PendingSet) (s : State) : keepsAllBut [.site, .conditions] s (tariffShifted p s) :=
  keepsAllBut_trans (keepsAllBut_mono (site_keeps s _) (by simp)) (keepsAllBut_mono (arise_keeps _ _) (by simp))

theorem tariffShifted_site (p : PendingSet) (s : State) : (tariffShifted p s).site = s.site.shifted p := by
  simp [tariffShifted]

/-- The shift's latch, and no other, is set (R34, R169). -/
theorem tariffShifted_latched (p : PendingSet) (takes : s.takesArisings = true) (c : Condition) :
    (tariffShifted p s).latched c = if c = .tariffShifted then true else s.latched c := by
  have takes' : ({ s with site := s.site.shifted p } : State).takesArisings = true := takes
  rw [tariffShifted, arise_latched, takes']
  by_cases e : c = .tariffShifted
  · simp [e]
  · rw [if_neg fun h => e h.1.symm, if_neg e]
    rfl

theorem tariffRollover_unreached (h : s.unreached s.site.businessDay) : tariffRollover s = s := by
  unfold tariffRollover
  split
  · rfl
  · rename_i p pending
    exact if_pos (h p pending)

theorem tariffRollover_reached {p : PendingSet} (pending : s.site.pendingSet = some p)
    (reached : p.effectiveDay ≤ s.site.businessDay) : tariffRollover s =
      postSystemEntry (.tariffShift (raiseNumber s.site.generation) p.effectiveDay) false (tariffShifted p s) := by
  simp only [tariffRollover, pending, if_neg (Nat.not_lt.2 reached)]
  rfl

/-! ### SYSTEM units (R122, R135, R154) -/

theorem runSystemJob_keeps (w : Waiter) (s : State) :
    keepsAllBut [.site, .buffer, .journal, .conditions] s (runSystemJob w s) := by
  unfold runSystemJob
  split <;> exact addUnit_keeps _ _ _ _ s

theorem postSystem_keeps (w : Waiter) (s : State) :
    keepsAllBut [.site, .buffer, .waiters, .journal, .conditions] s (postSystem w s) := by
  unfold postSystem
  split
  · exact keepsAllBut_mono (runSystemJob_keeps w s) (by simp)
  · exact keepsAllBut_mono (waiters_keeps s _) (by simp)

theorem raiseUnlogged_keeps (n : Nat) (s : State) : keepsAllBut [.site] s (raiseUnlogged n s) := site_keeps s _

theorem postSystemEntry_keeps (j : Job) (b : Bool) (s : State) :
    keepsAllBut [.site, .buffer, .waiters, .journal, .conditions] s (postSystemEntry j b s) := by
  unfold postSystemEntry
  split
  · exact postSystem_keeps _ s
  · split
    · exact keepsAllBut_trans (keepsAllBut_mono (takeReservation_keeps s) (by simp)) (postSystem_keeps _ _)
    · split
      · exact keepsAllBut_trans (keepsAllBut_mono (raiseUnlogged_keeps 1 s) (by simp)) (postSystem_keeps _ _)
      · exact keepsAllBut_mono (raiseUnlogged_keeps 1 s) (by simp)

theorem buffer_keeps (s : State) (l : List CommitUnit) : keepsAllBut [.buffer] s { s with buffer := l } := by
  intro p hp
  cases p with
  | buffer => simp at hp
  | clock => exact ⟨rfl, rfl⟩
  | grants => exact ⟨rfl, rfl⟩
  | hold => exact ⟨rfl, rfl⟩
  | _ => rfl

theorem postsAtOnce_of_short (alone : s.waiters = []) (short : s.buffer.length < 4) : s.postsAtOnce = true := by
  simp [State.postsAtOnce, bufferSize, alone, short]

/-- A BLANK part posts the image alone (R34, R154). -/
theorem postSystemEntry_image (blank : s.commissioned = false) (room : s.postsAtOnce = true) (j : Job) (b : Bool) :
    (postSystemEntry j b s).buffer = s.buffer ++ [⟨.system, none, none, none, s.site⟩] ∧
      keepsAllBut [.buffer] s (postSystemEntry j b s) := by
  have unit : postSystemEntry j b s = { s with buffer := s.buffer ++ [⟨.system, none, none, none, s.site⟩] } := by
    simp only [postSystemEntry, blank, postSystem, room]
    rfl
  rw [unit]
  exact ⟨rfl, buffer_keeps s _⟩

/-- Without room the image alone waits (R122). -/
theorem postSystemEntry_imageWaits (blank : s.commissioned = false) (full : s.postsAtOnce = false) (j : Job)
    (b : Bool) :
    (postSystemEntry j b s).waiters = s.waiters ++ [⟨.imageOnly, false⟩] ∧
      keepsAllBut [.waiters] s (postSystemEntry j b s) := by
  have unit : postSystemEntry j b s = { s with waiters := s.waiters ++ [⟨.imageOnly, false⟩] } := by
    simp [postSystemEntry, blank, postSystem, full]
  rw [unit]
  exact ⟨rfl, waiters_keeps s _⟩

/-! ### The rollover as a whole (R147) -/

/-- The day is captured, then slots, tariff and totals respond in this order (R147, log 23). -/
theorem rollover_eq (now : s.now = some d) : rollover s =
    postSystemEntry (.dayClose ⟨s.site.businessDay, s.site.dayTotals, some d, none⟩) true
      (tariffRollover (slotsRolled (beginDay d.day s))) := by
  simp only [rollover, now]
  rfl

/-- With no quote to close and no set to shift, the day's unit alone posts (R154). -/
theorem rollover_quiet (now : s.now = some d) (unreached : s.unreached d.day) (unquoted : ∀ k, (s.slot k).unquoted) :
    rollover s = postSystemEntry (.dayClose ⟨s.site.businessDay, s.site.dayTotals, some d, none⟩) true
      (beginDay d.day s) := by
  have begun : (beginDay d.day s).unreached (beginDay d.day s).site.businessDay := unreached
  rw [rollover_eq now, slotsRolled_unquoted (s := beginDay d.day s) unquoted, tariffRollover_unreached begun]

/-- The parts that a rollover changes. -/
abbrev rolledParts : List Part := [.site, .buffer, .waiters] ++ slotParts

theorem tariffRollover_keeps (s : State) :
    keepsAllBut [.site, .buffer, .waiters, .journal, .conditions] s (tariffRollover s) := by
  by_cases unreached : s.unreached s.site.businessDay
  · rw [tariffRollover_unreached unreached]
    exact keepsAllBut_refl _ _
  · simp only [not_forall, Nat.not_lt] at unreached
    obtain ⟨p, pending, reached⟩ := unreached
    rw [tariffRollover_reached pending reached]
    exact keepsAllBut_trans (keepsAllBut_mono (tariffShifted_keeps p s) (by simp)) (postSystemEntry_keeps _ _ _)

theorem rollover_keeps (s : State) : keepsAllBut rolledParts s (rollover s) := by
  cases now : s.now with
  | none =>
    have stays : rollover s = s := by simp [rollover, now]
    rw [stays]
    exact keepsAllBut_refl _ _
  | some d =>
    rw [rollover_eq now]
    exact keepsAllBut_trans (keepsAllBut_mono (beginDay_keeps d.day s) (by simp))
      (keepsAllBut_trans (keepsAllBut_mono (slotsRolled_keeps _) (by simp))
        (keepsAllBut_trans (keepsAllBut_mono (tariffRollover_keeps _) (by simp))
          (keepsAllBut_mono (postSystemEntry_keeps _ _ _) (by simp))))

/-- What a rollover to the day of `d` does on a COMMISSIONED part (R33, R76, R147, R152, R154, R155). -/
structure RolledOver (d : DateTime) (s t : State) : Prop where
  businessDay : t.site.businessDay = d.day
  dayTotals : t.site.dayTotals = Counts.zero
  units : ∃ more, t.buffer = s.buffer ++ more ∧
    ∀ u ∈ more, u.image.businessDay = d.day ∧ u.image.dayTotals = Counts.zero
  slot : ∀ k, t.slot k = (s.slot k).rolledOver
  shifts : ∀ p, s.site.pendingSet = some p → p.effectiveDay ≤ d.day → t.site.active = p.entries ∧
    t.site.pendingSet = none ∧ t.latched .tariffShifted = true ∧ t.site.generation = raiseNumber s.site.generation
  stays : s.unreached d.day → t.site.active = s.site.active ∧ t.site.pendingSet = s.site.pendingSet

/-- The Tariff Tables' response once the day has begun. -/
theorem tariffRollover_spec (takes : s.takesArisings = true) : let t := tariffRollover s
    t.site.dayTotals = s.site.dayTotals ∧
    (∃ more, t.buffer = s.buffer ++ more ∧
      ∀ u ∈ more, u.image.businessDay = s.site.businessDay ∧ u.image.dayTotals = s.site.dayTotals) ∧
    (∀ p, s.site.pendingSet = some p → p.effectiveDay ≤ s.site.businessDay → t.site.active = p.entries ∧
      t.site.pendingSet = none ∧ t.latched .tariffShifted = true ∧
      t.site.generation = raiseNumber s.site.generation) ∧
    (s.unreached s.site.businessDay → t = s) := by
  by_cases unreached : s.unreached s.site.businessDay
  · rw [tariffRollover_unreached unreached]
    exact ⟨rfl, ⟨[], by simp⟩, fun p pending reached => absurd (unreached p pending) (Nat.not_lt.2 reached),
      fun _ => rfl⟩
  · have some := unreached
    simp only [not_forall, Nat.not_lt] at some
    obtain ⟨p, pending, reached⟩ := some
    rw [tariffRollover_reached pending reached]
    generalize Job.tariffShift (raiseNumber s.site.generation) p.effectiveDay = j
    obtain ⟨-, latches, site⟩ := postSystemEntry_slot j false (tariffShifted p s)
    obtain ⟨more, buffer, images⟩ := postSystemEntry_units j false (tariffShifted p s)
    rw [tariffShifted_site] at site images
    have before : (tariffShifted p s).buffer = s.buffer := tariffShifted_keeps p s .buffer (by simp)
    refine ⟨by rw [site]; rfl, ⟨more, before ▸ buffer, images⟩, fun p' pending' _ => ?_, fun h => absurd h unreached⟩
    obtain rfl : p = p' := Option.some.inj (pending.symm.trans pending')
    exact ⟨by rw [site]; rfl, by rw [site]; rfl, latches _ (by simp [tariffShifted_latched p takes]), by rw [site]; rfl⟩

theorem rollover_spec (now : s.now = some d) (takes : s.takesArisings = true) (commissioned : s.commissioned = true) :
    RolledOver d s (rollover s) := by
  rw [rollover_eq now]
  have begun : (beginDay d.day s).site = { s.site with businessDay := d.day, dayTotals := Counts.zero } :=
    beginDay_commissioned d.day commissioned
  have kept := slotsRolled_keeps (beginDay d.day s)
  have slots := slotsRolled_slot (beginDay d.day s)
  generalize slotsRolled (beginDay d.day s) = y at *
  have site : y.site = { s.site with businessDay := d.day, dayTotals := Counts.zero } :=
    (kept .site (by simp)).trans begun
  have takesY : y.takesArisings = true := (takesArisings_congr (kept .supply (by simp))).trans takes
  obtain ⟨totals, ⟨shift, joined, images⟩, shifts, stays⟩ := tariffRollover_spec takesY
  have day := tariffRollover_businessDay y
  have slotsT : ∀ k, (tariffRollover y).slot k = y.slot k := fun k => tariffRollover_keeps y (.slot k) (by simp)
  generalize tariffRollover y = z at *
  generalize Job.dayClose ⟨s.site.businessDay, s.site.dayTotals, some d, none⟩ = j
  obtain ⟨slotsE, latches, siteE⟩ := postSystemEntry_slot j true z
  obtain ⟨close, buffer, closes⟩ := postSystemEntry_units j true z
  rw [site] at totals images shifts stays day
  rw [totals, day] at closes
  refine ⟨by rw [siteE]; exact day, by rw [siteE]; exact totals, ⟨shift ++ close, ?_, fun u hu => ?_⟩, fun k => ?_,
    fun p pending reached => ?_, fun unreached => ?_⟩
  · rw [buffer, joined, kept .buffer (by simp), List.append_assoc]
    rfl
  · exact (List.mem_append.mp hu).elim (images u) (closes u)
  · exact ((slotsE k).trans (slotsT k)).trans (slots k)
  · obtain ⟨active, none, latch, generation⟩ := shifts p pending reached
    exact ⟨by rw [siteE]; exact active, by rw [siteE]; exact none, latches _ latch, by rw [siteE]; exact generation⟩
  · have same : z = y := stays (by rw [State.unreached, site]; exact unreached)
    rw [siteE, same, site]
    exact ⟨rfl, rfl⟩

end

end Sys2Proof.Machine
end

section
/-! SUPPORT. DAY_ROLLOVER, COMMISSIONED and BLANK, and its waiting units (R122, R123, R147, R154). -/

namespace Sys2Proof.Machine

section

variable {s x y : State} {d : DateTime} {c : DaySummary} {u : CommitUnit} {rest : List CommitUnit} {l : List Part}

/-! ### The step -/

theorem dayRollover_exec (takes : s.takesArisings = true) (now : s.now = some d) (later : s.site.businessDay < d.day) :
    exec .dayRollover s = .next (settle (rollover s)) := by
  have due : s.rolloverDue = true := by simp [State.rolloverDue, now, later]
  simp [exec, execDayRollover, takes, due, finish]

theorem dayRollover_idle (h : s.takesArisings = false ∨ s.rolloverDue = false) :
    exec .dayRollover s = .next (settle s) := by
  rcases h with h | h <;> simp [exec, execDayRollover, h, finish]

/-- Units that join a buffer leave no PENDING hold with nothing to wait for (R81). -/
theorem holdAtRest_of_joined {more : List CommitUnit} (atRest : s.holdAtRest) (kept : keepsAllBut l s x)
    (hold : Part.hold ∉ l) (joined : x.buffer = s.buffer ++ more) : x.holdAtRest := by
  intro pending
  have before : s.buffer ≠ [] := atRest ((kept .hold hold).1 ▸ pending)
  simp [joined, before]

theorem RolledOver.of_kept (h : RolledOver d s x) (kept : keepsAllBut l x y)
    (hl : Part.site ∉ l ∧ Part.buffer ∉ l ∧ Part.conditions ∉ l ∧ ∀ k, Part.slot k ∉ l) : RolledOver d s y := by
  obtain ⟨noSite, noBuffer, noConditions, noSlot⟩ := hl
  have site : y.site = x.site := kept .site noSite
  have buffer : y.buffer = x.buffer := kept .buffer noBuffer
  have latched (c : Condition) : y.latched c = x.latched c := by
    rw [State.latched, show y.conditions = x.conditions from kept .conditions noConditions]
    rfl
  obtain ⟨day, totals, units, slot, shifts, stays⟩ := h
  exact ⟨by rw [site, day], by rw [site, totals], by rw [buffer]; exact units,
    fun k => (kept (.slot k) (noSlot k)).trans (slot k),
    fun p pending reached => by simpa only [site, latched] using shifts p pending reached,
    fun unreached => by simpa only [site] using stays unreached⟩

theorem RolledOver.nonempty (h : RolledOver d s x) (before : s.buffer ≠ []) : x.buffer ≠ [] := by
  obtain ⟨more, joined, -⟩ := h.units
  simp [joined, before]

/-! ### The day's unit on a COMMISSIONED part (R135, R136, R154) -/

theorem roomForSystem_iff (s : State) : s.roomForSystem = true ↔ 0 < s.salesFree := by simp [State.roomForSystem]

theorem dayClose_posts (commissioned : x.commissioned = true) (room : x.postsAtOnce = true) (free : 0 < x.salesFree)
    (c : DaySummary) : let t := postSystemEntry (.dayClose c) true x
    posts { postedUnit x .system none x.now .part (.dayClose c.day c.counts) x.site with
      summary := some { c with seq := some x.journal.nextSeq } } x.journal.reservations x t ∧
      onlyLevels x t ∧ keepsAllBut [.site, .buffer, .journal, .conditions] x t := by
  have taken : keepsAllBut [.journal, .conditions] x (takeReservation x) := takeReservation_keeps x
  have journal := takeReservation_journal x
  have now := takeReservation_now x
  have levels := takeReservation_levels x
  have room' : (takeReservation x).postsAtOnce = true := by simpa [State.postsAtOnce] using room
  have unit : postSystemEntry (.dayClose c) true x = runSystemJob ⟨.dayClose c, true⟩ (takeReservation x) := by
    simp [postSystemEntry, commissioned, (roomForSystem_iff x).2 free, postSystem, room']
  rw [unit]
  generalize takeReservation x = y at *
  obtain ⟨⟨joins, image, counts⟩, more, kept⟩ := addUnit_system true (.dayClose c.day c.counts) (some c) y
  have site : y.site = x.site := taken .site (by simp)
  have buffer : y.buffer = x.buffer := taken .buffer (by simp)
  rw [now, site] at joins image counts
  refine ⟨⟨joins.trans ?_, image, counts.trans ?_⟩, onlyLevels_trans levels more,
    keepsAllBut_trans (keepsAllBut_mono taken (by simp)) kept⟩
  · rw [buffer]
    simp [postedUnit, journal]
  · simp [postedUnit, journal]

theorem dayClose_withoutEntry (commissioned : x.commissioned = true) (room : x.postsAtOnce = true)
    (full : x.salesFree = 0) (c : DaySummary) : let t := postSystemEntry (.dayClose c) true x
    t.site = { x.site with unlogged := min 4294967295 (x.site.unlogged + 1) } ∧
      t.buffer = x.buffer ++ [⟨.system, none, none, some c, t.site⟩] ∧ keepsAllBut [.site, .buffer] x t := by
  have none : x.roomForSystem = false := by simp [State.roomForSystem, full]
  have room' : (raiseUnlogged 1 x).postsAtOnce = true := room
  have unit : postSystemEntry (.dayClose c) true x = { raiseUnlogged 1 x with
      buffer := x.buffer ++ [⟨.system, Option.none, Option.none, some c, (raiseUnlogged 1 x).site⟩] } := by
    simp only [postSystemEntry, commissioned, none, postSystem, room']
    rfl
  rw [unit]
  exact ⟨rfl, rfl, keepsAllBut_trans (keepsAllBut_mono (raiseUnlogged_keeps 1 x) (by simp))
    (keepsAllBut_mono (buffer_keeps _ _) (by simp))⟩

theorem dayClose_waits (commissioned : x.commissioned = true) (room : x.postsAtOnce = false) (free : 0 < x.salesFree)
    (c : DaySummary) : let t := postSystemEntry (.dayClose c) true x
    t.waiters = x.waiters ++ [⟨.dayClose c, true⟩] ∧ t.site = x.site ∧
      t.journal = ⟨x.journal.nextSeq, x.journal.reservations + 1⟩ ∧ onlyLevels x t ∧
      keepsAllBut [.waiters, .journal, .conditions] x t := by
  have room' : (takeReservation x).postsAtOnce = false := by simpa [State.postsAtOnce] using room
  have unit : postSystemEntry (.dayClose c) true x =
      { takeReservation x with waiters := (takeReservation x).waiters ++ [⟨.dayClose c, true⟩] } := by
    simp [postSystemEntry, commissioned, (roomForSystem_iff x).2 free, postSystem, room']
  rw [unit]
  exact ⟨by simp, by simp, takeReservation_journal x, onlyLevels_congr (takeReservation_levels x) rfl rfl,
    keepsAllBut_trans (keepsAllBut_mono (takeReservation_keeps x) (by simp))
      (keepsAllBut_mono (waiters_keeps _ _) (by simp))⟩

/-! ### DAY_ROLLOVER on a COMMISSIONED part -/

theorem dayRollover_rollsOver (atRest : s.holdAtRest) (takes : s.takesArisings = true) (now : s.now = some d)
    (later : s.site.businessDay < d.day) (commissioned : s.commissioned = true) :
    ∃ t, exec .dayRollover s = .next t ∧ RolledOver d s t := by
  have rolled := rollover_spec now takes commissioned
  obtain ⟨more, joined, -⟩ := rolled.units
  have restX := holdAtRest_of_joined atRest (rollover_keeps s) (by simp) joined
  exact ⟨_, dayRollover_exec takes now later, rolled.of_kept (settle_keeps restX) (by simp)⟩

section

variable (atRest : s.holdAtRest) (takes : s.takesArisings = true) (now : s.now = some d)
  (later : s.site.businessDay < d.day) (unreached : s.unreached d.day) (unquoted : ∀ k, (s.slot k).unquoted)

include atRest takes now later unreached unquoted

theorem dayRollover_posts (commissioned : s.commissioned = true) (room : s.postsAtOnce = true)
    (free : 0 < s.salesFree) :
    let v : SiteState := { s.site with businessDay := d.day, dayTotals := ⟨0, 0, 0, 0, 0⟩ }
    ∃ t, exec .dayRollover s = .next t ∧
      posts { postedUnit s .system none (some d) .part (.dayClose s.site.businessDay s.site.dayTotals) v with
        summary := some ⟨s.site.businessDay, s.site.dayTotals, some d, some s.journal.nextSeq⟩ }
        s.journal.reservations s t ∧
      onlyLevels s t ∧ keepsAllBut [.site, .buffer, .journal, .conditions] s t := by
  intro v
  have step := dayRollover_exec takes now later
  rw [rollover_quiet now unreached unquoted] at step
  obtain ⟨⟨buffer, site, journal⟩, levels, kept⟩ := dayClose_posts (x := beginDay d.day s) commissioned room free
    ⟨s.site.businessDay, s.site.dayTotals, some d, none⟩
  have now' : (beginDay d.day s).now = some d := now
  rw [now', beginDay_commissioned d.day commissioned] at buffer
  rw [beginDay_commissioned d.day commissioned] at site
  have toX := keepsAllBut_trans (keepsAllBut_mono (beginDay_keeps d.day s) (by simp)) kept
  have restX := holdAtRest_of_joined atRest toX (by simp) buffer
  have settled := settle_keeps restX
  exact ⟨_, step, ⟨(settled .buffer (by simp)).trans buffer, (settled .site (by simp)).trans site,
    (settled .journal (by simp)).trans journal⟩, settle_onlyLevels (onlyLevels_congr levels rfl rfl),
    keepsAllBut_settle restX toX⟩

theorem dayRollover_postsWithoutEntry (commissioned : s.commissioned = true) (room : s.postsAtOnce = true)
    (full : s.salesFree = 0) :
    let v : SiteState := { s.site with businessDay := d.day, dayTotals := ⟨0, 0, 0, 0, 0⟩ }
    ∃ t, exec .dayRollover s = .next t ∧
      t.site = { v with unlogged := min 4294967295 (s.site.unlogged + 1) } ∧
      t.buffer = s.buffer ++
        [⟨.system, none, none, some ⟨s.site.businessDay, s.site.dayTotals, some d, none⟩, t.site⟩] ∧
      keepsAllBut [.site, .buffer] s t := by
  intro v
  have step := dayRollover_exec takes now later
  rw [rollover_quiet now unreached unquoted] at step
  obtain ⟨site, buffer, kept⟩ := dayClose_withoutEntry (x := beginDay d.day s) commissioned room full
    ⟨s.site.businessDay, s.site.dayTotals, some d, none⟩
  rw [beginDay_commissioned d.day commissioned] at site
  have toX := keepsAllBut_trans (keepsAllBut_mono (beginDay_keeps d.day s) (by simp)) kept
  have restX := holdAtRest_of_joined atRest toX (by simp) buffer
  have settled := settle_keeps restX
  refine ⟨_, step, (settled .site (by simp)).trans site, ?_, keepsAllBut_settle restX toX⟩
  rw [show (Machine.settle _).site = _ from settled .site (by simp)]
  exact (settled .buffer (by simp)).trans buffer

theorem dayRollover_waits (commissioned : s.commissioned = true) (room : s.postsAtOnce = false)
    (free : 0 < s.salesFree) :
    ∃ t, exec .dayRollover s = .next t ∧
      t.waiters = s.waiters ++ [⟨.dayClose ⟨s.site.businessDay, s.site.dayTotals, some d, none⟩, true⟩] ∧
      t.site = { s.site with businessDay := d.day, dayTotals := ⟨0, 0, 0, 0, 0⟩ } ∧
      t.journal = ⟨s.journal.nextSeq, s.journal.reservations + 1⟩ ∧ onlyLevels s t ∧
      keepsAllBut [.site, .waiters, .journal, .conditions] s t := by
  have step := dayRollover_exec takes now later
  rw [rollover_quiet now unreached unquoted] at step
  obtain ⟨waiters, site, journal, levels, kept⟩ := dayClose_waits (x := beginDay d.day s) commissioned room free
    ⟨s.site.businessDay, s.site.dayTotals, some d, none⟩
  rw [beginDay_commissioned d.day commissioned] at site
  have toX := keepsAllBut_trans (keepsAllBut_mono (beginDay_keeps d.day s) (by simp)) (keepsAllBut_mono kept
    (m := [.site, .waiters, .journal, .conditions]) (by simp))
  have restX := holdAtRest_of_kept atRest toX (by simp)
  have settled := settle_keeps restX
  exact ⟨_, step, (settled .waiters (by simp)).trans waiters, (settled .site (by simp)).trans site,
    (settled .journal (by simp)).trans journal, settle_onlyLevels (onlyLevels_congr levels rfl rfl),
    keepsAllBut_settle restX toX⟩

end

/-! ### DAY_ROLLOVER on a BLANK part (R34, R154) -/

section

variable (atRest : s.holdAtRest) (takes : s.takesArisings = true) (now : s.now = some d)
  (later : s.site.businessDay < d.day) (unquoted : ∀ k, (s.slot k).unquoted) (blank : s.commissioned = false)

include atRest takes now later unquoted blank

theorem dayRollover_posts_blank (unreached : s.unreached d.day) (room : s.postsAtOnce = true) :
    let v : SiteState := { s.site with businessDay := d.day }
    ∃ t, exec .dayRollover s = .next t ∧ t.site = v ∧ t.buffer = s.buffer ++ [⟨.system, none, none, none, v⟩] ∧
      keepsAllBut [.site, .buffer] s t := by
  intro v
  have step := dayRollover_exec takes now later
  rw [rollover_quiet now unreached unquoted] at step
  generalize Job.dayClose ⟨s.site.businessDay, s.site.dayTotals, some d, none⟩ = j at step
  obtain ⟨buffer, kept⟩ := postSystemEntry_image (s := beginDay d.day s) blank room j true
  rw [beginDay_blank d.day blank] at buffer
  have toX := keepsAllBut_trans (keepsAllBut_mono (beginDay_keeps d.day s) (by simp)) (keepsAllBut_mono kept
    (m := [.site, .buffer]) (by simp))
  have restX := holdAtRest_of_joined atRest toX (by simp) buffer
  have settled := settle_keeps restX
  have site : (postSystemEntry j true (beginDay d.day s)).site = v :=
    (kept .site (by simp)).trans (beginDay_blank d.day blank)
  exact ⟨_, step, (settled .site (by simp)).trans site, (settled .buffer (by simp)).trans buffer,
    keepsAllBut_settle restX toX⟩

theorem dayRollover_waits_blank (unreached : s.unreached d.day) (full : s.postsAtOnce = false) :
    let v : SiteState := { s.site with businessDay := d.day }
    ∃ t, exec .dayRollover s = .next t ∧ t.site = v ∧ t.waiters = s.waiters ++ [⟨.imageOnly, false⟩] ∧
      keepsAllBut [.site, .waiters] s t := by
  intro v
  have step := dayRollover_exec takes now later
  rw [rollover_quiet now unreached unquoted] at step
  generalize Job.dayClose ⟨s.site.businessDay, s.site.dayTotals, some d, none⟩ = j at step
  obtain ⟨waiters, kept⟩ := postSystemEntry_imageWaits (s := beginDay d.day s) blank full j true
  have toX := keepsAllBut_trans (keepsAllBut_mono (beginDay_keeps d.day s) (by simp)) (keepsAllBut_mono kept
    (m := [.site, .waiters]) (by simp))
  have restX := holdAtRest_of_kept atRest toX (by simp)
  have settled := settle_keeps restX
  have site : (postSystemEntry j true (beginDay d.day s)).site = v :=
    (kept .site (by simp)).trans (beginDay_blank d.day blank)
  exact ⟨_, step, (settled .site (by simp)).trans site, (settled .waiters (by simp)).trans waiters,
    keepsAllBut_settle restX toX⟩

/-- The shift's unit and the day's post one behind the other, both with the image the shift left (R34, R154). -/
theorem dayRollover_shifts_blank {p : PendingSet} (pending : s.site.pendingSet = some p)
    (reached : p.effectiveDay ≤ d.day) (alone : s.waiters = []) (short : s.buffer.length < 3) :
    let w : SiteState := SiteState.shifted { s.site with businessDay := d.day } p
    ∃ t, exec .dayRollover s = .next t ∧ t.site = w ∧
      t.buffer = s.buffer ++ [⟨.system, none, none, none, w⟩, ⟨.system, none, none, none, w⟩] ∧
      (∀ c, t.latched c = if c = .tariffShifted then true else s.latched c) ∧
      t.conditions.tillSet = s.conditions.tillSet ∧ keepsAllBut [.site, .buffer, .conditions] s t := by
  intro w
  have begun := beginDay_blank d.day blank
  have toZ := keepsAllBut_trans (keepsAllBut_mono (m := [.site, .conditions]) (beginDay_keeps d.day s) (by simp))
    (tariffShifted_keeps p (beginDay d.day s))
  have latches := tariffShifted_latched (s := beginDay d.day s) p takes
  have site : (tariffShifted p (beginDay d.day s)).site = w := by rw [tariffShifted_site, begun]
  have tills : (tariffShifted p (beginDay d.day s)).conditions.tillSet = s.conditions.tillSet := arise_tillSet _ _
  have step := dayRollover_exec takes now later
  rw [rollover_eq now, slotsRolled_unquoted (s := beginDay d.day s) unquoted,
    tariffRollover_reached (s := beginDay d.day s) (p := p) pending reached] at step
  generalize tariffShifted p (beginDay d.day s) = z at *
  generalize Job.tariffShift _ p.effectiveDay = j1 at step
  generalize Job.dayClose _ = j2 at step
  have buffer : z.buffer = s.buffer := toZ .buffer (by simp)
  have waiters : z.waiters = [] := (toZ .waiters (by simp)).trans alone
  have blankZ : z.commissioned = false := by rw [State.commissioned, site]; exact blank
  obtain ⟨buffer1, kept1⟩ := postSystemEntry_image blankZ
    (postsAtOnce_of_short waiters (by rw [buffer]; omega)) j1 false
  generalize postSystemEntry j1 false z = y at *
  have site1 : y.site = w := (kept1 .site (by simp)).trans site
  have waiters1 : y.waiters = [] := (kept1 .waiters (by simp)).trans waiters
  have blankY : y.commissioned = false := by rw [State.commissioned, site1]; exact blank
  obtain ⟨buffer2, kept2⟩ := postSystemEntry_image blankY
    (postsAtOnce_of_short waiters1 (by simp [buffer1, buffer]; omega)) j2 true
  generalize postSystemEntry j2 true y = x at *
  have joined : x.buffer = s.buffer ++ [⟨.system, none, none, none, w⟩, ⟨.system, none, none, none, w⟩] := by
    rw [buffer2, buffer1, buffer, site1, site, List.append_assoc]
    rfl
  have fromZ : keepsAllBut [.buffer] z x := keepsAllBut_trans kept1 kept2
  have toX := keepsAllBut_trans (keepsAllBut_mono toZ (by simp)) (keepsAllBut_mono fromZ
    (m := [.site, .buffer, .conditions]) (by simp))
  have restX := holdAtRest_of_joined atRest toX (by simp) joined
  have settled := settle_keeps restX
  have conditions : (settle x).conditions = z.conditions :=
    (settled .conditions (by simp)).trans (fromZ .conditions (by simp))
  refine ⟨_, step, ?_, (settled .buffer (by simp)).trans joined, fun c => ?_, by rw [conditions, tills],
    keepsAllBut_settle restX toX⟩
  · exact (settled .site (by simp)).trans ((fromZ .site (by simp)).trans site)
  · rw [State.latched, conditions]
    exact latches c

end

/-! ### A waiting unit of the rollover at the room of a verified write (R123) -/

/-- A unit without an entry enters the buffer as the image alone (R34, R154). -/
theorem addUnit_image (kind : UnitKind) (s : State) : let t := addUnit kind none none none s
    takesRoom ⟨kind, none, none, none, s.site⟩ s t ∧ onlyLevels s t ∧
      keepsAllBut [.site, .buffer, .journal, .conditions] s t :=
  ⟨⟨rfl, rfl, rfl⟩, addUnit_levels _ _ _ _ s, addUnit_keeps _ _ _ _ s⟩

/-- A SYSTEM unit with no test takes the room that the verified write offers it. -/
theorem systemUnit_atRoom (running : s.running = true) (buffer : s.buffer = u :: rest) (short : rest.length < 4)
    {w : Waiter} {ws : List Waiter} (waiters : s.waiters = w :: ws)
    (service : s.store.service = .writing ∨ s.store.service = .rewriting) {v : State → CommitUnit}
    (test : ∀ x, postingTest w.job x = none)
    (runs : ∀ x, takesRoom (v x) x (runJob w x) ∧ onlyLevels x (runJob w x) ∧
      keepsAllBut [.site, .buffer, .journal, .conditions] x (runJob w x))
    (same : ∀ x, x.journal = s.journal → x.site = s.site → x.calendar = s.calendar → v x = v s) :
    ∃ t, exec (.unitWriteComplete .verified) s = .next t ∧ takesRoom (v s) { s with buffer := rest } t ∧
      t.waiters = ws ∧ stored u s t ∧ linesAfterStore u s t ∧ onlyLevels s t ∧
      keepsAllBut [.areas, .lines, .buffer, .waiters, .site, .journal, .conditions] s t := by
  obtain ⟨tail, areas, lines, levels, toX⟩ := unitStored_spec u s
  have step := unitWriteVerified_exec running buffer service
  generalize unitStored u s = x at *
  have bufferX : x.buffer = rest := by rw [tail, buffer, List.tail_cons]
  rw [offerRoom_posts ((toX .waiters (by simp)).trans waiters) (by rw [bufferX]; exact short) (test _)] at step
  obtain ⟨⟨joins, image, counts⟩, more, posts⟩ := runs { x with waiters := ws }
  have journal : x.journal = s.journal := toX .journal (by simp)
  rw [same { x with waiters := ws } journal (toX .site (by simp)) (toX .clock (by simp)).1] at joins image counts
  generalize runJob w { x with waiters := ws } = z at *
  have toZ : keepsAllBut [.waiters, .site, .buffer, .journal, .conditions] x z :=
    keepsAllBut_trans (keepsAllBut_mono (waiters_keeps x ws) (by simp)) (keepsAllBut_mono posts (by simp))
  have all := keepsAllBut_trans (keepsAllBut_mono (m := [.areas, .lines, .buffer, .waiters, .site, .journal,
    .conditions]) toX (by simp)) (keepsAllBut_mono toZ (by simp))
  have restZ : z.holdAtRest := fun _ => by rw [joins]; simp
  refine ⟨_, step, ⟨?_, ?_, ?_⟩, ?_, settle_stored (stored_of_kept areas toZ (by simp)),
    settle_lines (linesAfterStore_of_kept lines toZ (by simp)),
    settle_onlyLevels (onlyLevels_trans levels (onlyLevels_congr more rfl rfl)), keepsAllBut_settle restZ all⟩
  · simpa [bufferX] using joins
  · simpa using image
  · simpa [journal] using counts
  · exact (settle_part_same restZ .waiters).trans (posts .waiters (by simp))

end

/-- Settles O55: the rollover of a COMMISSIONED and of a BLANK part, a waiting unit of it at the room of a verified
write, and the event that finds no later day. -/
theorem dayRollover : Obligations.DayRollover := by
  intro s atRest
  refine ⟨fun d takes now later => ⟨fun commissioned => ⟨?_, fun unreached unquoted => ⟨fun room free => ?_,
    fun room full => ?_, fun full free => ?_⟩⟩, fun blank unquoted => ⟨fun unreached room => ?_,
    fun unreached full => ?_, fun p pending reached alone short => ?_⟩⟩,
    fun w ws u rest running buffer short waiters service => ⟨fun c waiting => ?_, fun waiting => ?_⟩,
    fun idle => ⟨_, dayRollover_idle idle, settle_keeps atRest⟩⟩
  · obtain ⟨t, step, rolled⟩ := dayRollover_rollsOver atRest takes now later commissioned
    exact ⟨t, step, rolled.businessDay, rolled.dayTotals, rolled.units,
      fun k opened q quote => (rolled.slot k).trans (VendSlot.rolledOver_opened opened quote),
      fun k quoting => (rolled.slot k).trans (VendSlot.rolledOver_abandoned quoting), rolled.shifts, rolled.stays⟩
  · exact dayRollover_posts atRest takes now later unreached unquoted commissioned room free
  · exact dayRollover_postsWithoutEntry atRest takes now later unreached unquoted commissioned room full
  · exact dayRollover_waits atRest takes now later unreached unquoted commissioned full free
  · exact dayRollover_posts_blank atRest takes now later unquoted blank unreached room
  · exact dayRollover_waits_blank atRest takes now later unquoted blank unreached full
  · obtain ⟨t, step, site, joined, latches, tills, kept⟩ :=
      dayRollover_shifts_blank atRest takes now later unquoted blank pending reached alone short
    simp only [pending, Option.map_some, Option.getD_some]
    exact ⟨t, step, site, joined, by simp [latches], fun c other => by simp [latches, other], tills, kept⟩
  · subst waiting
    obtain ⟨t, step, ⟨joined, image, counts⟩, left, areas, lines, levels, kept⟩ :=
      systemUnit_atRoom running buffer short waiters service (fun _ => rfl)
        (fun x => addUnit_system true (.dayClose c.day c.counts) (some c) x)
        (fun x journal site calendar => by simp only [postedUnit, State.now, journal, site, calendar])
    exact ⟨t, step, left, joined, image, counts, areas, lines, levels, kept⟩
  · subst waiting
    obtain ⟨t, step, ⟨joined, image, counts⟩, left, areas, lines, levels, kept⟩ :=
      systemUnit_atRoom running buffer short waiters service (fun _ => rfl)
        (fun x => addUnit_image .system x) (fun x _ site _ => by rw [site])
    exact ⟨t, step, left, joined, image, counts, areas, lines, levels, kept⟩

end Sys2Proof.Machine
end

section
/-! SUPPORT. The posting of a CLOCK_SET's unit, and the rollover of a later day behind it (R147, R149). -/

namespace Sys2Proof.Machine

section

variable {s x t : State} {o : Outstanding} {d value : DateTime} {old : Option DateTime} {elapsed : Nat} {b : Bool}
  {tag : Byte} {body : List Byte} {u : CommitUnit} {rest : List CommitUnit} {l : List Part}

/-! ### The unit posts, and the Calendar takes the date-time -/

/-- The unit of a CLOCK_SET: on a BLANK part it carries no entry (R149). -/
def clockUnit (b : Bool) (old : Option DateTime) (d : DateTime) (s : State) : CommitUnit :=
  if b = true then postedUnit s .journalOnly none (some d) .office (.clockSet old d) s.site
  else ⟨.journalOnly, none, none, none, s.site⟩

/-- A CLOCK_SET posted, before the rollover that a later day takes (R149). -/
def clockPosted (b : Bool) (old : Option DateTime) (d : DateTime) (s : State) : State :=
  reportLevels (postSetting b (.clockSet old d) { s with calendar := ⟨some d, true⟩, cell := ⟨true, some d⟩ })

/-- The parts that a posted CLOCK_SET changes. -/
abbrev clockParts : List Part := [.site, .buffer, .journal, .clock, .conditions]

/-- The Calendar and the backup cell have taken the date-time (R149). -/
abbrev State.clockAt (s : State) (d : DateTime) : Prop := s.calendar = ⟨some d, true⟩ ∧ s.cell = ⟨true, some d⟩

theorem clockPosted_spec (b : Bool) (old : Option DateTime) (d : DateTime) (s : State) : let y := clockPosted b old d s
    takesRoom (clockUnit b old d s) s y ∧ y.clockAt d ∧ onlyLevels s y ∧ keepsAllBut clockParts s y := by
  have clock := clock_keeps s ⟨some d, true⟩ ⟨true, some d⟩
  have added := addUnit_keeps .journalOnly none (entryIf b .office (.clockSet old d)) none
    { s with calendar := ⟨some d, true⟩, cell := ⟨true, some d⟩ }
  have levels := addUnit_levels .journalOnly none (entryIf b .office (.clockSet old d)) none
    { s with calendar := ⟨some d, true⟩, cell := ⟨true, some d⟩ }
  refine ⟨?_, ⟨by simp [clockPosted, postSetting], by simp [clockPosted, postSetting]⟩, ?_, ?_⟩
  · cases b <;> simp [takesRoom, clockPosted, postSetting, addUnit, entryIf, clockUnit, postedUnit, State.now]
  · exact onlyLevels_trans (onlyLevels_congr levels rfl rfl) (onlyLevels_report rfl)
  · exact keepsAllBut_trans (keepsAllBut_mono clock (by simp)) (keepsAllBut_trans (keepsAllBut_mono added (by simp))
      (keepsAllBut_mono (reportLevels_keeps _) (by simp)))

/-- The business day and the day totals stand in the unit's image as in the state (R120). -/
theorem clockUnit_image (b : Bool) (old : Option DateTime) (d : DateTime) (s : State) :
    (clockUnit b old d s).image = { s.site with unlogged := if b = true then 0 else s.site.unlogged } := by
  cases b <;> simp [clockUnit, postedUnit]

theorem clockUnit_entry (b : Bool) (old : Option DateTime) (d : DateTime) (s : State) :
    (clockUnit b old d s).entry.isSome = b := by cases b <;> rfl

theorem clockPosted_now (b : Bool) (old : Option DateTime) (d : DateTime) (s : State) :
    (clockPosted b old d s).now = some d := by
  obtain ⟨-, ⟨calendar, -⟩, -⟩ := clockPosted_spec b old d s
  simp [State.now, calendar]

theorem clockPosted_site (b : Bool) (old : Option DateTime) (d : DateTime) (s : State) :
    (clockPosted b old d s).site = { s.site with unlogged := if b = true then 0 else s.site.unlogged } := by
  obtain ⟨⟨-, image, -⟩, -⟩ := clockPosted_spec b old d s
  exact image.trans (clockUnit_image b old d s)

theorem clockPosted_due (b : Bool) (old : Option DateTime) (d : DateTime) (s : State) :
    (clockPosted b old d s).rolloverDue = decide (s.site.businessDay < d.day) := by
  simp [State.rolloverDue, clockPosted_now, clockPosted_site]

/-! ### The posting of the request -/

/-- A CLOCK_SET posted, with the rollover of a later day (R149). -/
def clockRolled (b : Bool) (old : Option DateTime) (d : DateTime) (s : State) : State :=
  if s.site.businessDay < d.day then rollover (clockPosted b old d s) else clockPosted b old d s

theorem clockRolled_sameDay (b : Bool) (old : Option DateTime) (same : d.day = s.site.businessDay) :
    clockRolled b old d s = clockPosted b old d s := if_neg (Nat.not_lt.2 same.le)

theorem clockRolled_later (b : Bool) (old : Option DateTime) (later : s.site.businessDay < d.day) :
    clockRolled b old d s = rollover (clockPosted b old d s) := if_pos later

/-- The rollover has moved the business day on to the Calendar's (R147, R149). -/
theorem clockRolled_day (b : Bool) (old : Option DateTime) (ahead : s.site.businessDay ≤ d.day) :
    (clockRolled b old d s).site.businessDay = d.day := by
  rcases ahead.lt_or_eq with later | same
  · rw [clockRolled_later b old later, rollover_day (clockPosted_now b old d s)]
  · rw [clockRolled_sameDay b old same.symm, clockPosted_site]
    exact same

theorem postClockSet_eq (taken : addSeconds value elapsed = d) (ahead : s.site.businessDay ≤ d.day) :
    postClockSet b old value elapsed s =
      officeReply (.clockOk d d.day (decide (s.site.businessDay < d.day)) (seqIf b s)) (clockRolled b old d s) := by
  have posted : postClockSet b old value elapsed s =
      (let z := if (clockPosted b old d s).rolloverDue then rollover (clockPosted b old d s)
        else clockPosted b old d s
      officeReply (.clockOk d z.site.businessDay (clockPosted b old d s).rolloverDue (seqIf b s)) z) := by
    rw [← taken]
    rfl
  rw [clockPosted_due] at posted
  simp only [decide_eq_true_eq] at posted
  change _ = officeReply (.clockOk d (clockRolled b old d s).site.businessDay _ _) (clockRolled b old d s) at posted
  rw [posted, clockRolled_day b old ahead]

theorem clockRolled_keeps (b : Bool) (old : Option DateTime) (d : DateTime) (s : State) :
    keepsAllBut (.clock :: rolledParts) s (clockRolled b old d s) := by
  obtain ⟨-, -, -, kept⟩ := clockPosted_spec b old d s
  unfold clockRolled
  split
  · exact keepsAllBut_trans (keepsAllBut_mono kept (by simp)) (keepsAllBut_mono (rollover_keeps _) (by simp))
  · exact keepsAllBut_mono kept (by simp)

/-- The date-time that stands in the Calendar outlives the rollover. -/
theorem clockRolled_clockAt (b : Bool) (old : Option DateTime) (d : DateTime) (s : State) :
    (clockRolled b old d s).clockAt d := by
  obtain ⟨-, clock, -, -⟩ := clockPosted_spec b old d s
  unfold clockRolled
  split
  · exact ⟨by simpa using clock.1, by simpa using clock.2⟩
  · exact clock

/-- The request answered: the state it leaves is the posting's, but for the office port (R149, R199). -/
theorem clockSet_answered (served : OfficeServed x o) (taken : addSeconds value elapsed = d)
    (ahead : x.site.businessDay ≤ d.day) (posted : (clockRolled b old d x).buffer ≠ []) :
    let t := settle (postClockSet b old value elapsed x)
    replied .office o.tag (.clockOk d d.day (decide (x.site.businessDay < d.day)) (seqIf b x)) x t ∧
      keepsAllBut [.outstanding .office, .replies .office] (clockRolled b old d x) t := by
  rw [postClockSet_eq taken ahead]
  have rest : (clockRolled b old d x).holdAtRest := fun _ => posted
  have kept := clockRolled_keeps b old d x
  obtain ⟨reply, -⟩ := served.answered (.clockOk d d.day (decide (x.site.businessDay < d.day)) (seqIf b x)) kept
    (by simp) (by simp) (by simp) (by simp) rest
  obtain ⟨-, same⟩ := (served.of_kept kept (by simp) (by simp) (by simp)).answered
    (.clockOk d d.day (decide (x.site.businessDay < d.day)) (seqIf b x)) (keepsAllBut_refl [] _) (by simp) (by simp)
    (by simp) (by simp) rest
  exact ⟨reply, same⟩

theorem takesRoom_of_kept {v : CommitUnit} (h : takesRoom v s x) (kept : keepsAllBut l x t)
    (hl : Part.buffer ∉ l ∧ Part.site ∉ l ∧ Part.journal ∉ l) : takesRoom v s t := by
  obtain ⟨joins, image, counts⟩ := h
  exact ⟨(kept .buffer hl.1).trans joins, (kept .site hl.2.1).trans image, (kept .journal hl.2.2).trans counts⟩

theorem clockAt_of_kept (h : x.clockAt d) (kept : keepsAllBut l x t) (hl : Part.clock ∉ l) : t.clockAt d := by
  obtain ⟨calendar, cell⟩ := kept .clock hl
  exact ⟨calendar.trans h.1, cell.trans h.2⟩

/-- A CLOCK_SET to the business day (R149). -/
theorem clockSet_sameDay (served : OfficeServed x o) (taken : addSeconds value elapsed = d)
    (same : d.day = x.site.businessDay) : let t := settle (postClockSet b old value elapsed x)
    takesRoom (clockUnit b old d x) x t ∧ t.clockAt d ∧
      replied .office o.tag (.clockOk d d.day false (seqIf b x)) x t ∧ onlyLevels x t ∧
      keepsAllBut (clockParts ++ [.outstanding .office, .replies .office]) x t := by
  obtain ⟨room, clock, levels, kept⟩ := clockPosted_spec b old d x
  have rolled := clockRolled_sameDay b old same
  obtain ⟨reply, answered⟩ := clockSet_answered (b := b) (old := old) served taken same.ge
    (by simp [rolled, room.1])
  rw [rolled] at answered
  rw [decide_eq_false (Nat.not_lt.2 same.le)] at reply
  refine ⟨takesRoom_of_kept room answered (by simp), clockAt_of_kept clock answered (by simp), reply, ?_,
    keepsAllBut_trans (keepsAllBut_mono kept (by simp)) (keepsAllBut_mono answered (by simp))⟩
  exact onlyLevels_trans levels (onlyLevels_of_conditions (answered .conditions (by simp)))

/-- With no quote to close and no set to shift the day's unit alone follows (R154). -/
theorem clockPosted_rollover_quiet (unreached : x.unreached d.day) (unquoted : ∀ k, (x.slot k).unquoted) (b : Bool)
    (old : Option DateTime) : rollover (clockPosted b old d x) =
    postSystemEntry (.dayClose ⟨x.site.businessDay, x.site.dayTotals, some d, none⟩) true
      (beginDay d.day (clockPosted b old d x)) := by
  obtain ⟨-, -, -, kept⟩ := clockPosted_spec b old d x
  have site := clockPosted_site b old d x
  have slots (k : Till) : (clockPosted b old d x).slot k = x.slot k := kept (.slot k) (by simp)
  rw [rollover_quiet (clockPosted_now b old d x) (by simpa only [State.unreached, site] using unreached)
    fun k => by rw [slots]; exact unquoted k, site]

section

variable (served : OfficeServed x o) (taken : addSeconds value elapsed = d) (later : x.site.businessDay < d.day)

include served taken later

/-- A CLOCK_SET to a later day is answered behind its rollover (R147, R149). -/
theorem clockSet_laterDay (posted : (rollover (clockPosted b old d x)).buffer ≠ []) :
    let t := settle (postClockSet b old value elapsed x)
    t.clockAt d ∧ replied .office o.tag (.clockOk d d.day true (seqIf b x)) x t ∧
      keepsAllBut [.outstanding .office, .replies .office] (rollover (clockPosted b old d x)) t := by
  have rolled := clockRolled_later b old later
  obtain ⟨reply, answered⟩ := clockSet_answered (b := b) (old := old) served taken later.le
    (by rw [rolled]; exact posted)
  have clock := clockAt_of_kept (clockRolled_clockAt b old d x) answered (by simp)
  rw [rolled] at answered
  rw [decide_eq_true later] at reply
  exact ⟨clock, reply, answered⟩

/-- On a COMMISSIONED part (R33, R76, R154). -/
theorem clockSet_rollsOver (commissioned : x.commissioned = true) :
    let t := settle (postClockSet b old value elapsed x)
    t.clockAt d ∧ RolledOver d (clockPosted b old d x) t ∧
      replied .office o.tag (.clockOk d d.day true (seqIf b x)) x t ∧
      keepsAllBut (.clock :: rolledParts ++ [.outstanding .office, .replies .office]) x t := by
  obtain ⟨⟨joins, image, -⟩, -, -, kept⟩ := clockPosted_spec b old d x
  have takes : (clockPosted b old d x).takesArisings = true :=
    (takesArisings_congr (kept .supply (by simp))).trans (running_takes (receives_running served.receives))
  have commissioned' : (clockPosted b old d x).commissioned = true := by
    rw [State.commissioned, clockPosted_site]
    exact commissioned
  have rolled := rollover_spec (clockPosted_now b old d x) takes commissioned'
  obtain ⟨clock, reply, answered⟩ :=
    clockSet_laterDay (b := b) (old := old) served taken later (rolled.nonempty (by simp [joins]))
  exact ⟨clock, rolled.of_kept answered (by simp), reply,
    keepsAllBut_trans (keepsAllBut_mono kept (by simp)) (keepsAllBut_trans
      (keepsAllBut_mono (rollover_keeps _) (by simp)) (keepsAllBut_mono answered (by simp)))⟩

section

variable (unreached : x.unreached d.day) (unquoted : ∀ k, (x.slot k).unquoted)

include unreached unquoted

/-- On a COMMISSIONED part with no quote to close and no set to shift the DAY_CLOSE unit stands behind the CLOCK_SET's
(R154). -/
theorem clockSet_closesDay (commissioned : x.commissioned = true)
    (room : (clockPosted true old d x).postsAtOnce = true) (free : 0 < (clockPosted true old d x).salesFree) :
    let t := settle (postClockSet true old value elapsed x)
    let site : SiteState := { x.site with businessDay := d.day, dayTotals := ⟨0, 0, 0, 0, 0⟩, unlogged := 0 }
    let n := x.journal.nextSeq
    t.buffer = x.buffer ++ [clockUnit true old d x,
      ⟨.system, none, some ⟨n + 1, some d, .part, none, .dayClose x.site.businessDay x.site.dayTotals⟩,
        some ⟨x.site.businessDay, x.site.dayTotals, some d, some (n + 1)⟩, site⟩] ∧
      t.site = site ∧ t.journal = ⟨n + 2, x.journal.reservations - 1⟩ ∧ t.clockAt d ∧
      replied .office o.tag (.clockOk d d.day true (some n)) x t ∧ onlyLevels x t ∧
      keepsAllBut (clockParts ++ [.outstanding .office, .replies .office]) x t := by
  intro t site n
  obtain ⟨⟨joins, image, counts⟩, -, levels, kept⟩ := clockPosted_spec true old d x
  have now := clockPosted_now true old d x
  have siteY := clockPosted_site true old d x
  have quiet := clockPosted_rollover_quiet unreached unquoted true old
  have commissioned' : (clockPosted true old d x).commissioned = true := by
    rw [State.commissioned, siteY]
    exact commissioned
  have answers := clockSet_laterDay (b := true) (old := old) served taken later
  generalize clockPosted true old d x = y at *
  have begun : (beginDay d.day y).site = site := by
    rw [beginDay_commissioned d.day commissioned', siteY]
    rfl
  obtain ⟨⟨joins2, image2, counts2⟩, levels2, kept2⟩ := dayClose_posts (x := beginDay d.day y) commissioned' room free
    ⟨x.site.businessDay, x.site.dayTotals, some d, none⟩
  rw [← quiet] at joins2 image2 counts2 levels2 kept2
  obtain ⟨clock, reply, answered⟩ := answers (by simp [joins2])
  rw [show (beginDay d.day y).now = some d from now, begun] at joins2
  rw [begun] at image2
  have counts' : y.journal = ⟨n + 1, x.journal.reservations - 1⟩ := counts
  refine ⟨?_, (answered .site (by simp)).trans image2, ?_, clock, reply, ?_, ?_⟩
  · refine (answered .buffer (by simp)).trans (joins2.trans ?_)
    rw [show (beginDay d.day y).buffer = y.buffer from rfl, joins, List.append_assoc]
    simp [postedUnit, counts', site]
  · refine (answered .journal (by simp)).trans (counts2.trans ?_)
    simp [counts']
  · exact onlyLevels_trans levels (onlyLevels_trans (onlyLevels_congr levels2 rfl rfl)
      (onlyLevels_of_conditions (answered .conditions (by simp))))
  · exact keepsAllBut_trans (keepsAllBut_mono kept (by simp)) (keepsAllBut_trans
      (keepsAllBut_mono (beginDay_keeps d.day y) (by simp)) (keepsAllBut_trans (keepsAllBut_mono kept2 (by simp))
        (keepsAllBut_mono answered (by simp))))

/-- On a BLANK part the image alone posts behind the CLOCK_SET's (R149, R154). -/
theorem clockSet_laterDay_blank (blank : x.commissioned = false)
    (room : (clockPosted false old d x).postsAtOnce = true) :
    let t := settle (postClockSet false old value elapsed x)
    let site : SiteState := { x.site with businessDay := d.day }
    t.buffer = x.buffer ++ [⟨.journalOnly, none, none, none, x.site⟩, ⟨.system, none, none, none, site⟩] ∧
      t.site = site ∧ t.journal = x.journal ∧ t.clockAt d ∧
      replied .office o.tag (.clockOk d d.day true none) x t ∧ onlyLevels x t ∧
      keepsAllBut (clockParts ++ [.outstanding .office, .replies .office]) x t := by
  intro t site
  obtain ⟨⟨joins, -, counts⟩, -, levels, kept⟩ := clockPosted_spec false old d x
  have siteY := clockPosted_site false old d x
  have quiet := clockPosted_rollover_quiet unreached unquoted false old
  have blankY : (clockPosted false old d x).commissioned = false := by
    rw [State.commissioned, siteY]
    exact blank
  have answers := clockSet_laterDay (b := false) (old := old) served taken later
  generalize clockPosted false old d x = y at *
  have begun : (beginDay d.day y).site = site := by
    rw [beginDay_blank d.day blankY, siteY]
    rfl
  obtain ⟨joins2, kept2⟩ := postSystemEntry_image (s := beginDay d.day y) blankY room
    (.dayClose ⟨x.site.businessDay, x.site.dayTotals, some d, none⟩) true
  rw [← quiet] at joins2 kept2
  obtain ⟨clock, reply, answered⟩ := answers (by simp [joins2])
  rw [begun] at joins2
  have fromY : keepsAllBut [.site, .buffer, .outstanding .office, .replies .office] y t :=
    keepsAllBut_trans (keepsAllBut_mono (beginDay_keeps d.day y) (by simp))
      (keepsAllBut_trans (keepsAllBut_mono kept2 (by simp)) (keepsAllBut_mono answered (by simp)))
  refine ⟨?_, ?_, ?_, clock, reply, ?_, ?_⟩
  · refine (answered .buffer (by simp)).trans (joins2.trans ?_)
    rw [show (beginDay d.day y).buffer = y.buffer from rfl, joins, List.append_assoc]
    rfl
  · exact (answered .site (by simp)).trans ((kept2 .site (by simp)).trans begun)
  · exact (fromY .journal (by simp)).trans counts
  · exact onlyLevels_trans levels (onlyLevels_of_conditions (fromY .conditions (by simp)))
  · exact keepsAllBut_trans (keepsAllBut_mono kept (by simp)) (keepsAllBut_mono fromY (by simp))

end

end

end

end Sys2Proof.Machine
end

section
/-! SUPPORT. CLOCK_SET as a request: at once, refused, or waiting (R121, R122, R148, R149). -/

namespace Sys2Proof.Machine

section

variable {s x t : State} {o : Outstanding} {d value : DateTime} {old : Option DateTime} {elapsed : Nat} {b : Bool}
  {tag : Byte} {body : List Byte} {u : CommitUnit} {rest : List CommitUnit} {l : List Part}


/-- The state in which a taken CLOCK_SET posts: on a COMMISSIONED part its entry has its reservation (R134, R149). -/
def clockServing (b : Bool) (tag : Byte) (s : State) : State :=
  if b = true then takeReservation (s.serving .office kindClockSet tag) else s.serving .office kindClockSet tag

theorem clockServing_spec (b : Bool) (takes : s.takes .office tag body) : let x := clockServing b tag s
    OfficeServed x ⟨tag, kindClockSet⟩ ∧
      x.journal = ⟨s.journal.nextSeq, s.journal.reservations + if b = true then 1 else 0⟩ ∧ onlyLevels s x ∧
      keepsAllBut [.journal, .conditions, .outstanding .office] s x := by
  have serving := serving_keeps s .office kindClockSet tag
  have served : OfficeServed (s.serving .office kindClockSet tag) ⟨tag, kindClockSet⟩ :=
    ⟨receives_of takes.1 (by simp) (serving_link s _ _ _ _), serving_outstanding s _ _⟩
  have levels := serving_levels s .office kindClockSet tag
  cases b with
  | false => exact ⟨served, serving .journal (by simp), levels, keepsAllBut_mono serving (by simp)⟩
  | true =>
    have taken := takeReservation_keeps (s.serving .office kindClockSet tag)
    refine ⟨served.of_kept taken (by simp) (by simp) (by simp), ?_,
      onlyLevels_trans levels (takeReservation_levels _),
      keepsAllBut_trans (keepsAllBut_mono serving (by simp)) (keepsAllBut_mono taken (by simp))⟩
    exact (takeReservation_journal _).trans (by simp)

theorem clockSet_exec (takes : s.takes .office tag body) (parsed : parseClock body = some d)
    (unlatched : s.storeFaultLatched = false) (ahead : s.site.businessDay ≤ d.day) : exec (.clockSet tag body) s =
      .next (settle (buildClockSet d (s.serving .office kindClockSet tag))) := by
  have served : serveClockSet body (s.serving .office kindClockSet tag) =
      buildClockSet d (s.serving .office kindClockSet tag) := by
    simp [serveClockSet, parsed, unlatched, Nat.not_lt.2 ahead]
  rw [← served]
  exact takeOffice_exec takes _

/-- Where there is room the CLOCK_SET posts at once (R121, R148). -/
theorem clockSet_postsAtOnce (room : s.postsAtOnce = true)
    (space : s.commissioned = true → s.roomForOffice = true) :
    buildClockSet d (s.serving .office kindClockSet tag) =
      postClockSet s.commissioned s.now d 0 (clockServing s.commissioned tag s) := by
  cases commissioned : s.commissioned with
  | true =>
    have posts := postOffice_posts (kind := kindClockSet) (tag := tag) ⟨room, space commissioned⟩ (.clockSet s.now d 0)
    simp only [buildClockSet, serving_commissioned, commissioned, if_true, serving_now]
    exact posts
  | false =>
    have room' : (s.serving .office kindClockSet tag).postsAtOnce = true := by simpa using room
    simp only [buildClockSet, serving_commissioned, commissioned, postOrWait, room', serving_now]
    rfl

theorem clockUnit_congr (b : Bool) (old : Option DateTime) (d : DateTime)
    (seq : x.journal.nextSeq = s.journal.nextSeq) (site : x.site = s.site) :
    clockUnit b old d x = clockUnit b old d s := by simp only [clockUnit, postedUnit, seq, site]

/-- The counts of free places after a unit with an entry has joined (R133). -/
theorem salesFree_of_joined (entries : x.store.journal = s.store.journal)
    (release : x.site.releasePoint = s.site.releasePoint) (joins : x.buffer = s.buffer ++ [u])
    (counts : x.journal = ⟨s.journal.nextSeq + 1, s.journal.reservations⟩) : s.salesFree ≤ x.salesFree + 1 := by
  have buffered : x.buffered ≤ s.buffered + 1 := by
    rw [State.buffered, joins, List.filter_append, List.length_append]
    exact Nat.add_le_add_left ((List.length_filter_le _ _).trans (by simp)) _
  have held : x.held = s.held := by simp only [State.held, State.heldEntries, entries, release]
  have free : s.free ≤ x.free + 1 := by
    simp only [State.free, held, counts, journalPlaces]
    split <;> split <;> omega
  simp only [State.salesFree, counts]
  omega

/-- A part that stands is none of the changed ones. -/
theorem keepsAllBut_drop {m : List Part} (p : Part) (k : keepsAllBut l s x) (same : p.same s x)
    (hm : ∀ q ∈ l, q = p ∨ q ∈ m) : keepsAllBut m s x := fun q hq => by
  by_cases e : q = p
  · exact e ▸ same
  · exact k q fun hl => (hm q hl).elim e hq

section

variable (takes : s.takes .office tag body) (parsed : parseClock body = some d)
  (unlatched : s.storeFaultLatched = false)

include takes parsed unlatched

/-- A CLOCK_SET that posts at once, from the state that has taken it. -/
theorem clockSet_step (ahead : s.site.businessDay ≤ d.day) (room : s.postsAtOnce = true)
    (space : s.commissioned = true → s.roomForOffice = true) : let b := s.commissioned
    ∃ x, exec (.clockSet tag body) s = .next (settle (postClockSet b s.now d 0 x)) ∧
      OfficeServed x ⟨tag, kindClockSet⟩ ∧ addSeconds d 0 = d ∧
      x.journal = ⟨s.journal.nextSeq, s.journal.reservations + if b = true then 1 else 0⟩ ∧ onlyLevels s x ∧
      keepsAllBut [.journal, .conditions, .outstanding .office] s x := by
  intro b
  have step := clockSet_exec takes parsed unlatched ahead
  rw [clockSet_postsAtOnce room space] at step
  obtain ⟨served, journal, levels, kept⟩ := clockServing_spec b takes
  exact ⟨_, step, served, addSeconds_zero (parseClock_range parsed), journal, levels, kept⟩

/-- CLOCK_SET to the business day, with an entry on a COMMISSIONED part and without on a BLANK one (R149). -/
theorem clockSet_sets (same : d.day = s.site.businessDay) (room : s.postsAtOnce = true)
    (space : s.commissioned = true → s.roomForOffice = true) : let b := s.commissioned
    ∃ t, exec (.clockSet tag body) s = .next t ∧ t.buffer = s.buffer ++ [clockUnit b s.now d s] ∧
      t.site = (clockUnit b s.now d s).image ∧
      t.journal = ⟨s.journal.nextSeq + (if b = true then 1 else 0), s.journal.reservations⟩ ∧ t.clockAt d ∧
      replied .office tag (.clockOk d d.day false (if b = true then some s.journal.nextSeq else none)) s t ∧
      onlyLevels s t ∧ keepsAllBut [.site, .buffer, .journal, .clock, .conditions, .replies .office] s t := by
  intro b
  obtain ⟨x, step, served, taken, journal, levels, kept⟩ := clockSet_step takes parsed unlatched same.ge room space
  have site : x.site = s.site := kept .site (by simp)
  obtain ⟨⟨joins, image, counts⟩, clock, reply, more, changed⟩ := clockSet_sameDay (b := b) (old := s.now) served taken
    (by rw [site]; exact same)
  have unit : clockUnit b s.now d x = clockUnit b s.now d s := clockUnit_congr b _ d (by rw [journal]) site
  have seq : seqIf b x = if b = true then some s.journal.nextSeq else none := by rw [seqIf, journal]
  rw [unit] at joins image counts
  rw [seq] at reply
  have reply' := replied_of_kept kept (by simp) reply
  refine ⟨_, step, joins.trans (by rw [kept .buffer (by simp)]), image, counts.trans ?_, clock, reply',
    onlyLevels_trans levels more, keepsAllBut_taken takes reply' (keepsAllBut_trans (keepsAllBut_mono kept (by simp))
      (keepsAllBut_mono changed (by simp)))⟩
  rw [clockUnit_entry, journal, Nat.add_sub_cancel]

/-- CLOCK_SET to a later day on a COMMISSIONED part (R147, R149). -/
theorem clockSet_setsLater (later : s.site.businessDay < d.day) (commissioned : s.commissioned = true)
    (ready : s.ready) : ∃ t, exec (.clockSet tag body) s = .next t ∧ t.clockAt d ∧ t.site.businessDay = d.day ∧
      t.site.dayTotals = Counts.zero ∧
      (∃ more, t.buffer = s.buffer ++ clockUnit true s.now d s :: more ∧
        ∀ v ∈ more, v.image.businessDay = d.day ∧ v.image.dayTotals = Counts.zero) ∧
      (∀ k, t.slot k = (s.slot k).rolledOver) ∧
      (∀ p, s.site.pendingSet = some p → p.effectiveDay ≤ d.day → t.site.active = p.entries ∧
        t.site.pendingSet = none ∧ t.latched .tariffShifted = true ∧
        t.site.generation = raiseNumber s.site.generation) ∧
      (s.unreached d.day → t.site.active = s.site.active ∧ t.site.pendingSet = s.site.pendingSet) ∧
      replied .office tag (.clockOk d d.day true (some s.journal.nextSeq)) s t := by
  obtain ⟨x, step, served, taken, journal, -, kept⟩ :=
    clockSet_step takes parsed unlatched later.le ready.1 fun _ => ready.2
  have site : x.site = s.site := kept .site (by simp)
  rw [commissioned] at step journal
  obtain ⟨clock, rolled, reply, -⟩ := clockSet_rollsOver (b := true) (old := s.now) served taken
    (by rw [site]; exact later) (by rw [State.commissioned, site]; exact commissioned)
  obtain ⟨⟨joins, -⟩, -, -, posted⟩ := clockPosted_spec true s.now d x
  have siteY := clockPosted_site true s.now d x
  rw [clockUnit_congr true s.now d (by rw [journal]) site,
    show x.buffer = s.buffer from kept .buffer (by simp)] at joins
  rw [site] at siteY
  rw [show seqIf true x = some s.journal.nextSeq by simp [seqIf, journal]] at reply
  obtain ⟨day, totals, ⟨more, joined, images⟩, slots, shifts, stays⟩ := rolled
  simp only [State.unreached, siteY] at shifts stays
  refine ⟨_, step, clock, day, totals, ⟨more, ?_, images⟩, fun k => (slots k).trans ?_, shifts, stays,
    replied_of_kept kept (by simp) reply⟩
  · rw [joined, joins, List.append_assoc]
    rfl
  · exact congrArg _ (Part.same_trans (p := .slot k) (kept (.slot k) (by simp)) (posted (.slot k) (by simp)))

/-- CLOCK_SET to a later day that finds no quote to close and no set to shift (R154). -/
theorem clockSet_setsLater_quiet (later : s.site.businessDay < d.day) (commissioned : s.commissioned = true)
    (ready : s.ready) (short : s.buffer.length < 3) (unreached : s.unreached d.day)
    (unquoted : ∀ k, (s.slot k).unquoted) :
    let site : SiteState := { s.site with businessDay := d.day, dayTotals := ⟨0, 0, 0, 0, 0⟩, unlogged := 0 }
    let n := s.journal.nextSeq
    ∃ t, exec (.clockSet tag body) s = .next t ∧
      t.buffer = s.buffer ++ [clockUnit true s.now d s,
        ⟨.system, none, some ⟨n + 1, some d, .part, none, .dayClose s.site.businessDay s.site.dayTotals⟩,
          some ⟨s.site.businessDay, s.site.dayTotals, some d, some (n + 1)⟩, site⟩] ∧
      t.site = site ∧ t.journal = ⟨n + 2, s.journal.reservations⟩ ∧ t.clockAt d ∧
      replied .office tag (.clockOk d d.day true (some n)) s t ∧ onlyLevels s t ∧
      keepsAllBut [.site, .buffer, .journal, .clock, .conditions, .replies .office] s t := by
  intro site n
  obtain ⟨x, step, served, taken, journal, levels, kept⟩ :=
    clockSet_step takes parsed unlatched later.le ready.1 fun _ => ready.2
  rw [commissioned] at step journal
  have siteX : x.site = s.site := kept .site (by simp)
  have bufferX : x.buffer = s.buffer := kept .buffer (by simp)
  have waitersX : x.waiters = [] := (kept .waiters (by simp)).trans (ready_waiters ready)
  obtain ⟨⟨joins, -, counts⟩, -, -, posted⟩ := clockPosted_spec true s.now d x
  have room : (clockPosted true s.now d x).postsAtOnce = true :=
    postsAtOnce_of_short ((posted .waiters (by simp)).trans waitersX) (by simp [joins, bufferX]; omega)
  have free : 0 < (clockPosted true s.now d x).salesFree := by
    have space : 16 < s.salesFree := by simpa [State.roomForOffice] using ready.2
    obtain ⟨-, entries, -⟩ := areas_same (Part.same_trans (kept .areas (by simp)) (posted .areas (by simp)))
    have := salesFree_of_joined (s := s) entries (by rw [clockPosted_site, siteX]) (by rw [joins, bufferX])
      (by rw [counts, journal]; simp [clockUnit, postedUnit])
    omega
  obtain ⟨buffer, image, journalT, clock, reply, more, changed⟩ := clockSet_closesDay (old := s.now) served taken
    (by rw [siteX]; exact later) (by rw [State.unreached, siteX]; exact unreached)
    (fun k => by rw [show x.slot k = s.slot k from kept (.slot k) (by simp)]; exact unquoted k)
    (by rw [State.commissioned, siteX]; exact commissioned) room free
  have unit : clockUnit true s.now d x = clockUnit true s.now d s := clockUnit_congr true _ d (by rw [journal]) siteX
  rw [unit, bufferX, siteX, journal] at buffer
  rw [siteX] at image
  rw [journal] at journalT reply
  have reply' := replied_of_kept kept (by simp) reply
  exact ⟨_, step, buffer, image, journalT, clock, reply', onlyLevels_trans levels more,
    keepsAllBut_taken takes reply' (keepsAllBut_trans (keepsAllBut_mono kept (by simp))
      (keepsAllBut_mono changed (by simp)))⟩

/-- CLOCK_SET to a later day on a BLANK part (R149, R154). -/
theorem clockSet_setsLater_blank (later : s.site.businessDay < d.day) (blank : s.commissioned = false)
    (alone : s.waiters = []) (short : s.buffer.length < 3) (unreached : s.unreached d.day)
    (unquoted : ∀ k, (s.slot k).unquoted) : let site : SiteState := { s.site with businessDay := d.day }
    ∃ t, exec (.clockSet tag body) s = .next t ∧
      t.buffer = s.buffer ++ [⟨.journalOnly, none, none, none, s.site⟩, ⟨.system, none, none, none, site⟩] ∧
      t.site = site ∧ t.clockAt d ∧ replied .office tag (.clockOk d d.day true none) s t ∧ onlyLevels s t ∧
      keepsAllBut [.site, .buffer, .clock, .conditions, .replies .office] s t := by
  intro site
  have room : s.postsAtOnce = true := postsAtOnce_of_short alone (by omega)
  obtain ⟨x, step, served, taken, journal, levels, kept⟩ :=
    clockSet_step takes parsed unlatched later.le room (by simp [blank])
  rw [blank] at step journal
  have siteX : x.site = s.site := kept .site (by simp)
  have bufferX : x.buffer = s.buffer := kept .buffer (by simp)
  have waitersX : x.waiters = [] := (kept .waiters (by simp)).trans alone
  obtain ⟨⟨joins, -, -⟩, -, -, posted⟩ := clockPosted_spec false s.now d x
  have room : (clockPosted false s.now d x).postsAtOnce = true :=
    postsAtOnce_of_short ((posted .waiters (by simp)).trans waitersX) (by simp [joins, bufferX]; omega)
  obtain ⟨buffer, image, journalT, clock, reply, more, changed⟩ := clockSet_laterDay_blank (old := s.now) served taken
    (by rw [siteX]; exact later) (by rw [State.unreached, siteX]; exact unreached)
    (fun k => by rw [show x.slot k = s.slot k from kept (.slot k) (by simp)]; exact unquoted k)
    (by rw [State.commissioned, siteX]; exact blank) room
  rw [bufferX, siteX] at buffer
  rw [siteX] at image
  have reply' := replied_of_kept kept (by simp) reply
  have all : keepsAllBut [.site, .buffer, .journal, .clock, .conditions, .replies .office] s _ :=
    keepsAllBut_taken takes reply' (keepsAllBut_trans (keepsAllBut_mono kept (by simp))
      (keepsAllBut_mono changed (by simp)))
  exact ⟨_, step, buffer, image, clock, reply', onlyLevels_trans levels more,
    keepsAllBut_drop .journal all (journalT.trans (by rw [journal]; rfl)) (by simp)⟩

end

/-- A day before the business day is refused (R148). -/
theorem clockSet_backward (takes : s.takes .office tag body) (parsed : parseClock body = some d)
    (unlatched : s.storeFaultLatched = false) (backward : d.day < s.site.businessDay) (atRest : s.holdAtRest) :
    ∃ t, exec (.clockSet tag body) s = .next t ∧ refusedWith .office kindClockSet tag .clockBackward 0 0 s t :=
  takeOffice_refused takes atRest _ .clockBackward 0 rfl
    (by simp [serveClockSet, parsed, unlatched, backward, officeRefuse])

theorem takeReservation_storeFault (sound : x.store.faulted = false) (latch : x.storeFaultLatched = false) :
    (takeReservation x).storeFaultLatched = false :=
  reportLevels_storeFault (s := { x with journal := { x.journal with reservations := x.journal.reservations + 1 } })
    sound latch

/-- Where the buffer is full or others wait, its unit joins the post wait list with its reservation (R122, R134). -/
theorem clockSet_waits (takes : s.takes .office tag body) (parsed : parseClock body = some d)
    (unlatched : s.storeFaultLatched = false) (ahead : s.site.businessDay ≤ d.day)
    (commissioned : s.commissioned = true) (full : s.postsAtOnce = false) (space : s.roomForOffice = true)
    (sound : s.store.faulted = false) (atRest : s.holdAtRest) :
    ∃ t, exec (.clockSet tag body) s = .next t ∧ waits (.clockSet s.now d 0) tag kindClockSet s t := by
  have step := clockSet_exec takes parsed unlatched ahead
  obtain ⟨served, journal, levels, kept⟩ := clockServing_spec true takes
  have full' : (clockServing true tag s).postsAtOnce = false := by
    rw [State.postsAtOnce, show (clockServing true tag s).buffer = s.buffer from kept .buffer (by simp),
      show (clockServing true tag s).waiters = s.waiters from kept .waiters (by simp)]
    exact full
  have latch : (clockServing true tag s).storeFaultLatched = false :=
    takeReservation_storeFault (by simpa using sound) (by simpa using unlatched)
  have waiting : buildClockSet d (s.serving .office kindClockSet tag) = { clockServing true tag s with
      waiters := (clockServing true tag s).waiters ++ [⟨.clockSet s.now d 0, true⟩] } := by
    have reserves : buildClockSet d (s.serving .office kindClockSet tag) =
        postOrWait ⟨.clockSet s.now d 0, true⟩ (clockServing true tag s) := by
      simp only [buildClockSet, serving_commissioned, commissioned, if_true, serving_now, postOffice,
        serving_roomForOffice, space, reserveAndPost]
      rfl
    rw [reserves]
    simp only [postOrWait, full', latch, Bool.false_and, Bool.false_eq_true, if_false]
    rfl
  rw [waiting] at step
  generalize clockServing true tag s = x at *
  have toY := keepsAllBut_trans (keepsAllBut_mono kept (m := [.waiters, .journal, .conditions, .outstanding .office])
    (by simp)) (keepsAllBut_mono (waiters_keeps x (x.waiters ++ [⟨.clockSet s.now d 0, true⟩])) (by simp))
  have restY := holdAtRest_of_kept atRest toY (by simp)
  have settled := settle_keeps restY
  refine ⟨_, step, (settled .waiters (by simp)).trans ?_, (settled .journal (by simp)).trans journal,
    (settled (.outstanding .office) (by simp)).trans served.outstanding,
    settle_onlyLevels (onlyLevels_congr levels rfl rfl), keepsAllBut_settle restY toY⟩
  simp only
  rw [show x.waiters = s.waiters from kept .waiters (by simp)]

end

end Sys2Proof.Machine
end

section
/-! SUPPORT. A waiting CLOCK_SET: the room of a verified write, and the STORE_FAULT of a failed one (R123, R124,
R149, R150). -/

namespace Sys2Proof.Machine

section

variable {s x t : State} {o : Outstanding} {d value : DateTime} {old : Option DateTime} {elapsed : Nat} {b : Bool}
  {tag : Byte} {body : List Byte} {u : CommitUnit} {rest : List CommitUnit} {l : List Part}


/-- The seconds counted are added, up to the last second of 2099 (R149). -/
theorem addSeconds_eq (value : DateTime) (elapsed : Nat) :
    let total := value.day * 86400 + value.second + elapsed
    addSeconds value elapsed = if total ≤ 3155759999 then ⟨total / 86400, total % 86400⟩ else ⟨36524, 86399⟩ := by
  intro total
  rw [addSeconds, totalSeconds_last, totalSeconds_eq, ofTotal_eq]
  rfl

theorem turnedAway_clockSet (b : Bool) (old : Option DateTime)
    (backward : (addSeconds value elapsed).day < s.site.businessDay) :
    Waiter.TurnedAway ⟨.clockSet old value elapsed, b⟩ .clockBackward s.assembly s := by
  refine ⟨fun x site => by simp [postingTest, site, backward], fun x area => ?_⟩
  have same : (dropWaiterReservation ⟨.clockSet old value elapsed, b⟩ x).assembly = s.assembly := by simpa using area
  rw [← same]
  rfl

section

variable {behind : List Waiter} (room : RoomOffered s o u rest)
  (waiters : s.waiters = ⟨.clockSet old value elapsed, b⟩ :: behind) (taken : addSeconds value elapsed = d)

include room waiters taken

/-- A CLOCK_SET that its test lets pass posts at the room it is offered (R150). -/
theorem clockSet_postsAtRoom (ahead : s.site.businessDay ≤ d.day) :
    ∃ x, exec (.unitWriteComplete .verified) s = .next (settle (postClockSet b old value elapsed x)) ∧
      OfficeServed x o ∧ x.buffer = rest ∧ x.waiters = behind ∧ stored u s x ∧ linesAfterStore u s x ∧
      onlyLevels s x ∧ keepsAllBut [.areas, .lines, .buffer, .waiters, .conditions] s x := by
  obtain ⟨buffer, areas, lines, levels, kept⟩ := room.unitStored_spec
  have step := room.step
  generalize unitStored u s = y at *
  have site : y.site = s.site := kept .site (by simp)
  rw [offerRoom_posts ((kept .waiters (by simp)).trans waiters) (by rw [buffer]; exact room.room)
    (by simp [postingTest, taken, site, ahead])] at step
  have toX := keepsAllBut_trans
    (keepsAllBut_mono kept (m := [.areas, .lines, .buffer, .waiters, .conditions]) (by simp))
    (keepsAllBut_mono (waiters_keeps y behind) (by simp))
  exact ⟨_, step, OfficeServed.of_kept ⟨room.receives, room.outstanding⟩ toX (by simp) (by simp) (by simp), buffer, rfl,
    stored_of_kept areas (waiters_keeps y behind) (by simp),
    linesAfterStore_of_kept lines (waiters_keeps y behind) (by simp), onlyLevels_congr levels rfl rfl, toX⟩

theorem clockSet_setsAtRoom (same : d.day = s.site.businessDay) :
    ∃ t, exec (.unitWriteComplete .verified) s = .next t ∧ (t.clockAt d ∧ stored u s t) ∧ t.waiters = behind ∧
      t.buffer = rest ++ [clockUnit b old d s] ∧ t.site = (clockUnit b old d s).image ∧ linesAfterStore u s t ∧
      t.journal = (if b = true then ⟨s.journal.nextSeq + 1, s.journal.reservations - 1⟩ else s.journal) ∧
      replied .office o.tag (.clockOk d d.day false (if b = true then some s.journal.nextSeq else none)) s t ∧
      onlyLevels s t ∧ keepsAllBut [.areas, .lines, .buffer, .waiters, .site, .journal, .clock, .conditions,
        .outstanding .office, .replies .office] s t := by
  obtain ⟨x, step, served, buffer, left, areas, lines, levels, kept⟩ :=
    clockSet_postsAtRoom room waiters taken same.ge
  have site : x.site = s.site := kept .site (by simp)
  have journal : x.journal = s.journal := kept .journal (by simp)
  obtain ⟨⟨joins, image, counts⟩, clock, reply, more, changed⟩ := clockSet_sameDay (b := b) (old := old) served taken
    (by rw [site]; exact same)
  rw [clockUnit_congr b old d (congrArg _ journal) site] at joins image counts
  rw [buffer] at joins
  rw [clockUnit_entry, journal] at counts
  rw [seqIf, journal] at reply
  refine ⟨_, step, ⟨clock, stored_of_kept areas changed (by simp)⟩, (changed .waiters (by simp)).trans left, joins,
    image, linesAfterStore_of_kept lines changed (by simp), counts.trans ?_, replied_of_kept kept (by simp) reply,
    onlyLevels_trans levels more, keepsAllBut_trans (keepsAllBut_mono kept (by simp))
      (keepsAllBut_mono changed (by simp))⟩
  cases b <;> rfl

theorem clockSet_setsLaterAtRoom (later : s.site.businessDay < d.day) (commissioned : s.commissioned = true) :
    ∃ t, exec (.unitWriteComplete .verified) s = .next t ∧ (t.clockAt d ∧ stored u s t) ∧ t.site.businessDay = d.day ∧
      t.site.dayTotals = Counts.zero ∧ (∃ more, t.buffer = rest ++ clockUnit b old d s :: more ∧
        ∀ v ∈ more, v.image.businessDay = d.day ∧ v.image.dayTotals = Counts.zero) ∧
      replied .office o.tag (.clockOk d d.day true (if b = true then some s.journal.nextSeq else none)) s t := by
  obtain ⟨x, step, served, buffer, -, areas, -, -, kept⟩ := clockSet_postsAtRoom room waiters taken later.le
  have site : x.site = s.site := kept .site (by simp)
  have journal : x.journal = s.journal := kept .journal (by simp)
  obtain ⟨⟨joins, -⟩, -⟩ := clockPosted_spec b old d x
  obtain ⟨clock, rolled, reply, changed⟩ := clockSet_rollsOver (b := b) (old := old) served taken
    (by rw [site]; exact later) (by rw [State.commissioned, site]; exact commissioned)
  rw [clockUnit_congr b old d (congrArg _ journal) site, buffer] at joins
  rw [seqIf, journal] at reply
  obtain ⟨more, joined, images⟩ := rolled.units
  refine ⟨_, step, ⟨clock, stored_of_kept areas changed (by simp)⟩, rolled.businessDay, rolled.dayTotals,
    ⟨more, ?_, images⟩, replied_of_kept kept (by simp) reply⟩
  rw [joined, joins, List.append_assoc]
  rfl

end

/-! ### STORE_FAULT latches (R124) -/

/-- A waiter that alone is withdrawn leaves the list with its refusal (R124). -/
theorem withdrawWaiters_head {test : Job → Bool} {w : Waiter} {behind : List Waiter} (waiters : x.waiters = w :: behind)
    (goes : test w.job = true) (stay : ∀ v ∈ behind, test v.job = false) (code : RefusalCode) :
    withdrawWaiters test code x = refuseJob w code { x with waiters := behind } := by
  have gone : (behind.filter fun v => test v.job) = [] := List.filter_eq_nil_iff.mpr fun v hv => by simp [stay v hv]
  have left : (behind.filter fun v => !test v.job) = behind := List.filter_eq_self.mpr fun v hv => by simp [stay v hv]
  simp [withdrawWaiters, waiters, goes, gone, left]

/-- The refusal of a waiting CLOCK_SET, its reservation released (R124). -/
theorem clockSet_withdrawn (served : OfficeServed x o) (atRest : x.holdAtRest) (code : RefusalCode) :
    let w : Waiter := ⟨.clockSet old value elapsed, b⟩
    let t := settle (refuseJob w code x)
    t.journal = ⟨x.journal.nextSeq, x.journal.reservations - if b = true then 1 else 0⟩ ∧
      replied .office o.tag (.refused code o.kind 0 0) x t ∧ onlyLevels x t ∧
      keepsAllBut [.journal, .conditions, .outstanding .office, .replies .office] x t := by
  intro w t
  have kept := dropWaiterReservation_keeps w x
  have journal := dropWaiterReservation_journal w x
  have levels := dropWaiterReservation_levels w x
  have restY := holdAtRest_of_kept atRest kept (by simp)
  have refused : t = settle (officeRefuse code (dropWaiterReservation w x)) := rfl
  rw [(served.of_kept kept (by simp) (by simp) (by simp)).refuse] at refused
  rw [refused]
  generalize dropWaiterReservation w x = y at *
  obtain ⟨reply, changed⟩ := event_reply o.tag (.refused code o.kind 0 0) _ served.receives kept (by simp) (by simp)
    (by simp) restY
  exact ⟨by simpa using journal, reply,
    onlyLevels_trans levels (settle_onlyLevels (onlyLevels_of_conditions (by simp))),
    keepsAllBut_mono changed (by simp)⟩

/-- The rewrite fails, and the waiting CLOCK_SET is withdrawn SUSPENDED (R112, R124). -/
theorem clockSet_suspended {behind : List Waiter} (receives : s.receives .office = true)
    (outstanding : s.officePort.outstanding = some o) (buffer : s.buffer = u :: rest)
    (waiters : s.waiters = ⟨.clockSet old value elapsed, b⟩ :: behind)
    (stay : ∀ v ∈ behind, v.job.withdrawable = false) (rewriting : s.store.service = .rewriting)
    (hold : s.arbiter.hold ≠ .pending) (a : Bool) :
    ∃ t, exec (.unitWriteComplete (.failed a)) s = .next t ∧ t.waiters = behind ∧ t.buffer = s.buffer ∧
      t.store.faulted = true ∧
      t.journal = ⟨s.journal.nextSeq, s.journal.reservations - (if b = true then 1 else 0)⟩ ∧ leftUnstored u a s t ∧
      replied .office o.tag (.refused .suspended o.kind 0 0) s t ∧ onlyLevels s t ∧
      keepsAllBut [.areas, .waiters, .journal, .conditions, .outstanding .office, .replies .office] s t := by
  have running := receives_running receives
  obtain ⟨areas, faulted, levels, kept⟩ := unitFaulted_spec u a s
  have faults : unitWrite u (.failed a) s =
      refusePendingHold (withdrawWaiters Job.withdrawable .suspended (unitFaulted u a s)) := by
    have runs : (failUnit u a s).running = true := running
    simp only [unitWrite, rewriting, storeFault, runs, if_true]
    rfl
  have step := unitWrite_exec buffer (draining_of_running running) (.failed a)
  rw [faults, refusePendingHold_none (by rw [withdrawWaiters_arbiter, (kept .hold (by simp)).1]; exact hold)] at step
  generalize unitFaulted u a s = x at *
  rw [withdrawWaiters_head ((kept .waiters (by simp)).trans waiters) rfl stay] at step
  have left := waiters_keeps x behind
  have toY := keepsAllBut_trans (keepsAllBut_mono kept (m := [.areas, .waiters, .conditions]) (by simp))
    (keepsAllBut_mono left (by simp))
  obtain ⟨journal, reply, more, changed⟩ := clockSet_withdrawn (old := old) (value := value) (elapsed := elapsed)
    (b := b) (x := { x with waiters := behind })
    (OfficeServed.of_kept ⟨receives, outstanding⟩ toY (by simp) (by simp) (by simp))
    (atRest_of_hold_kept hold toY (by simp)) .suspended
  have fromX := keepsAllBut_trans (keepsAllBut_mono left (m := [.waiters, .journal, .conditions, .outstanding .office,
    .replies .office]) (by simp)) (keepsAllBut_mono changed (by simp))
  refine ⟨_, step, changed .waiters (by simp), (fromX .buffer (by simp)).trans (kept .buffer (by simp)),
    (faulted_of_kept fromX (by simp)).trans faulted, journal.trans ?_, leftUnstored_of_kept areas fromX (by simp),
    replied_of_kept toY (by simp) reply, onlyLevels_trans levels (onlyLevels_congr more rfl rfl),
    keepsAllBut_trans (keepsAllBut_mono kept (by simp)) (keepsAllBut_mono fromX (by simp))⟩
  rw [show ({ x with waiters := behind } : State).journal = s.journal from kept .journal (by simp)]

end

/-- Settles O48: the request at once, waiting and refused; then its turn at the room of a verified write, and its
withdrawal at the write that fails. -/
theorem clockSetPosts : Obligations.ClockSetPosts := by
  refine ⟨fun s tag body d takes parsed unlatched => ⟨fun same => ⟨fun commissioned ready => ?_, fun blank room => ?_⟩,
    fun later blank alone short none idle => ?_,
    fun later commissioned ready => ⟨?_, fun short unreached unquoted => ?_⟩,
    fun backward atRest => clockSet_backward takes parsed unlatched backward atRest,
    fun ahead commissioned full space sound atRest =>
      clockSet_waits takes parsed unlatched ahead commissioned full space sound atRest⟩,
    fun s o u rest old value elapsed b behind receives outstanding buffer waiters => ⟨fun short service =>
      ⟨fun same => ?_, fun later commissioned => ?_, fun backward => ⟨fun alone hold => ?_,
        fun next later x next' unit => ?_⟩⟩, fun a stay rewriting hold => ?_⟩⟩
  · obtain ⟨t, step, joins, image, journal, clock, reply, levels, kept⟩ :=
      clockSet_sets takes parsed unlatched same ready.1 fun _ => ready.2
    rw [commissioned] at joins image journal reply
    exact ⟨t, step, ⟨joins, image, journal⟩, clock.1, clock.2, reply, levels, kept⟩
  · obtain ⟨t, step, joins, image, journal, clock, reply, levels, kept⟩ :=
      clockSet_sets takes parsed unlatched same room (by simp [blank])
    rw [blank] at joins image journal reply
    exact ⟨t, step, joins, clock.1, clock.2, reply, levels, keepsAllBut_drop .journal
      (keepsAllBut_drop .site (m := [.buffer, .journal, .clock, .conditions, .replies .office]) kept image (by simp))
      journal (by simp)⟩
  · obtain ⟨t, step, joins, site, clock, reply, levels, kept⟩ := clockSet_setsLater_blank takes parsed unlatched later
      blank alone short (by simp [State.unreached, none]) (fun k => by simp [VendSlot.unquoted, idle k])
    exact ⟨t, step, joins, site, clock.1, clock.2, reply, levels, kept⟩
  · obtain ⟨t, step, clock, day, totals, units, slots, shifts, stays, reply⟩ :=
      clockSet_setsLater takes parsed unlatched later commissioned ready
    refine ⟨t, step, clock.1, clock.2, day, totals, units, fun k opened q quote => ?_,
      fun k quoting => (slots k).trans (VendSlot.rolledOver_abandoned quoting), shifts, fun p pending unreached => ?_,
      reply⟩
    · rw [slots, VendSlot.rolledOver_opened opened quote]
      exact ⟨rfl, rfl, rfl⟩
    · rw [← pending]
      exact stays fun p' pending' => Option.some.inj (pending.symm.trans pending') ▸ unreached
  · obtain ⟨t, step, joins, site, journal, clock, reply, levels, kept⟩ :=
      clockSet_setsLater_quiet takes parsed unlatched later commissioned ready short unreached unquoted
    exact ⟨t, step, joins, site, journal, clock.1, clock.2, reply, levels, kept⟩
  · obtain ⟨t, step, ⟨clock, areas⟩, left, joins, image, lines, journal, reply, levels, kept⟩ := clockSet_setsAtRoom
      ⟨receives, outstanding, buffer, short, service⟩ waiters (addSeconds_eq value elapsed) same
    exact ⟨t, step, ⟨clock.1, clock.2, areas⟩, left, joins, image, lines, journal, reply, levels, kept⟩
  · obtain ⟨t, step, ⟨clock, areas⟩, day, totals, units, reply⟩ := clockSet_setsLaterAtRoom
      ⟨receives, outstanding, buffer, short, service⟩ waiters (addSeconds_eq value elapsed) later commissioned
    exact ⟨t, step, ⟨clock.1, clock.2, areas⟩, day, totals, units, reply⟩
  · exact RoomOffered.refused_alone ⟨receives, outstanding, buffer, short, service⟩
      (turnedAway_clockSet b old (by rw [addSeconds_eq]; exact backward)) (by rw [waiters, alone]) hold
  · exact RoomOffered.refused_next ⟨receives, outstanding, buffer, short, service⟩
      (turnedAway_clockSet b old (by rw [addSeconds_eq]; exact backward)) (by rw [waiters, next']) unit
  · exact clockSet_suspended receives outstanding buffer waiters (by simpa using stay) rewriting hold a

end Sys2Proof.Machine
end

section
/-! SUPPORT. The Budget law (R161): what every operation keeps of R, B and the tenders that the slots' quotes hold. -/

namespace Sys2Proof.Machine

/-- What the Budget law reads of a slot: its state, and its quote's tender, price and reserved budget. -/
def VendSlot.stake (v : VendSlot) : SlotState × Option (Nat × Option Priced × Option Nat) :=
  (v.state, v.quote.map fun q => (q.tender, q.priced, q.reservedBudget))

/-- The Budget law without the premise that the part serves: R is the sum of the tenders that the slots reserve, B
covers it, and every slot's quote is sound (R161). -/
structure State.Balanced (s : State) : Prop where
  sum : s.reserved = ∑ k, (s.slot k).reservedBudget
  covered : s.reserved ≤ s.site.budget
  sound : ∀ k, (s.slot k).sound

section

variable {s t : State} {k : Till} {v w : VendSlot} {q : QuoteRecord}

theorem budgetLaw_iff (s : State) : BudgetLaw s ↔ (s.takesArisings = true → s.Balanced) := by
  refine forall_congr' fun _ =>
    ⟨fun ⟨sum, covered, sound⟩ => ⟨?_, covered, sound⟩, fun ⟨sum, covered, sound⟩ => ⟨?_, covered, sound⟩⟩
  · rwa [Fin.sum_univ_four]
  · rwa [Fin.sum_univ_four] at sum

/-! ### Slots -/

theorem reservedBudget_eq (h : v.stake.2 = w.stake.2) : v.reservedBudget = w.reservedBudget := by
  simp only [VendSlot.stake] at h
  unfold VendSlot.reservedBudget
  cases hv : v.quote <;> cases hw : w.quote <;> simp_all

theorem reservedBudget_of_stake {tender : Nat} {priced : Option Priced} {reserved : Option Nat}
    (h : v.stake.2 = some (tender, priced, reserved)) : v.reservedBudget = reserved.getD 0 := by
  obtain ⟨q, quote, e⟩ := Option.map_eq_some_iff.mp h
  cases e
  simp [VendSlot.reservedBudget, quote]

@[simp] theorem stake_eq_iff : v.stake = w.stake ↔ v.state = w.state ∧
    v.quote.map (fun q => (q.tender, q.priced, q.reservedBudget)) =
      w.quote.map fun q => (q.tender, q.priced, q.reservedBudget) := Prod.mk.injEq .. ▸ Iff.rfl

/-- A slot's soundness by its stake: a quote reserves its tender exactly when it is priced, and a slot with a quote that
is QUOTING or FETCHING has no price yet (Table 4-1, R54). -/
theorem VendSlot.sound_iff (v : VendSlot) : v.sound ↔ ∀ tender priced reserved,
    v.stake.2 = some (tender, priced, reserved) → v.state ≠ .idle ∧
      (v.state = .quoting ∨ v.state = .fetching → priced = none) ∧ (priced = none → reserved = none) ∧
      ∀ p, priced = some p → reserved = some tender ∧ p.consumed ≤ tender := by
  unfold VendSlot.sound QuoteRecord.sound
  cases hq : v.quote with
  | none => simp [VendSlot.stake, hq]
  | some q =>
    cases hp : q.priced with
    | none => simp [VendSlot.stake, hq, hp, and_comm]
    | some p => simp [VendSlot.stake, hq, hp]; tauto

theorem VendSlot.sound.congr (h : w.sound) (k : v.stake = w.stake) : v.sound := by
  have state : v.state = w.state := congrArg Prod.fst k
  rw [sound_iff, state, k]
  exact w.sound_iff.mp h

/-- A slot's quote goes on to another state: to QUOTING or FETCHING from one of the two only (Table 4-1). -/
theorem VendSlot.sound.goesOn (h : w.sound) (quote : v.stake.2 = w.stake.2) (busy : v.state ≠ .idle)
    (early : v.state = .quoting ∨ v.state = .fetching → w.state = .quoting ∨ w.state = .fetching) : v.sound := by
  rw [sound_iff, quote]
  intro tender priced reserved hq
  obtain ⟨-, unpriced, rest⟩ := w.sound_iff.mp h tender priced reserved hq
  exact ⟨busy, fun e => unpriced (early e), rest⟩

theorem sound_unquoted (h : v.quote = none) : v.sound := by simp [VendSlot.sound, h]

theorem reservedBudget_unquoted (h : v.quote = none) : v.reservedBudget = 0 := by simp [VendSlot.reservedBudget, h]

/-- An IDLE slot holds no quote (Table 4-1). -/
theorem VendSlot.sound.unquoted (h : v.sound) (idle : v.state = .idle) : v.quote = none := by
  cases hq : v.quote with
  | none => rfl
  | some q => simp [VendSlot.sound, hq, idle] at h

/-- A quote before its computing grant is unpriced and reserves nothing (R54). -/
theorem VendSlot.sound.unpriced (h : v.sound) (quote : v.quote = some q) (early : v.state = .quoting) :
    v.stake = (.quoting, some (q.tender, none, none)) := by
  obtain ⟨-, unpriced, unreserved, -⟩ :=
    v.sound_iff.mp h q.tender q.priced q.reservedBudget (by simp [VendSlot.stake, quote])
  have price := unpriced (.inl early)
  simp [VendSlot.stake, quote, early, price, unreserved price]

/-- A priced quote reserves its tender and consumes no more (R161). -/
theorem VendSlot.sound.priced (h : v.sound) (quote : v.quote = some q) {p : Priced} (price : q.priced = some p) :
    v.reservedBudget = q.tender ∧ p.consumed ≤ q.tender := by
  obtain ⟨-, -, -, priced⟩ := v.sound_iff.mp h q.tender q.priced q.reservedBudget (by simp [VendSlot.stake, quote])
  obtain ⟨reserved, consumed⟩ := priced p price
  exact ⟨by simp [VendSlot.reservedBudget, quote, reserved], consumed⟩

/-! ### What the law depends on -/

theorem stake_slot (h : t.slots.map VendSlot.stake = s.slots.map VendSlot.stake) (k : Till) :
    (t.slot k).stake = (s.slot k).stake := by
  have := congrArg (fun v : Vector _ 4 => v.get k) h
  simpa only [Vector.get_eq_getElem, Vector.getElem_map, State.slot] using this

theorem stakes_of_slot (h : ∀ k, (t.slot k).stake = (s.slot k).stake) :
    t.slots.map VendSlot.stake = s.slots.map VendSlot.stake :=
  Vector.ext fun i hi => by
    rw [Vector.getElem_map, Vector.getElem_map]
    exact h ⟨i, hi⟩

/-- B may rise while R and the slots' stakes stand. -/
theorem State.Balanced.funded (h : s.Balanced) (reserved : t.reserved = s.reserved)
    (budget : s.site.budget ≤ t.site.budget)
    (stakes : t.slots.map VendSlot.stake = s.slots.map VendSlot.stake) : t.Balanced where
  sum := by simp only [reserved, reservedBudget_eq (congrArg Prod.snd (stake_slot stakes _)), h.sum]
  covered := by rw [reserved]; exact h.covered.trans budget
  sound k := (h.sound k).congr (stake_slot stakes k)

/-- A step that leaves R, B and the slots' stakes. -/
theorem State.Balanced.same (h : s.Balanced) (e : t.reserved = s.reserved ∧ t.site.budget = s.site.budget ∧
    t.slots.map VendSlot.stake = s.slots.map VendSlot.stake) : t.Balanced :=
  h.funded e.1 e.2.1.ge e.2.2

/-- One slot's stake moves, and R with it. -/
theorem State.Balanced.moves (h : s.Balanced) (k : Till) (others : ∀ j, j ≠ k → t.slot j = s.slot j)
    (own : t.reserved + (s.slot k).reservedBudget = s.reserved + (t.slot k).reservedBudget)
    (covered : t.reserved ≤ t.site.budget) (sound : (t.slot k).sound) : t.Balanced where
  sum := by
    have rest : ∑ j ∈ Finset.univ.erase k, (t.slot j).reservedBudget =
        ∑ j ∈ Finset.univ.erase k, (s.slot j).reservedBudget :=
      Finset.sum_congr rfl fun j hj => by rw [others j (Finset.ne_of_mem_erase hj)]
    have before := Finset.add_sum_erase Finset.univ (fun j => (s.slot j).reservedBudget) (Finset.mem_univ k)
    have behind := Finset.add_sum_erase Finset.univ (fun j => (t.slot j).reservedBudget) (Finset.mem_univ k)
    have sum := h.sum
    omega
  covered := covered
  sound j := by
    by_cases e : j = k
    · exact e ▸ sound
    · rw [others j e]; exact h.sound j

theorem State.Balanced.slot_le (h : s.Balanced) (k : Till) : (s.slot k).reservedBudget ≤ s.reserved := by
  rw [h.sum]
  exact Finset.single_le_sum (f := fun j => (s.slot j).reservedBudget) (fun _ _ => Nat.zero_le _) (Finset.mem_univ k)

/-- A slot is written that reserves as much as before. -/
theorem State.Balanced.modSlot (h : s.Balanced) (k : Till) {f : VendSlot → VendSlot}
    (reserved : (f (s.slot k)).reservedBudget = (s.slot k).reservedBudget) (sound : (f (s.slot k)).sound) :
    (s.modSlot k f).Balanced :=
  h.moves k (fun j hj => by rw [State.slot_modSlot, if_neg (Ne.symm hj)]) (by simp [reserved]) h.covered (by simpa)

/-- A slot's quote goes on to another state. -/
theorem State.Balanced.goesOn (h : s.Balanced) (k : Till) {f : VendSlot → VendSlot}
    (quote : (f (s.slot k)).stake.2 = (s.slot k).stake.2) (busy : (f (s.slot k)).state ≠ .idle)
    (early : (f (s.slot k)).state = .quoting ∨ (f (s.slot k)).state = .fetching →
      (s.slot k).state = .quoting ∨ (s.slot k).state = .fetching) : (s.modSlot k f).Balanced :=
  h.modSlot k (reservedBudget_eq quote) ((h.sound k).goesOn quote busy early)

/-- Every quote is gone and R is 0 (R181, R188). -/
theorem State.Balanced.of_unquoted (reserved : t.reserved = 0) (unquoted : ∀ k, (t.slot k).quote = none) :
    t.Balanced where
  sum := by simp [reserved, reservedBudget_unquoted (unquoted _)]
  covered := by rw [reserved]; exact Nat.zero_le _
  sound k := sound_unquoted (unquoted k)

/-! ### Operations that leave the slots' stakes -/

@[simp] theorem modSlot_stakes {f : VendSlot → VendSlot} (h : (f (s.slot k)).stake = (s.slot k).stake) :
    (s.modSlot k f).slots.map VendSlot.stake = s.slots.map VendSlot.stake := by
  refine Vector.ext fun i hi => ?_
  rw [Vector.getElem_map, Vector.getElem_map]
  unfold State.modSlot State.setSlot
  dsimp only
  rw [Vector.getElem_set]
  split
  · rename_i e
    subst e
    exact h
  · rfl

@[simp] theorem notePin_stakes (o : Owner) (m : Option Nat) (s : State) :
    (notePin o m s).slots.map VendSlot.stake = s.slots.map VendSlot.stake := by
  cases o <;> simp [notePin]

@[simp] theorem releasePin_stakes (o : Owner) (s : State) :
    (releasePin o s).slots.map VendSlot.stake = s.slots.map VendSlot.stake := by
  unfold releasePin
  split <;> simp

@[simp] theorem pinLine_stakes (o : Owner) (l : LineNo) (m : Nat) (s : State) :
    (pinLine o l m s).slots.map VendSlot.stake = s.slots.map VendSlot.stake := by simp [pinLine]

@[simp] theorem startFetch_stakes (o : Owner) (m n : Nat) (s : State) :
    (startFetch o m n s).slots.map VendSlot.stake = s.slots.map VendSlot.stake := by simp [startFetch]

@[simp] theorem endReprint_stakes (k : Till) (s : State) :
    (endReprint k s).slots.map VendSlot.stake = s.slots.map VendSlot.stake := by
  unfold endReprint
  dsimp only
  split <;> simp

@[simp] theorem refuseReprint_stakes (k : Till) (w : ReprintWork) (c : RefusalCode) (d : Nat) (s : State) :
    (refuseReprint k w c d s).slots.map VendSlot.stake = s.slots.map VendSlot.stake := by simp [refuseReprint]

@[simp] theorem setReprintStage_stakes (k : Till) (g : ReprintStage) (s : State) :
    (setReprintStage k g s).slots.map VendSlot.stake = s.slots.map VendSlot.stake := by simp [setReprintStage]

@[simp] theorem beginReprint_stakes (k : Till) (tag : Byte) (m : Nat) (r : ReprintRequest) (s : State) :
    (beginReprint k tag m r s).slots.map VendSlot.stake = s.slots.map VendSlot.stake := by
  unfold beginReprint
  split <;> simp

@[simp] theorem setAbandon_stakes (k : Till) (c : AbandonCause) (s : State) :
    (setAbandon k c s).slots.map VendSlot.stake = s.slots.map VendSlot.stake := by simp [setAbandon]

@[simp] theorem dropReplyTags_stakes (k : Till) (s : State) :
    (dropReplyTags k s).slots.map VendSlot.stake = s.slots.map VendSlot.stake := by
  simp [dropReplyTags, Function.comp_def]

@[simp] theorem refuseJob_stakes (w : Waiter) (c : RefusalCode) (s : State) :
    (refuseJob w c s).slots.map VendSlot.stake = s.slots.map VendSlot.stake := by
  unfold refuseJob
  dsimp only
  repeat' split
  all_goals simp

@[simp] theorem withdrawWaiters_stakes (f : Job → Bool) (c : RefusalCode) (s : State) :
    (withdrawWaiters f c s).slots.map VendSlot.stake = s.slots.map VendSlot.stake :=
  (foldl_keeps (fun x => x.slots.map VendSlot.stake) _ (by simp) _ _).trans rfl

/-! ### Operations that leave B -/

@[simp] theorem addUnit_budget (kind : UnitKind) (part : Option RecordPart) (entry : Option (Source × EntryBody))
    (sm : Option DaySummary) (s : State) : (addUnit kind part entry sm s).site.budget = s.site.budget := by
  unfold addUnit
  split <;> simp

@[simp] theorem runSystemJob_budget (w : Waiter) (s : State) : (runSystemJob w s).site.budget = s.site.budget := by
  unfold runSystemJob
  split <;> exact addUnit_budget ..

@[simp] theorem postSystemEntry_budget (j : Job) (b : Bool) (s : State) :
    (postSystemEntry j b s).site.budget = s.site.budget := by
  rw [(postSystemEntry_slot j b s).2.2]

@[simp] theorem tariffRollover_budget (s : State) : (tariffRollover s).site.budget = s.site.budget := by
  unfold tariffRollover
  repeat' split
  all_goals simp

@[simp] theorem postSetting_budget (b : Bool) (e : EntryBody) (s : State) :
    (postSetting b e s).site.budget = s.site.budget := addUnit_budget ..

@[simp] theorem postImage_budget (slot : Nat) (r : Record) (e : EntryBody) (s : State) :
    (postImage slot r e s).site.budget = s.site.budget := by simp [postImage]

@[simp] theorem postImage_stakes (slot : Nat) (r : Record) (e : EntryBody) (s : State) :
    (postImage slot r e s).slots.map VendSlot.stake = s.slots.map VendSlot.stake := by simp [postImage]

@[simp] theorem releaseJournal_budget (n : Nat) (s : State) :
    (releaseJournal n s).site.budget = s.site.budget := by rw [releaseJournal_site]

/-! ### The closing of quotes -/

theorem State.Balanced.tillReply (h : s.Balanced) (k : Till) (g : Option Byte) (r : Reply) :
    (tillReply k g r s).Balanced := h.same (by simp)

theorem State.Balanced.officeReply (h : s.Balanced) (r : Reply) : (officeReply r s).Balanced := h.same (by simp)

/-- A closed quote gives back the tender that it reserved (R65, R163). -/
theorem State.Balanced.closeQuote (h : s.Balanced) (k : Till) (o : CloseOutcome) : (closeQuote k o s).Balanced := by
  cases hq : (s.slot k).quote with
  | none => unfold Machine.closeQuote; rw [hq]; exact h
  | some q =>
    obtain ⟨⟨slot, ⟨reserved, -, -⟩, -, -⟩, kept⟩ := closeQuote_closes o hq
    have held : (s.slot k).reservedBudget = q.reservedBudget.getD 0 := by simp [VendSlot.reservedBudget, hq]
    have closed : ((Machine.closeQuote k o s).slot k).quote = none := by rw [slot]; rfl
    have budget : (Machine.closeQuote k o s).site = s.site := kept .site (by simp)
    have le := h.slot_le k
    have covered := h.covered
    refine h.moves k (closeQuote_slot k o s).1 ?_ ?_ (sound_unquoted closed)
    · rw [reservedBudget_unquoted closed, reserved]; omega
    · rw [budget, reserved]; omega

theorem abandonQuote_balanced (h : s.Balanced) (k : Till) (q : QuoteRecord) (c : AbandonCause) :
    (abandonQuote k q c s).Balanced := (h.closeQuote k _).tillReply ..

theorem refuseQuote_balanced (h : s.Balanced) (k : Till) (q : QuoteRecord) (c : RefusalCode) (d : Nat) :
    (refuseQuote k q c d s).Balanced := by
  unfold refuseQuote
  split
  · exact abandonQuote_balanced h ..
  · exact (h.closeQuote k _).tillReply ..

theorem slotRollover_balanced (h : s.Balanced) (k : Till) : (slotRollover k s).Balanced := by
  unfold slotRollover
  split
  · exact h.closeQuote k _
  · exact h.same (by simp)
  · exact h.same (by simp)
  · exact h

/-- The rollover closes the OPEN quotes and leaves B (R76, R147). -/
theorem rollover_balanced (h : s.Balanced) : (rollover s).Balanced := by
  unfold rollover closeDay
  split
  · exact h
  · rename_i d _
    have begun : (beginDay d.day s).Balanced := h.same (by simp [beginDay])
    have slots := slotRollover_balanced (slotRollover_balanced (slotRollover_balanced
      (slotRollover_balanced begun 0) 1) 2) 3
    exact slots.same (by simp)

/-! ### Link settings -/

theorem slotLinkOff_balanced (h : s.Balanced) (k : Till) : (slotLinkOff k s).Balanced := by
  have tags : (dropReplyTags k s).Balanced := h.same (by simp)
  unfold slotLinkOff
  dsimp only
  split
  · exact tags.closeQuote k _
  · exact tags.same (by simp)
  · exact tags.same (by simp)
  · exact tags

theorem takeSettings_balanced (h : s.Balanced) (k : Till) : (takeSettings k s).Balanced := by
  unfold takeSettings
  dsimp only
  split
  · exact h.same (by simp)
  · split
    · exact h.same (by simp)
    · exact slotLinkOff_balanced (h.same (by simp)) k

theorem offerSettings_balanced (h : s.Balanced) (k : Till) : (offerSettings k s).Balanced := by
  unfold offerSettings
  dsimp only
  repeat' split
  on_goal 3 => exact takeSettings_balanced (h.same (by simp)) k
  on_goal 3 => exact takeSettings_balanced h k
  all_goals exact h.same (by simp)

theorem endFrame_balanced (h : s.Balanced) (p : PortId) : (endFrame p s).Balanced := by
  unfold endFrame
  repeat' split
  · exact h
  · exact takeSettings_balanced h _
  · exact h

/-! ### The posting of units -/

/-- A SALE takes its tender from R and its consumed value, which is no more, from B (R161, R164). -/
theorem postSale_balanced (h : s.Balanced) (k : Till) : (postSale k s).Balanced := by
  unfold postSale
  repeat' split
  · exact h
  · rename_i q hq _ _ _ _ p b r e price built record entry
    dsimp only
    generalize hx : (lineTakesImage q.meter (saleImage r q p b s.journal.nextSeq) (addUnit .sale
      (some (.image e.slot (saleImage r q p b s.journal.nextSeq))) (some (.till k, .sale (saleFields q p b))) none
        (takeSale k q.tender p s))).modSlot k (fun v =>
          { v with quote := some { q with reservedBudget := none, journalReservation := false } }) = x
    have held : (x.slot k).quote = some { q with reservedBudget := none, journalReservation := false } := by
      rw [← hx, State.slot_modSlot_same]
    obtain ⟨⟨slot, ⟨reserved, -, -⟩, -, -⟩, kept⟩ := closeQuote_closes .committed held
    have site : (closeQuote k .committed x).site = x.site := kept .site (by simp)
    have closed : ((closeQuote k .committed x).slot k).quote = none := by rw [slot]; rfl
    have left : (closeQuote k .committed x).reserved = s.reserved - q.tender := by
      rw [reserved, ← hx]; simp [takeSale]
    have budget : x.site.budget = s.site.budget - p.consumed := by rw [← hx]; simp [takeSale]
    have others : ∀ j, j ≠ k → x.slot j = s.slot j := fun j hj => by
      rw [← hx, State.slot_modSlot, if_neg (Ne.symm hj)]; simp [State.slot, takeSale]
    obtain ⟨own, consumed⟩ := (h.sound k).priced hq price
    have le := h.slot_le k
    have covered := h.covered
    refine (h.moves k (fun j hj => ((closeQuote_slot k _ x).1 j hj).trans (others j hj)) ?_ ?_
      (sound_unquoted closed)).tillReply ..
    · rw [reservedBudget_unquoted closed, left]; omega
    · rw [site, left, budget]; omega
  · exact h

theorem postReprint_balanced (h : s.Balanced) (k : Till) (m i : Nat) (x : RecentToken) (b : Bool) :
    (postReprint k m i x b s).Balanced := by
  unfold postReprint
  split
  · exact h
  · exact h.same (by simp)

theorem postClockSet_balanced (h : s.Balanced) (b : Bool) (old : Option DateTime) (v : DateTime) (n : Nat) :
    (postClockSet b old v n s).Balanced := by
  have set : (reportLevels (postSetting b (.clockSet old (addSeconds v n))
      { s with calendar := ⟨some (addSeconds v n), true⟩, cell := ⟨true, some (addSeconds v n)⟩ })).Balanced :=
    h.same (by simp)
  unfold postClockSet
  dsimp only
  split
  · exact (rollover_balanced set).officeReply _
  · exact set.officeReply _

/-- A poster's unit posts (R121): a SALE moves R and B, a BUDGET_VOUCHER raises B (R165), and no other unit moves
either, but that a rollover of a CLOCK_SET or a link made OFF closes quotes. -/
theorem runJob_balanced (h : s.Balanced) (w : Waiter) : (runJob w s).Balanced := by
  unfold runJob
  cases w.job with
  | sale k => exact postSale_balanced h k
  | voucher serial amount => exact h.funded (by simp [postVoucher]) (by simp [postVoucher]) (by simp [postVoucher])
  | linkSet k v =>
    have set : ∀ e v, (postSetting w.hasEntry e { s with site := { s.site with links := v } }).Balanced := fun _ _ =>
      h.same (by simp)
    exact (offerSettings_balanced (set _ _) k).officeReply _
  | clockSet old v n => exact postClockSet_balanced h ..
  | reprint k m i x b => exact postReprint_balanced h ..
  | enrol n r => exact h.same (by simp [postEnrol])
  | edit n r items => exact h.same (by simp [postEdit])
  | accountState n r old => exact h.same (by simp [postAccountState])
  | purge n m => exact h.same (by simp [postPurge])
  | restore n r => exact h.same (by simp [postRestore])
  | tariffStage es d => exact h.same (by simp [postTariffStage])
  | tariffUnstage => exact h.same (by simp [postTariffUnstage])
  | tariffLoad es => exact h.same (by simp [postTariffLoad])
  | floorSet v => exact h.same (by simp [postFloor])
  | quoteTimeSet v => exact h.same (by simp [postQuoteTime])
  | maskSet v => exact h.same (by simp [postMask])
  | tillClose k c => exact h.same (by simp [postTillClose])
  | siteCode c => exact h.same (by simp [postSiteCode])
  | dayClose d => exact h.same (by simp)
  | tariffShift g d => exact h.same (by simp)
  | imageOnly => exact h.same (by simp)
  | powerUp f => exact h.same (by simp)

/-! ### The post wait list -/

theorem markWaiting_balanced (h : s.Balanced) (j : Job) : (markWaiting j s).Balanced := by
  unfold markWaiting
  split
  · exact h.goesOn _ rfl nofun nofun
  · exact h.same (by simp)
  · exact h

theorem postOrWait_balanced (h : s.Balanced) (w : Waiter) : (postOrWait w s).Balanced := by
  unfold postOrWait
  repeat' split
  · exact runJob_balanced h w
  · exact h.same (by simp)
  · exact markWaiting_balanced (h.same (by simp)) _

theorem reserveAndPost_balanced (h : s.Balanced) (j : Job) : (reserveAndPost j s).Balanced :=
  postOrWait_balanced (h.same (by simp)) _

theorem offerRoomTo_balanced : ∀ (n : Nat) {s : State}, s.Balanced → (offerRoomTo n s).Balanced
  | 0, _, h => h
  | n + 1, s, h => by
    unfold offerRoomTo
    split
    · exact h
    · rename_i w rest _
      have left : { s with waiters := rest }.Balanced := h.same (by simp)
      dsimp only
      repeat' split
      · exact runJob_balanced left w
      · exact offerRoomTo_balanced n (left.same (by simp))
      · exact h

theorem offerRoom_balanced (h : s.Balanced) : (offerRoom s).Balanced := offerRoomTo_balanced _ h

/-! ### The requests at a port -/

theorem portTake_balanced (h : s.Balanced) (p : PortId) (kind tag : Byte) (body : List Byte)
    {busy serve : State → State} (hb : (busy s).Balanced) (hs : ∀ x : State, x.Balanced → (serve x).Balanced) :
    (portTake p kind tag body busy serve s).Balanced := by
  unfold portTake
  repeat' split
  · exact h
  · exact endFrame_balanced h p
  · exact h
  · exact hb
  · exact h
  · exact hs _ (h.same (by simp))

theorem State.Balanced.settled (h : s.Balanced) (ht : finish s = .next t) : t.Balanced := by
  cases ht
  exact h.same (by simp)

/-- A request keeps the law if its service does (R199). -/
theorem takeRequest_balanced (h : s.Balanced) (p : PortId) (kind tag : Byte) (body : List Byte)
    {serve : State → State} (hs : ∀ x : State, x.Balanced → (serve x).Balanced)
    (ht : finish (takeRequest p kind tag body serve s) = .next t) : t.Balanced :=
  (portTake_balanced h p kind tag body (h.same (by simp)) hs).settled ht

/-! ### The till requests -/

theorem askGrant_balanced (h : s.Balanced) (k : Till) : (askGrant k s).Balanced := h.same (by simp)

/-- A QUOTE is taken by an IDLE slot, and reserves nothing yet (R58, R59). -/
theorem takeQuote_balanced (h : s.Balanced) {k : Till} (free : (s.slot k).free = true) (tag : Byte)
    (meter tender : Nat) : (takeQuote k tag meter tender s).Balanced := by
  have unquoted := (h.sound k).unquoted ((VendSlot.free_iff _).mp free).1
  have counted : ∀ n, { s with nextQuoteId := n }.Balanced := fun n => h.same (by simp)
  refine askGrant_balanced ((counted _).modSlot k ?_ ?_) k
  · exact (reservedBudget_unquoted unquoted).symm
  · exact (VendSlot.sound_iff _).mpr (by simp [VendSlot.stake, QuoteRecord.taken])

theorem serveQuote_balanced (h : s.Balanced) (k : Till) (tag : Byte) (body : List Byte) :
    (serveQuote k tag body s).Balanced := by
  unfold serveQuote
  repeat' split
  on_goal 3 => rename_i free; exact takeQuote_balanced h free ..
  all_goals exact h.same (by simp)

theorem takeConfirm_balanced (h : s.Balanced) (k : Till) (tag : Byte) : (takeConfirm k tag s).Balanced := by
  refine askGrant_balanced (h.goesOn k ?_ ?_ ?_) k
  · simp [VendSlot.stake, Function.comp_def]
  · nofun
  · nofun

theorem confirmClosed_balanced (h : s.Balanced) (k : Till) (tag : Byte) (m id : Nat) :
    (confirmClosed k tag m id s).Balanced := by
  unfold confirmClosed
  repeat' split
  all_goals exact h.same (by simp)

/-- A CONFIRM of an OPEN quote, or a repeat search (R67, R71). -/
theorem serveConfirm_balanced (h : s.Balanced) (k : Till) (tag : Byte) (body : List Byte) :
    (serveConfirm k tag body s).Balanced := by
  unfold serveConfirm resolveConfirm
  repeat' split
  on_goal 3 => exact confirmClosed_balanced h ..
  on_goal 3 => exact takeConfirm_balanced h ..
  on_goal 7 => exact confirmClosed_balanced h ..
  all_goals exact h.same (by simp)

theorem serveReprint_balanced (h : s.Balanced) (k : Till) (tag : Byte) (body : List Byte) :
    (serveReprint k tag body s).Balanced := by
  unfold serveReprint
  repeat' split
  all_goals exact h.same (by simp)

theorem cancelOutcome_balanced (h : s.Balanced) (k : Till) (body : List Byte) :
    (cancelOutcome k body s).2.Balanced := by
  unfold cancelOutcome cancelSlot
  repeat' split
  on_goal 3 => exact h.closeQuote k _
  all_goals exact h.same (by simp)

/-! ### The engine -/

/-- A paid quote consumes its tender less the change, and a tender of 0 nothing (R42, R50). -/
theorem priceQuote_consumed {r : Record} {tf : Tariff} {generation month tender : Nat} {p : Priced}
    (h : priceQuote r tf generation month tender = .ok p) : p.consumed ≤ tender := by
  rcases Nat.eq_zero_or_pos tender with rfl | paid
  · rw [priceQuote_zero, priceLifeline] at h
    dsimp only at h
    split at h
    · cases h
    · cases h
      exact Nat.le_refl 0
  · rw [priceQuote_pos paid] at h
    rw [(paidFigures_of_ok h).consumed]
    exact Nat.sub_le ..

/-- An opened quote reserves its tender, which B − R holds (R54, R162). -/
theorem openQuote_balanced (h : s.Balanced) {k : Till}
    (early : (s.slot k).stake = (.quoting, some (q.tender, none, none))) {p : Priced}
    (room : q.tender ≤ s.site.budget - s.reserved) (consumed : p.consumed ≤ q.tender) :
    (openQuote k q p s).Balanced := by
  obtain ⟨reserved, -, -, kept, slots, -⟩ := reserveQuote_spec q.tender s
  have site : (reserveQuote q.tender s).site = s.site := kept .site (by simp)
  have covered := h.covered
  have nothing : (s.slot k).reservedBudget = 0 := reservedBudget_of_stake (congrArg Prod.snd early)
  unfold openQuote
  refine (h.moves k (fun j hj => ?_) ?_ ?_ ?_).tillReply ..
  · rw [State.slot_modSlot, if_neg (Ne.symm hj), slots]
  · rw [State.slot_modSlot_same, nothing, State.modSlot_reserved, reserved]; rfl
  · rw [State.modSlot_reserved, State.modSlot_site, reserved, site]; omega
  · rw [State.slot_modSlot_same, VendSlot.sound_iff]
    simp [VendSlot.stake, openedQuote, consumed]

theorem computeFromLine_balanced (h : s.Balanced) (k : Till)
    (early : (s.slot k).stake = (.quoting, some (q.tender, none, none))) : (computeFromLine k q s).Balanced := by
  unfold computeFromLine computeQuote
  repeat' split
  on_goal 7 =>
    rename_i priced short _
    exact openQuote_balanced h early (Nat.not_lt.mp short) (priceQuote_consumed priced)
  · exact h
  all_goals exact refuseQuote_balanced h ..

/-- A quote's first grant is refused, computes on a hit, or begins a fetch (R60, R98). -/
theorem quoteStage_balanced (h : s.Balanced) (k : Till) (state : (s.slot k).state = .quoting) :
    (quoteStage k s).Balanced := by
  unfold quoteStage
  split
  · exact h
  · rename_i q quote
    have early := (h.sound k).unpriced quote state
    split
    · exact abandonQuote_balanced h ..
    · split
      · exact computeFromLine_balanced h k early
      · unfold lookupQuote
        repeat' split
        on_goal 4 =>
          refine computeFromLine_balanced (h.same (by simp)) k ?_
          rw [stake_slot (pinLine_stakes ..), early]
        on_goal 4 =>
          have fetching : ∀ n, (startFetch (.slot k) q.meter n s).Balanced := fun n => h.same (by simp)
          refine (fetching _).goesOn k rfl nofun fun _ => .inl ?_
          exact (congrArg Prod.fst (stake_slot (startFetch_stakes ..) k)).trans state
        all_goals exact refuseQuote_balanced h ..

theorem confirmStage_balanced (h : s.Balanced) (k : Till) : (confirmStage k s).Balanced := by
  unfold confirmStage
  split
  · exact h
  · rename_i q quote
    split
    · exact postOrWait_balanced (h.same (by simp [quote])) _
    · exact h

theorem presentFromLine_balanced (h : s.Balanced) (k : Till) (w : ReprintWork) : (presentFromLine k w s).Balanced := by
  have issued : ∀ i x b, (issueReprint k w i x b s).Balanced := by
    intro i x b
    unfold issueReprint
    split
    · exact reserveAndPost_balanced h _
    · exact h.same (by simp)
  unfold presentFromLine presentReprint
  repeat' split
  on_goal 4 => exact issued ..
  on_goal 4 => exact issued ..
  all_goals exact h.same (by simp)

theorem reprintStage_balanced (h : s.Balanced) (k : Till) : (reprintStage k s).Balanced := by
  unfold reprintStage lookupReprint refuseDamagedReprint
  repeat' split
  on_goal 6 => exact presentFromLine_balanced (h.same (by simp)) k _
  on_goal 7 => exact presentFromLine_balanced h k _
  all_goals exact h.same (by simp)

/-- A grant to a slot serves one stage of its work (R80). -/
theorem slotStage_balanced (h : s.Balanced) (k : Till) : (slotStage k s).Balanced := by
  unfold slotStage
  split
  · rename_i state; exact quoteStage_balanced h k state
  · exact confirmStage_balanced h k
  · exact reprintStage_balanced h k

theorem engineGrant_balanced (h : s.Balanced) (ht : execEngineGrant s = .next t) : t.Balanced := by
  refine State.Balanced.settled ?_ ht
  split
  · exact h
  · rename_i k _
    have pointed : { s with arbiter := { s.arbiter with pointer := k } }.Balanced := h.same (by simp)
    exact (slotStage_balanced pointed k).same (by simp)

/-! ### The office requests -/

theorem postOffice_balanced (h : s.Balanced) (j : Job) : (postOffice j s).Balanced := by
  unfold postOffice
  split
  · exact reserveAndPost_balanced h j
  · exact h.same (by simp)

theorem postRecord_balanced (h : s.Balanced) (j : Job) : (postRecord j s).Balanced := by
  unfold postRecord
  split
  · exact reserveAndPost_balanced h j
  · exact h.same (by simp [refuseRecord])

theorem postTaken_balanced (h : s.Balanced) (j : Job) : (postTaken j s).Balanced := by
  unfold postTaken
  split
  · exact reserveAndPost_balanced h j
  · exact h.same (by simp)

theorem refuseRecord_balanced (h : s.Balanced) (c : RefusalCode) : (refuseRecord c s).Balanced :=
  h.same (by simp [refuseRecord])

theorem continueState_balanced (h : s.Balanced) (f : AccountState → Option AccountState) (slot : Nat) (r : Record) :
    (continueState f slot r s).Balanced := by
  unfold continueState
  split
  · exact refuseRecord_balanced h _
  · exact postRecord_balanced h _

/-- A record request goes on with the record in its line (R12). -/
theorem continueFromLine_balanced (h : s.Balanced) (req : RecordRequest) (slot : Nat) :
    (continueFromLine req slot s).Balanced := by
  unfold continueFromLine continueRecord
  split
  · exact h
  · cases req with
    | edit e =>
      dsimp only
      unfold continueEdit
      repeat' split
      · exact refuseRecord_balanced h _
      · exact h.same (by simp)
      · exact postRecord_balanced h _
    | block m => exact continueState_balanced h ..
    | unblock m => exact continueState_balanced h ..
    | retire m => exact continueState_balanced h ..
    | purge m =>
      dsimp only
      unfold continuePurge
      repeat' split
      on_goal 4 => exact postRecord_balanced h _
      all_goals exact refuseRecord_balanced h _
    | read m => exact h.same (by simp)

theorem serveChange_balanced (h : s.Balanced) (b : Bool) (req : RecordRequest) : (serveChange b req s).Balanced := by
  unfold serveChange lookupRecord
  repeat' split
  on_goal 5 => exact continueFromLine_balanced (h.same (by simp)) req _
  all_goals exact h.same (by simp)

theorem serveMeter_balanced (h : s.Balanced) (body : List Byte) {serve : Nat → State → State}
    (hs : ∀ m, (serve m s).Balanced) : (serveMeter body serve s).Balanced := by
  unfold serveMeter
  split
  · exact h.same (by simp)
  · exact hs _

theorem serveEdit_balanced (h : s.Balanced) (body : List Byte) : (serveEdit body s).Balanced := by
  unfold serveEdit
  split
  · exact h.same (by simp)
  · exact serveChange_balanced h ..

theorem serveRead_balanced (h : s.Balanced) (m : Nat) : (serveRead m s).Balanced := by
  unfold serveRead
  repeat' split
  all_goals exact h.same (by simp)

theorem serveEnrol_balanced (h : s.Balanced) (body : List Byte) : (serveEnrol body s).Balanced := by
  unfold serveEnrol enrolMeter
  repeat' split
  on_goal 5 => exact postTaken_balanced (h.same (by simp)) _
  all_goals exact h.same (by simp)

theorem serveRestore_balanced (h : s.Balanced) (body : List Byte) : (serveRestore body s).Balanced := by
  unfold serveRestore restoreMeter
  repeat' split
  on_goal 4 => exact postTaken_balanced (h.same (by simp)) _
  all_goals exact h.same (by simp)

theorem takeStage_balanced (h : s.Balanced) (q : Nat) (es : List RawEntry) (day : Nat) :
    (takeStage q es day s).Balanced := by
  unfold takeStage completeStage
  dsimp only
  repeat' split
  · exact reserveAndPost_balanced (h.same (by simp)) _
  · exact postOrWait_balanced (h.same (by simp)) _
  · exact h.same (by simp)

theorem serveStage_balanced (h : s.Balanced) (body : List Byte) : (serveStage body s).Balanced := by
  unfold serveStage
  repeat' split
  on_goal 4 => exact takeStage_balanced h ..
  all_goals exact h.same (by simp)

theorem serveLoad_balanced (h : s.Balanced) (body : List Byte) : (serveLoad body s).Balanced := by
  unfold serveLoad takeLoad
  dsimp only
  repeat' split
  on_goal 6 => exact reserveAndPost_balanced (h.same (by simp)) _
  all_goals exact h.same (by simp)

theorem serveUnstage_balanced (h : s.Balanced) (body : List Byte) : (serveUnstage body s).Balanced := by
  unfold serveUnstage
  repeat' split
  on_goal 5 => exact reserveAndPost_balanced h _
  all_goals exact h.same (by simp)

theorem serveVoucher_balanced (h : s.Balanced) (body : List Byte) : (serveVoucher body s).Balanced := by
  unfold serveVoucher
  repeat' split
  on_goal 5 => exact postOffice_balanced h _
  all_goals exact h.same (by simp)

theorem serveFloor_balanced (h : s.Balanced) (body : List Byte) : (serveFloor body s).Balanced := by
  unfold serveFloor
  repeat' split
  on_goal 4 => exact postOffice_balanced h _
  all_goals exact h.same (by simp)

theorem serveQuoteTime_balanced (h : s.Balanced) (body : List Byte) : (serveQuoteTime body s).Balanced := by
  unfold serveQuoteTime
  repeat' split
  on_goal 4 => exact postOffice_balanced h _
  all_goals exact h.same (by simp)

theorem serveMask_balanced (h : s.Balanced) (body : List Byte) : (serveMask body s).Balanced := by
  unfold serveMask
  dsimp only
  repeat' split
  on_goal 4 => exact postOffice_balanced h _
  all_goals exact h.same (by simp)

theorem serveTillClose_balanced (h : s.Balanced) (body : List Byte) : (serveTillClose body s).Balanced := by
  unfold serveTillClose
  repeat' split
  on_goal 3 => exact postOffice_balanced h _
  all_goals exact h.same (by simp)

theorem serveLinkSet_balanced (h : s.Balanced) (body : List Byte) : (serveLinkSet body s).Balanced := by
  unfold serveLinkSet changeLink
  repeat' split
  on_goal 4 => exact postOffice_balanced h _
  on_goal 4 => exact postOrWait_balanced h _
  all_goals exact h.same (by simp)

theorem serveSiteCode_balanced (h : s.Balanced) (body : List Byte) : (serveSiteCode body s).Balanced := by
  unfold serveSiteCode
  repeat' split
  on_goal 5 => exact reserveAndPost_balanced h _
  all_goals exact h.same (by simp)

theorem serveClockSet_balanced (h : s.Balanced) (body : List Byte) : (serveClockSet body s).Balanced := by
  unfold serveClockSet buildClockSet
  repeat' split
  on_goal 4 => exact postOffice_balanced h _
  on_goal 4 => exact postOrWait_balanced h _
  all_goals exact h.same (by simp)

theorem serveRelease_balanced (h : s.Balanced) (body : List Byte) : (serveRelease body s).Balanced := by
  have released (n : Nat) : (releaseJournal n s).Balanced := h.same (by simp)
  unfold serveRelease
  dsimp only
  repeat' split
  on_goal 5 => exact (released _).officeReply _
  all_goals exact h.same (by simp)

@[simp] theorem lapseHold_stakes (s : State) :
    (lapseHold s).slots.map VendSlot.stake = s.slots.map VendSlot.stake := by simp [lapseHold]

/-! ### The Record Store's completions and the line's events -/

theorem ownerFetched_balanced (h : s.Balanced) (o : Option Owner) (slot : Nat) : (ownerFetched o slot s).Balanced := by
  unfold ownerFetched slotFetched
  dsimp only
  repeat' split
  · exact h
  · exact abandonQuote_balanced h ..
  · rename_i fetching _ _ _
    exact askGrant_balanced (h.goesOn _ rfl (by nofun) fun _ => .inr (eq_of_beq fetching)) _
  · exact h.same (by simp)
  · exact h
  · exact h
  · exact continueFromLine_balanced (h.same (by simp)) _ slot

theorem ownerFetchFailed_balanced (h : s.Balanced) (o : Option Owner) : (ownerFetchFailed o s).Balanced := by
  unfold ownerFetchFailed slotFetchFailed
  dsimp only
  repeat' split
  on_goal 2 => exact refuseQuote_balanced h ..
  all_goals exact h.same (by simp)

theorem fillLine_balanced (h : s.Balanced) (l : LineNo) (m slot : Nat) (r : Option Record) :
    (fillLine l m slot r s).Balanced := by
  unfold fillLine
  dsimp only
  split
  · exact ownerFetched_balanced (h.same (by simp)) ..
  · exact ownerFetchFailed_balanced (h.same (by simp)) _

theorem storeFault_balanced (h : s.Balanced) : (storeFault s).Balanced := by
  unfold storeFault
  dsimp only
  split <;> exact h.same (by simp)

theorem writeVerified_balanced (h : s.Balanced) (u : CommitUnit) : (writeVerified u s).Balanced := by
  unfold writeVerified
  dsimp only
  split
  · exact offerRoom_balanced (h.same (by simp))
  · exact h.same (by simp)

theorem unitWrite_balanced (h : s.Balanced) (u : CommitUnit) (r : ReadBack) : (unitWrite u r s).Balanced := by
  unfold unitWrite
  split
  · exact writeVerified_balanced h u
  · exact writeVerified_balanced h u
  · exact h.same (by simp)
  · exact storeFault_balanced (h.same (by simp))
  · exact h

theorem retryVerified_balanced (h : s.Balanced) (u : CommitUnit) : (retryVerified u s).Balanced := by
  unfold retryVerified
  dsimp only
  split
  · exact offerRoom_balanced (h.same (by simp))
  · exact h.same (by simp)

theorem retryAttempt_balanced (h : s.Balanced) (u : CommitUnit) (r : ReadBack) : (retryAttempt u r s).Balanced := by
  unfold retryAttempt
  split
  on_goal 1 => exact retryVerified_balanced h u
  all_goals exact h.same (by simp)

theorem enterFault_balanced (h : s.Balanced) (p : PortId) : (enterFault p s).Balanced := by
  have ended := endFrame_balanced h p
  unfold enterFault
  dsimp only
  repeat' split
  all_goals exact ended.same (by simp)

/-! ### Every command but those of the supply -/

/-- A second moves no stake: it counts the hold timers (R63). -/
theorem secondPassed_balanced (h : s.Balanced) : (secondPassed s).Balanced :=
  h.same ⟨rfl, rfl, stakes_of_slot fun k => by rw [secondPassed_slot]; rfl⟩

theorem exec_balanced (h : s.Balanced) (c : Instr) (supply : movesSupply c = false) (ht : exec c s = .next t) :
    t.Balanced := by
  cases c with
  | quote k g b => exact takeRequest_balanced h _ _ _ _ (fun x hx => serveQuote_balanced hx k g b) ht
  | confirm k g b => exact takeRequest_balanced h _ _ _ _ (fun x hx => serveConfirm_balanced hx k g b) ht
  | reprint k g b => exact takeRequest_balanced h _ _ _ _ (fun x hx => serveReprint_balanced hx k g b) ht
  | cancel k g b =>
    have cancelled : ∀ x : State, x.Balanced → (cancelOutcome k b x).2.Balanced := fun x hx =>
      cancelOutcome_balanced hx k b
    exact (portTake_balanced h _ _ _ _ ((cancelled s h).same (by simp [cancelAtOnce])) fun x hx =>
      (cancelled x hx).same (by simp [serveCancel])).settled ht
  | meterEnrol g b => exact takeRequest_balanced h _ _ _ _ (fun x hx => serveEnrol_balanced hx b) ht
  | meterEdit g b => exact takeRequest_balanced h _ _ _ _ (fun x hx => serveEdit_balanced hx b) ht
  | meterBlock g b | meterUnblock g b | meterRetire g b | meterPurge g b =>
    exact takeRequest_balanced h _ _ _ _ (fun x hx => serveMeter_balanced hx b fun m => serveChange_balanced hx ..) ht
  | meterRestore g b => exact takeRequest_balanced h _ _ _ _ (fun x hx => serveRestore_balanced hx b) ht
  | meterRead g b =>
    exact takeRequest_balanced h _ _ _ _ (fun x hx => serveMeter_balanced hx b fun m => serveRead_balanced hx m) ht
  | tariffStage g b => exact takeRequest_balanced h _ _ _ _ (fun x hx => serveStage_balanced hx b) ht
  | tariffUnstage g b => exact takeRequest_balanced h _ _ _ _ (fun x hx => serveUnstage_balanced hx b) ht
  | tariffLoadNow g b => exact takeRequest_balanced h _ _ _ _ (fun x hx => serveLoad_balanced hx b) ht
  | budgetVoucher g b => exact takeRequest_balanced h _ _ _ _ (fun x hx => serveVoucher_balanced hx b) ht
  | budgetFloorSet g b => exact takeRequest_balanced h _ _ _ _ (fun x hx => serveFloor_balanced hx b) ht
  | journalRelease g b => exact takeRequest_balanced h _ _ _ _ (fun x hx => serveRelease_balanced hx b) ht
  | clockSet g b => exact takeRequest_balanced h _ _ _ _ (fun x hx => serveClockSet_balanced hx b) ht
  | tillClose g b => exact takeRequest_balanced h _ _ _ _ (fun x hx => serveTillClose_balanced hx b) ht
  | linkSet g b => exact takeRequest_balanced h _ _ _ _ (fun x hx => serveLinkSet_balanced hx b) ht
  | quoteTimeSet g b => exact takeRequest_balanced h _ _ _ _ (fun x hx => serveQuoteTime_balanced hx b) ht
  | noticeMaskSet g b => exact takeRequest_balanced h _ _ _ _ (fun x hx => serveMask_balanced hx b) ht
  | siteCodeLoad g b => exact takeRequest_balanced h _ _ _ _ (fun x hx => serveSiteCode_balanced hx b) ht
  | tillStatus k g b | tariffRead g b | journalRead g b | clockRead g b | summaryRead g b | totalsSnapshot g b
  | holdRequest g b | holdRelease g b | conditionClear g b | statusRead g b | storeRetry g b | unknownKind p kind g b =>
    exact takeRequest_balanced h _ _ _ _ (fun x hx => hx.same (by simp)) ht
  | frameDiscarded p cs | frameTimeLimit p cs n =>
    refine State.Balanced.settled ?_ ht
    split
    · exact endFrame_balanced h p
    · exact h
  | linkEntersFault p =>
    refine State.Balanced.settled ?_ ht
    split
    · exact enterFault_balanced h p
    · exact h
  | linkSettingsTaken k =>
    refine State.Balanced.settled ?_ ht
    split
    · exact takeSettings_balanced h k
    · exact h
  | engineGrant => exact engineGrant_balanced h ht
  | quoteHoldExpiry k =>
    refine State.Balanced.settled ?_ ht
    split
    · exact h.closeQuote k _
    · exact h
  | dayRollover =>
    refine State.Balanced.settled ?_ ht
    split
    · exact rollover_balanced h
    · exact h
  | recordFetchComplete d =>
    refine State.Balanced.settled ?_ ht
    dsimp only
    repeat' split
    on_goal 1 => exact fillLine_balanced (h.same (by simp)) ..
    all_goals exact h.same (by simp)
  | unitWriteComplete r =>
    refine State.Balanced.settled ?_ ht
    repeat' split
    on_goal 3 => exact unitWrite_balanced h _ r
    all_goals exact h
  | retryAttemptComplete r =>
    refine State.Balanced.settled ?_ ht
    split
    · exact h
    · exact retryAttempt_balanced h _ r
  | frameTransmitted p => exact State.Balanced.settled (h.same (by simp)) ht
  | calendarSecond => exact secondPassed_balanced h |>.settled ht
  | linkFaultEnd p | officeHoldLapse | areaReadComplete | startUpComplete | backupCellFailed =>
    refine State.Balanced.settled ?_ ht
    repeat' split
    all_goals exact h.same (by simp)
  | supplyLow | supplyOk | resetAsserted | resetReleased | drainWriteComplete | holdCellWriteComplete | startUp =>
    cases supply

/-! ### The commands of the supply -/

/-- The law stands where the part takes arisings as before and leaves R, B and the stakes. -/
theorem BudgetLaw.same (h : BudgetLaw s) (takes : t.takesArisings = true → s.takesArisings = true)
    (e : t.reserved = s.reserved ∧ t.site.budget = s.site.budget ∧
      t.slots.map VendSlot.stake = s.slots.map VendSlot.stake) : BudgetLaw t := by
  rw [budgetLaw_iff] at h ⊢
  exact fun serves => (h (takes serves)).same e

/-- The law is silent while the part does not serve (R161, R181). -/
theorem BudgetLaw.of_stopped (h : t.takesArisings = false) : BudgetLaw t := fun serves => by simp [h] at serves

theorem BudgetLaw.settled (h : BudgetLaw s) (ht : finish s = .next t) : BudgetLaw t := by
  cases ht
  exact h.same (fun serves => by rwa [settle_takes] at serves) (by simp)

/-- Start-up sets R to 0 and every slot to IDLE; a rollover behind it closes nothing more (R181, R188). -/
theorem startUp_balanced (s : State) : (startUp s).Balanced := by
  have fresh : (testCalendar (resetVolatile (readStore s))).Balanced := by
    refine .of_unquoted (by simp [resetVolatile]) fun k => ?_
    simp [State.slot, resetVolatile, Vector.get_eq_getElem, VendSlot.empty]
  have powered : (startLinks (postPowerUp s.describingCell
      (reportLevels (testCalendar (resetVolatile (readStore s)))))).Balanced := by
    unfold postPowerUp
    split <;> exact fresh.same (by simp [startLinks])
  unfold startUp startRollover
  dsimp only
  split
  · exact rollover_balanced powered
  · exact powered

theorem drainWrite_supply (u : CommitUnit) (r : ReadBack) (s : State) :
    (drainWrite u r s).supply.state = s.supply.state ∧ (drainWrite u r s).supply.started = s.supply.started := by
  unfold drainWrite drainNext dropAll endDrain setDrain
  repeat' split
  all_goals simp [setService, setFaulted]

/-- The commands of the supply: start-up sets the law up, an entry to HOLD, DOWN or START ends its time (R181), and
every other leaves all that it reads. -/
theorem supply_keepsBudgetLaw (h : BudgetLaw s) (c : Instr) (supply : movesSupply c = true)
    (ht : exec c s = .next t) : BudgetLaw t := by
  cases c with
  | supplyLow =>
    refine BudgetLaw.settled ?_ ht
    dsimp only
    split
    · exact .of_stopped (takesArisings_hold (enterHold_spec .supply s _).1)
    · exact .of_stopped rfl
    · exact .of_stopped rfl
    · exact h.same (fun e => e) (by simp)
    · exact h.same (fun e => e) (by simp)
  | supplyOk =>
    refine BudgetLaw.settled ?_ ht
    repeat' split
    · exact .of_stopped rfl
    · exact .of_stopped rfl
    · exact h.same (fun e => e) (by simp)
  | resetAsserted =>
    refine BudgetLaw.settled ?_ ht
    dsimp only
    split
    · exact .of_stopped (takesArisings_hold (enterHold_spec .resetLine s _).1)
    · exact .of_stopped rfl
    · exact h.same (fun e => e) (by simp)
  | resetReleased =>
    refine BudgetLaw.settled ?_ ht
    split
    · exact .of_stopped rfl
    · exact h.same (fun e => e) (by simp)
  | drainWriteComplete r =>
    refine BudgetLaw.settled ?_ ht
    repeat' split
    on_goal 2 =>
      obtain ⟨state, started⟩ := drainWrite_supply ‹_› r s
      exact h.same (by simp only [State.takesArisings, state, started]; exact id) (by simp)
    all_goals exact h
  | holdCellWriteComplete r =>
    refine BudgetLaw.settled ?_ ht
    split
    · exact h
    · split
      · unfold endHoldState
        dsimp only
        repeat' split
        all_goals exact .of_stopped rfl
      · exact h
  | startUp =>
    refine BudgetLaw.settled ?_ ht
    split
    · exact (budgetLaw_iff _).mpr fun _ => startUp_balanced s
    · exact h
  | _ => cases supply

/-- No other command begins or ends the time in which arisings are taken (R177). -/
theorem exec_takes (c : Instr) (supply : movesSupply c = false) (ht : exec c s = .next t) :
    t.takesArisings = s.takesArisings := by
  by_cases clear : ∃ g b, c = .conditionClear g b
  · obtain ⟨g, b, rfl⟩ := clear
    cases ht
    rw [settle_takes]
    refine takesArisings_congr ?_
    unfold takeOffice takeRequest portTake
    repeat' split
    all_goals simp
  · push Not at clear
    obtain ⟨x, course, pumped⟩ := exec_told (.any c s t) clear supply ht
    exact pumped.takes.trans (course (fun _ => True) .any trivial trivial fun _ => trivial).takes

theorem exec_keepsBudgetLaw (h : BudgetLaw s) (c : Instr) (ht : exec c s = .next t) : BudgetLaw t := by
  cases supply : movesSupply c
  · rw [budgetLaw_iff] at h ⊢
    exact fun serves => exec_balanced (h (exec_takes c supply ht ▸ serves)) c supply ht
  · exact supply_keepsBudgetLaw h c supply ht

end

/-- Settles O11: a grant reserves no tender above B − R, a SALE takes from B no more than from R, every closed quote
gives back what it reserved, and start-up begins with no quote and R at 0. -/
theorem stepKeepsBudgetLaw : Obligations.StepKeepsBudgetLaw := by
  intro s t h ht
  unfold step at ht
  split at ht
  · cases ht; exact h
  · exact exec_keepsBudgetLaw (by exact h) _ ht

end Sys2Proof.Machine
end

section
/-! SUPPORT. A computing grant above B − R (R162). -/

namespace Sys2Proof.Machine

section

variable {s x : State} {k : Till} {q : QuoteRecord} {r : Record} {tf : Tariff} {p : Priced} {d : DateTime}

/-- A quote that passes steps 8 to 10 of Table 3-2 and whose tender is above B − R (R162). -/
structure QuoteShort (q : QuoteRecord) (r : Record) (tf : Tariff) (p : Priced) (d : DateTime) (s : State) : Prop where
  account : r.account = .active
  now : s.now = some d
  tariff : s.site.active[r.tariffIndex]?.getD none = some tf
  priced : priceQuote r tf s.site.generation (monthTagOf d.day) q.tender = .ok p
  short : s.site.budget - s.reserved < q.tender

/-- The budget test refuses it, carrying B − R (R162). -/
theorem QuoteShort.computeQuote_eq (h : QuoteShort q r tf p d s) :
    computeQuote k q r s = refuseQuote k q .budgetShort (s.site.budget - s.reserved) s := by
  obtain ⟨account, now, tariff, priced, short⟩ := h
  simp [computeQuote, accountRefusal, State.tariffOf, account, tariff, currentMonth_eq now, priced, short]

/-- The computation reads nothing of the slots and the lines. -/
theorem QuoteShort.of_inGrant (h : QuoteShort q r tf p d s) (inside : InGrant k s x) : QuoteShort q r tf p d x := by
  have site : x.site = s.site := inside.kept .site (by simp)
  have reserved : x.reserved = s.reserved := inside.kept .reserved (by simp)
  have nowX : x.now = s.now := by simp only [State.now, (inside.kept .clock (by simp)).1]
  exact ⟨h.account, nowX.trans h.now, by rw [site]; exact h.tariff, by rw [site]; exact h.priced,
    by rw [site, reserved]; exact h.short⟩

end

/-- Settles O33: the grant computes the quote where its pin is held, and closes it with nothing to give back. -/
theorem grantBudgetShort : Obligations.GrantBudgetShort := by
  intro s k q l r tf p d running hold next quoting quote abandon reprint budget reservation present account now tariff
    priced short
  have granted : QuoteGranted s k q := ⟨running, hold, next, quoting, quote, reprint⟩
  have fails : QuoteShort q r tf p d s := ⟨account, now, tariff, priced, short⟩
  obtain ⟨x, held, stage⟩ := granted.computes abandon present
  have site : x.site = s.site := held.kept .site (by simp)
  have reserved : x.reserved = s.reserved := held.kept .reserved (by simp)
  have go : (x.slot k).abandon = none := by rw [held.slot]; exact abandon
  have refuses := (fails.of_inGrant held.toInGrant).computeQuote_eq (k := k)
  rw [site, reserved] at refuses
  obtain ⟨replied, slot, line, ⟨pointer, served, others⟩, levels, kept⟩ := held.closes quote reprint
    ⟨budget, reservation⟩ .refused (.refused .budgetShort kindQuote q.id (s.site.budget - s.reserved))
  refine ⟨_, granted.exec_eq (stage.trans (refuses.trans (refuseQuote_eq go ..))), replied, slot.trans ?_, line,
    pointer, served, others, levels, kept⟩
  simp only [VendSlot.closedBare, abandon]

end Sys2Proof.Machine
end

section
/-! SUPPORT. CONDITION_CLEAR: the clearing with what the end of the step leaves of it (R175). -/

namespace Sys2Proof.Machine

theorem serving_levelOf (s : State) (p : PortId) (kind tag : Byte) (c : Condition) :
    (s.serving p kind tag).levelOf c = s.levelOf c :=
  levelOf_congr (by simp) (by simp) (by simp) (by simp) (by simp) (by simp) c

/-- The service of a commissioned part: it clears every condition named, and its reply carries what stands then. -/
theorem serveClear_eq {s : State} {body : List Byte} {cs : List Condition} (parsed : parseConditions body = some cs)
    (commissioned : s.commissioned = true) : serveClear body s = officeReply
      (.clearOk (cs.eraseDups.foldl clearCondition s).conditions.latches
        (cs.eraseDups.foldl clearCondition s).conditions.tillSet) (cs.eraseDups.foldl clearCondition s) := by
  simp only [serveClear, parsed, commissioned, if_true]

/-- Settles O50: what clearing does in the serving state, kept by the answer and by the end of the step. -/
theorem conditionClear : Obligations.ConditionClear := by
  intro s tag body cs takes parsed commissioned rest
  let served := s.serving .office kindConditionClear tag
  let cleared := cs.eraseDups.foldl clearCondition served
  let reply := Reply.clearOk cleared.conditions.latches cleared.conditions.tillSet
  have arisings : served.takesArisings = true := running_takes ((serving_running ..).trans (takes_running takes))
  obtain ⟨latched, tillSet, -, withdrawn, kept, -⟩ := clearConditions_spec cs.eraseDups served arisings
  have levels (c : Condition) : served.levelOf c = s.levelOf c := serving_levelOf ..
  have serves : serveClear body served = answer .office tag reply cleared :=
    (serveClear_eq parsed ((serving_commissioned ..).trans commissioned)).trans
      (officeReply_eq (after_outstanding kept (by simp)) reply)
  have clearedRest : cleared.holdAtRest :=
    holdAtRest_of_kept (holdAtRest_congr (t := served) rest (by simp [served]) (by simp [served])) kept (by simp)
  have answerRest : (answer .office tag reply cleared).holdAtRest :=
    holdAtRest_congr clearedRest (by simp) (by simp)
  have supply : cleared.supply = s.supply := (kept .supply (by simp)).trans (by simp [served])
  have link : (cleared.port .office).link = (s.port .office).link :=
    (standing_link (kept (.link .office) (by simp))).trans (serving_link ..)
  have replies : cleared.replies .office = s.replies .office :=
    (kept (.replies .office) (by simp)).trans (serving_replies ..)
  have conditions : (settle (answer .office tag reply cleared)).conditions = cleared.conditions := by simp
  refine ⟨_, (takeOffice_exec takes (serveClear body)).trans (by rw [serves]), fun c => ?_, ?_, fun c hc level => ?_,
    ?_, ?_⟩
  · rw [latched_congr (congrArg ConditionUnit.latches conditions) c, latched c]
    simp only [List.mem_eraseDups, levels]
    rfl
  · simp only [List.mem_eraseDups] at tillSet
    rw [conditions]
    exact tillSet
  · refine settle_notice answerRest c ((answer_notice ..).trans ?_)
    exact withdrawn c (List.mem_eraseDups.mpr hc) ((levels c).trans level)
  · rw [conditions]
    exact settle_replied answerRest (end_replied kindConditionClear reply takes link supply replies)
  · exact keepsAllBut_settle answerRest (end_keeps kindConditionClear reply takes (by simp)
      (keepsAllBut_mono kept (by simp)))

end Sys2Proof.Machine
end

section
/-! SUPPORT. The office requests that post a JOURNAL-ONLY unit of a setting at once, and those that find the setting
equal and post nothing (R64, R158, R168, R176). -/

namespace Sys2Proof.Machine

section

variable {s x : State} {tag kind : Byte} {body : List Byte} {serve : State → State} {r : Reply} {j : Job}

/-- A setting's posting finds the site state, the counts and R as its request found them. -/
structure PostsFor (s x : State) : Prop where
  site : x.site = s.site
  seq : x.journal.nextSeq = s.journal.nextSeq
  reserved : x.reserved = s.reserved

theorem PostsFor.of_reservation (s : State) (kind tag : Byte) :
    PostsFor s (takeReservation (s.serving .office kind tag)) :=
  ⟨by simp, by simp [takeReservation_journal], by simp⟩

/-- A request whose unit posts at once: the step settles what the posting leaves. -/
theorem setting_exec (takes : s.takes .office tag body) (ready : s.ready)
    (asks : serve (s.serving .office kind tag) = postOffice j (s.serving .office kind tag)) :
    finish (takeOffice kind tag body serve s) =
      .next (settle (runJob ⟨j, true⟩ (takeReservation (s.serving .office kind tag)))) := by
  rw [takeOffice_exec takes serve, asks, postOffice_posts ready]

/-- Its posting changes the site state, adds the unit and answers. -/
theorem setting_posts (j : Job) {eb : EntryBody} {v : SiteState} (takes : s.takes .office tag body) (ready : s.ready)
    (asks : serve (s.serving .office kind tag) = postOffice j (s.serving .office kind tag))
    (runs : ∀ x, PostsFor s x → runJob ⟨j, true⟩ x = officeReply r (postSetting true eb { x with site := v })) :
    ∃ t, finish (takeOffice kind tag body serve s) = .next t ∧ settingPosts tag eb v r [] s t := by
  refine ⟨_, setting_exec takes ready asks, ?_⟩
  rw [runs _ (.of_reservation s kind tag)]
  exact setting_simple kind r takes eb v

theorem postVoucher_eq (posts : PostsFor s x) (serial amount : Nat) :
    let b := s.site.budget + amount
    postVoucher serial amount x = officeReply (.voucherOk serial amount b s.journal.nextSeq)
      (postSetting true (.budgetVoucher serial amount b)
        { x with site := { s.site with budget := b, lastVoucher := serial } }) := by
  simp only [postVoucher, posts.site, posts.seq]

theorem postFloor_eq (posts : PostsFor s x) (v : Nat) : postFloor v x =
    officeReply (.floorOk v s.site.budget s.reserved (some s.journal.nextSeq))
      (postSetting true (.settings (.budgetFloor s.site.floor v)) { x with site := { s.site with floor := v } }) := by
  simp only [postFloor, posts.site, posts.seq, posts.reserved]

theorem postQuoteTime_eq (posts : PostsFor s x) (v : Nat) : postQuoteTime v x =
    officeReply (.quoteTimeOk v (some s.journal.nextSeq))
      (postSetting true (.settings (.quoteHoldTime s.site.quoteHoldTime v))
        { x with site := { s.site with quoteHoldTime := v } }) := by
  simp only [postQuoteTime, posts.site, posts.seq]

theorem postMask_eq (posts : PostsFor s x) (v : ConditionSet) : postMask v x =
    officeReply (.maskOk v (some s.journal.nextSeq)) (withdrawDisabled v
      (postSetting true (.settings (.noticeMask s.site.mask v)) { x with site := { s.site with mask := v } })) := by
  simp only [postMask, posts.site, posts.seq]

/-- Counts captured whole leave nothing behind. -/
theorem subCounts_self (c : Counts) : subCounts c c = ⟨0, 0, 0, 0, 0⟩ := by simp [subCounts]

/-- The counts that a TILL_CLOSE captures and no posting has changed since return to 0. -/
theorem postTillClose_eq (posts : PostsFor s x) (k : Till) : let c := s.site.tillTotals.get k
    postTillClose k c x = officeReply (.tillCloseOk k c s.journal.nextSeq) (postSetting true (.tillClose k c)
      { x with site := { s.site with tillTotals := s.site.tillTotals.set k.val ⟨0, 0, 0, 0, 0⟩ k.isLt } }) := by
  simp only [postTillClose, posts.site, posts.seq, subCounts_self]

/-! ### The notices of a mask -/

theorem withdrawDisabled_notice {v : ConditionSet} {c : Condition} (off : conditionBit v c = false) (x : State) :
    (withdrawDisabled v x).noticePending c = false := by
  rw [← Bool.not_eq_true, noticePending_iff, withdrawDisabled_notices]
  simp [off]

/-- The posting of a changed mask: besides its unit it withdraws the notices that the mask turns off (R176). -/
theorem noticeMask_posts (takes : s.takes .office tag body) (ready : s.ready) (v : ConditionSet)
    (asks : serveMask body (s.serving .office kindNoticeMaskSet tag) =
      postOffice (.maskSet v) (s.serving .office kindNoticeMaskSet tag)) :
    ∃ t, exec (.noticeMaskSet tag body) s = .next t ∧
      settingPosts tag (.settings (.noticeMask s.site.mask v)) { s.site with mask := v }
        (.maskOk v (some s.journal.nextSeq)) [] s t ∧ ∀ c, conditionBit v c = false → t.noticePending c = false := by
  let eb := EntryBody.settings (.noticeMask s.site.mask v)
  let site : SiteState := { s.site with mask := v }
  let reserved := takeReservation (s.serving .office kindNoticeMaskSet tag)
  let posted := postSetting true eb { reserved with site := site }
  have withdrawn : keepsAllBut [] posted (withdrawDisabled v posted) := withdrawDisabled_keeps v posted
  have outstanding : (withdrawDisabled v posted).officePort.outstanding = some ⟨tag, kindNoticeMaskSet⟩ := by
    refine after_outstanding (s := s) (l := [.journal, .conditions, .site, .buffer]) ?_ (by simp)
    exact keepsAllBut_trans (keepsAllBut_mono (takeReservation_keeps _) (by simp))
      (keepsAllBut_trans (keepsAllBut_mono (site_keeps reserved site) (by simp))
        (keepsAllBut_trans (keepsAllBut_mono (addUnit_keeps _ _ _ _ _) (by simp))
          (keepsAllBut_mono withdrawn (by simp))))
  have runs : runJob ⟨.maskSet v, true⟩ reserved =
      answer .office tag (.maskOk v (some s.journal.nextSeq)) (withdrawDisabled v posted) :=
    (postMask_eq (.of_reservation s kindNoticeMaskSet tag) v).trans (officeReply_eq outstanding _)
  have rest : (answer .office tag (.maskOk v (some s.journal.nextSeq)) (withdrawDisabled v posted)).holdAtRest := by
    intro _
    simp [posted, postSetting, addUnit, entryIf]
  refine ⟨_, setting_exec takes ready asks, ?_⟩
  rw [runs]
  refine ⟨?_, fun c off => settle_notice rest c ((answer_notice ..).trans (withdrawDisabled_notice off _))⟩
  exact setting_end kindNoticeMaskSet _ takes eb site [] (by simp) (by simp) (by simp) { reserved with site := site }
    (keepsAllBut_refl _ _) (by simp [reserved]) rfl rfl (takeReservation_now _) rfl
    (keepsAllBut_mono withdrawn (by simp)) (withdrawn .site (by simp)) (withdrawn .buffer (by simp))
    (withdrawn .journal (by simp)) (onlyLevels_of_conditions (withdrawn .conditions (by simp)))

end

/-- Settles O44: each changed setting and the till's close by their postings, each equal one by its answer alone. -/
theorem settingsAndTillClosePost : Obligations.SettingsAndTillClosePost := by
  intro s tag body takes editable n
  have passes (kind : Byte) := settingRefusal_none editable .office kind tag
  refine ⟨fun v parsed => ⟨fun changed ready => ?_, fun equal rest => ?_⟩,
    fun v parsed => ⟨fun changed ready => ?_, fun equal rest => ?_⟩, fun k parsed ready => ?_,
    fun cs v parsed bits => ?_⟩
  · exact setting_posts (.floorSet v) takes ready (by simp [serveFloor, parsed, passes, changed])
      fun x posts => postFloor_eq posts v
  · exact takeOffice_answered takes rest _ _ (by simp [serveFloor, parsed, passes, equal])
  · exact setting_posts (.quoteTimeSet v) takes ready (by simp [serveQuoteTime, parsed, passes, changed])
      fun x posts => postQuoteTime_eq posts v
  · exact takeOffice_answered takes rest _ _ (by simp [serveQuoteTime, parsed, passes, equal])
  · exact setting_posts (.tillClose k (s.site.tillTotals.get k)) takes ready (by simp [serveTillClose, parsed, passes])
      fun x posts => postTillClose_eq posts k
  · have mask : conditionSetOf cs = v := conditionSet_ext fun c => (conditionSetOf_bit cs c).trans (bits c).symm
    refine ⟨fun changed ready => ?_, fun equal rest => ?_⟩
    · obtain ⟨t, step, posted, withdrawn⟩ := noticeMask_posts takes ready v
        (by simp [serveMask, parsed, passes, mask, changed])
      exact ⟨t, step, posted, fun c absent => withdrawn c ((bits c).trans (by simp [absent]))⟩
    · exact takeOffice_answered takes rest _ _ (by simp [serveMask, parsed, passes, mask, equal])

end Sys2Proof.Machine
end

section
/-! SUPPORT. BUDGET_VOUCHER: at once, refused or waiting; its turn at the room of a verified write, and its withdrawal
at the STORE_FAULT of a failed one (R121 to R124, R165, R166). -/

namespace Sys2Proof.Machine

section

variable {s x : State} {tag kind : Byte} {body : List Byte} {serve : State → State} {j : Job} {o : Outstanding}
  {u : CommitUnit} {rest : List CommitUnit} {serial amount : Nat}

/-- Where the buffer is full or others wait, an office request's unit joins the list with its reservation (R122). -/
theorem setting_waits (takes : s.takes .office tag body)
    (asks : serve (s.serving .office kind tag) = postOffice j (s.serving .office kind tag))
    (office : ∀ x, markWaiting j x = x) (full : s.postsAtOnce = false) (space : s.roomForOffice = true)
    (sound : s.store.faulted = false) (unlatched : s.storeFaultLatched = false) (atRest : s.holdAtRest) :
    ∃ t, finish (takeOffice kind tag body serve s) = .next t ∧ waits j tag kind s t := by
  let served := s.serving .office kind tag
  let reserved := takeReservation served
  let y : State := { reserved with waiters := reserved.waiters ++ [⟨j, true⟩] }
  have latch : reserved.storeFaultLatched = false :=
    takeReservation_storeFault (by simpa [served] using sound) (by simpa [served] using unlatched)
  have crowded : reserved.postsAtOnce = false := by
    simpa [State.postsAtOnce, reserved, served] using full
  have joins : serve served = y := by
    simp only [served, asks, postOffice, serving_roomForOffice, space, if_true, reserveAndPost]
    exact (by simp [postOrWait, crowded, latch, office, y] : postOrWait ⟨j, true⟩ reserved = y)
  have toReserved : keepsAllBut [.journal, .conditions, .outstanding .office] s reserved :=
    keepsAllBut_trans (keepsAllBut_mono (serving_keeps s .office kind tag) (by simp))
      (keepsAllBut_mono (takeReservation_keeps served) (by simp))
  have toY : keepsAllBut [.waiters, .journal, .conditions, .outstanding .office] s y :=
    keepsAllBut_trans (keepsAllBut_mono toReserved (by simp))
      (keepsAllBut_mono (waiters_keeps reserved (reserved.waiters ++ [⟨j, true⟩])) (by simp))
  have waiters : y.waiters = s.waiters ++ [⟨j, true⟩] := by simp [y, reserved, served]
  have journal : y.journal = ⟨s.journal.nextSeq, s.journal.reservations + 1⟩ :=
    (takeReservation_journal served).trans (by simp [served])
  have outstanding : (y.port .office).outstanding = some ⟨tag, kind⟩ :=
    (takeReservation_keeps served (.outstanding .office) (by simp)).trans (serving_outstanding s kind tag)
  have levels : onlyLevels s y :=
    onlyLevels_congr (onlyLevels_trans (serving_levels s .office kind tag) (takeReservation_levels served)) rfl rfl
  have restY : y.holdAtRest := holdAtRest_of_kept atRest toY (by simp)
  have settled := settle_keeps restY
  exact ⟨_, (takeOffice_exec takes serve).trans (by rw [joins]), (settled .waiters (by simp)).trans waiters,
    (settled .journal (by simp)).trans journal, (settled (.outstanding .office) (by simp)).trans outstanding,
    settle_onlyLevels levels, keepsAllBut_settle restY toY⟩

/-! ### The waiting voucher -/

/-- What the posting of an outstanding voucher does, with what it found. -/
theorem postVoucher_spec (served : OfficeServed x o) (serial amount : Nat) :
    let b := x.site.budget + amount
    let v := postedUnit x .journalOnly none x.now .office (.budgetVoucher serial amount b)
      { x.site with budget := b, lastVoucher := serial }
    let t := settle (postVoucher serial amount x)
    posts v (x.journal.reservations - 1) x t ∧
      replied .office o.tag (.voucherOk serial amount b x.journal.nextSeq) x t ∧ onlyLevels x t ∧
      keepsAllBut [.site, .buffer, .journal, .conditions, .outstanding .office, .replies .office] x t := by
  intro b v t
  let adds : State := { x with site := { x.site with budget := b, lastVoucher := serial } }
  let posted := postSetting true (.budgetVoucher serial amount b) adds
  have posting : posts v (x.journal.reservations - 1) x posted :=
    addUnit_entry .journalOnly none .office (.budgetVoucher serial amount b) adds
  have kept : keepsAllBut [.site, .buffer, .journal, .conditions] x posted :=
    keepsAllBut_trans (keepsAllBut_mono (site_keeps x _) (by simp)) (addUnit_keeps _ _ _ _ _)
  have rest : posted.holdAtRest := fun _ => by simp [posting.1]
  obtain ⟨replied, changed⟩ := served.answered (.voucherOk serial amount b x.journal.nextSeq) kept (by simp) (by simp)
    (by simp) (by simp) rest
  have levels : onlyLevels x posted := onlyLevels_congr (addUnit_levels _ _ _ _ adds) rfl rfl
  have reply : t = settle (officeReply (.voucherOk serial amount b x.journal.nextSeq) posted) := rfl
  have settled : posts v (x.journal.reservations - 1) x t := by
    have ⟨buffer, site, journal⟩ := posting
    rw [reply]
    exact ⟨by simpa using buffer, by simpa using site, by simpa using journal⟩
  refine ⟨settled, reply ▸ replied, reply ▸ settle_onlyLevels (onlyLevels_trans levels ?_),
    reply ▸ keepsAllBut_mono changed (by simp)⟩
  exact onlyLevels_of_conditions (by simp)

/-- At the room of a verified write the head waiter posts, and those behind it keep their places (R123). -/
theorem voucher_postsAtRoom {behind : List Waiter} (room : RoomOffered s o u rest)
    (waiters : s.waiters = ⟨.voucher serial amount, true⟩ :: behind) :
    ∃ x, exec (.unitWriteComplete .verified) s = .next (settle (postVoucher serial amount x)) ∧
      OfficeServed x o ∧ x.buffer = rest ∧ x.waiters = behind ∧ stored u s x ∧ linesAfterStore u s x ∧
      onlyLevels s x ∧ keepsAllBut [.areas, .lines, .buffer, .waiters, .conditions] s x := by
  obtain ⟨buffer, areas, lines, levels, kept⟩ := room.unitStored_spec
  have step := room.step
  generalize unitStored u s = y at *
  rw [offerRoom_posts ((kept .waiters (by simp)).trans waiters) (by rw [buffer]; exact room.room) rfl] at step
  have left := waiters_keeps y behind
  have toX := keepsAllBut_trans
    (keepsAllBut_mono kept (m := [.areas, .lines, .buffer, .waiters, .conditions]) (by simp))
    (keepsAllBut_mono left (by simp))
  exact ⟨_, step, OfficeServed.of_kept ⟨room.receives, room.outstanding⟩ toX (by simp) (by simp) (by simp), buffer, rfl,
    stored_of_kept areas left (by simp), linesAfterStore_of_kept lines left (by simp),
    onlyLevels_congr levels rfl rfl, toX⟩

/-- A voucher that alone of the waiters is withdrawable is withdrawn, the others kept in their places (R124). -/
theorem withdrawWaiters_voucher (code : RefusalCode)
    (alone : x.waiters.filter (fun w => w.job.withdrawable) = [⟨.voucher serial amount, true⟩]) :
    withdrawWaiters Job.withdrawable code x = refuseJob ⟨.voucher serial amount, true⟩ code
      { x with waiters := x.waiters.filter fun w => !w.job.withdrawable } := by
  simp [withdrawWaiters, alone]

/-- A voucher holds no pin and no area: it leaves the list as a CLOCK_SET does. -/
theorem refuseJob_voucher (code : RefusalCode) (old : Option DateTime) (d : DateTime) (x : State) :
    refuseJob ⟨.voucher serial amount, true⟩ code x = refuseJob ⟨.clockSet old d 0, true⟩ code x := rfl

/-- The rewrite that fails latches STORE_FAULT, which withdraws the waiters and finds no PENDING hold (R112, R124). -/
theorem rewriteFailed_exec (running : s.running = true) (buffer : s.buffer = u :: rest)
    (rewriting : s.store.service = .rewriting) (hold : s.arbiter.hold ≠ .pending) (a : Bool) :
    exec (.unitWriteComplete (.failed a)) s =
      .next (settle (withdrawWaiters Job.withdrawable .suspended (unitFaulted u a s))) := by
  obtain ⟨-, -, -, kept⟩ := unitFaulted_spec u a s
  have runs : (failUnit u a s).running = true := running
  have faults : unitWrite u (.failed a) s =
      refusePendingHold (withdrawWaiters Job.withdrawable .suspended (unitFaulted u a s)) := by
    simp only [unitWrite, rewriting, storeFault, runs, if_true]
    rfl
  rw [unitWrite_exec buffer (draining_of_running running), faults, refusePendingHold_none]
  rw [withdrawWaiters_arbiter, (kept .hold (by simp)).1]
  exact hold

end

/-- Settles O43: the request by the tests of R165 in their order; then the waiter's turn, and its withdrawal. -/
theorem voucherPosts : Obligations.VoucherPosts := by
  refine ⟨fun s tag body serial amount takes parsed editable => ?_,
    fun s o serial amount u rest receives outstanding buffer =>
      ⟨fun ws waiters short service => ?_, fun a withdrawn rewriting hold => ?_⟩⟩
  · intro b
    have passes := settingRefusal_none editable .office kindBudgetVoucher tag
    have asks (newer : s.site.lastVoucher < serial) (fits : b ≤ 999999999) :
        serveVoucher body (s.serving .office kindBudgetVoucher tag) =
          postOffice (.voucher serial amount) (s.serving .office kindBudgetVoucher tag) := by
      have under : ¬maxBudget < s.site.budget + amount := Nat.not_lt.mpr fits
      simp [serveVoucher, parsed, passes, Nat.not_le.mpr newer, under]
    refine ⟨fun newer fits full space sound atRest => ?_, fun newer fits ready => ?_, fun old atRest => ?_,
      fun newer above atRest => ?_, fun newer fits few atRest => ?_⟩
    · exact setting_waits takes (asks newer fits) (fun _ => rfl) full space sound editable.2 atRest
    · exact setting_posts _ takes ready (asks newer fits) fun x posts => postVoucher_eq posts serial amount
    · exact takeOffice_refused takes atRest _ _ _ rfl (by simp [serveVoucher, parsed, passes, old])
    · have beyond : maxBudget < s.site.budget + amount := above
      exact takeOffice_refused takes atRest (serveVoucher body) .budgetCap (maxBudget - s.site.budget) rfl
        (by simp [serveVoucher, parsed, passes, Nat.not_le.mpr newer, beyond])
    · have spaceless : s.roomForOffice = false := by simpa [State.roomForOffice] using few
      exact takeOffice_refused takes atRest (serveVoucher body) .journalFull 0 rfl
        ((asks newer fits).trans (by simp [postOffice, spaceless, officeRefuse]))
  · intro b n v
    obtain ⟨x, step, served, left, behind, areas, lines, levels, kept⟩ :=
      voucher_postsAtRoom ⟨receives, outstanding, buffer, short, service⟩ waiters
    have site : x.site = s.site := kept .site (by simp)
    have journal : x.journal = s.journal := kept .journal (by simp)
    have now : x.now = s.now := by simp only [State.now, (kept .clock (by simp)).1]
    obtain ⟨⟨joins, image, counts⟩, reply, more, changed⟩ := postVoucher_spec served serial amount
    simp only [postedUnit, site, journal, now, left] at joins image counts reply
    exact ⟨_, step, (changed .waiters (by simp)).trans behind, joins, image, counts,
      stored_of_kept areas changed (by simp), linesAfterStore_of_kept lines changed (by simp),
      replied_of_kept kept (by simp) reply, onlyLevels_trans levels more,
      keepsAllBut_trans (keepsAllBut_mono kept (by simp)) (keepsAllBut_mono changed (by simp))⟩
  · obtain ⟨areas, faulted, levels, kept⟩ := unitFaulted_spec u a s
    have step := rewriteFailed_exec (receives_running receives) buffer rewriting hold a
    generalize unitFaulted u a s = x at *
    have waiters : x.waiters = s.waiters := kept .waiters (by simp)
    rw [withdrawWaiters_voucher _ (by rw [waiters]; exact withdrawn), waiters, refuseJob_voucher _ none ⟨0, 0⟩] at step
    have left := waiters_keeps x (s.waiters.filter fun w => !w.job.withdrawable)
    have toY := keepsAllBut_trans (keepsAllBut_mono kept (m := [.areas, .waiters, .conditions]) (by simp))
      (keepsAllBut_mono left (by simp))
    obtain ⟨journal, reply, more, changed⟩ := clockSet_withdrawn (old := none) (value := ⟨0, 0⟩) (elapsed := 0)
      (b := true) (OfficeServed.of_kept ⟨receives, outstanding⟩ toY (by simp) (by simp) (by simp))
      (atRest_of_hold_kept hold toY (by simp)) .suspended
    have fromX := keepsAllBut_trans (keepsAllBut_mono left (m := [.waiters, .journal, .conditions,
      .outstanding .office, .replies .office]) (by simp)) (keepsAllBut_mono changed (by simp))
    refine ⟨_, step, changed .waiters (by simp), (fromX .buffer (by simp)).trans (kept .buffer (by simp)),
      (faulted_of_kept fromX (by simp)).trans faulted, journal.trans ?_, leftUnstored_of_kept areas fromX (by simp),
      replied_of_kept toY (by simp) reply, onlyLevels_trans levels (onlyLevels_congr more rfl rfl),
      keepsAllBut_trans (keepsAllBut_mono kept (by simp)) (keepsAllBut_mono fromX (by simp))⟩
    rw [toY .journal (by simp)]
    rfl

end Sys2Proof.Machine
end

section
/-! SUPPORT. The supply and RESET events: the entry to HOLD, the levels and lines, and the start abandoned (Table 10-2,
R179, R180, R181, R186, R190). -/

namespace Sys2Proof.Machine

section

variable {s : State}

/-- The entry to HOLD closes every port (R180). -/
theorem enterHold_port (cause : OutageCause) (s : State) (p : PortId) :
    (enterHold cause s).port p = (s.port p).closed := by
  rw [← (abandonWork_spec s).2 p]
  unfold enterHold
  dsimp only
  split
  · cases p <;> simp [State.port]
  · cases p <;> rfl

theorem noticePending_of_order {c : Condition} (empty : (s.port .office).order = []) : s.noticePending c = false := by
  have order : s.officePort.order = [] := empty
  simp [State.noticePending, order]

/-- The supply event of a part not in RUN, or of one whose state it leaves: its own level or line, and no more. -/
theorem supply_written (rest : s.holdAtRest) (v : Supply) :
    ∃ t, finish { s with supply := v } = .next t ∧ t.supply = v ∧ keepsAllBut [.supply] s t := by
  have settled : keepsAllBut [] { s with supply := v } (settle { s with supply := v }) := settle_keeps rest
  exact ⟨_, rfl, settled .supply (by simp), keepsAllBut_settle rest (supply_keeps s v)⟩

/-- A start abandoned: its units and notices are discarded (R190). -/
theorem start_left (v : Supply) (state : SupplyState) (stays : state ≠ .run) :
    let w : Supply := { v with state := state, started := false }
    ∃ t, finish (setSupply state (abandonStart { s with supply := v })) = .next t ∧ t.supply = w ∧ t.buffer = [] ∧
      t.waiters = [] ∧ (∀ c, t.noticePending c = false) ∧
      keepsAllBut [.supply, .buffer, .waiters, .link .office, .outstanding .office, .replies .office] s t := by
  intro w
  obtain ⟨supply, buffer, waiters, kept⟩ := abandonStart_spec s v w
  refine ⟨{ abandonStart { s with supply := v } with supply := w }, ?_, supply, buffer, waiters,
    fun c => noticePending_of_order rfl, kept⟩
  exact congrArg Host.Outcome.next (settle_not_run stays)

end

/-- Settles O59: each event by the state of the supply that it finds. -/
theorem supplyEvents : Obligations.SupplyEvents := by
  intro s rest holds only leaves
  have enters (c : Instr) (cause : OutageCause) (supply : Supply)
      (step : exec c s = finish (enterHold cause { s with supply := supply })) : holds c cause supply := by
    obtain ⟨hold, busy, empty, drains, site, waiters, request, assembly, noHold, noLapse, queue, retry, grants, pointer,
      slots, ports, kept⟩ := enterHold_spec cause s supply
    have closed (p : PortId) := enterHold_port cause { s with supply := supply } p
    have order (p : PortId) : ((enterHold cause { s with supply := supply }).port p).order = [] := by
      rw [closed p]
      rfl
    have stays := settle_not_run (x := enterHold cause { s with supply := supply }) (by simp [hold])
    refine ⟨_, step.trans (congrArg Host.Outcome.next stays), busy, empty, drains, site, waiters, request, assembly,
      noHold, noLapse, queue, retry, grants, pointer, slots, fun c => noticePending_of_order (order .office),
      fun p => ?_, kept⟩
    obtain ⟨outstanding, replies, standing⟩ := ports p
    refine ⟨outstanding, order p, ?_, replies, standing⟩
    rw [closed p]
    cases p <;> rfl
  have writes (c : Instr) (supply : Supply) (step : exec c s = finish { s with supply := supply }) : only c supply := by
    obtain ⟨t, settled, written, kept⟩ := supply_written rest supply
    exact ⟨t, step.trans settled, written, kept⟩
  have abandons (c : Instr) (v : Supply) (state : SupplyState) (stays : state ≠ .run)
      (step : exec c s = finish (setSupply state (abandonStart { s with supply := v }))) :
      leaves c { v with state := state, started := false } := by
    obtain ⟨t, settled, left⟩ := start_left (s := s) v state stays
    exact ⟨t, step.trans settled, left⟩
  refine ⟨⟨fun run => ?_, fun waiting => ?_, fun start => ?_, fun still => ?_⟩,
    ⟨fun down line => ?_, fun down line => ?_, fun other => ?_⟩,
    ⟨fun run => ?_, fun start => ?_, fun notRun notStart => ?_⟩, ⟨fun waiting => ?_, fun other => ?_⟩⟩
  · exact enters _ _ _ (by simp only [exec, execSupplyLow, run])
  · exact writes _ _ (by simp only [exec, execSupplyLow, waiting, setSupply])
  · exact abandons _ _ .down (by decide) (by simp only [exec, execSupplyLow, start])
  · exact writes _ _ (by rcases still with hold | down <;> simp only [exec, execSupplyLow, *])
  · exact writes _ _ (by simp [exec, execSupplyOk, down, line, enterStart])
  · exact writes _ _ (by simp [exec, execSupplyOk, down, line, setSupply])
  · exact writes _ _ (by simp only [exec, execSupplyOk])
  · exact enters _ _ _ (by simp only [exec, execResetAsserted, run])
  · exact abandons _ _ .resetWait (by decide) (by simp only [exec, execResetAsserted, start])
  · exact writes _ _ (by simp only [exec, execResetAsserted])
  · exact writes _ _ (by simp only [exec, execResetReleased, waiting, enterStart])
  · exact writes _ _ (by simp only [exec, execResetReleased])

end Sys2Proof.Machine
end
